-- ==== Sys2Proof/Word.lean ====
section
/-!
DEFINITION. Sys2Proof/Word.lean: the words of the machine (00 R2).
-/

namespace Sys2Proof

/-- An instruction word, a literal, a lane value of a vector register (02 R30, 03 R72). -/
abbrev Word := BitVec 32

/-- A byte of memory. -/
abbrev Byte := BitVec 8

/-- A scalar register, an address (03 R72). -/
abbrev Dword := BitVec 64

end Sys2Proof
end

