-- ==== Sys2Proof/Config.lean ====
section
/-!
DEFINITION. Sys2Proof/Config.lean: what a part fixes and the spec leaves open: opaque constants, of which nothing can be
proved but that they are functions.
-/

namespace Sys2Proof.Config

/-- The approximate SFU result of a function number and input bits (06 R135, R137): a fixed function, its values open
inside the bounds (notes/assumptions/8.md). -/
opaque sfuApprox : Nat → Word → Word

/-- What the ROM derives the identity key from: a function of the fused secret and the firmware digest (21 R427;
notes/assumptions/10.md). -/
opaque identityKey : Nat → Nat → Nat

/-- The per-message secret numbers of the signing service, by private key, hash and try (21 R428; notes/assumptions/10.md). -/
opaque signNonce : Nat → Nat → Nat → Nat

/-- The management-core address that firmware binds to feature bit 0 at boot (16 R343; notes/assumptions/11.md). -/
opaque emulRoutine : Nat

/-- The sign of an extrapolated element when every history element that its formula reads is a zero (17 R354): the spec
states no sign there (notes/assumptions/12.md). True is negative. -/
opaque predictedZeroNeg : List Nat → Bool

/-- Which of the lines that may be dirty a slice still holds dirty at an slsync (10 R231): replacement is not given by the
spec, so the count, taken modulo one more than the lines written since, is open (notes/assumptions/13.md). -/
opaque dirtyLeft : Nat → Nat

/-- Values that the spec leaves open in results of the FIELD group: the number of the event and of the result word (18 R385,
R393; 19 R400, R408; notes/assumptions/14.md). -/
opaque fieldOpen : Nat → Nat → Word

end Sys2Proof.Config
end

