-- ==== Sys2Proof/Machine/Tab.lean ====
section
/-!
DEFINITION. Sys2Proof/Machine/Tab.lean: sparse tables in one canonical form: keys strictly rising, and no entry equal to
the value that an unlisted key reads as, so that equal tables are equal lists. Memories, register files and every other
large array of the state are tables.
-/

namespace Sys2Proof.Machine

/-- A sparse table from numbers to values. -/
abbrev Tab (α : Type) := List (Nat × α)

/-- The value at a key; `d` is what an unlisted key reads as. -/
def Tab.read {α : Type} (d : α) : Tab α → Nat → α
  | [], _ => d
  | (k, v) :: t, a => if a = k then v else Tab.read d t a

/-- The table with one key's value replaced, in canonical form. -/
def Tab.put {α : Type} [DecidableEq α] (d : α) : Tab α → Nat → α → Tab α
  | [], a, x => if x = d then [] else [(a, x)]
  | (k, v) :: t, a, x =>
    if a < k then (if x = d then (k, v) :: t else (a, x) :: (k, v) :: t)
    else if a = k then (if x = d then t else (a, x) :: t)
    else (k, v) :: Tab.put d t a x

/-- Keys strictly rising from `lo`, and no entry equal to `d`. -/
def Tab.wfFrom {α : Type} [DecidableEq α] (d : α) : Nat → Tab α → Bool
  | _, [] => true
  | lo, (k, v) :: t => decide (lo ≤ k) && decide (v ≠ d) && Tab.wfFrom d (k + 1) t

/-- The canonical form. -/
def Tab.wf {α : Type} [DecidableEq α] (d : α) (t : Tab α) : Bool := Tab.wfFrom d 0 t

/-- Replace many keys, in order. -/
def Tab.putAll {α : Type} [DecidableEq α] (d : α) (t : Tab α) : List (Nat × α) → Tab α
  | [] => t
  | (a, x) :: r => Tab.putAll d (Tab.put d t a x) r

/-- Values at consecutive keys `a`, `a + 1`, ... -/
def Tab.readN {α : Type} (d : α) (t : Tab α) (a : Nat) : Nat → List α
  | 0 => []
  | n + 1 => Tab.read d t a :: Tab.readN d t (a + 1) n

/-- Consecutive keys from `a` replaced. -/
def Tab.putN {α : Type} [DecidableEq α] (d : α) (t : Tab α) (a : Nat) : List α → Tab α
  | [] => t
  | x :: xs => Tab.putN d (Tab.put d t a x) (a + 1) xs

/-- The key-value pairs of a table whose key satisfies a test. -/
def Tab.only {α : Type} (p : Nat → Bool) (t : Tab α) : Tab α := t.filter fun e => p e.1

/-- Memory: bytes by address, an unlisted byte reads 0 (notes/assumptions/1.md). -/
abbrev Memory := Tab Byte

/-- The byte at an address. -/
def Memory.byte (m : Memory) (a : Nat) : Byte := Tab.read 0 m a

/-- The memory with one byte written. -/
def Memory.setByte (m : Memory) (a : Nat) (b : Byte) : Memory := Tab.put 0 m a b

/-- The canonical form of a memory. -/
def Memory.wf (m : Memory) : Bool := Tab.wf 0 m

/-- `n` bytes from an address on. -/
def Memory.bytes (m : Memory) (a n : Nat) : List Byte := Tab.readN 0 m a n

/-- Bytes written from an address on. -/
def Memory.setBytes (m : Memory) (a : Nat) (bs : List Byte) : Memory := Tab.putN 0 m a bs

/-- The number of a byte string, least significant byte first (00 R2). -/
def leNat : List Byte → Nat
  | [] => 0
  | b :: bs => b.toNat + 256 * leNat bs

/-- The `n` bytes of a number, least significant first (00 R2). -/
def leBytes : Nat → Nat → List Byte
  | 0, _ => []
  | n + 1, x => BitVec.ofNat 8 x :: leBytes n (x / 256)

/-- The number in `n` bytes of memory at an address, little-endian. -/
def Memory.nat (m : Memory) (a n : Nat) : Nat := leNat (m.bytes a n)

/-- `n` bytes of a number written at an address, little-endian. -/
def Memory.setNat (m : Memory) (a n x : Nat) : Memory := m.setBytes a (leBytes n x)

/-- The numbers 0 to `n` - 1. -/
def upto (n : Nat) : List Nat := List.range n

/-- Bits `lo` to `lo + k - 1` of a number. -/
def bitsOf (x lo k : Nat) : Nat := x / 2 ^ lo % 2 ^ k

/-- The signed reading of the low `n` bits (00 R5 sext). -/
def sextNat (n x : Nat) : Int := if x % 2 ^ n < 2 ^ (n - 1) then (x % 2 ^ n : Nat) else ((x % 2 ^ n : Nat) : Int) - 2 ^ n

/-- sat of 00 R5. -/
def satInt (x lo hi : Int) : Int := if x < lo then lo else if hi < x then hi else x

/-- Ceiling division. -/
def ceilDiv (a b : Nat) : Nat := (a + b - 1) / b

/-- Replace the elements that satisfy a test. -/
def mapIf {α : Type} (p : α → Bool) (f : α → α) (l : List α) : List α := l.map fun x => if p x then f x else x

/-- Insert into a list sorted by a key. -/
def insertBy {α : Type} (key : α → Nat) (x : α) : List α → List α
  | [] => [x]
  | y :: ys => if key x ≤ key y then x :: y :: ys else y :: insertBy key x ys

/-- Insertion sort by a key; equal keys keep their order. -/
def sortBy {α : Type} (key : α → Nat) : List α → List α
  | [] => []
  | x :: xs => insertBy key x (sortBy key xs)

/-- The distinct elements, first occurrences in order. -/
def distinct {α : Type} [DecidableEq α] : List α → List α
  | [] => []
  | x :: xs => x :: (distinct xs).filter fun y => decide (y ≠ x)

/-- The least number of a nonempty list, `d` for an empty one. -/
def leastD (d : Nat) : List Nat → Nat
  | [] => d
  | [x] => x
  | x :: xs => min x (leastD d xs)

/-- The least number from `n` on that is not in the list. -/
def freshFrom (l : List Nat) : Nat → Nat → Nat
  | 0, n => n
  | fuel + 1, n => if l.contains n then freshFrom l fuel (n + 1) else n

end Sys2Proof.Machine
end

