-- ==== Sys2Proof/Machine/Float.lean ====
section
/-!
DEFINITION. Sys2Proof/Machine/Float.lean: number formats, exact values and their roundings (04). An exact value is
`n * 2^e / d`; every operation is computed exactly and rounded once.
-/

namespace Sys2Proof.Machine

/-- The exact real `n * 2^e / d`, `d > 0` (00 R5). -/
structure X where
  n : Int
  e : Int := 0
  d : Nat := 1
  deriving DecidableEq, Repr

/-- 2^k for k ≥ 0. -/
def pow2 (k : Int) : Nat := 2 ^ k.toNat

/-- Exact sum. -/
def X.add (a b : X) : X :=
  let e := Min.min a.e b.e
  ⟨a.n * pow2 (a.e - e) * b.d + b.n * pow2 (b.e - e) * a.d, e, a.d * b.d⟩
/-- Exact negation. -/
def X.neg (a : X) : X := ⟨-a.n, a.e, a.d⟩
/-- Exact difference. -/
def X.sub (a b : X) : X := a.add b.neg
/-- Exact product. -/
def X.mul (a b : X) : X := ⟨a.n * b.n, a.e + b.e, a.d * b.d⟩
/-- Exact quotient, `b ≠ 0`. -/
def X.div (a b : X) : X := ⟨(if b.n < 0 then -a.n else a.n) * b.d, a.e - b.e, a.d * b.n.natAbs⟩
/-- Sign of an exact value. -/
def X.sgn (a : X) : Int := if a.n < 0 then -1 else if a.n = 0 then 0 else 1
/-- Exact comparison. -/
def X.lt (a b : X) : Bool := (a.sub b).sgn == -1
/-- Exact comparison. -/
def X.le (a b : X) : Bool := (a.sub b).sgn != 1
/-- Exact equality. -/
def X.eq (a b : X) : Bool := (a.sub b).sgn == 0
/-- Magnitude. -/
def X.abs (a : X) : X := ⟨(a.n.natAbs : Int), a.e, a.d⟩
/-- The smaller value. -/
def X.min (a b : X) : X := if b.lt a then b else a
/-- The larger value. -/
def X.max (a b : X) : X := if a.lt b then b else a
/-- An integer. -/
def X.ofInt (n : Int) : X := ⟨n, 0, 1⟩
/-- Half of a value. -/
def X.half (a : X) : X := ⟨a.n, a.e - 1, a.d⟩
/-- floor. -/
def X.floor (a : X) : Int := if 0 ≤ a.e then a.n * pow2 a.e / a.d else a.n / ((a.d * pow2 (-a.e) : Nat) : Int)
/-- Sum of a list. -/
def X.sum (l : List X) : X := l.foldl X.add (X.ofInt 0)

/-- The integer square root by bits from `2^k` down. -/
def isqrtGo (n : Nat) : Nat → Nat → Nat
  | 0, r => if (r + 1) * (r + 1) ≤ n then r + 1 else r
  | k + 1, r => isqrtGo n k (if (r + 2 ^ (k + 1)) * (r + 2 ^ (k + 1)) ≤ n then r + 2 ^ (k + 1) else r)

/-- floor of the square root. -/
def isqrt (n : Nat) : Nat := isqrtGo n (Nat.log2 n / 2 + 1) 0

/-- The square root of an exact value as an exact value with at least 80 significant bits whose last bit is a sticky bit:
rounding it to a format of at most 64 bits rounds the exact root. -/
def X.sqrt (a : X) : X :=
  let num := a.n.natAbs
  if num = 0 then X.ofInt 0 else
    -- n*2^e/d = (n*d)*2^e/d^2
    let N := num * a.d
    let sh : Nat := 2 * (90 + Nat.log2 a.d)
    let e := a.e - sh
    let odd : Bool := decide (e % 2 ≠ 0)
    let M := N * 2 ^ sh * (if odd then 2 else 1)
    let e2 := (if odd then e - 1 else e) / 2
    let r := isqrt M
    ⟨((if r * r = M then 2 * r else 2 * r + 1 : Nat) : Int), e2 - 1, a.d⟩

/-- How a format ends at the top (04 R86). -/
inductive Top where
  /-- Infinities and NaNs. -/
  | ieee
  /-- E4M3: NaN 0x7F and 0xFF only. -/
  | nanOnly
  /-- E2M1: neither. -/
  | none
  deriving DecidableEq, Repr

/-- A floating-point format (04 R85). -/
structure Fmt where
  ew : Nat
  mw : Nat
  bias : Nat
  top : Top
  deriving DecidableEq, Repr

def fp64 : Fmt := ⟨11, 52, 1023, .ieee⟩
def fp32 : Fmt := ⟨8, 23, 127, .ieee⟩
def bf16 : Fmt := ⟨8, 7, 127, .ieee⟩
def fp16 : Fmt := ⟨5, 10, 15, .ieee⟩
def e5m2 : Fmt := ⟨5, 2, 15, .ieee⟩
def e4m3 : Fmt := ⟨4, 3, 7, .nanOnly⟩
def e2m1 : Fmt := ⟨2, 1, 1, .none⟩

/-- The sign bit's place. -/
def Fmt.sign (f : Fmt) : Nat := 2 ^ (f.ew + f.mw)
/-- The code of +∞. -/
def Fmt.inf (f : Fmt) : Nat := (2 ^ f.ew - 1) * 2 ^ f.mw
/-- The code of the largest finite value (04 R85). -/
def Fmt.maxCode (f : Fmt) : Nat :=
  match f.top with
  | .ieee => f.inf - 1
  | .nanOnly => f.sign - 2
  | .none => f.sign - 1
/-- The canonical NaN (04 R88); +0 where the format has no NaN (04 R97). -/
def Fmt.nan (f : Fmt) : Nat :=
  match f.top with
  | .ieee => f.inf + 2 ^ (f.mw - 1)
  | .nanOnly => f.sign - 1
  | .none => 0

/-- The value of an encoding (04 R86). -/
inductive FVal where
  | nan (signalling : Bool)
  | inf (neg : Bool)
  | fin (neg : Bool) (m : Nat) (e : Int)
  deriving DecidableEq, Repr

/-- Reads an encoding (04 R86, R88). -/
def Fmt.val (f : Fmt) (c : Nat) : FVal :=
  let neg := c / f.sign % 2 == 1
  let e := c / 2 ^ f.mw % 2 ^ f.ew
  let m := c % 2 ^ f.mw
  let lim := 2 ^ f.ew - 1
  if e = 0 then .fin neg m (1 - (f.bias : Int) - f.mw)
  else if e = lim && f.top == .ieee then (if m = 0 then .inf neg else .nan (decide (m < 2 ^ (f.mw - 1))))
  else if e = lim && f.top == .nanOnly && m = 2 ^ f.mw - 1 then .nan false
  else .fin neg (2 ^ f.mw + m) ((e : Int) - f.bias - f.mw)

/-- The exact value of a finite encoding. -/
def FVal.x : FVal → X
  | .fin neg m e => ⟨if neg then -(m : Int) else m, e, 1⟩
  | _ => X.ofInt 0
/-- The sign of an encoding. -/
def FVal.negQ : FVal → Bool
  | .fin neg _ _ => neg
  | .inf neg => neg
  | .nan _ => false
def FVal.isNan : FVal → Bool
  | .nan _ => true
  | _ => false
def FVal.isSnan : FVal → Bool
  | .nan s => s
  | _ => false
def FVal.isInf : FVal → Bool
  | .inf _ => true
  | _ => false
def FVal.isZero : FVal → Bool
  | .fin _ m _ => m == 0
  | _ => false
def FVal.isFin : FVal → Bool
  | .fin _ _ _ => true
  | _ => false
/-- The value with its sign inverted. -/
def FVal.flip : FVal → FVal
  | .fin neg m e => .fin (!neg) m e
  | .inf neg => .inf (!neg)
  | v => v

/-- Rounding directions (00 R5). -/
inductive Rnd where
  | ne | dn | up
  deriving DecidableEq, Repr

/-- The sticky bits of %fpst: IV, DZ, OF, UF, NX, NARROWNAN (03 R82). -/
abbrev FFlags := BitVec 6
def fIV : FFlags := 1
def fDZ : FFlags := 2
def fOF : FFlags := 4
def fUF : FFlags := 8
def fNX : FFlags := 16
def fNN : FFlags := 32

/-- A result code and its flags. -/
abbrev FRes := Nat × FFlags

/-- floor of the base-2 logarithm of `num / den`, both positive. -/
def log2Q (num den : Nat) : Int :=
  let k : Int := (Nat.log2 num : Int) - Nat.log2 den
  let ge := if 0 ≤ k then decide (den * pow2 k ≤ num) else decide (den ≤ num * pow2 (-k))
  if ge then k else k - 1

/-- floor(log2 |x|) of a nonzero exact value. -/
def X.log2 (a : X) : Int := log2Q a.n.natAbs a.d + a.e

/-- The integer nearest `num / den` in a direction; `neg` is the sign of the value. -/
def roundQuot (r : Rnd) (neg : Bool) (num den : Nat) : Nat :=
  let q := num / den
  let rem := num % den
  match r with
  | .ne => if 2 * rem < den then q else if den < 2 * rem then q + 1 else q + q % 2
  | .dn => if neg && rem != 0 then q + 1 else q
  | .up => if !neg && rem != 0 then q + 1 else q

/-- rne, rd or ru of a nonzero exact value into a format: unbounded rounding, then bounding (04 R94), with NX, OF and UF
(04 R96). A sum that rd brings down to MAX raises NX alone (notes/assumptions/103.md). -/
def Fmt.round (f : Fmt) (r : Rnd) (x : X) : FRes :=
  let neg := decide (x.n < 0)
  let num := x.n.natAbs
  let sgn := if neg then f.sign else 0
  if num = 0 then (0, 0) else
  let emin : Int := 1 - (f.bias : Int)
  let q : Int := Max.max (log2Q num x.d + x.e) emin - f.mw
  let sh := x.e - q
  let top := num * pow2 sh
  let bot := x.d * pow2 (-sh)
  let y := roundQuot r neg top bot
  let inexact := top % bot != 0
  let code : Nat := ((q + f.mw + f.bias - 1) * (2 ^ f.mw : Nat) + (y : Int)).toNat
  if f.maxCode < code then
    let toMax := f.top != .ieee || (r == .dn && !neg) || (r == .up && neg)
    (sgn + (if toMax then f.maxCode else f.inf), fOF ||| fNX)
  else
    let tiny := decide (code < 2 ^ f.mw)
    (sgn + code, (if inexact then fNX else 0) ||| (if tiny && inexact then fUF else 0))

/-- The canonical NaN with flags. -/
def Fmt.nanRes (f : Fmt) (fl : FFlags) : FRes := (f.nan, fl)
/-- An infinity. -/
def Fmt.infRes (f : Fmt) (neg : Bool) : FRes := ((if neg then f.sign else 0) + f.inf, 0)
/-- A zero. -/
def Fmt.zeroRes (f : Fmt) (neg : Bool) : FRes := (if neg then f.sign else 0, 0)
/-- IV for a signalling NaN among the operands (04 R96). -/
def snanFlag (l : List FVal) : FFlags := if l.any FVal.isSnan then fIV else 0

/-- Sum of two values already read, with the zero signs of 04 R94 and 06 R129, R133. -/
def Fmt.addV (f : Fmt) (r : Rnd) (a b : FVal) : FRes :=
  if a.isNan || b.isNan then f.nanRes (snanFlag [a, b])
  else match a, b with
  | .inf s, .inf t => if s == t then f.infRes s else f.nanRes fIV
  | .inf s, _ => f.infRes s
  | _, .inf t => f.infRes t
  | _, _ =>
    let z := a.x.add b.x
    if z.n = 0 then f.zeroRes (if a.isZero && b.isZero && a.negQ == b.negQ then a.negQ else r == .dn)
    else f.round r z

/-- Product of two values. -/
def Fmt.mulV (f : Fmt) (r : Rnd) (a b : FVal) : FRes :=
  let s := a.negQ != b.negQ
  if a.isNan || b.isNan then f.nanRes (snanFlag [a, b])
  else if (a.isInf && b.isZero) || (a.isZero && b.isInf) then f.nanRes fIV
  else if a.isInf || b.isInf then f.infRes s
  else if a.isZero || b.isZero then f.zeroRes s
  else f.round r (a.x.mul b.x)

/-- a * b + c with one rounding (06 R129). -/
def Fmt.fmaV (f : Fmt) (r : Rnd) (a b c : FVal) : FRes :=
  let s := a.negQ != b.negQ
  let inv := (a.isInf && b.isZero) || (a.isZero && b.isInf)
  if inv then f.nanRes fIV
  else if a.isNan || b.isNan || c.isNan then f.nanRes (snanFlag [a, b, c])
  else if a.isInf || b.isInf then
    (match c with
     | .inf t => if s == t then f.infRes s else f.nanRes fIV
     | _ => f.infRes s)
  else match c with
  | .inf t => f.infRes t
  | _ =>
    let z := (a.x.mul b.x).add c.x
    let pz := a.isZero || b.isZero
    if z.n = 0 then f.zeroRes (if pz && c.isZero && s == c.negQ then s else r == .dn)
    else f.round r z

/-- a / b, correctly rounded (06 R133, R136). -/
def Fmt.divV (f : Fmt) (r : Rnd) (a b : FVal) : FRes :=
  let s := a.negQ != b.negQ
  if a.isNan || b.isNan then f.nanRes (snanFlag [a, b])
  else if (a.isZero && b.isZero) || (a.isInf && b.isInf) then f.nanRes fIV
  else if a.isInf then f.infRes s
  else if b.isInf then f.zeroRes s
  else if b.isZero then ((f.infRes s).1, fDZ)
  else if a.isZero then f.zeroRes s
  else f.round r (a.x.div b.x)

/-- Square root, correctly rounded (06 R133, R136). -/
def Fmt.sqrtV (f : Fmt) (r : Rnd) (a : FVal) : FRes :=
  if a.isNan then f.nanRes (snanFlag [a])
  else if a.isZero then f.zeroRes a.negQ
  else if a.negQ then f.nanRes fIV
  else if a.isInf then f.infRes false
  else f.round r a.x.sqrt

/-- An order key of a code that is not a NaN, with -0 below +0 (06 R130). -/
def Fmt.key (f : Fmt) (c : Nat) : Int :=
  if c / f.sign % 2 = 1 then -((c % f.sign : Nat) : Int) - 1 else (c % f.sign : Nat)

/-- fmin and fmax, NaN-propagating (06 R130). -/
def Fmt.minMax (f : Fmt) (isMax : Bool) (a b : Nat) : FRes :=
  let va := f.val a
  let vb := f.val b
  if va.isNan || vb.isNan then f.nanRes (snanFlag [va, vb])
  else if (decide (f.key a ≤ f.key b)) != isMax then (a, 0) else (b, 0)

/-- fminnm and fmaxnm, number-preferring (06 R130). -/
def Fmt.minMaxNm (f : Fmt) (isMax : Bool) (a b : Nat) : FRes :=
  let va := f.val a
  let vb := f.val b
  let fl := snanFlag [va, vb]
  if va.isNan && vb.isNan then f.nanRes fl
  else if va.isNan then (b, fl)
  else if vb.isNan then (a, fl)
  else if (decide (f.key a ≤ f.key b)) != isMax then (a, 0) else (b, 0)

/-- The integer that a direction selects for an exact value; `toZero` truncates. -/
def X.toInt (x : X) (r : Option Rnd) : Int :=
  let neg := decide (x.n < 0)
  let top := x.n.natAbs * pow2 x.e
  let bot := x.d * pow2 (-x.e)
  let m := match r with
    | some r => roundQuot r neg top bot
    | none => top / bot
  if neg then -(m : Int) else m

/-- frndn, frndz, frndd, frndu: the integral value, sign of the input kept, no NX (06 R131). -/
def Fmt.integral (f : Fmt) (r : Option Rnd) (c : Nat) : FRes :=
  match f.val c with
  | .nan s => f.nanRes (if s then fIV else 0)
  | .inf _ => (c, 0)
  | .fin neg m e =>
    if m = 0 || 0 ≤ e then (c, 0)
    else
      let i := (⟨if neg then -(m : Int) else m, e, 1⟩ : X).toInt r
      if i = 0 then f.zeroRes neg else ((f.round .ne (X.ofInt i)).1, 0)

/-- Conversion between floating-point formats (04 R97). -/
def cvtFloat (src dst : Fmt) (c : Nat) : FRes :=
  match src.val c with
  | .nan s => (dst.nan, (if s then fIV else 0) ||| (if dst.top == .none then fNN else 0))
  | .inf neg =>
    if dst.top == .ieee then dst.infRes neg
    else ((if neg then dst.sign else 0) + dst.maxCode, fOF ||| fNX)
  | .fin neg m e => if m = 0 then dst.zeroRes neg else dst.round .ne ⟨if neg then -(m : Int) else m, e, 1⟩

/-- Conversion to a saturating integer (04 R97): result as an integer. -/
def cvtInt (lo hi : Int) (c : Nat) : Int × FFlags :=
  match fp32.val c with
  | .nan _ => (0, fIV)
  | .inf neg => (if neg then lo else hi, fIV)
  | .fin neg m e =>
    let x : X := ⟨if neg then -(m : Int) else m, e, 1⟩
    let i := x.toInt (some .ne)
    if i < lo then (lo, fIV) else if hi < i then (hi, fIV)
    else (i, if (x.sub (X.ofInt i)).n = 0 then 0 else fNX)

/-- rne of an integer into FP32 (04 R97). -/
def cvtFromInt (i : Int) : FRes := if i = 0 then (0, 0) else fp32.round .ne (X.ofInt i)

/-- Orders of an FCMP (06 R134): unordered, or the sign of A - B. -/
def Fmt.order (f : Fmt) (a b : Nat) : Option Int :=
  let va := f.val a
  let vb := f.val b
  if va.isNan || vb.isNan then none
  else match va, vb with
  | .inf s, .inf t => some (if s == t then 0 else if s then -1 else 1)
  | .inf s, _ => some (if s then -1 else 1)
  | _, .inf t => some (if t then 1 else -1)
  | _, _ => some (va.x.sub vb.x).sgn

/-- A power of two: its exponent. -/
def powTwo? (m : Nat) (e : Int) : Option Int := if m ≠ 0 && m = 2 ^ Nat.log2 m then some (Nat.log2 m + e) else none

/-- ulp of 06 R135 of a nonzero exact value. -/
def X.ulp (x : X) : X := ⟨1, Max.max x.log2 (-126) - 23, 1⟩

/-! ### The approximate functions (06 R135): their exact results in fixed point with 400 fractional bits, far closer than any bound -/

/-- `x` in fixed point. -/
def X.toFix (x : X) : Int := (⟨x.n, x.e + 400, x.d⟩ : X).floor

/-- A fixed-point number times `2^n`. -/
def fixX (n : Int) (y : Int) : X := ⟨y, n - 400, 1⟩

/-- The product of two fixed-point numbers. -/
def fixMul (a b : Int) : Int := a * b / 2 ^ 400

/-- `term`, and each later term from the one before by the factor `f k`: the sum of `n` terms. -/
def fixSum (f : Nat → Int → Int) (k : Nat) (term : Int) : Nat → Int
  | 0 => 0
  | n + 1 => term + fixSum f (k + 1) (f k term) n

/-- `z + s z^3/3 + z^5/5 + s z^7/7 + ...`: atanh z for s = 1, atan z for s = -1; |z| ≤ 1/3. -/
def fixAtan (s z : Int) : Int := fixSum (fun k t => s * fixMul (fixMul t z) z * (2 * k + 1) / (2 * k + 3)) 0 z 140

/-- ln of `1 ≤ m ≤ 2`. -/
def fixLn (m : X) : Int := 2 * fixAtan 1 ((m.sub (X.ofInt 1)).div (m.add (X.ofInt 1))).toFix

/-- ln 2. -/
def fixLn2 : Int := fixLn (X.ofInt 2)

/-- pi = 16 atan(1/5) - 4 atan(1/239). -/
def fixPi : Int := 16 * fixAtan (-1) (2 ^ 400 / 5) - 4 * fixAtan (-1) (2 ^ 400 / 239)

/-- e^y for |y| ≤ 1. -/
def fixExp (y : Int) : Int := fixSum (fun k t => fixMul t y / (k + 1)) 0 (2 ^ 400) 100

/-- e^(-x) for x > 0, which no x makes 0: a hyperbolic tangent or a logistic of a large operand stays below 1, where the
ulp of 06 R135 is that of the binade below. -/
def fixExpNeg (x : X) : Int :=
  if (X.ofInt 300).le x then 1
  else
    let n := x.toFix / fixLn2
    Max.max 1 (fixExp (n * fixLn2 - x.toFix) / pow2 n)

/-- sin(pi x). -/
def fixSinPi (x : X) : Int :=
  let u := x.sub (X.ofInt (2 * (x.half.floor)))
  let y := fixMul fixPi u.toFix
  fixSum (fun k t => -(fixMul (fixMul t y) y) / ((2 * k + 2) * (2 * k + 3))) 0 y 140

/-- Is the value of a finite code below the smallest normal? -/
def belowNormal (c : Nat) : Bool := decide (c % 2 ^ 31 < 2 ^ 23)

/-- Flags of an inexact approximate result: NX, and UF where the unbounded rounding `y` of the exact result (04 R96) or the
delivered code `c` (06 R135) is tiny (notes/assumptions/8.md). -/
def approxFlags (y c : Nat) : FFlags := if belowNormal y || belowNormal c then fNX ||| fUF else fNX

/-- Does a finite code lie in [lo, hi]? -/
def codeIn (lo hi : X) (c : Nat) : Bool :=
  match fp32.val c with
  | .fin neg m e => lo.le ⟨if neg then -(m : Int) else m, e, 1⟩ && X.le ⟨if neg then -(m : Int) else m, e, 1⟩ hi
  | _ => false

/-- The result of an approximate function whose exact result is `x`: the opaque value of the part where it lies within `k` ulp or
`abs` of `x`, whichever is larger, else rne of `x`; any value where `x` is tiny, judged on its unbounded rounding as 04 R96
judges it (06 R135, R137; notes/assumptions/8.md). -/
def sfuNear (fn a : Nat) (x : X) (k : Nat) (abs : X := X.ofInt 0) : FRes :=
  let b := (X.max ⟨k * x.ulp.n, x.ulp.e, 1⟩ abs).add ⟨1, -300, 1⟩
  let c := (Config.sfuApprox fn (BitVec.ofNat 32 a)).toNat
  let y := (fp32.round .ne x).1
  let c := if belowNormal y || codeIn (x.sub b) (x.add b) c then c else y
  (c, approxFlags y c)

/-- frcp: exact for powers of two, else within 1 ulp (06 R135, R136). -/
def sfuRcp (a : Nat) : FRes :=
  match fp32.val a with
  | .nan s => fp32.nanRes (if s then fIV else 0)
  | .inf neg => fp32.zeroRes neg
  | .fin neg m e =>
    if m = 0 then ((fp32.infRes neg).1, fDZ)
    else
      let x : X := (X.ofInt 1).div ⟨if neg then -(m : Int) else m, e, 1⟩
      let r := fp32.round .ne x
      if (powTwo? m e).isSome || r.2 &&& fOF != 0 then r else sfuNear 0 a x 1

/-- frsq: exact for even powers of two, else within 1 ulp (06 R135, R136). -/
def sfuRsq (a : Nat) : FRes :=
  match fp32.val a with
  | .nan s => fp32.nanRes (if s then fIV else 0)
  | .inf neg => if neg then fp32.nanRes fIV else fp32.zeroRes false
  | .fin neg m e =>
    if m = 0 then ((fp32.infRes neg).1, fDZ)
    else if neg then fp32.nanRes fIV
    else
      match powTwo? m e with
      | some k =>
        if k % 2 = 0 then fp32.round .ne ⟨1, -(k / 2), 1⟩
        else sfuNear 1 a ((X.ofInt 1).div (X.sqrt ⟨m, e, 1⟩)) 1
      | none => sfuNear 1 a ((X.ofInt 1).div (X.sqrt ⟨m, e, 1⟩)) 1

/-- fexp2: exact for integers, else within 2 ulp (06 R135, R136). -/
def sfuExp2 (a : Nat) : FRes :=
  match fp32.val a with
  | .nan s => fp32.nanRes (if s then fIV else 0)
  | .inf neg => if neg then (0, 0) else fp32.infRes false
  | .fin neg m e =>
    let x : X := ⟨if neg then -(m : Int) else m, e, 1⟩
    let n := x.floor
    if 128 ≤ n then (fp32.inf, fOF ||| fNX)
    else if x.le (X.ofInt (-150)) then (0, fUF ||| fNX)
    else if (X.ofInt n).eq x then fp32.round .ne ⟨1, n, 1⟩
    else sfuNear 4 a (fixX n (fixExp (fixMul (x.sub (X.ofInt n)).toFix fixLn2))) 2

/-- flog2: exact for powers of two, else within 2 ulp, or 2^-22 for 0.5 ≤ A ≤ 2 (06 R135, R136). -/
def sfuLog2 (a : Nat) : FRes :=
  match fp32.val a with
  | .nan s => fp32.nanRes (if s then fIV else 0)
  | .inf neg => if neg then fp32.nanRes fIV else fp32.infRes false
  | .fin neg m e =>
    if m = 0 then ((fp32.infRes true).1, fDZ)
    else if neg then fp32.nanRes fIV
    else match powTwo? m e with
    | some k => cvtFromInt k
    | none =>
      let n : Int := Nat.log2 m + e
      let x := (X.ofInt n).add ((fixX 0 (fixLn ⟨m, e - n, 1⟩)).div (fixX 0 fixLn2))
      sfuNear 5 a x 2 (if n = -1 ∨ n = 0 then ⟨1, -22, 1⟩ else X.ofInt 0)

/-- fsinpi and fcospi: exact at the multiples of one half, else within 2 ulp or 2^-24 (06 R135, R136). -/
def sfuTrig (cos : Bool) (a : Nat) : FRes :=
  match fp32.val a with
  | .nan s => fp32.nanRes (if s then fIV else 0)
  | .inf _ => fp32.nanRes fIV
  | .fin neg m e =>
    let x : X := ⟨if neg then -(m : Int) else m, e, 1⟩
    let twice : X := ⟨x.n, x.e + 1, 1⟩
    let h := twice.floor
    if (X.ofInt h).eq twice then
      -- a multiple of one half
      if h % 2 = 0 then
        if cos then (if h / 2 % 2 = 0 then 0x3F800000 else 0xBF800000, 0) else fp32.zeroRes neg
      else if cos then (0, 0)
      else (if (h - 1) / 2 % 2 = 0 then 0x3F800000 else 0xBF800000, 0)
    else
      sfuNear (if cos then 7 else 6) a (fixX 0 (fixSinPi (if cos then x.add ⟨1, -1, 1⟩ else x))) 2 ⟨1, -24, 1⟩

/-- ftanh: (1 - t)/(1 + t) for t = e^(-2|A|), within 2 ulp (06 R135, R136). -/
def sfuTanh (a : Nat) : FRes :=
  match fp32.val a with
  | .nan s => fp32.nanRes (if s then fIV else 0)
  | .inf neg => (if neg then 0xBF800000 else 0x3F800000, 0)
  | .fin neg m e =>
    if m = 0 then fp32.zeroRes neg
    else
      let t := fixExpNeg ⟨m, e + 1, 1⟩
      let y := (fixX 0 (2 ^ 400 - t)).div (fixX 0 (2 ^ 400 + t))
      sfuNear 8 a (if neg then y.neg else y) 2

/-- fsigm: 1/(1 + t) or t/(1 + t) for t = e^(-|A|), within 2 ulp (06 R135, R136). -/
def sfuSigm (a : Nat) : FRes :=
  match fp32.val a with
  | .nan s => fp32.nanRes (if s then fIV else 0)
  | .inf neg => if neg then (0, 0) else (0x3F800000, 0)
  | .fin neg m e =>
    if m = 0 then (0x3F000000, 0)
    else
      let t := fixExpNeg ⟨m, e, 1⟩
      sfuNear 9 a ((fixX 0 (if neg then t else 2 ^ 400)).div (fixX 0 (2 ^ 400 + t))) 2

/-- The value of a block scale E3M5 (04 R92). -/
def e3m5 (c : Nat) : X :=
  let e := c / 32 % 8
  let m := c % 32
  if e = 0 then ⟨m, -8, 1⟩ else ⟨32 + m, (e : Int) - 9, 1⟩

end Sys2Proof.Machine
end

