-- ==== Sys2Proof/Syntax.lean ====
section
/-!
DEFINITION. Sys2Proof/Syntax.lean: the instructions of Takel, one constructor for each row of spec/opcode_table.json.
Register operands are the numbers of their fields (02 R55); a format-A source is an `SSrc` or a `VSrc` (02 R45); an
event of the table (a row without an encoding) carries the numbers of the agent and of the pending item it acts on.
-/

namespace Sys2Proof

/-- A scalar source of format A: a register, or the literal word that s63 names (02 R45). -/
inductive SSrc where
  | r (n : Nat)
  | lit (w : Word)
  deriving DecidableEq, Repr

/-- The B source of a vector instruction: a vector register, a scalar register, or a literal word (02 R45, 05 R107). -/
inductive VSrc where
  | v (n : Nat)
  | s (n : Nat)
  | lit (w : Word)
  deriving DecidableEq, Repr

/-- One instruction or one event of the opcode table. -/
inductive Instr where
  /-- R104. Scalar 64-bit add sD := sA + sB. -/
  | sadd (d : Nat) (a b : SSrc) (g : Nat)
  /-- R104. Scalar subtract. -/
  | ssub (d : Nat) (a b : SSrc) (g : Nat)
  /-- R104. Scalar multiply, low 64 bits. -/
  | smul (d : Nat) (a b : SSrc) (g : Nat)
  /-- R104. Scalar signed multiply, high 64 bits. -/
  | smulh (d : Nat) (a b : SSrc) (g : Nat)
  /-- R104. Scalar unsigned multiply, high 64 bits. -/
  | smulhn (d : Nat) (a b : SSrc) (g : Nat)
  /-- R104. Scalar AND. -/
  | sand (d : Nat) (a b : SSrc) (g : Nat)
  /-- R104. Scalar OR. -/
  | sor (d : Nat) (a b : SSrc) (g : Nat)
  /-- R104. Scalar XOR. -/
  | sxor (d : Nat) (a b : SSrc) (g : Nat)
  /-- R104. Scalar shift left. -/
  | sshl (d : Nat) (a b : SSrc) (g : Nat)
  /-- R104. Scalar logical shift right. -/
  | sshr (d : Nat) (a b : SSrc) (g : Nat)
  /-- R104. Scalar arithmetic shift right. -/
  | ssra (d : Nat) (a b : SSrc) (g : Nat)
  /-- R104. Scalar signed minimum. -/
  | smin (d : Nat) (a b : SSrc) (g : Nat)
  /-- R104. Scalar signed maximum. -/
  | smax (d : Nat) (a b : SSrc) (g : Nat)
  /-- R104. Scalar unsigned minimum. -/
  | sminn (d : Nat) (a b : SSrc) (g : Nat)
  /-- R104. Scalar unsigned maximum. -/
  | smaxn (d : Nat) (a b : SSrc) (g : Nat)
  /-- R104. Scalar move of B. -/
  | smov (d : Nat) (b : SSrc) (g : Nat)
  /-- R105. Scalar add of sign-extended IMM12. -/
  | saddi (d a : Nat) (imm : BitVec 12)
  /-- R105. Scalar AND with immediate. -/
  | sandi (d a : Nat) (imm : BitVec 12)
  /-- R105. Scalar OR with immediate. -/
  | sori (d a : Nat) (imm : BitVec 12)
  /-- R105. Scalar XOR with immediate. -/
  | sxori (d a : Nat) (imm : BitVec 12)
  /-- R105. Scalar shift left by immediate. -/
  | sshli (d a c : Nat)
  /-- R105. Scalar logical shift right by immediate. -/
  | sshri (d a c : Nat)
  /-- R105. Scalar arithmetic shift right by immediate. -/
  | ssrai (d a c : Nat)
  /-- R105. Scalar load of sext(IMM12) << 20. -/
  | slui (d : Nat) (imm : BitVec 12)
  /-- R106. Scalar compare equal into predicate of active lanes. -/
  | scmpEq (d : Nat) (a b : SSrc) (g : Nat)
  /-- R106. Scalar compare not equal. -/
  | scmpNe (d : Nat) (a b : SSrc) (g : Nat)
  /-- R106. Scalar compare signed less. -/
  | scmpLt (d : Nat) (a b : SSrc) (g : Nat)
  /-- R106. Scalar compare signed less or equal. -/
  | scmpLe (d : Nat) (a b : SSrc) (g : Nat)
  /-- R106. Scalar compare signed greater. -/
  | scmpGt (d : Nat) (a b : SSrc) (g : Nat)
  /-- R106. Scalar compare signed greater or equal. -/
  | scmpGe (d : Nat) (a b : SSrc) (g : Nat)
  /-- R106. Scalar compare unsigned less. -/
  | scmpLtn (d : Nat) (a b : SSrc) (g : Nat)
  /-- R106. Scalar compare unsigned less or equal. -/
  | scmpLen (d : Nat) (a b : SSrc) (g : Nat)
  /-- R106. Scalar compare unsigned greater. -/
  | scmpGtn (d : Nat) (a b : SSrc) (g : Nat)
  /-- R106. Scalar compare unsigned greater or equal. -/
  | scmpGen (d : Nat) (a b : SSrc) (g : Nat)
  /-- R108. Per-lane 32-bit add. -/
  | vadd (d a : Nat) (b : VSrc) (g : Nat)
  /-- R108. Per-lane subtract. -/
  | vsub (d a : Nat) (b : VSrc) (g : Nat)
  /-- R108. Per-lane multiply, low 32 bits. -/
  | vmul (d a : Nat) (b : VSrc) (g : Nat)
  /-- R108. Per-lane signed multiply, high 32 bits. -/
  | vmulh (d a : Nat) (b : VSrc) (g : Nat)
  /-- R108. Per-lane unsigned multiply, high 32 bits. -/
  | vmulhn (d a : Nat) (b : VSrc) (g : Nat)
  /-- R108. Per-lane AND. -/
  | vand (d a : Nat) (b : VSrc) (g : Nat)
  /-- R108. Per-lane OR. -/
  | vor (d a : Nat) (b : VSrc) (g : Nat)
  /-- R108. Per-lane XOR. -/
  | vxor (d a : Nat) (b : VSrc) (g : Nat)
  /-- R108. Per-lane shift left. -/
  | vshl (d a : Nat) (b : VSrc) (g : Nat)
  /-- R108. Per-lane logical shift right. -/
  | vshr (d a : Nat) (b : VSrc) (g : Nat)
  /-- R108. Per-lane arithmetic shift right. -/
  | vsra (d a : Nat) (b : VSrc) (g : Nat)
  /-- R108. Per-lane signed minimum. -/
  | vmin (d a : Nat) (b : VSrc) (g : Nat)
  /-- R108. Per-lane signed maximum. -/
  | vmax (d a : Nat) (b : VSrc) (g : Nat)
  /-- R108. Per-lane unsigned minimum. -/
  | vminn (d a : Nat) (b : VSrc) (g : Nat)
  /-- R108. Per-lane unsigned maximum. -/
  | vmaxn (d a : Nat) (b : VSrc) (g : Nat)
  /-- R108. Per-lane move of B. -/
  | vmov (d : Nat) (b : VSrc) (g : Nat)
  /-- R109. Per-lane signed absolute value. -/
  | vabs (d a g : Nat)
  /-- R109. Per-lane negate. -/
  | vneg (d a g : Nat)
  /-- R109. Per-lane count leading zeros. -/
  | vclz (d a g : Nat)
  /-- R109. Per-lane population count. -/
  | vpopc (d a g : Nat)
  /-- R109. Per-lane bit reverse. -/
  | vbrev (d a g : Nat)
  /-- R109. Per-lane saturating signed add. -/
  | vaddsat (d a : Nat) (b : VSrc) (g : Nat)
  /-- R109. Per-lane saturating signed subtract. -/
  | vsubsat (d a : Nat) (b : VSrc) (g : Nat)
  /-- R109. Per-lane multiply-add into D. -/
  | vmad (d a : Nat) (b : VSrc) (g : Nat)
  /-- R109. Per-lane select of A or B by the G predicate. -/
  | vsel (d a : Nat) (b : VSrc) (g : Nat)
  /-- R109. Per-lane sign extension of the low byte. -/
  | vsext8 (d a g : Nat)
  /-- R109. Per-lane sign extension of the low half. -/
  | vsext16 (d a g : Nat)
  /-- R109. Per-lane zero extension of the low byte. -/
  | vzext8 (d a g : Nat)
  /-- R109. Per-lane zero extension of the low half. -/
  | vzext16 (d a g : Nat)
  /-- R109. Per-lane bit-field extract. -/
  | vbfe (d a : Nat) (b : VSrc) (g : Nat)
  /-- R109. Per-lane bit-field insert into D. -/
  | vbfi (d a : Nat) (b : VSrc) (g : Nat)
  /-- R109. Per-lane signed 4-byte dot product added to D. -/
  | vdp4 (d a : Nat) (b : VSrc) (g : Nat)
  /-- R110. Per-lane add of immediate. -/
  | vaddi (d a : Nat) (imm : BitVec 12)
  /-- R110. Per-lane AND with immediate. -/
  | vandi (d a : Nat) (imm : BitVec 12)
  /-- R110. Per-lane OR with immediate. -/
  | vori (d a : Nat) (imm : BitVec 12)
  /-- R110. Per-lane XOR with immediate. -/
  | vxori (d a : Nat) (imm : BitVec 12)
  /-- R110. Per-lane shift left by immediate. -/
  | vshli (d a c : Nat)
  /-- R110. Per-lane logical shift right by immediate. -/
  | vshri (d a c : Nat)
  /-- R110. Per-lane arithmetic shift right by immediate. -/
  | vsrai (d a c : Nat)
  /-- R110. Per-lane move of sign-extended immediate. -/
  | vmovi (d : Nat) (imm : BitVec 12)
  /-- R111. Per-lane compare equal into predicate. -/
  | vcmpEq (d a : Nat) (b : VSrc) (g : Nat)
  /-- R111. Per-lane compare not equal. -/
  | vcmpNe (d a : Nat) (b : VSrc) (g : Nat)
  /-- R111. Per-lane compare signed less. -/
  | vcmpLt (d a : Nat) (b : VSrc) (g : Nat)
  /-- R111. Per-lane compare signed less or equal. -/
  | vcmpLe (d a : Nat) (b : VSrc) (g : Nat)
  /-- R111. Per-lane compare signed greater. -/
  | vcmpGt (d a : Nat) (b : VSrc) (g : Nat)
  /-- R111. Per-lane compare signed greater or equal. -/
  | vcmpGe (d a : Nat) (b : VSrc) (g : Nat)
  /-- R111. Per-lane compare unsigned less. -/
  | vcmpLtn (d a : Nat) (b : VSrc) (g : Nat)
  /-- R111. Per-lane compare unsigned less or equal. -/
  | vcmpLen (d a : Nat) (b : VSrc) (g : Nat)
  /-- R111. Per-lane compare unsigned greater. -/
  | vcmpGtn (d a : Nat) (b : VSrc) (g : Nat)
  /-- R111. Per-lane compare unsigned greater or equal. -/
  | vcmpGen (d a : Nat) (b : VSrc) (g : Nat)
  /-- R112. Predicate AND. -/
  | pand (d a b g : Nat)
  /-- R112. Predicate OR. -/
  | por (d a b g : Nat)
  /-- R112. Predicate XOR. -/
  | pxor (d a b g : Nat)
  /-- R112. Predicate AND NOT. -/
  | pandn (d a b g : Nat)
  /-- R112. Predicate NOT. -/
  | pnot (d a g : Nat)
  /-- R112. Predicate move. -/
  | pmov (d a g : Nat)
  /-- R117. Relative branch of guarded threads, target checked against the clause map. -/
  | br (g : Nat) (n : Bool) (off : BitVec 22)
  /-- R117. Relative call setting %lr to the next clause header. -/
  | call (g : Nat) (n : Bool) (off : BitVec 22)
  /-- R117. Set the meeting register MR of guarded threads. -/
  | meet (g : Nat) (n : Bool) (off : BitVec 22)
  /-- R119. Return: PC := %lr in acting threads. -/
  | ret (g : Nat)
  /-- R120. Acting threads exit, leaving signatures, releases and barriers. -/
  | exit (g : Nat)
  /-- R116. Acting threads become yielded until the other eligible threads issue. -/
  | yield (g : Nat)
  /-- R119. Indirect branch to a per-thread 64-bit target. -/
  | brx (a g : Nat)
  /-- R119. Indirect call setting %lr. -/
  | callx (a g : Nat)
  /-- R121. Read each acting thread's MR into a vector pair. -/
  | mrget (d g : Nat)
  /-- R121. Set each acting thread's MR from a vector pair. -/
  | mrset (a g : Nat)
  /-- R118. No operation. -/
  | nop
  /-- R123. Active threads sign convergence register cvN and become signed. -/
  | csign (cv : Nat)
  /-- R124. Raise cause TRAP in acting threads and deliver them to the trap PC. -/
  | trap (n g : Nat)
  /-- R125. Return from the trap handler to %tpc. -/
  | tret
  /-- R206. Return from the trap handler, skipping the core watch check on the first issue. -/
  | tretSkip
  /-- R126. Crew-wide width request; the cohort waits at the gathering. -/
  | wreq (d : Nat) (a : SSrc)
  /-- R127. Read a special register. -/
  | rdsp (d : Nat) (sc : Bool) (x g : Nat)
  /-- R127. Write a special register. -/
  | wrsp (x : Nat) (a : VSrc) (g : Nat)
  /-- R129. FP32 add, rne. -/
  | fadd (d a : Nat) (b : VSrc) (g : Nat)
  /-- R129. FP32 subtract. -/
  | fsub (d a : Nat) (b : VSrc) (g : Nat)
  /-- R129. FP32 multiply. -/
  | fmul (d a : Nat) (b : VSrc) (g : Nat)
  /-- R129. FP32 fused multiply-add A·B + D. -/
  | ffma (d a : Nat) (b : VSrc) (g : Nat)
  /-- R129. FP32 fused D − A·B. -/
  | ffms (d a : Nat) (b : VSrc) (g : Nat)
  /-- R130. FP32 NaN-propagating minimum. -/
  | fmin (d a : Nat) (b : VSrc) (g : Nat)
  /-- R130. FP32 NaN-propagating maximum. -/
  | fmax (d a : Nat) (b : VSrc) (g : Nat)
  /-- R130. FP32 number-preferring minimum. -/
  | fminnm (d a : Nat) (b : VSrc) (g : Nat)
  /-- R130. FP32 number-preferring maximum. -/
  | fmaxnm (d a : Nat) (b : VSrc) (g : Nat)
  /-- R129. Clear the FP32 sign bit. -/
  | fabs (d a g : Nat)
  /-- R129. Invert the FP32 sign bit. -/
  | fneg (d a g : Nat)
  /-- R129. Copy sign of B onto A. -/
  | fcpsgn (d a : Nat) (b : VSrc) (g : Nat)
  /-- R131. Round to integral, ties to even. -/
  | frndn (d a g : Nat)
  /-- R131. Round to integral toward zero. -/
  | frndz (d a g : Nat)
  /-- R131. Round to integral toward −∞. -/
  | frndd (d a g : Nat)
  /-- R131. Round to integral toward +∞. -/
  | frndu (d a g : Nat)
  /-- R132. Packed f16x2 add. -/
  | hadd (d a : Nat) (b : VSrc) (g : Nat)
  /-- R132. Packed f16x2 subtract. -/
  | hsub (d a : Nat) (b : VSrc) (g : Nat)
  /-- R132. Packed f16x2 multiply. -/
  | hmul (d a : Nat) (b : VSrc) (g : Nat)
  /-- R132. Packed f16x2 fused multiply-add. -/
  | hfma (d a : Nat) (b : VSrc) (g : Nat)
  /-- R132. Packed f16x2 minimum. -/
  | hmin (d a : Nat) (b : VSrc) (g : Nat)
  /-- R132. Packed f16x2 maximum. -/
  | hmax (d a : Nat) (b : VSrc) (g : Nat)
  /-- R132. Packed f16x2 absolute value. -/
  | habs (d a g : Nat)
  /-- R132. Packed f16x2 negate. -/
  | hneg (d a g : Nat)
  /-- R132. Packed bf16x2 add. -/
  | badd (d a : Nat) (b : VSrc) (g : Nat)
  /-- R132. Packed bf16x2 subtract. -/
  | bsub (d a : Nat) (b : VSrc) (g : Nat)
  /-- R132. Packed bf16x2 multiply. -/
  | bmul (d a : Nat) (b : VSrc) (g : Nat)
  /-- R132. Packed bf16x2 fused multiply-add. -/
  | bfma (d a : Nat) (b : VSrc) (g : Nat)
  /-- R132. Packed bf16x2 minimum. -/
  | bmin (d a : Nat) (b : VSrc) (g : Nat)
  /-- R132. Packed bf16x2 maximum. -/
  | bmax (d a : Nat) (b : VSrc) (g : Nat)
  /-- R132. Packed bf16x2 absolute value. -/
  | babs (d a g : Nat)
  /-- R132. Packed bf16x2 negate. -/
  | bneg (d a g : Nat)
  /-- R133. FP32 add rounded toward −∞. -/
  | faddRd (d a : Nat) (b : VSrc) (g : Nat)
  /-- R133. FP32 add rounded toward +∞. -/
  | faddRu (d a : Nat) (b : VSrc) (g : Nat)
  /-- R133. FP32 subtract rounded down. -/
  | fsubRd (d a : Nat) (b : VSrc) (g : Nat)
  /-- R133. FP32 subtract rounded up. -/
  | fsubRu (d a : Nat) (b : VSrc) (g : Nat)
  /-- R133. FP32 multiply rounded down. -/
  | fmulRd (d a : Nat) (b : VSrc) (g : Nat)
  /-- R133. FP32 multiply rounded up. -/
  | fmulRu (d a : Nat) (b : VSrc) (g : Nat)
  /-- R133. FP32 fused multiply-add rounded down. -/
  | ffmaRd (d a : Nat) (b : VSrc) (g : Nat)
  /-- R133. FP32 fused multiply-add rounded up. -/
  | ffmaRu (d a : Nat) (b : VSrc) (g : Nat)
  /-- R133. FP32 square root rounded down. -/
  | fsqrtRd (d a g : Nat)
  /-- R133. FP32 square root rounded up. -/
  | fsqrtRu (d a g : Nat)
  /-- R133. FP32 divide rounded down. -/
  | fdivRd (d a : Nat) (b : VSrc) (g : Nat)
  /-- R133. FP32 divide rounded up. -/
  | fdivRu (d a : Nat) (b : VSrc) (g : Nat)
  /-- R134. FP32 compare ordered equal into predicate. -/
  | feq (d a : Nat) (b : VSrc) (g : Nat)
  /-- R134. FP32 compare unordered or not equal. -/
  | fne (d a : Nat) (b : VSrc) (g : Nat)
  /-- R134. FP32 compare less. -/
  | flt (d a : Nat) (b : VSrc) (g : Nat)
  /-- R134. FP32 compare less or equal. -/
  | fle (d a : Nat) (b : VSrc) (g : Nat)
  /-- R134. FP32 compare greater. -/
  | fgt (d a : Nat) (b : VSrc) (g : Nat)
  /-- R134. FP32 compare greater or equal. -/
  | fge (d a : Nat) (b : VSrc) (g : Nat)
  /-- R134. FP32 compare unordered. -/
  | funord (d a : Nat) (b : VSrc) (g : Nat)
  /-- R134. FP32 compare ordered. -/
  | ford (d a : Nat) (b : VSrc) (g : Nat)
  /-- R136. SFU reciprocal. -/
  | frcp (d a g : Nat)
  /-- R136. SFU reciprocal square root. -/
  | frsq (d a g : Nat)
  /-- R136. SFU correctly rounded square root. -/
  | fsqrt (d a g : Nat)
  /-- R136. SFU correctly rounded divide. -/
  | fdiv (d a : Nat) (b : VSrc) (g : Nat)
  /-- R136. SFU base-2 exponential. -/
  | fexp2 (d a g : Nat)
  /-- R136. SFU base-2 logarithm. -/
  | flog2 (d a g : Nat)
  /-- R136. SFU sin(π·A). -/
  | fsinpi (d a g : Nat)
  /-- R136. SFU cos(π·A). -/
  | fcospi (d a g : Nat)
  /-- R136. SFU hyperbolic tangent. -/
  | ftanh (d a g : Nat)
  /-- R136. SFU logistic sigmoid. -/
  | fsigm (d a g : Nat)
  /-- R138. Convert FP32 to signed 32-bit integer, saturating. -/
  | cvtI32F32 (d a g : Nat)
  /-- R138. Convert FP32 to unsigned 32-bit integer. -/
  | cvtN32F32 (d a g : Nat)
  /-- R138. Convert signed integer to FP32. -/
  | cvtF32I32 (d a g : Nat)
  /-- R138. Convert unsigned integer to FP32. -/
  | cvtF32N32 (d a g : Nat)
  /-- R138. Convert FP32 to FP16. -/
  | cvtF16F32 (d a g : Nat)
  /-- R138. Convert FP16 to FP32. -/
  | cvtF32F16 (d a g : Nat)
  /-- R138. Convert FP32 to BF16. -/
  | cvtBf16F32 (d a g : Nat)
  /-- R138. Convert BF16 to FP32. -/
  | cvtF32Bf16 (d a g : Nat)
  /-- R138. Convert FP32 to E4M3. -/
  | cvtE4m3F32 (d a g : Nat)
  /-- R138. Convert E4M3 to FP32. -/
  | cvtF32E4m3 (d a g : Nat)
  /-- R138. Convert FP32 to E5M2. -/
  | cvtE5m2F32 (d a g : Nat)
  /-- R138. Convert E5M2 to FP32. -/
  | cvtF32E5m2 (d a g : Nat)
  /-- R138. Convert FP32 to E2M1. -/
  | cvtE2m1F32 (d a g : Nat)
  /-- R138. Convert E2M1 to FP32. -/
  | cvtF32E2m1 (d a g : Nat)
  /-- R138. Pack two FP32 values as bf16x2. -/
  | pk2Bf16 (d a : Nat) (b : VSrc) (g : Nat)
  /-- R138. Pack two FP32 values as f16x2. -/
  | pk2F16 (d a : Nat) (b : VSrc) (g : Nat)
  /-- R146. Shuffle from an indexed lane. -/
  | shfl (d a : Nat) (b : VSrc) (g : Nat)
  /-- R146. Shuffle from lane l − b. -/
  | shflup (d a : Nat) (b : VSrc) (g : Nat)
  /-- R146. Shuffle from lane l + b. -/
  | shfldn (d a : Nat) (b : VSrc) (g : Nat)
  /-- R146. Shuffle from lane l XOR b. -/
  | shflx (d a : Nat) (b : VSrc) (g : Nat)
  /-- R146. Broadcast one lane to all acting lanes. -/
  | bcast (d a : Nat) (b : SSrc) (g : Nat)
  /-- R147. Scalar vote: predicate true in some acting lane. -/
  | vany (d a g : Nat)
  /-- R147. Scalar vote: predicate true in all acting lanes. -/
  | vall (d a g : Nat)
  /-- R147. Scalar bitmask of lanes whose predicate is true. -/
  | ballot (d a g : Nat)
  /-- R147. Per-lane prefix count of true predicates. -/
  | vpfxc (d a g : Nat)
  /-- R148. Compact selected lanes' values to the low acting lanes. -/
  | vcomp (d a b g : Nat)
  /-- R148. Expand acting values into selected lanes. -/
  | vexpd (d a b g : Nat)
  /-- R149. Rank of each lane within its match group. -/
  | vmrank (d a g : Nat)
  /-- R149. Size of each lane's match group. -/
  | vmcnt (d a g : Nat)
  /-- R149. Lowest lane index of each lane's match group. -/
  | vmlead (d a g : Nat)
  /-- R150. Select the k greatest FP32 values into a predicate. -/
  | vtopk (d a : Nat) (b : SSrc) (g : Nat)
  /-- R150. Select the k greatest magnitudes into a predicate. -/
  | vtopka (d a : Nat) (b : SSrc) (g : Nat)
  /-- R151. Integer sum reduction to a scalar. -/
  | raddI32 (d a g : Nat)
  /-- R151. Signed minimum reduction. -/
  | rminI32 (d a g : Nat)
  /-- R151. Signed maximum reduction. -/
  | rmaxI32 (d a g : Nat)
  /-- R151. AND reduction. -/
  | rand (d a g : Nat)
  /-- R151. OR reduction. -/
  | ror (d a g : Nat)
  /-- R151. XOR reduction. -/
  | rxor (d a g : Nat)
  /-- R152. Canonical-tree FP32 sum reduction. -/
  | raddF32 (d a g : Nat)
  /-- R155. Compacted-tree FP32 sum reduction. -/
  | raddF32Any (d a g : Nat)
  /-- R156. FP32 minimum reduction. -/
  | rminF32 (d a g : Nat)
  /-- R156. FP32 maximum reduction. -/
  | rmaxF32 (d a g : Nat)
  /-- R151. Inclusive integer scan. -/
  | scanI32 (d a g : Nat)
  /-- R154. Canonical inclusive FP32 scan. -/
  | scanF32 (d a g : Nat)
  /-- R151. Exclusive integer scan. -/
  | xscanI32 (d a g : Nat)
  /-- R159. Deposit acting threads into a regroup bin by key. -/
  | rgput (a : SSrc) (g : Nat)
  /-- R161. Form cohorts from every nonempty bin of the crew. -/
  | rgflush (g : Nat)
  /-- R162. Read bin occupancy of the sub-core into a scalar. -/
  | rgqry (d g : Nat)
  /-- R239. Load from global memory. -/
  | ldg (t a : Nat) (u : Bool) (size ord scope g : Nat) (off : Option (BitVec 32))
  /-- R240. Store to global memory. -/
  | stg (t a : Nat) (u : Bool) (size ord scope g : Nat) (off : Option (BitVec 32))
  /-- R239. Load from scratchpad. -/
  | lds (t a : Nat) (u : Bool) (size ord scope g : Nat) (off : Option (BitVec 32))
  /-- R240. Store to scratchpad. -/
  | sts (t a : Nat) (u : Bool) (size ord scope g : Nat) (off : Option (BitVec 32))
  /-- R239. Load through the cluster window. -/
  | ldc (t a : Nat) (u : Bool) (size ord scope g : Nat) (off : Option (BitVec 32))
  /-- R240. Store through the cluster window. -/
  | stc (t a : Nat) (u : Bool) (size ord scope g : Nat) (off : Option (BitVec 32))
  /-- R239. Load from chip scratchpad. -/
  | ldx (t a : Nat) (u : Bool) (size ord scope g : Nat) (off : Option (BitVec 32))
  /-- R240. Store to chip scratchpad. -/
  | stx (t a : Nat) (u : Bool) (size ord scope g : Nat) (off : Option (BitVec 32))
  /-- R239. Load from private memory. -/
  | ldp (t a : Nat) (u : Bool) (size ord scope g : Nat) (off : Option (BitVec 32))
  /-- R240. Store to private memory, dirtying the L1 line. -/
  | stp (t a : Nat) (u : Bool) (size ord scope g : Nat) (off : Option (BitVec 32))
  /-- R248. Atomic or reduction on global memory at the home slice. -/
  | atg (t a : Nat) (u : Bool) (aop : Nat) (w : Bool) (ord scope : Nat) (rt : Bool) (off : Option (BitVec 32))
  /-- R248. Atomic or reduction on scratchpad. -/
  | ats (t a : Nat) (u : Bool) (aop : Nat) (w : Bool) (ord scope : Nat) (rt : Bool) (off : Option (BitVec 32))
  /-- R248. Atomic or reduction through the cluster window. -/
  | atc (t a : Nat) (u : Bool) (aop : Nat) (w : Bool) (ord scope : Nat) (rt : Bool) (off : Option (BitVec 32))
  /-- R248. Atomic or reduction on chip scratchpad. -/
  | atx (t a : Nat) (u : Bool) (aop : Nat) (w : Bool) (ord scope : Nat) (rt : Bool) (off : Option (BitVec 32))
  /-- R249. Acquire fence: later loads wait for earlier loads; wide scopes invalidate. -/
  | fenceAcq (sc : Nat)
  /-- R249. Release fence: later writes wait for the ack counter to reach zero. -/
  | fenceRel (sc : Nat)
  /-- R249. Release then acquire fence. -/
  | fenceAr (sc : Nat)
  /-- R249. Sequentially consistent fence through the scope's sequence word. -/
  | fenceSc (sc : Nat)
  /-- R249. Hold issue until the ack counter is zero. -/
  | ackwait
  /-- R251. Prefetch a global line into L2 and L1. -/
  | pf (a : Nat)
  /-- R251. Prefetch a global line into its L2 slice. -/
  | pf2 (a : Nat)
  /-- R251. Write back dirty lines of a range. -/
  | wbr (a b : Nat) (phys : Bool)
  /-- R251. Invalidate clean copies of a range, optionally in L2. -/
  | invr (a b : Nat) (l2 phys : Bool)
  /-- R251. Prefetch a text line and its clause-map bits. -/
  | icpf (a : Nat)
  /-- R251. Prefetch a brick into the brick cache. -/
  | bpf (a : Nat)
  /-- R254. Copy from global to scratchpad. -/
  | cpg2s (d a b : Nat)
  /-- R254. Copy from scratchpad to global. -/
  | cps2g (d a b : Nat)
  /-- R254. Copy within scratchpad. -/
  | cps2s (d a b : Nat)
  /-- R254. Copy from scratchpad into the cluster window. -/
  | cps2c (d a b : Nat)
  /-- R254. Copy from the cluster window to scratchpad. -/
  | cpc2s (d a b : Nat)
  /-- R260. Copy a tensor box from global to scratchpad. -/
  | tld (d a b : Nat)
  /-- R260. Copy a tensor box from scratchpad to global. -/
  | tst (d a b : Nat)
  /-- R262. Fill an operand slot from a tensor view, optionally with scales. -/
  | tslot (n a b : Nat) (sc : Bool)
  /-- R257. Close the open copy batch. -/
  | cpclose
  /-- R258. Wait until an outstanding-operation counter is at most N. -/
  | waitc (n cls : Nat)
  /-- R259. Close the batch and bind it to a copy completion ring. -/
  | cpring (a : Nat)
  /-- R178. Accumulate one 32x32 product into a bound tile. -/
  | mma (n sa sb fs cv : Nat)
  /-- R178. Start a chain: bind a fresh tile and write one product. -/
  | mmaz (n sa sb fs cv : Nat)
  /-- R179. Bind a tile and zero it. -/
  | accz (n cv : Nat)
  /-- R180. Store a tile's rows to scratchpad, optionally converting and unbinding. -/
  | accst (n out : Nat) (keep : Bool) (cv xa xb : Nat) (imm : BitVec 20)
  /-- R181. Bind a tile and load it from scratchpad. -/
  | accld (n cv xa xb : Nat) (imm : BitVec 20)
  /-- R182. Read tile words into a vector register. -/
  | accrd (n r cv xa : Nat) (imm : BitVec 20)
  /-- R182. Write tile words from a vector register. -/
  | accwr (n r cv xa : Nat) (imm : BitVec 20)
  /-- R184. Claim an operand slot, clearing it for a new crew. -/
  | oclaim (n cv : Nat)
  /-- R185. Release an operand slot. -/
  | orel (n cv : Nat)
  /-- R186. Load slot DATA from scratchpad. -/
  | oloadData (n cv xa xb : Nat) (imm : BitVec 20)
  /-- R186. Load slot SIDE scales from scratchpad. -/
  | oloadSide (n cv xa xb : Nat) (imm : BitVec 20)
  /-- R186. Load slot BAND scale from scratchpad. -/
  | oloadBand (n cv xa : Nat) (imm : BitVec 20)
  /-- R183. Rescale an FP32 tile in place. -/
  | accsclF32 (n cv xa : Nat)
  /-- R183. Rescale an INT32 tile into FP32. -/
  | accsclI2f (n cv xa : Nat)
  /-- R183. Rescale an FP32 tile into saturated INT32. -/
  | accsclF2i (n cv xa : Nat)
  /-- R302. Append an element to a scratchpad queue, waiting if full or no allowance. -/
  | qpush (n a g : Nat)
  /-- R303. Remove the oldest queue element, waiting if empty. -/
  | qpop (n a g : Nat)
  /-- R302. Non-waiting queue append with status. -/
  | qpushn (d n a g : Nat)
  /-- R303. Non-waiting queue pop with status. -/
  | qpopn (d n a g : Nat)
  /-- R305. Add a signed amount to the queue's send allowance. -/
  | qallow (n a g : Nat)
  /-- R305. Read queue COUNT and ALLOW. -/
  | qlen (d n g : Nat)
  /-- R307. Send a message on a channel, waiting for peer and credit. -/
  | chsend (n a g : Nat)
  /-- R308. Receive the next channel message, waiting for it. -/
  | chrecv (n a g : Nat)
  /-- R307. Non-waiting channel send with status. -/
  | chsendn (d n a g : Nat)
  /-- R308. Non-waiting channel receive with status. -/
  | chrecvn (d n a g : Nat)
  /-- R311. Enqueue a value into a memory ring at its home slice. -/
  | renq (d a g : Nat)
  /-- R311. Dequeue a value from a memory ring at its home slice. -/
  | rdeq (d a g : Nat)
  /-- R314. Wait for a filled copy completion ring slot. -/
  | rawait (d a g : Nat)
  /-- R314. Release a copy completion ring slot. -/
  | rrel (a g : Nat)
  /-- R347. Set a barrier's expected count. -/
  | barinit (n a g : Nat)
  /-- R347. Arrive at a barrier, returning its phase. -/
  | bararr (d n g : Nat)
  /-- R347. Wait for a barrier phase change. -/
  | barwait (n a g : Nat)
  /-- R347. Arrive at a barrier and wait for the phase to complete. -/
  | barsync (n g : Nat)
  /-- R348. Add to a join counter. -/
  | jinc (a g : Nat)
  /-- R322. Create a launch in the pending-launch store, with status. -/
  | spawn (d a g : Nat)
  /-- R322. Create a launch, waiting for a free store entry. -/
  | spawnw (d a g : Nat)
  /-- R323. Close the crew's spawning, optionally with a continuation. -/
  | doneCrew (a g : Nat)
  /-- R324. Tear down a crew, launch, graph, phase or job. -/
  | cancel (a g : Nat)
  /-- R348. Wait until a completion flag is clear. -/
  | wflag (n g : Nat)
  /-- R366. Record the crew's publication of a written tile buffer. -/
  | tbpub (n g : Nat)
  /-- R367. Record the crew's release of a read tile buffer. -/
  | tbrel (n g : Nat)
  /-- R368. Read a tile buffer's state and the crew's view address. -/
  | tbstat (d n g : Nat)
  /-- R369. Read speculation status and depth. -/
  | spchk (d g : Nat)
  /-- R369. Wait until the launch resolves its speculation. -/
  | spbar (g : Nat)
  /-- R391. Hand the acting lanes' rays to the marcher. -/
  | march (d a b : Nat) (sp : Bool) (mode : Nat)
  /-- R392. Resume suspended rays with a callable reply. -/
  | marchr (d a : Nat)
  /-- R393. Specialise an instance program for a screen tile. -/
  | fprep (d a b : Nat)
  /-- R394. Sample a distance brick with gradient. -/
  | bfetch (d a b : Nat)
  /-- R400. Hand rays to the BVH traverser. -/
  | trace (d a b : Nat)
  /-- R400. Resume stopped trace rays with accept or reject. -/
  | tracer (d a : Nat)
  /-- R407. Sample a texture bilinearly at a resident level. -/
  | tex (d a b : Nat)
  /-- R408. Query the texture level a sample would use. -/
  | texq (d a b : Nat)
  /-- R417. Collective all-reduce. -/
  | cred (d a b rop : Nat) (w : Bool)
  /-- R418. Collective all-gather. -/
  | cgat (d a b : Nat)
  /-- R417. Collective reduce-scatter. -/
  | crsc (d a b rop : Nat) (w : Bool)
  /-- R418. Collective all-to-all. -/
  | ca2a (d a b : Nat)
  /-- R418. Point-to-point collective send. -/
  | csend (a b : Nat)
  /-- R418. Point-to-point collective receive. -/
  | crecv (d b : Nat)
  /-- R418. Collective barrier over the communicator. -/
  | cwait (b : Nat)
  /-- R139. Binary64 add, by emulation. -/
  | dadd (d a b g : Nat)
  /-- R139. Binary64 subtract. -/
  | dsub (d a b g : Nat)
  /-- R139. Binary64 multiply. -/
  | dmul (d a b g : Nat)
  /-- R139. Binary64 fused multiply-add. -/
  | dfma (d a b g : Nat)
  /-- R139. Binary64 divide. -/
  | ddiv (d a b g : Nat)
  /-- R139. Binary64 square root. -/
  | dsqrt (d a g : Nat)
  /-- R139. Widen FP32 to binary64. -/
  | cvtF64F32 (d a g : Nat)
  /-- R139. Narrow binary64 to FP32. -/
  | cvtF32F64 (d a g : Nat)
  /-- R207. Breakpoint raising TRAP with %tpc at the next word. -/
  | brk (n g : Nat)
  /-- R412. Read a counter into a scalar. -/
  | rdcnt (d n g : Nat)
  /-- R413. Issue performance event 10 with a value. -/
  | mark (n g : Nat)
  /-- R337. Read a configuration register. -/
  | crd (d a idx : Nat)
  /-- R337. Write a configuration register without behaviour of its own. -/
  | cwr (d a idx : Nat)
  /-- R198. Answer an XLATE record with RESUME; when all are answered the word re-issues. -/
  | freplyResume (d a : Nat)
  /-- R198. Answer an XLATE record with REJECT, delivering XLATE or ending a copy batch. -/
  | freplyReject (d a : Nat)
  /-- R215. Change the carve-out way count, writing back and clearing the changed ways. -/
  | carve (d a : Nat)
  /-- R342. Write a partition's job descriptor item, refused when it would conflict. -/
  | pjob (d a : Nat)
  /-- R228. Invalidate one page's TLB entries in an ASID and hold until users drain. -/
  | tlbinvPage (a : Nat)
  /-- R228. Invalidate all TLB entries of an ASID. -/
  | tlbinvAsid (a : Nat)
  /-- R228. Invalidate every TLB entry. -/
  | tlbinvAll (a : Nat)
  /-- R231. Apply an interleave domain's pending fields across the device. -/
  | slsync (d a : Nat)
  /-- R285. Swap a partition's active and shadow contexts. -/
  | halt (d a : Nat)
  /-- R328. A port's arbiter grants the port to a ready cohort for one run. -/
  | runStart (core sub port : Nat)
  /-- R114. At a clause boundary the sequencer picks the minimum-PC active set and begins the clause. -/
  | clauseIssue (core sub port : Nat)
  /-- R140. The management core's routine completes or declines the parked instruction. -/
  | emulationReturn (cohort : Nat) (decline : Bool)
  /-- R329. A missing instruction line and its clause-map bits arrive and unfreeze the sequencer. -/
  | icacheFill (core sub port : Nat)
  /-- R239. Load data arrives and is written to the destination registers. -/
  | loadDataReturn (cohort op : Nat)
  /-- R35. A long-latency operation completes and its flag counts fall. -/
  | longLatencyCompletion (cohort op : Nat)
  /-- R241. An acknowledgement arrives and the cohort's ack counter falls. -/
  | acknowledgement (n : Nat)
  /-- R221. A request packet is performed at its home in the coherence order. -/
  | homeRequest (n : Nat)
  /-- R230. A requester replays a NACKed request under its current domain copy. -/
  | requestReplay (n : Nat)
  /-- R226. A page-table walk completes, filling TLBs or failing. -/
  | translationWalk (core asid : Nat) (va : BitVec 64)
  /-- R202. An imprecise report reaches its cohort and is queued or merged. -/
  | impreciseReportArrival (n : Nat)
  /-- R255. The copy engine reads and writes one 256-byte granule. -/
  | copyGranule (copy granule : Nat)
  /-- R257. A closed batch completes and retires into the copy counter. -/
  | copyBatchComplete (batch : Nat)
  /-- R259. The copy engine advances a bound ring's write slot, waiting if full. -/
  | copyRingAdvance (batch : Nat)
  /-- R172. A matrix operation completes and retires in issue order. -/
  | mtxCompletion (cohort : Nat)
  /-- R170. A binding waiting for a free tile proceeds when a tile frees. -/
  | tileBind (cohort : Nat)
  /-- R184. A waiting oclaim obtains the slot when its owner releases it. -/
  | slotClaim (cohort : Nat)
  /-- R430. A start onto an idle array is admitted within the sector's window limit. -/
  | matrixStartAdmission (cohort : Nat)
  /-- R430. A new 64-clk sector window opens and waiting starts are offered again. -/
  | admissionWindow (sector : Nat)
  /-- R382. A marched or traced ray ends or stops at CALL and writes its result registers. -/
  | rayEnd (crew tid unit : Nat)
  /-- R126. All cohorts wait at wreq, the grant is computed and the crew re-slices. -/
  | wreqGrant (crew : Nat)
  /-- R160. A full regroup bin forms a cohort once a place and register bytes are free. -/
  | binFormation (core sub bin : Nat)
  /-- R161. Hardware flushes a crew's bins when all its threads are binned or waiting at wreq. -/
  | autoFlush (crew : Nat)
  /-- R76. A cohort with no thread retires once its operations complete. -/
  | cohortRetire (cohort : Nat)
  /-- R304. A waiting qpush or qpop is retried when its queue's control word changes. -/
  | queueWaiterRetry (crew q : Nat) (push : Bool)
  /-- R307. A message is written into the peer's slot and its FULLMAP bit set. -/
  | channelDelivery (n : Nat)
  /-- R308. A receiver's credit reaches the sender and updates CRSEQ. -/
  | creditPacket (n : Nat)
  /-- R312. The fault unit posts a 32-byte record into the job fault queue, held or dropped if full. -/
  | faultRecordPost (n : Nat)
  /-- R277. An inbound RDMA WRITE is performed at home slices and acknowledged. -/
  | rdmaWrite (n part : Nat)
  /-- R277. An inbound RDMA READ returns home values. -/
  | rdmaRead (n : Nat)
  /-- R317. The front end acts on a submission ring's kick word. -/
  | ringKick (ring : Nat)
  /-- R317. A passing LAUNCH packet is checked and takes a store entry. -/
  | launchPacket (ring : Nat)
  /-- R325. A passing CANCEL packet tears down the selected instance of the ring's job. -/
  | cancelPacket (ring : Nat)
  /-- R317. A torn packet is read again after an inbound write; the 64th failure stops the ring. -/
  | packetReread (ring : Nat)
  /-- R317. The reset kick sets NEXT to 0 and restarts a stopped ring. -/
  | resetKick (ring : Nat)
  /-- R423. A completion record is written to the host ring once the consumed count allows. -/
  | completionRecord (ring : Nat)
  /-- R319. A freed store entry goes to the oldest waiting request. -/
  | storeEntryGrant
  /-- R326. An idle core asks for work and takes the upper half of a task. -/
  | idleCoreRequest (core : Nat)
  /-- R327. The dispatcher places a crew on a core, clearing its allocation. -/
  | crewPlacement (core : Nat)
  /-- R360. The compare engine finishes and gives COMMIT or SQUASH, updating the descriptor. -/
  | verdict (n : Nat)
  /-- R361. A verdict or producer resolution reaches a speculative launch. -/
  | resolutionArrival (n : Nat)
  /-- R362. A crew stops at a boundary, drains its effect buffer and leaves speculation. -/
  | commit (crew : Nat)
  /-- R281. A core of a swapping partition finishes its halt and reports halted. -/
  | coreHalted (core : Nat)
  /-- R281. After the last report the core saves, flips banks and resumes the incoming context. -/
  | swap (core : Nat)
  /-- R286. The spin threshold expires and the waiting crew's registers move to the image area. -/
  | longWaitSwapOut (crew : Nat)
  /-- R289. A swapped-out crew whose wait is satisfied returns to its core. -/
  | crewReturn (crew : Nat)
  /-- R291. A migration is requested and threads park at safe points. -/
  | migrationRequest (crew core : Nat)
  /-- R291. A request is withdrawn before the save step and parked threads are released. -/
  | migrationWithdraw (crew : Nat)
  /-- R292. All conditions hold and every thread runs its SAVE routine. -/
  | saveStep (crew : Nat)
  /-- R292. Every thread is saved; the record is written and the allocation copied. -/
  | migrationRecord (crew : Nat)
  /-- R293. The crew is placed on its new core and threads run their RESTORE routines. -/
  | restoreStep (crew core : Nat)
  /-- R402. A raster engine takes a draw record from a ring and rasterises it. -/
  | drawTake (engine : Nat)
  /-- R405. The draw ends: STATUS, FLUSHES, then DONE with a release. -/
  | drawEnd (engine : Nat)
  /-- R416. A paired collective finishes on the engine and retires its counter. -/
  | collectiveComplete (n : Nat)
  /-- R421. A queue pair fails and sets LINKERR. -/
  | queuePairFatalError (port qp : Nat)
  /-- R420. A congestion notification packet halves the queue pair's send rate. -/
  | congestionNotification (port qp : Nat)
  /-- R422. A host SEND with a version bitmask opens a Svetyel connection. -/
  | connectionOpen (n : Nat)
  /-- R428. A nonce SEND is answered with a signed attestation report. -/
  | attestationRequest (n : Nat)
  /-- R424. In recovery, a firmware image arrives by SEND on port 0. -/
  | recoveryImage (n : Nat)
  /-- R424. The management core leaves reset and runs the boot steps. -/
  | powerOnReset
  /-- R424. The next cluster leaves reset after 1,024 management-core clk. -/
  | clusterRelease
  /-- R431. A sensor reading changes the thermal condition and a THERMAL record is posted. -/
  | thermalChange (die inlet : Int)
  /-- R235. The scrubber reads a protected word, correcting or poisoning it. -/
  | patrolScrub (n : Nat)
  /-- R432. A DRAM refresh takes a channel between bursts. -/
  | dramRefresh (channel : Nat)
  /-- R19. One cycle of a core's arithmetic clock passes: %cyc increments, and PMC event 1 counts. -/
  | arithmeticClockCycle (core : Nat)
  /-- R414. An on-die path to a peer partition fails: LINKERR bit 4 is set and the affected collectives complete with their destinations unwritten. -/
  | onDiePathFailure (n : Nat)
  /-- R353. The compare engine finishes the history copy of a publication made without a compare, and the buffer becomes FULL, with HCNT updated or set to 0 on a fault. -/
  | historyCopyComplete (n : Nat)
  deriving DecidableEq, Repr

end Sys2Proof
end

