-- ==== Sys2Proof/WellFormed.lean ====
section
/-!
DEFINITION. Sys2Proof/WellFormed.lean: which instruction terms have an encoding: field ranges (02 R42, R53), pairs and
groups (02 R49, R55), and the illegal combinations of the entries (11 R238, R245).
-/

namespace Sys2Proof

/-- A scalar register field (02 R55). -/
def okS (n : Nat) : Bool := decide (n < 64)
/-- A vector register field (02 R55). -/
def okV (n : Nat) : Bool := decide (n < 64)
/-- A predicate field whose upper bits are 0 (02 R43). -/
def okP (n : Nat) : Bool := decide (n < 8)
/-- A guard field (02 R44). -/
def okG (g : Nat) : Bool := decide (g < 8)
/-- An even pair inside v0-v62 (02 R55). -/
def okVPair (n : Nat) : Bool := n % 2 == 0 && decide (n + 2 ≤ 63)
/-- A group of `k` vector registers inside v0-v62 (02 R52, R55). -/
def okVGroup (n k : Nat) : Bool := decide (n + k ≤ 63)
/-- A group of `k` scalar registers inside s0-s62 (02 R52, R55). -/
def okSGroup (n k : Nat) : Bool := decide (n + k ≤ 63)

/-- A scalar source: a register s0-s62 or a literal. -/
def SSrc.ok : SSrc → Bool
  | .r n => decide (n < 63)
  | .lit _ => true

/-- A vector B source: v0-v63, s0-s62 or a literal. -/
def VSrc.ok : VSrc → Bool
  | .v n => decide (n < 64)
  | .s n => decide (n < 63)
  | .lit _ => true

/-- The T field of a memory access against its SIZE (02 R49, R55). -/
def okData (t size : Nat) : Bool :=
  if size ≤ 2 then decide (t < 64)
  else if size == 3 then okVPair t
  else size == 4 && t % 4 == 0 && decide (t + 4 ≤ 63)

/-- The A field of a memory access (02 R49): scalar with U = 1; an even pair for a global access; else one vector. -/
def okAddr (glob : Bool) (a : Nat) (u : Bool) : Bool :=
  if u || !glob then decide (a < 64) else okVPair a

/-- The legal ORD and SCOPE of a load or a store (11 R238). -/
def okOrder (isLoad streams : Bool) (ord scope : Nat) : Bool :=
  (ord == 0 && scope == 0) ||
  (ord == 1 && isLoad && decide (1 ≤ scope ∧ scope ≤ 5)) ||
  (ord == 2 && !isLoad && decide (1 ≤ scope ∧ scope ≤ 5)) ||
  (ord == 3 && streams && scope == 0)

/-- The fields of a format-M instruction (02 R49, 11 R238). -/
def okMem (isLoad streams glob : Bool) (t a : Nat) (u : Bool) (size ord scope : Nat) : Bool :=
  okData t size && okAddr glob a u && okOrder isLoad streams ord scope

/-- The fields of an atomic (11 R245, 02 R50, R55). -/
def okAtomic (glob : Bool) (t a : Nat) (u : Bool) (aop : Nat) (w : Bool) (ord scope : Nat) (ret : Bool) : Bool :=
  decide (aop < 15) && okAddr glob a u &&
  (if aop == 10 then (if w then t % 4 == 0 && decide (t + 4 ≤ 63) else decide (t + 2 ≤ 63))
   else if w then okVPair t else decide (t < 64)) &&
  ((ord == 0 && scope == 0) || (decide (1 ≤ ord ∧ ord < 4) && decide (1 ≤ scope ∧ scope ≤ 5))) &&
  !((ord == 1 || ord == 3) && !ret) &&
  !((aop == 9 || aop == 10) && !ret) &&
  !(w && (aop == 11 || aop == 12 || aop == 13))

/-- The instruction terms that have an encoding; an event has none. -/
def Instr.wellFormed : Instr → Bool
  | .sadd d a b g => okS d && a.ok && b.ok && okG g
  | .ssub d a b g => okS d && a.ok && b.ok && okG g
  | .smul d a b g => okS d && a.ok && b.ok && okG g
  | .smulh d a b g => okS d && a.ok && b.ok && okG g
  | .smulhn d a b g => okS d && a.ok && b.ok && okG g
  | .sand d a b g => okS d && a.ok && b.ok && okG g
  | .sor d a b g => okS d && a.ok && b.ok && okG g
  | .sxor d a b g => okS d && a.ok && b.ok && okG g
  | .sshl d a b g => okS d && a.ok && b.ok && okG g
  | .sshr d a b g => okS d && a.ok && b.ok && okG g
  | .ssra d a b g => okS d && a.ok && b.ok && okG g
  | .smin d a b g => okS d && a.ok && b.ok && okG g
  | .smax d a b g => okS d && a.ok && b.ok && okG g
  | .sminn d a b g => okS d && a.ok && b.ok && okG g
  | .smaxn d a b g => okS d && a.ok && b.ok && okG g
  | .smov d b g => okS d && b.ok && okG g
  | .saddi d a _ => okS d && okS a
  | .sandi d a _ => okS d && okS a
  | .sori d a _ => okS d && okS a
  | .sxori d a _ => okS d && okS a
  | .sshli d a c => okS d && okS a && decide (c < 64)
  | .sshri d a c => okS d && okS a && decide (c < 64)
  | .ssrai d a c => okS d && okS a && decide (c < 64)
  | .slui d _ => okS d
  | .scmpEq d a b g => okP d && a.ok && b.ok && okG g
  | .scmpNe d a b g => okP d && a.ok && b.ok && okG g
  | .scmpLt d a b g => okP d && a.ok && b.ok && okG g
  | .scmpLe d a b g => okP d && a.ok && b.ok && okG g
  | .scmpGt d a b g => okP d && a.ok && b.ok && okG g
  | .scmpGe d a b g => okP d && a.ok && b.ok && okG g
  | .scmpLtn d a b g => okP d && a.ok && b.ok && okG g
  | .scmpLen d a b g => okP d && a.ok && b.ok && okG g
  | .scmpGtn d a b g => okP d && a.ok && b.ok && okG g
  | .scmpGen d a b g => okP d && a.ok && b.ok && okG g
  | .vadd d a b g => okV d && okV a && b.ok && okG g
  | .vsub d a b g => okV d && okV a && b.ok && okG g
  | .vmul d a b g => okV d && okV a && b.ok && okG g
  | .vmulh d a b g => okV d && okV a && b.ok && okG g
  | .vmulhn d a b g => okV d && okV a && b.ok && okG g
  | .vand d a b g => okV d && okV a && b.ok && okG g
  | .vor d a b g => okV d && okV a && b.ok && okG g
  | .vxor d a b g => okV d && okV a && b.ok && okG g
  | .vshl d a b g => okV d && okV a && b.ok && okG g
  | .vshr d a b g => okV d && okV a && b.ok && okG g
  | .vsra d a b g => okV d && okV a && b.ok && okG g
  | .vmin d a b g => okV d && okV a && b.ok && okG g
  | .vmax d a b g => okV d && okV a && b.ok && okG g
  | .vminn d a b g => okV d && okV a && b.ok && okG g
  | .vmaxn d a b g => okV d && okV a && b.ok && okG g
  | .vmov d b g => okV d && b.ok && okG g
  | .vabs d a g => okV d && okV a && okG g
  | .vneg d a g => okV d && okV a && okG g
  | .vclz d a g => okV d && okV a && okG g
  | .vpopc d a g => okV d && okV a && okG g
  | .vbrev d a g => okV d && okV a && okG g
  | .vaddsat d a b g => okV d && okV a && b.ok && okG g
  | .vsubsat d a b g => okV d && okV a && b.ok && okG g
  | .vmad d a b g => okV d && okV a && b.ok && okG g
  | .vsel d a b g => okV d && okV a && b.ok && okG g
  | .vsext8 d a g => okV d && okV a && okG g
  | .vsext16 d a g => okV d && okV a && okG g
  | .vzext8 d a g => okV d && okV a && okG g
  | .vzext16 d a g => okV d && okV a && okG g
  | .vbfe d a b g => okV d && okV a && b.ok && okG g
  | .vbfi d a b g => okV d && okV a && b.ok && okG g
  | .vdp4 d a b g => okV d && okV a && b.ok && okG g
  | .vaddi d a _ => okV d && okV a
  | .vandi d a _ => okV d && okV a
  | .vori d a _ => okV d && okV a
  | .vxori d a _ => okV d && okV a
  | .vshli d a c => okV d && okV a && decide (c < 64)
  | .vshri d a c => okV d && okV a && decide (c < 64)
  | .vsrai d a c => okV d && okV a && decide (c < 64)
  | .vmovi d _ => okV d
  | .vcmpEq d a b g => okP d && okV a && b.ok && okG g
  | .vcmpNe d a b g => okP d && okV a && b.ok && okG g
  | .vcmpLt d a b g => okP d && okV a && b.ok && okG g
  | .vcmpLe d a b g => okP d && okV a && b.ok && okG g
  | .vcmpGt d a b g => okP d && okV a && b.ok && okG g
  | .vcmpGe d a b g => okP d && okV a && b.ok && okG g
  | .vcmpLtn d a b g => okP d && okV a && b.ok && okG g
  | .vcmpLen d a b g => okP d && okV a && b.ok && okG g
  | .vcmpGtn d a b g => okP d && okV a && b.ok && okG g
  | .vcmpGen d a b g => okP d && okV a && b.ok && okG g
  | .pand d a b g => okP d && okP a && okP b && okG g
  | .por d a b g => okP d && okP a && okP b && okG g
  | .pxor d a b g => okP d && okP a && okP b && okG g
  | .pandn d a b g => okP d && okP a && okP b && okG g
  | .pnot d a g => okP d && okP a && okG g
  | .pmov d a g => okP d && okP a && okG g
  | .br g n _ => okG g && !(n && g == 7)
  | .call g n _ => okG g && !(n && g == 7)
  | .meet g n _ => okG g && !(n && g == 7)
  | .ret g => okG g
  | .exit g => okG g
  | .yield g => okG g
  | .brx a g => okVPair a && okG g
  | .callx a g => okVPair a && okG g
  | .mrget d g => okVPair d && okG g
  | .mrset a g => okVPair a && okG g
  | .nop => true
  | .csign cv => decide (cv < 7)
  | .trap n g => okS n && okG g
  | .tret => true
  | .tretSkip => true
  | .wreq d a => okS d && a.ok
  | .rdsp d sc x g => (if sc then okS d else okV d) && decide (x < 64) && okG g
  | .wrsp x a g => a.ok && decide (x < 64) && okG g
  | .fadd d a b g => okV d && okV a && b.ok && okG g
  | .fsub d a b g => okV d && okV a && b.ok && okG g
  | .fmul d a b g => okV d && okV a && b.ok && okG g
  | .ffma d a b g => okV d && okV a && b.ok && okG g
  | .ffms d a b g => okV d && okV a && b.ok && okG g
  | .fmin d a b g => okV d && okV a && b.ok && okG g
  | .fmax d a b g => okV d && okV a && b.ok && okG g
  | .fminnm d a b g => okV d && okV a && b.ok && okG g
  | .fmaxnm d a b g => okV d && okV a && b.ok && okG g
  | .fabs d a g => okV d && okV a && okG g
  | .fneg d a g => okV d && okV a && okG g
  | .fcpsgn d a b g => okV d && okV a && b.ok && okG g
  | .frndn d a g => okV d && okV a && okG g
  | .frndz d a g => okV d && okV a && okG g
  | .frndd d a g => okV d && okV a && okG g
  | .frndu d a g => okV d && okV a && okG g
  | .hadd d a b g => okV d && okV a && b.ok && okG g
  | .hsub d a b g => okV d && okV a && b.ok && okG g
  | .hmul d a b g => okV d && okV a && b.ok && okG g
  | .hfma d a b g => okV d && okV a && b.ok && okG g
  | .hmin d a b g => okV d && okV a && b.ok && okG g
  | .hmax d a b g => okV d && okV a && b.ok && okG g
  | .habs d a g => okV d && okV a && okG g
  | .hneg d a g => okV d && okV a && okG g
  | .badd d a b g => okV d && okV a && b.ok && okG g
  | .bsub d a b g => okV d && okV a && b.ok && okG g
  | .bmul d a b g => okV d && okV a && b.ok && okG g
  | .bfma d a b g => okV d && okV a && b.ok && okG g
  | .bmin d a b g => okV d && okV a && b.ok && okG g
  | .bmax d a b g => okV d && okV a && b.ok && okG g
  | .babs d a g => okV d && okV a && okG g
  | .bneg d a g => okV d && okV a && okG g
  | .faddRd d a b g => okV d && okV a && b.ok && okG g
  | .faddRu d a b g => okV d && okV a && b.ok && okG g
  | .fsubRd d a b g => okV d && okV a && b.ok && okG g
  | .fsubRu d a b g => okV d && okV a && b.ok && okG g
  | .fmulRd d a b g => okV d && okV a && b.ok && okG g
  | .fmulRu d a b g => okV d && okV a && b.ok && okG g
  | .ffmaRd d a b g => okV d && okV a && b.ok && okG g
  | .ffmaRu d a b g => okV d && okV a && b.ok && okG g
  | .fsqrtRd d a g => okV d && okV a && okG g
  | .fsqrtRu d a g => okV d && okV a && okG g
  | .fdivRd d a b g => okV d && okV a && b.ok && okG g
  | .fdivRu d a b g => okV d && okV a && b.ok && okG g
  | .feq d a b g => okP d && okV a && b.ok && okG g
  | .fne d a b g => okP d && okV a && b.ok && okG g
  | .flt d a b g => okP d && okV a && b.ok && okG g
  | .fle d a b g => okP d && okV a && b.ok && okG g
  | .fgt d a b g => okP d && okV a && b.ok && okG g
  | .fge d a b g => okP d && okV a && b.ok && okG g
  | .funord d a b g => okP d && okV a && b.ok && okG g
  | .ford d a b g => okP d && okV a && b.ok && okG g
  | .frcp d a g => okV d && okV a && okG g
  | .frsq d a g => okV d && okV a && okG g
  | .fsqrt d a g => okV d && okV a && okG g
  | .fdiv d a b g => okV d && okV a && b.ok && okG g
  | .fexp2 d a g => okV d && okV a && okG g
  | .flog2 d a g => okV d && okV a && okG g
  | .fsinpi d a g => okV d && okV a && okG g
  | .fcospi d a g => okV d && okV a && okG g
  | .ftanh d a g => okV d && okV a && okG g
  | .fsigm d a g => okV d && okV a && okG g
  | .cvtI32F32 d a g => okV d && okV a && okG g
  | .cvtN32F32 d a g => okV d && okV a && okG g
  | .cvtF32I32 d a g => okV d && okV a && okG g
  | .cvtF32N32 d a g => okV d && okV a && okG g
  | .cvtF16F32 d a g => okV d && okV a && okG g
  | .cvtF32F16 d a g => okV d && okV a && okG g
  | .cvtBf16F32 d a g => okV d && okV a && okG g
  | .cvtF32Bf16 d a g => okV d && okV a && okG g
  | .cvtE4m3F32 d a g => okV d && okV a && okG g
  | .cvtF32E4m3 d a g => okV d && okV a && okG g
  | .cvtE5m2F32 d a g => okV d && okV a && okG g
  | .cvtF32E5m2 d a g => okV d && okV a && okG g
  | .cvtE2m1F32 d a g => okV d && okV a && okG g
  | .cvtF32E2m1 d a g => okV d && okV a && okG g
  | .pk2Bf16 d a b g => okV d && okV a && b.ok && okG g
  | .pk2F16 d a b g => okV d && okV a && b.ok && okG g
  | .shfl d a b g => okV d && okV a && b.ok && okG g
  | .shflup d a b g => okV d && okV a && b.ok && okG g
  | .shfldn d a b g => okV d && okV a && b.ok && okG g
  | .shflx d a b g => okV d && okV a && b.ok && okG g
  | .bcast d a b g => okV d && okV a && b.ok && okG g
  | .vany d a g => okS d && okP a && okG g
  | .vall d a g => okS d && okP a && okG g
  | .ballot d a g => okS d && okP a && okG g
  | .vpfxc d a g => okV d && okP a && okG g
  | .vcomp d a b g => okV d && okV a && okP b && okG g
  | .vexpd d a b g => okV d && okV a && okP b && okG g
  | .vmrank d a g => okV d && okV a && okG g
  | .vmcnt d a g => okV d && okV a && okG g
  | .vmlead d a g => okV d && okV a && okG g
  | .vtopk d a b g => okP d && okV a && b.ok && okG g
  | .vtopka d a b g => okP d && okV a && b.ok && okG g
  | .raddI32 d a g => okS d && okV a && okG g
  | .rminI32 d a g => okS d && okV a && okG g
  | .rmaxI32 d a g => okS d && okV a && okG g
  | .rand d a g => okS d && okV a && okG g
  | .ror d a g => okS d && okV a && okG g
  | .rxor d a g => okS d && okV a && okG g
  | .raddF32 d a g => okS d && okV a && okG g
  | .raddF32Any d a g => okS d && okV a && okG g
  | .rminF32 d a g => okS d && okV a && okG g
  | .rmaxF32 d a g => okS d && okV a && okG g
  | .scanI32 d a g => okV d && okV a && okG g
  | .scanF32 d a g => okV d && okV a && okG g
  | .xscanI32 d a g => okV d && okV a && okG g
  | .rgput a g => a.ok && okG g
  | .rgflush g => okG g
  | .rgqry d g => okS d && okG g
  | .ldg t a u size ord scope g _ => okMem true true true t a u size ord scope && okG g
  | .stg t a u size ord scope g _ => okMem false false true t a u size ord scope && okG g
  | .lds t a u size ord scope g _ => okMem true false false t a u size ord scope && okG g
  | .sts t a u size ord scope g _ => okMem false false false t a u size ord scope && okG g
  | .ldc t a u size ord scope g _ => okMem true false false t a u size ord scope && okG g
  | .stc t a u size ord scope g _ => okMem false false false t a u size ord scope && okG g
  | .ldx t a u size ord scope g _ => okMem true false false t a u size ord scope && okG g
  | .stx t a u size ord scope g _ => okMem false false false t a u size ord scope && okG g
  | .ldp t a u size ord scope g _ => okMem true true false t a u size ord scope && okG g
  | .stp t a u size ord scope g _ => okMem false false false t a u size ord scope && okG g
  | .atg t a u aop w ord scope rt _ => okAtomic true t a u aop w ord scope rt
  | .ats t a u aop w ord scope rt _ => okAtomic false t a u aop w ord scope rt
  | .atc t a u aop w ord scope rt _ => okAtomic false t a u aop w ord scope rt
  | .atx t a u aop w ord scope rt _ => okAtomic false t a u aop w ord scope rt
  | .fenceAcq sc => decide (sc < 8)
  | .fenceRel sc => decide (sc < 8)
  | .fenceAr sc => decide (sc < 8)
  | .fenceSc sc => decide (sc < 8)
  | .ackwait => true
  | .pf a => okS a
  | .pf2 a => okS a
  | .wbr a b _ => okS a && okS b
  | .invr a b _ _ => okS a && okS b
  | .icpf a => okS a
  | .bpf a => okS a
  | .cpg2s d a b => okS d && okS a && okS b
  | .cps2g d a b => okS d && okS a && okS b
  | .cps2s d a b => okS d && okS a && okS b
  | .cps2c d a b => okS d && okS a && okS b
  | .cpc2s d a b => okS d && okS a && okS b
  | .tld d a b => okS d && okS a && okSGroup b 3
  | .tst d a b => okS d && okS a && okSGroup b 3
  | .tslot n a b _ => decide (n < 16) && okS a && okSGroup b 3
  | .cpclose => true
  | .waitc n cls => okS n && decide (cls < 4)
  | .cpring a => okS a
  | .mma n sa sb fs cv => decide (n < 8) && decide (sa < 16) && decide (sb < 16) && decide (fs < 8) && okG cv
  | .mmaz n sa sb fs cv => decide (n < 8) && decide (sa < 16) && decide (sb < 16) && decide (fs < 8) && okG cv
  | .accz n cv => decide (n < 8) && okG cv
  | .accst n out _ cv xa xb _ => decide (n < 8) && decide (out < 3) && okG cv && okS xa && okS xb
  | .accld n cv xa xb _ => decide (n < 8) && okG cv && okS xa && okS xb
  | .accrd n r cv xa _ => decide (n < 8) && okV r && okG cv && okS xa
  | .accwr n r cv xa _ => decide (n < 8) && okV r && okG cv && okS xa
  | .oclaim n cv => decide (n < 16) && okG cv
  | .orel n cv => decide (n < 16) && okG cv
  | .oloadData n cv xa xb _ => decide (n < 16) && okG cv && okS xa && okS xb
  | .oloadSide n cv xa xb _ => decide (n < 16) && okG cv && okS xa && okS xb
  | .oloadBand n cv xa _ => decide (n < 16) && okG cv && okS xa
  | .accsclF32 n cv xa => decide (n < 8) && okG cv && okS xa
  | .accsclI2f n cv xa => decide (n < 8) && okG cv && okS xa
  | .accsclF2i n cv xa => decide (n < 8) && okG cv && okS xa
  | .qpush n a g => okS n && okS a && okG g
  | .qpop n a g => okS n && okS a && okG g
  | .qpushn d n a g => okS d && okS n && okS a && okG g
  | .qpopn d n a g => okS d && okS n && okS a && okG g
  | .qallow n a g => okS n && okS a && okG g
  | .qlen d n g => okS d && okS n && okG g
  | .chsend n a g => decide (n < 32) && okS a && okG g
  | .chrecv n a g => decide (n < 32) && okS a && okG g
  | .chsendn d n a g => okS d && decide (n < 32) && okS a && okG g
  | .chrecvn d n a g => okS d && decide (n < 32) && okS a && okG g
  | .renq d a g => okS d && okS a && okG g
  | .rdeq d a g => okS d && okS a && okG g
  | .rawait d a g => okS d && okS a && okG g
  | .rrel a g => okS a && okG g
  | .barinit n a g => decide (n < 16) && okS a && okG g
  | .bararr d n g => okS d && decide (n < 16) && okG g
  | .barwait n a g => decide (n < 16) && okS a && okG g
  | .barsync n g => decide (n < 16) && okG g
  | .jinc a g => okS a && okG g
  | .spawn d a g => okS d && okS a && okG g
  | .spawnw d a g => okS d && okS a && okG g
  | .doneCrew a g => okS a && okG g
  | .cancel a g => okS a && okG g
  | .wflag n g => decide (n < 12) && okG g
  | .tbpub n g => decide (n < 256) && okG g
  | .tbrel n g => decide (n < 256) && okG g
  | .tbstat d n g => okS d && decide (n < 256) && okG g
  | .spchk d g => okS d && okG g
  | .spbar g => okG g
  | .march d a b sp mode => okVGroup d 4 && okVGroup a 8 && (if sp then okSGroup b 2 else okS b) && decide (mode < 3)
  | .marchr d a => okVGroup d 4 && okVGroup a 2
  | .fprep d a b => okS d && okS a && okS b
  | .bfetch d a b => okVGroup d 4 && okVGroup a 3 && okS b
  | .trace d a b => okVGroup d 5 && okVGroup a 8 && okS b
  | .tracer d a => okVGroup d 5 && okV a
  | .tex d a b => okVGroup d 4 && okVGroup a 3 && okS b
  | .texq d a b => okV d && okVGroup a 3 && okS b
  | .cred d a b rop _ => okS d && okS a && okSGroup b 2 && decide (rop < 3)
  | .cgat d a b => okS d && okS a && okSGroup b 2
  | .crsc d a b rop _ => okS d && okS a && okSGroup b 2 && decide (rop < 3)
  | .ca2a d a b => okS d && okS a && okSGroup b 2
  | .csend a b => okS a && okSGroup b 2
  | .crecv d b => okS d && okSGroup b 2
  | .cwait b => okS b
  | .dadd d a b g => okVPair d && okVPair a && okVPair b && okG g
  | .dsub d a b g => okVPair d && okVPair a && okVPair b && okG g
  | .dmul d a b g => okVPair d && okVPair a && okVPair b && okG g
  | .dfma d a b g => okVPair d && okVPair a && okVPair b && okG g
  | .ddiv d a b g => okVPair d && okVPair a && okVPair b && okG g
  | .dsqrt d a g => okVPair d && okVPair a && okG g
  | .cvtF64F32 d a g => okVPair d && okV a && okG g
  | .cvtF32F64 d a g => okV d && okVPair a && okG g
  | .brk n g => okS n && okG g
  | .rdcnt d n g => okS d && decide (n < 64) && okG g
  | .mark n g => okS n && okG g
  | .crd d a idx => okS d && okS a && decide (idx < 256)
  | .cwr d a idx => okS d && okS a && decide (idx < 256) && !(idx == 1 || idx == 10 || idx == 12)
  | .freplyResume d a => okS d && okS a
  | .freplyReject d a => okS d && okS a
  | .carve d a => okS d && okS a
  | .pjob d a => okS d && okS a
  | .tlbinvPage a => okS a
  | .tlbinvAsid a => okS a
  | .tlbinvAll a => okS a
  | .slsync d a => okS d && okS a
  | .halt d a => okS d && okS a
  | .runStart _ _ _ => false
  | .clauseIssue _ _ _ => false
  | .emulationReturn _ _ => false
  | .icacheFill _ _ _ => false
  | .loadDataReturn _ _ => false
  | .longLatencyCompletion _ _ => false
  | .acknowledgement _ => false
  | .homeRequest _ => false
  | .requestReplay _ => false
  | .translationWalk _ _ _ => false
  | .impreciseReportArrival _ => false
  | .copyGranule _ _ => false
  | .copyBatchComplete _ => false
  | .copyRingAdvance _ => false
  | .mtxCompletion _ => false
  | .tileBind _ => false
  | .slotClaim _ => false
  | .matrixStartAdmission _ => false
  | .admissionWindow _ => false
  | .rayEnd _ _ _ => false
  | .wreqGrant _ => false
  | .binFormation _ _ _ => false
  | .autoFlush _ => false
  | .cohortRetire _ => false
  | .queueWaiterRetry _ _ _ => false
  | .channelDelivery _ => false
  | .creditPacket _ => false
  | .faultRecordPost _ => false
  | .rdmaWrite _ _ => false
  | .rdmaRead _ => false
  | .ringKick _ => false
  | .launchPacket _ => false
  | .cancelPacket _ => false
  | .packetReread _ => false
  | .resetKick _ => false
  | .completionRecord _ => false
  | .storeEntryGrant => false
  | .idleCoreRequest _ => false
  | .crewPlacement _ => false
  | .verdict _ => false
  | .resolutionArrival _ => false
  | .commit _ => false
  | .coreHalted _ => false
  | .swap _ => false
  | .longWaitSwapOut _ => false
  | .crewReturn _ => false
  | .migrationRequest _ _ => false
  | .migrationWithdraw _ => false
  | .saveStep _ => false
  | .migrationRecord _ => false
  | .restoreStep _ _ => false
  | .drawTake _ => false
  | .drawEnd _ => false
  | .collectiveComplete _ => false
  | .queuePairFatalError _ _ => false
  | .congestionNotification _ _ => false
  | .connectionOpen _ => false
  | .attestationRequest _ => false
  | .recoveryImage _ => false
  | .powerOnReset => false
  | .clusterRelease => false
  | .thermalChange _ _ => false
  | .patrolScrub _ => false
  | .dramRefresh _ => false
  | .arithmeticClockCycle _ => false
  | .onDiePathFailure _ => false
  | .historyCopyComplete _ => false

end Sys2Proof
end

