-- ==== Sys2Proof/Decode.lean ====
section
/-!
DEFINITION. Sys2Proof/Decode.lean: from words to instructions and back. `readFields` takes the fields of a word apart
by its major opcode and function (02 R42, R57); `encode` builds the words of an instruction from the same tables;
`decode` accepts exactly the words that `encode` builds for a well-formed instruction, so that every reserved bit, every
reserved value and every illegal combination is refused (02 R43, R58), by name.
-/

namespace Sys2Proof

/-- Bits `hi` down to `lo` of a word (00 R2). -/
def fld (w hi lo : Nat) : Nat := w / 2 ^ lo % 2 ^ (hi + 1 - lo)

/-- One bit of a word. -/
def bit (w n : Nat) : Bool := w / 2 ^ n % 2 == 1

/-- The first extra word, 0 where there is none. -/
def headWord (xs : List Word) : Word := xs.headD 0

/-- A scalar source field: 63 takes a literal word (02 R45). -/
def ssrc (f : Nat) (xs : List Word) : SSrc := if f = 63 then .lit (headWord xs) else .r f

/-- A vector source field under SB (02 R45, 05 R107). -/
def vsrc (sb : Bool) (f : Nat) (xs : List Word) : VSrc :=
  if sb then (if f = 63 then .lit (headWord xs) else .s f) else .v f

/-- The extra words after the literal of the A field, if it has one (02 R45: the word for A comes first). -/
def afterLit (f : Nat) (xs : List Word) : List Word := if f = 63 then xs.tail else xs

/-- The offset word of X = 1 (02 R46). -/
def offOf (x : Bool) (xs : List Word) : Option (BitVec 32) := if x then some (headWord xs) else none

/-- sA of an X extension word (02 R46). -/
def extA (xs : List Word) : Nat := fld (headWord xs).toNat 31 26
/-- sB of an X extension word. -/
def extB (xs : List Word) : Nat := fld (headWord xs).toNat 25 20
/-- IMM20 of an X extension word. -/
def extImm (xs : List Word) : BitVec 20 := BitVec.ofNat 20 (headWord xs).toNat

/-- The field value of a scalar source. -/
def SSrc.fld : SSrc → Nat
  | .r n => n
  | .lit _ => 63
/-- The literal word of a scalar source. -/
def SSrc.lits : SSrc → List Word
  | .r _ => []
  | .lit w => [w]
/-- The field value of a vector source. -/
def VSrc.fld : VSrc → Nat
  | .v n => n
  | .s n => n
  | .lit _ => 63
/-- SB of a vector source. -/
def VSrc.sb : VSrc → Nat
  | .v _ => 0
  | _ => 1
/-- The literal word of a vector source. -/
def VSrc.lits : VSrc → List Word
  | .lit w => [w]
  | _ => []

/-- Format A (02 R42). -/
def asmA (op d a b sb g fn : Nat) : Word :=
  BitVec.ofNat 32 (op * 67108864 + d * 1048576 + a * 16384 + b * 256 + sb * 128 + g * 16 + fn)
/-- Format I. -/
def asmI (op d a fn imm : Nat) : Word :=
  BitVec.ofNat 32 (op * 67108864 + d * 1048576 + a * 16384 + fn * 4096 + imm)
/-- Format B. -/
def asmB (op g n off : Nat) : Word :=
  BitVec.ofNat 32 (op * 67108864 + g * 8388608 + n * 4194304 + off)
/-- Format M. -/
def asmM (op t a u size ord scope g x : Nat) : Word :=
  BitVec.ofNat 32 (op * 67108864 + t * 1048576 + a * 16384 + u * 8192 + size * 1024 + ord * 128 + scope * 16 + g * 2 + x)
/-- Format T. -/
def asmT (op t a u aop w ord scope ret x : Nat) : Word :=
  BitVec.ofNat 32 (op * 67108864 + t * 1048576 + a * 16384 + u * 8192 + aop * 512 + w * 256 + ord * 64 + scope * 8
    + ret * 4 + x)
/-- Format X of the MTX group. -/
def asmX (sub acc sa sb fs cv fl : Nat) : Word :=
  BitVec.ofNat 32 (42 * 67108864 + sub * 4194304 + acc * 262144 + sa * 16384 + sb * 1024 + fs * 128 + cv * 16 + fl)
/-- The extension word of format X (02 R46). -/
def asmExt (sa sb imm : Nat) : Word := BitVec.ofNat 32 (sa * 67108864 + sb * 1048576 + imm)
/-- Format E. -/
def asmE (op sub d a b fl : Nat) : Word :=
  BitVec.ofNat 32 (op * 67108864 + sub * 4194304 + d * 65536 + a * 1024 + b * 16 + fl)
/-- Format Q. -/
def asmQ (op sub d a n g blk : Nat) : Word :=
  BitVec.ofNat 32 (op * 67108864 + sub * 4194304 + d * 65536 + a * 1024 + n * 16 + g * 2 + blk)
/-- Format S. -/
def asmS (sub d a imm : Nat) : Word :=
  BitVec.ofNat 32 (63 * 67108864 + sub * 1048576 + d * 16384 + a * 256 + imm)

/-- Fields of major opcode 0x01 (02 R57). -/
def read01 (w : Nat) (xs : List Word) : Option Instr :=
  if w % 16 = 0 then some (.sadd (fld w 25 20) (ssrc (fld w 19 14) xs) (ssrc (fld w 13 8) (afterLit (fld w 19 14) xs)) (fld w 6 4)) else
  if w % 16 = 1 then some (.ssub (fld w 25 20) (ssrc (fld w 19 14) xs) (ssrc (fld w 13 8) (afterLit (fld w 19 14) xs)) (fld w 6 4)) else
  if w % 16 = 2 then some (.smul (fld w 25 20) (ssrc (fld w 19 14) xs) (ssrc (fld w 13 8) (afterLit (fld w 19 14) xs)) (fld w 6 4)) else
  if w % 16 = 3 then some (.smulh (fld w 25 20) (ssrc (fld w 19 14) xs) (ssrc (fld w 13 8) (afterLit (fld w 19 14) xs)) (fld w 6 4)) else
  if w % 16 = 4 then some (.smulhn (fld w 25 20) (ssrc (fld w 19 14) xs) (ssrc (fld w 13 8) (afterLit (fld w 19 14) xs)) (fld w 6 4)) else
  if w % 16 = 5 then some (.sand (fld w 25 20) (ssrc (fld w 19 14) xs) (ssrc (fld w 13 8) (afterLit (fld w 19 14) xs)) (fld w 6 4)) else
  if w % 16 = 6 then some (.sor (fld w 25 20) (ssrc (fld w 19 14) xs) (ssrc (fld w 13 8) (afterLit (fld w 19 14) xs)) (fld w 6 4)) else
  if w % 16 = 7 then some (.sxor (fld w 25 20) (ssrc (fld w 19 14) xs) (ssrc (fld w 13 8) (afterLit (fld w 19 14) xs)) (fld w 6 4)) else
  if w % 16 = 8 then some (.sshl (fld w 25 20) (ssrc (fld w 19 14) xs) (ssrc (fld w 13 8) (afterLit (fld w 19 14) xs)) (fld w 6 4)) else
  if w % 16 = 9 then some (.sshr (fld w 25 20) (ssrc (fld w 19 14) xs) (ssrc (fld w 13 8) (afterLit (fld w 19 14) xs)) (fld w 6 4)) else
  if w % 16 = 10 then some (.ssra (fld w 25 20) (ssrc (fld w 19 14) xs) (ssrc (fld w 13 8) (afterLit (fld w 19 14) xs)) (fld w 6 4)) else
  if w % 16 = 11 then some (.smin (fld w 25 20) (ssrc (fld w 19 14) xs) (ssrc (fld w 13 8) (afterLit (fld w 19 14) xs)) (fld w 6 4)) else
  if w % 16 = 12 then some (.smax (fld w 25 20) (ssrc (fld w 19 14) xs) (ssrc (fld w 13 8) (afterLit (fld w 19 14) xs)) (fld w 6 4)) else
  if w % 16 = 13 then some (.sminn (fld w 25 20) (ssrc (fld w 19 14) xs) (ssrc (fld w 13 8) (afterLit (fld w 19 14) xs)) (fld w 6 4)) else
  if w % 16 = 14 then some (.smaxn (fld w 25 20) (ssrc (fld w 19 14) xs) (ssrc (fld w 13 8) (afterLit (fld w 19 14) xs)) (fld w 6 4)) else
  if w % 16 = 15 then some (.smov (fld w 25 20) (ssrc (fld w 13 8) xs) (fld w 6 4)) else
  none
/-- Fields of major opcode 0x02 (02 R57). -/
def read02 (w : Nat) (_ : List Word) : Option Instr :=
  if fld w 13 12 = 0 then some (.saddi (fld w 25 20) (fld w 19 14) (BitVec.ofNat 12 w)) else
  if fld w 13 12 = 1 then some (.sandi (fld w 25 20) (fld w 19 14) (BitVec.ofNat 12 w)) else
  if fld w 13 12 = 2 then some (.sori (fld w 25 20) (fld w 19 14) (BitVec.ofNat 12 w)) else
  if fld w 13 12 = 3 then some (.sxori (fld w 25 20) (fld w 19 14) (BitVec.ofNat 12 w)) else
  none
/-- Fields of major opcode 0x03 (02 R57). -/
def read03 (w : Nat) (_ : List Word) : Option Instr :=
  if fld w 13 12 = 0 then some (.sshli (fld w 25 20) (fld w 19 14) (w % 4096)) else
  if fld w 13 12 = 1 then some (.sshri (fld w 25 20) (fld w 19 14) (w % 4096)) else
  if fld w 13 12 = 2 then some (.ssrai (fld w 25 20) (fld w 19 14) (w % 4096)) else
  if fld w 13 12 = 3 then some (.slui (fld w 25 20) (BitVec.ofNat 12 w)) else
  none
/-- Fields of major opcode 0x04 (02 R57). -/
def read04 (w : Nat) (xs : List Word) : Option Instr :=
  if w % 16 = 0 then some (.scmpEq (fld w 25 20) (ssrc (fld w 19 14) xs) (ssrc (fld w 13 8) (afterLit (fld w 19 14) xs)) (fld w 6 4)) else
  if w % 16 = 1 then some (.scmpNe (fld w 25 20) (ssrc (fld w 19 14) xs) (ssrc (fld w 13 8) (afterLit (fld w 19 14) xs)) (fld w 6 4)) else
  if w % 16 = 2 then some (.scmpLt (fld w 25 20) (ssrc (fld w 19 14) xs) (ssrc (fld w 13 8) (afterLit (fld w 19 14) xs)) (fld w 6 4)) else
  if w % 16 = 3 then some (.scmpLe (fld w 25 20) (ssrc (fld w 19 14) xs) (ssrc (fld w 13 8) (afterLit (fld w 19 14) xs)) (fld w 6 4)) else
  if w % 16 = 4 then some (.scmpGt (fld w 25 20) (ssrc (fld w 19 14) xs) (ssrc (fld w 13 8) (afterLit (fld w 19 14) xs)) (fld w 6 4)) else
  if w % 16 = 5 then some (.scmpGe (fld w 25 20) (ssrc (fld w 19 14) xs) (ssrc (fld w 13 8) (afterLit (fld w 19 14) xs)) (fld w 6 4)) else
  if w % 16 = 6 then some (.scmpLtn (fld w 25 20) (ssrc (fld w 19 14) xs) (ssrc (fld w 13 8) (afterLit (fld w 19 14) xs)) (fld w 6 4)) else
  if w % 16 = 7 then some (.scmpLen (fld w 25 20) (ssrc (fld w 19 14) xs) (ssrc (fld w 13 8) (afterLit (fld w 19 14) xs)) (fld w 6 4)) else
  if w % 16 = 8 then some (.scmpGtn (fld w 25 20) (ssrc (fld w 19 14) xs) (ssrc (fld w 13 8) (afterLit (fld w 19 14) xs)) (fld w 6 4)) else
  if w % 16 = 9 then some (.scmpGen (fld w 25 20) (ssrc (fld w 19 14) xs) (ssrc (fld w 13 8) (afterLit (fld w 19 14) xs)) (fld w 6 4)) else
  none
/-- Fields of major opcode 0x05 (02 R57). -/
def read05 (w : Nat) (xs : List Word) : Option Instr :=
  if w % 16 = 0 then some (.vadd (fld w 25 20) (fld w 19 14) (vsrc (bit w 7) (fld w 13 8) xs) (fld w 6 4)) else
  if w % 16 = 1 then some (.vsub (fld w 25 20) (fld w 19 14) (vsrc (bit w 7) (fld w 13 8) xs) (fld w 6 4)) else
  if w % 16 = 2 then some (.vmul (fld w 25 20) (fld w 19 14) (vsrc (bit w 7) (fld w 13 8) xs) (fld w 6 4)) else
  if w % 16 = 3 then some (.vmulh (fld w 25 20) (fld w 19 14) (vsrc (bit w 7) (fld w 13 8) xs) (fld w 6 4)) else
  if w % 16 = 4 then some (.vmulhn (fld w 25 20) (fld w 19 14) (vsrc (bit w 7) (fld w 13 8) xs) (fld w 6 4)) else
  if w % 16 = 5 then some (.vand (fld w 25 20) (fld w 19 14) (vsrc (bit w 7) (fld w 13 8) xs) (fld w 6 4)) else
  if w % 16 = 6 then some (.vor (fld w 25 20) (fld w 19 14) (vsrc (bit w 7) (fld w 13 8) xs) (fld w 6 4)) else
  if w % 16 = 7 then some (.vxor (fld w 25 20) (fld w 19 14) (vsrc (bit w 7) (fld w 13 8) xs) (fld w 6 4)) else
  if w % 16 = 8 then some (.vshl (fld w 25 20) (fld w 19 14) (vsrc (bit w 7) (fld w 13 8) xs) (fld w 6 4)) else
  if w % 16 = 9 then some (.vshr (fld w 25 20) (fld w 19 14) (vsrc (bit w 7) (fld w 13 8) xs) (fld w 6 4)) else
  if w % 16 = 10 then some (.vsra (fld w 25 20) (fld w 19 14) (vsrc (bit w 7) (fld w 13 8) xs) (fld w 6 4)) else
  if w % 16 = 11 then some (.vmin (fld w 25 20) (fld w 19 14) (vsrc (bit w 7) (fld w 13 8) xs) (fld w 6 4)) else
  if w % 16 = 12 then some (.vmax (fld w 25 20) (fld w 19 14) (vsrc (bit w 7) (fld w 13 8) xs) (fld w 6 4)) else
  if w % 16 = 13 then some (.vminn (fld w 25 20) (fld w 19 14) (vsrc (bit w 7) (fld w 13 8) xs) (fld w 6 4)) else
  if w % 16 = 14 then some (.vmaxn (fld w 25 20) (fld w 19 14) (vsrc (bit w 7) (fld w 13 8) xs) (fld w 6 4)) else
  if w % 16 = 15 then some (.vmov (fld w 25 20) (vsrc (bit w 7) (fld w 13 8) xs) (fld w 6 4)) else
  none
/-- Fields of major opcode 0x06 (02 R57). -/
def read06 (w : Nat) (xs : List Word) : Option Instr :=
  if w % 16 = 0 then some (.vabs (fld w 25 20) (fld w 19 14) (fld w 6 4)) else
  if w % 16 = 1 then some (.vneg (fld w 25 20) (fld w 19 14) (fld w 6 4)) else
  if w % 16 = 2 then some (.vclz (fld w 25 20) (fld w 19 14) (fld w 6 4)) else
  if w % 16 = 3 then some (.vpopc (fld w 25 20) (fld w 19 14) (fld w 6 4)) else
  if w % 16 = 4 then some (.vbrev (fld w 25 20) (fld w 19 14) (fld w 6 4)) else
  if w % 16 = 5 then some (.vaddsat (fld w 25 20) (fld w 19 14) (vsrc (bit w 7) (fld w 13 8) xs) (fld w 6 4)) else
  if w % 16 = 6 then some (.vsubsat (fld w 25 20) (fld w 19 14) (vsrc (bit w 7) (fld w 13 8) xs) (fld w 6 4)) else
  if w % 16 = 7 then some (.vmad (fld w 25 20) (fld w 19 14) (vsrc (bit w 7) (fld w 13 8) xs) (fld w 6 4)) else
  if w % 16 = 8 then some (.vsel (fld w 25 20) (fld w 19 14) (vsrc (bit w 7) (fld w 13 8) xs) (fld w 6 4)) else
  if w % 16 = 9 then some (.vsext8 (fld w 25 20) (fld w 19 14) (fld w 6 4)) else
  if w % 16 = 10 then some (.vsext16 (fld w 25 20) (fld w 19 14) (fld w 6 4)) else
  if w % 16 = 11 then some (.vzext8 (fld w 25 20) (fld w 19 14) (fld w 6 4)) else
  if w % 16 = 12 then some (.vzext16 (fld w 25 20) (fld w 19 14) (fld w 6 4)) else
  if w % 16 = 13 then some (.vbfe (fld w 25 20) (fld w 19 14) (vsrc (bit w 7) (fld w 13 8) xs) (fld w 6 4)) else
  if w % 16 = 14 then some (.vbfi (fld w 25 20) (fld w 19 14) (vsrc (bit w 7) (fld w 13 8) xs) (fld w 6 4)) else
  if w % 16 = 15 then some (.vdp4 (fld w 25 20) (fld w 19 14) (vsrc (bit w 7) (fld w 13 8) xs) (fld w 6 4)) else
  none
/-- Fields of major opcode 0x07 (02 R57). -/
def read07 (w : Nat) (_ : List Word) : Option Instr :=
  if fld w 13 12 = 0 then some (.vaddi (fld w 25 20) (fld w 19 14) (BitVec.ofNat 12 w)) else
  if fld w 13 12 = 1 then some (.vandi (fld w 25 20) (fld w 19 14) (BitVec.ofNat 12 w)) else
  if fld w 13 12 = 2 then some (.vori (fld w 25 20) (fld w 19 14) (BitVec.ofNat 12 w)) else
  if fld w 13 12 = 3 then some (.vxori (fld w 25 20) (fld w 19 14) (BitVec.ofNat 12 w)) else
  none
/-- Fields of major opcode 0x08 (02 R57). -/
def read08 (w : Nat) (_ : List Word) : Option Instr :=
  if fld w 13 12 = 0 then some (.vshli (fld w 25 20) (fld w 19 14) (w % 4096)) else
  if fld w 13 12 = 1 then some (.vshri (fld w 25 20) (fld w 19 14) (w % 4096)) else
  if fld w 13 12 = 2 then some (.vsrai (fld w 25 20) (fld w 19 14) (w % 4096)) else
  if fld w 13 12 = 3 then some (.vmovi (fld w 25 20) (BitVec.ofNat 12 w)) else
  none
/-- Fields of major opcode 0x09 (02 R57). -/
def read09 (w : Nat) (xs : List Word) : Option Instr :=
  if w % 16 = 0 then some (.vcmpEq (fld w 25 20) (fld w 19 14) (vsrc (bit w 7) (fld w 13 8) xs) (fld w 6 4)) else
  if w % 16 = 1 then some (.vcmpNe (fld w 25 20) (fld w 19 14) (vsrc (bit w 7) (fld w 13 8) xs) (fld w 6 4)) else
  if w % 16 = 2 then some (.vcmpLt (fld w 25 20) (fld w 19 14) (vsrc (bit w 7) (fld w 13 8) xs) (fld w 6 4)) else
  if w % 16 = 3 then some (.vcmpLe (fld w 25 20) (fld w 19 14) (vsrc (bit w 7) (fld w 13 8) xs) (fld w 6 4)) else
  if w % 16 = 4 then some (.vcmpGt (fld w 25 20) (fld w 19 14) (vsrc (bit w 7) (fld w 13 8) xs) (fld w 6 4)) else
  if w % 16 = 5 then some (.vcmpGe (fld w 25 20) (fld w 19 14) (vsrc (bit w 7) (fld w 13 8) xs) (fld w 6 4)) else
  if w % 16 = 6 then some (.vcmpLtn (fld w 25 20) (fld w 19 14) (vsrc (bit w 7) (fld w 13 8) xs) (fld w 6 4)) else
  if w % 16 = 7 then some (.vcmpLen (fld w 25 20) (fld w 19 14) (vsrc (bit w 7) (fld w 13 8) xs) (fld w 6 4)) else
  if w % 16 = 8 then some (.vcmpGtn (fld w 25 20) (fld w 19 14) (vsrc (bit w 7) (fld w 13 8) xs) (fld w 6 4)) else
  if w % 16 = 9 then some (.vcmpGen (fld w 25 20) (fld w 19 14) (vsrc (bit w 7) (fld w 13 8) xs) (fld w 6 4)) else
  none
/-- Fields of major opcode 0x0A (02 R57). -/
def read0A (w : Nat) (_ : List Word) : Option Instr :=
  if w % 16 = 0 then some (.pand (fld w 25 20) (fld w 19 14) (fld w 13 8) (fld w 6 4)) else
  if w % 16 = 1 then some (.por (fld w 25 20) (fld w 19 14) (fld w 13 8) (fld w 6 4)) else
  if w % 16 = 2 then some (.pxor (fld w 25 20) (fld w 19 14) (fld w 13 8) (fld w 6 4)) else
  if w % 16 = 3 then some (.pandn (fld w 25 20) (fld w 19 14) (fld w 13 8) (fld w 6 4)) else
  if w % 16 = 4 then some (.pnot (fld w 25 20) (fld w 19 14) (fld w 6 4)) else
  if w % 16 = 5 then some (.pmov (fld w 25 20) (fld w 19 14) (fld w 6 4)) else
  none
/-- Fields of major opcode 0x0B (02 R57). -/
def read0B (w : Nat) (_ : List Word) : Option Instr := some (.br (fld w 25 23) (bit w 22) (BitVec.ofNat 22 w))
/-- Fields of major opcode 0x0C (02 R57). -/
def read0C (w : Nat) (_ : List Word) : Option Instr := some (.call (fld w 25 23) (bit w 22) (BitVec.ofNat 22 w))
/-- Fields of major opcode 0x0D (02 R57). -/
def read0D (w : Nat) (_ : List Word) : Option Instr := some (.meet (fld w 25 23) (bit w 22) (BitVec.ofNat 22 w))
/-- Fields of major opcode 0x0E (02 R57). -/
def read0E (w : Nat) (xs : List Word) : Option Instr :=
  if w % 16 = 0 then some (.ret (fld w 6 4)) else
  if w % 16 = 1 then some (.exit (fld w 6 4)) else
  if w % 16 = 2 then some (.yield (fld w 6 4)) else
  if w % 16 = 3 then some (.brx (fld w 19 14) (fld w 6 4)) else
  if w % 16 = 4 then some (.callx (fld w 19 14) (fld w 6 4)) else
  if w % 16 = 5 then some (.mrget (fld w 25 20) (fld w 6 4)) else
  if w % 16 = 6 then some (.mrset (fld w 19 14) (fld w 6 4)) else
  if w % 16 = 7 then some (.nop) else
  if w % 16 = 8 then some (.csign (fld w 25 20)) else
  if w % 16 = 9 then some (.trap (fld w 13 8) (fld w 6 4)) else
  if w % 16 = 10 then (if fld w 25 20 = 0 then some .tret else if fld w 25 20 = 1 then some .tretSkip else none) else
  if w % 16 = 11 then some (.wreq (fld w 25 20) (ssrc (fld w 19 14) xs)) else
  if w % 16 = 12 then some (.rdsp (fld w 25 20) (bit w 7) (fld w 13 8) (fld w 6 4)) else
  if w % 16 = 13 then some (.wrsp (fld w 13 8) (vsrc (bit w 7) (fld w 19 14) xs) (fld w 6 4)) else
  none
/-- Fields of major opcode 0x0F (02 R57). -/
def read0F (w : Nat) (xs : List Word) : Option Instr :=
  if w % 16 = 0 then some (.fadd (fld w 25 20) (fld w 19 14) (vsrc (bit w 7) (fld w 13 8) xs) (fld w 6 4)) else
  if w % 16 = 1 then some (.fsub (fld w 25 20) (fld w 19 14) (vsrc (bit w 7) (fld w 13 8) xs) (fld w 6 4)) else
  if w % 16 = 2 then some (.fmul (fld w 25 20) (fld w 19 14) (vsrc (bit w 7) (fld w 13 8) xs) (fld w 6 4)) else
  if w % 16 = 3 then some (.ffma (fld w 25 20) (fld w 19 14) (vsrc (bit w 7) (fld w 13 8) xs) (fld w 6 4)) else
  if w % 16 = 4 then some (.ffms (fld w 25 20) (fld w 19 14) (vsrc (bit w 7) (fld w 13 8) xs) (fld w 6 4)) else
  if w % 16 = 5 then some (.fmin (fld w 25 20) (fld w 19 14) (vsrc (bit w 7) (fld w 13 8) xs) (fld w 6 4)) else
  if w % 16 = 6 then some (.fmax (fld w 25 20) (fld w 19 14) (vsrc (bit w 7) (fld w 13 8) xs) (fld w 6 4)) else
  if w % 16 = 7 then some (.fminnm (fld w 25 20) (fld w 19 14) (vsrc (bit w 7) (fld w 13 8) xs) (fld w 6 4)) else
  if w % 16 = 8 then some (.fmaxnm (fld w 25 20) (fld w 19 14) (vsrc (bit w 7) (fld w 13 8) xs) (fld w 6 4)) else
  if w % 16 = 9 then some (.fabs (fld w 25 20) (fld w 19 14) (fld w 6 4)) else
  if w % 16 = 10 then some (.fneg (fld w 25 20) (fld w 19 14) (fld w 6 4)) else
  if w % 16 = 11 then some (.fcpsgn (fld w 25 20) (fld w 19 14) (vsrc (bit w 7) (fld w 13 8) xs) (fld w 6 4)) else
  if w % 16 = 12 then some (.frndn (fld w 25 20) (fld w 19 14) (fld w 6 4)) else
  if w % 16 = 13 then some (.frndz (fld w 25 20) (fld w 19 14) (fld w 6 4)) else
  if w % 16 = 14 then some (.frndd (fld w 25 20) (fld w 19 14) (fld w 6 4)) else
  if w % 16 = 15 then some (.frndu (fld w 25 20) (fld w 19 14) (fld w 6 4)) else
  none
/-- Fields of major opcode 0x10 (02 R57). -/
def read10 (w : Nat) (xs : List Word) : Option Instr :=
  if w % 16 = 0 then some (.hadd (fld w 25 20) (fld w 19 14) (vsrc (bit w 7) (fld w 13 8) xs) (fld w 6 4)) else
  if w % 16 = 1 then some (.hsub (fld w 25 20) (fld w 19 14) (vsrc (bit w 7) (fld w 13 8) xs) (fld w 6 4)) else
  if w % 16 = 2 then some (.hmul (fld w 25 20) (fld w 19 14) (vsrc (bit w 7) (fld w 13 8) xs) (fld w 6 4)) else
  if w % 16 = 3 then some (.hfma (fld w 25 20) (fld w 19 14) (vsrc (bit w 7) (fld w 13 8) xs) (fld w 6 4)) else
  if w % 16 = 4 then some (.hmin (fld w 25 20) (fld w 19 14) (vsrc (bit w 7) (fld w 13 8) xs) (fld w 6 4)) else
  if w % 16 = 5 then some (.hmax (fld w 25 20) (fld w 19 14) (vsrc (bit w 7) (fld w 13 8) xs) (fld w 6 4)) else
  if w % 16 = 6 then some (.habs (fld w 25 20) (fld w 19 14) (fld w 6 4)) else
  if w % 16 = 7 then some (.hneg (fld w 25 20) (fld w 19 14) (fld w 6 4)) else
  none
/-- Fields of major opcode 0x11 (02 R57). -/
def read11 (w : Nat) (xs : List Word) : Option Instr :=
  if w % 16 = 0 then some (.badd (fld w 25 20) (fld w 19 14) (vsrc (bit w 7) (fld w 13 8) xs) (fld w 6 4)) else
  if w % 16 = 1 then some (.bsub (fld w 25 20) (fld w 19 14) (vsrc (bit w 7) (fld w 13 8) xs) (fld w 6 4)) else
  if w % 16 = 2 then some (.bmul (fld w 25 20) (fld w 19 14) (vsrc (bit w 7) (fld w 13 8) xs) (fld w 6 4)) else
  if w % 16 = 3 then some (.bfma (fld w 25 20) (fld w 19 14) (vsrc (bit w 7) (fld w 13 8) xs) (fld w 6 4)) else
  if w % 16 = 4 then some (.bmin (fld w 25 20) (fld w 19 14) (vsrc (bit w 7) (fld w 13 8) xs) (fld w 6 4)) else
  if w % 16 = 5 then some (.bmax (fld w 25 20) (fld w 19 14) (vsrc (bit w 7) (fld w 13 8) xs) (fld w 6 4)) else
  if w % 16 = 6 then some (.babs (fld w 25 20) (fld w 19 14) (fld w 6 4)) else
  if w % 16 = 7 then some (.bneg (fld w 25 20) (fld w 19 14) (fld w 6 4)) else
  none
/-- Fields of major opcode 0x12 (02 R57). -/
def read12 (w : Nat) (xs : List Word) : Option Instr :=
  if w % 16 = 0 then some (.faddRd (fld w 25 20) (fld w 19 14) (vsrc (bit w 7) (fld w 13 8) xs) (fld w 6 4)) else
  if w % 16 = 1 then some (.faddRu (fld w 25 20) (fld w 19 14) (vsrc (bit w 7) (fld w 13 8) xs) (fld w 6 4)) else
  if w % 16 = 2 then some (.fsubRd (fld w 25 20) (fld w 19 14) (vsrc (bit w 7) (fld w 13 8) xs) (fld w 6 4)) else
  if w % 16 = 3 then some (.fsubRu (fld w 25 20) (fld w 19 14) (vsrc (bit w 7) (fld w 13 8) xs) (fld w 6 4)) else
  if w % 16 = 4 then some (.fmulRd (fld w 25 20) (fld w 19 14) (vsrc (bit w 7) (fld w 13 8) xs) (fld w 6 4)) else
  if w % 16 = 5 then some (.fmulRu (fld w 25 20) (fld w 19 14) (vsrc (bit w 7) (fld w 13 8) xs) (fld w 6 4)) else
  if w % 16 = 6 then some (.ffmaRd (fld w 25 20) (fld w 19 14) (vsrc (bit w 7) (fld w 13 8) xs) (fld w 6 4)) else
  if w % 16 = 7 then some (.ffmaRu (fld w 25 20) (fld w 19 14) (vsrc (bit w 7) (fld w 13 8) xs) (fld w 6 4)) else
  if w % 16 = 8 then some (.fsqrtRd (fld w 25 20) (fld w 19 14) (fld w 6 4)) else
  if w % 16 = 9 then some (.fsqrtRu (fld w 25 20) (fld w 19 14) (fld w 6 4)) else
  if w % 16 = 10 then some (.fdivRd (fld w 25 20) (fld w 19 14) (vsrc (bit w 7) (fld w 13 8) xs) (fld w 6 4)) else
  if w % 16 = 11 then some (.fdivRu (fld w 25 20) (fld w 19 14) (vsrc (bit w 7) (fld w 13 8) xs) (fld w 6 4)) else
  none
/-- Fields of major opcode 0x13 (02 R57). -/
def read13 (w : Nat) (xs : List Word) : Option Instr :=
  if w % 16 = 0 then some (.feq (fld w 25 20) (fld w 19 14) (vsrc (bit w 7) (fld w 13 8) xs) (fld w 6 4)) else
  if w % 16 = 1 then some (.fne (fld w 25 20) (fld w 19 14) (vsrc (bit w 7) (fld w 13 8) xs) (fld w 6 4)) else
  if w % 16 = 2 then some (.flt (fld w 25 20) (fld w 19 14) (vsrc (bit w 7) (fld w 13 8) xs) (fld w 6 4)) else
  if w % 16 = 3 then some (.fle (fld w 25 20) (fld w 19 14) (vsrc (bit w 7) (fld w 13 8) xs) (fld w 6 4)) else
  if w % 16 = 4 then some (.fgt (fld w 25 20) (fld w 19 14) (vsrc (bit w 7) (fld w 13 8) xs) (fld w 6 4)) else
  if w % 16 = 5 then some (.fge (fld w 25 20) (fld w 19 14) (vsrc (bit w 7) (fld w 13 8) xs) (fld w 6 4)) else
  if w % 16 = 6 then some (.funord (fld w 25 20) (fld w 19 14) (vsrc (bit w 7) (fld w 13 8) xs) (fld w 6 4)) else
  if w % 16 = 7 then some (.ford (fld w 25 20) (fld w 19 14) (vsrc (bit w 7) (fld w 13 8) xs) (fld w 6 4)) else
  none
/-- Fields of major opcode 0x14 (02 R57). -/
def read14 (w : Nat) (xs : List Word) : Option Instr :=
  if w % 16 = 0 then some (.frcp (fld w 25 20) (fld w 19 14) (fld w 6 4)) else
  if w % 16 = 1 then some (.frsq (fld w 25 20) (fld w 19 14) (fld w 6 4)) else
  if w % 16 = 2 then some (.fsqrt (fld w 25 20) (fld w 19 14) (fld w 6 4)) else
  if w % 16 = 3 then some (.fdiv (fld w 25 20) (fld w 19 14) (vsrc (bit w 7) (fld w 13 8) xs) (fld w 6 4)) else
  if w % 16 = 4 then some (.fexp2 (fld w 25 20) (fld w 19 14) (fld w 6 4)) else
  if w % 16 = 5 then some (.flog2 (fld w 25 20) (fld w 19 14) (fld w 6 4)) else
  if w % 16 = 6 then some (.fsinpi (fld w 25 20) (fld w 19 14) (fld w 6 4)) else
  if w % 16 = 7 then some (.fcospi (fld w 25 20) (fld w 19 14) (fld w 6 4)) else
  if w % 16 = 8 then some (.ftanh (fld w 25 20) (fld w 19 14) (fld w 6 4)) else
  if w % 16 = 9 then some (.fsigm (fld w 25 20) (fld w 19 14) (fld w 6 4)) else
  none
/-- Fields of major opcode 0x15 (02 R57). -/
def read15 (w : Nat) (xs : List Word) : Option Instr :=
  if w % 16 = 0 then some (.cvtI32F32 (fld w 25 20) (fld w 19 14) (fld w 6 4)) else
  if w % 16 = 1 then some (.cvtN32F32 (fld w 25 20) (fld w 19 14) (fld w 6 4)) else
  if w % 16 = 2 then some (.cvtF32I32 (fld w 25 20) (fld w 19 14) (fld w 6 4)) else
  if w % 16 = 3 then some (.cvtF32N32 (fld w 25 20) (fld w 19 14) (fld w 6 4)) else
  if w % 16 = 4 then some (.cvtF16F32 (fld w 25 20) (fld w 19 14) (fld w 6 4)) else
  if w % 16 = 5 then some (.cvtF32F16 (fld w 25 20) (fld w 19 14) (fld w 6 4)) else
  if w % 16 = 6 then some (.cvtBf16F32 (fld w 25 20) (fld w 19 14) (fld w 6 4)) else
  if w % 16 = 7 then some (.cvtF32Bf16 (fld w 25 20) (fld w 19 14) (fld w 6 4)) else
  if w % 16 = 8 then some (.cvtE4m3F32 (fld w 25 20) (fld w 19 14) (fld w 6 4)) else
  if w % 16 = 9 then some (.cvtF32E4m3 (fld w 25 20) (fld w 19 14) (fld w 6 4)) else
  if w % 16 = 10 then some (.cvtE5m2F32 (fld w 25 20) (fld w 19 14) (fld w 6 4)) else
  if w % 16 = 11 then some (.cvtF32E5m2 (fld w 25 20) (fld w 19 14) (fld w 6 4)) else
  if w % 16 = 12 then some (.cvtE2m1F32 (fld w 25 20) (fld w 19 14) (fld w 6 4)) else
  if w % 16 = 13 then some (.cvtF32E2m1 (fld w 25 20) (fld w 19 14) (fld w 6 4)) else
  if w % 16 = 14 then some (.pk2Bf16 (fld w 25 20) (fld w 19 14) (vsrc (bit w 7) (fld w 13 8) xs) (fld w 6 4)) else
  if w % 16 = 15 then some (.pk2F16 (fld w 25 20) (fld w 19 14) (vsrc (bit w 7) (fld w 13 8) xs) (fld w 6 4)) else
  none
/-- Fields of major opcode 0x16 (02 R57). -/
def read16 (w : Nat) (xs : List Word) : Option Instr :=
  if w % 16 = 0 then some (.shfl (fld w 25 20) (fld w 19 14) (vsrc (bit w 7) (fld w 13 8) xs) (fld w 6 4)) else
  if w % 16 = 1 then some (.shflup (fld w 25 20) (fld w 19 14) (vsrc (bit w 7) (fld w 13 8) xs) (fld w 6 4)) else
  if w % 16 = 2 then some (.shfldn (fld w 25 20) (fld w 19 14) (vsrc (bit w 7) (fld w 13 8) xs) (fld w 6 4)) else
  if w % 16 = 3 then some (.shflx (fld w 25 20) (fld w 19 14) (vsrc (bit w 7) (fld w 13 8) xs) (fld w 6 4)) else
  if w % 16 = 4 then some (.bcast (fld w 25 20) (fld w 19 14) (ssrc (fld w 13 8) xs) (fld w 6 4)) else
  if w % 16 = 5 then some (.vany (fld w 25 20) (fld w 19 14) (fld w 6 4)) else
  if w % 16 = 6 then some (.vall (fld w 25 20) (fld w 19 14) (fld w 6 4)) else
  if w % 16 = 7 then some (.ballot (fld w 25 20) (fld w 19 14) (fld w 6 4)) else
  if w % 16 = 8 then some (.vpfxc (fld w 25 20) (fld w 19 14) (fld w 6 4)) else
  if w % 16 = 9 then some (.vcomp (fld w 25 20) (fld w 19 14) (fld w 13 8) (fld w 6 4)) else
  if w % 16 = 10 then some (.vexpd (fld w 25 20) (fld w 19 14) (fld w 13 8) (fld w 6 4)) else
  if w % 16 = 11 then some (.vmrank (fld w 25 20) (fld w 19 14) (fld w 6 4)) else
  if w % 16 = 12 then some (.vmcnt (fld w 25 20) (fld w 19 14) (fld w 6 4)) else
  if w % 16 = 13 then some (.vmlead (fld w 25 20) (fld w 19 14) (fld w 6 4)) else
  if w % 16 = 14 then some (.vtopk (fld w 25 20) (fld w 19 14) (ssrc (fld w 13 8) xs) (fld w 6 4)) else
  if w % 16 = 15 then some (.vtopka (fld w 25 20) (fld w 19 14) (ssrc (fld w 13 8) xs) (fld w 6 4)) else
  none
/-- Fields of major opcode 0x17 (02 R57). -/
def read17 (w : Nat) (_ : List Word) : Option Instr :=
  if w % 16 = 0 then some (.raddI32 (fld w 25 20) (fld w 19 14) (fld w 6 4)) else
  if w % 16 = 1 then some (.rminI32 (fld w 25 20) (fld w 19 14) (fld w 6 4)) else
  if w % 16 = 2 then some (.rmaxI32 (fld w 25 20) (fld w 19 14) (fld w 6 4)) else
  if w % 16 = 3 then some (.rand (fld w 25 20) (fld w 19 14) (fld w 6 4)) else
  if w % 16 = 4 then some (.ror (fld w 25 20) (fld w 19 14) (fld w 6 4)) else
  if w % 16 = 5 then some (.rxor (fld w 25 20) (fld w 19 14) (fld w 6 4)) else
  if w % 16 = 6 then some (.raddF32 (fld w 25 20) (fld w 19 14) (fld w 6 4)) else
  if w % 16 = 7 then some (.raddF32Any (fld w 25 20) (fld w 19 14) (fld w 6 4)) else
  if w % 16 = 8 then some (.rminF32 (fld w 25 20) (fld w 19 14) (fld w 6 4)) else
  if w % 16 = 9 then some (.rmaxF32 (fld w 25 20) (fld w 19 14) (fld w 6 4)) else
  if w % 16 = 10 then some (.scanI32 (fld w 25 20) (fld w 19 14) (fld w 6 4)) else
  if w % 16 = 11 then some (.scanF32 (fld w 25 20) (fld w 19 14) (fld w 6 4)) else
  if w % 16 = 12 then some (.xscanI32 (fld w 25 20) (fld w 19 14) (fld w 6 4)) else
  none
/-- Fields of major opcode 0x18 (02 R57). -/
def read18 (w : Nat) (xs : List Word) : Option Instr :=
  if w % 16 = 0 then some (.rgput (ssrc (fld w 19 14) xs) (fld w 6 4)) else
  if w % 16 = 1 then some (.rgflush (fld w 6 4)) else
  if w % 16 = 2 then some (.rgqry (fld w 25 20) (fld w 6 4)) else
  none
/-- Fields of major opcode 0x19 (02 R57). -/
def read19 (w : Nat) (xs : List Word) : Option Instr := some (.ldg (fld w 25 20) (fld w 19 14) (bit w 13) (fld w 12 10) (fld w 9 7) (fld w 6 4) (fld w 3 1) (offOf (bit w 0) xs))
/-- Fields of major opcode 0x1A (02 R57). -/
def read1A (w : Nat) (xs : List Word) : Option Instr := some (.stg (fld w 25 20) (fld w 19 14) (bit w 13) (fld w 12 10) (fld w 9 7) (fld w 6 4) (fld w 3 1) (offOf (bit w 0) xs))
/-- Fields of major opcode 0x1B (02 R57). -/
def read1B (w : Nat) (xs : List Word) : Option Instr := some (.lds (fld w 25 20) (fld w 19 14) (bit w 13) (fld w 12 10) (fld w 9 7) (fld w 6 4) (fld w 3 1) (offOf (bit w 0) xs))
/-- Fields of major opcode 0x1C (02 R57). -/
def read1C (w : Nat) (xs : List Word) : Option Instr := some (.sts (fld w 25 20) (fld w 19 14) (bit w 13) (fld w 12 10) (fld w 9 7) (fld w 6 4) (fld w 3 1) (offOf (bit w 0) xs))
/-- Fields of major opcode 0x1D (02 R57). -/
def read1D (w : Nat) (xs : List Word) : Option Instr := some (.ldc (fld w 25 20) (fld w 19 14) (bit w 13) (fld w 12 10) (fld w 9 7) (fld w 6 4) (fld w 3 1) (offOf (bit w 0) xs))
/-- Fields of major opcode 0x1E (02 R57). -/
def read1E (w : Nat) (xs : List Word) : Option Instr := some (.stc (fld w 25 20) (fld w 19 14) (bit w 13) (fld w 12 10) (fld w 9 7) (fld w 6 4) (fld w 3 1) (offOf (bit w 0) xs))
/-- Fields of major opcode 0x1F (02 R57). -/
def read1F (w : Nat) (xs : List Word) : Option Instr := some (.ldx (fld w 25 20) (fld w 19 14) (bit w 13) (fld w 12 10) (fld w 9 7) (fld w 6 4) (fld w 3 1) (offOf (bit w 0) xs))
/-- Fields of major opcode 0x20 (02 R57). -/
def read20 (w : Nat) (xs : List Word) : Option Instr := some (.stx (fld w 25 20) (fld w 19 14) (bit w 13) (fld w 12 10) (fld w 9 7) (fld w 6 4) (fld w 3 1) (offOf (bit w 0) xs))
/-- Fields of major opcode 0x21 (02 R57). -/
def read21 (w : Nat) (xs : List Word) : Option Instr := some (.ldp (fld w 25 20) (fld w 19 14) (bit w 13) (fld w 12 10) (fld w 9 7) (fld w 6 4) (fld w 3 1) (offOf (bit w 0) xs))
/-- Fields of major opcode 0x22 (02 R57). -/
def read22 (w : Nat) (xs : List Word) : Option Instr := some (.stp (fld w 25 20) (fld w 19 14) (bit w 13) (fld w 12 10) (fld w 9 7) (fld w 6 4) (fld w 3 1) (offOf (bit w 0) xs))
/-- Fields of major opcode 0x23 (02 R57). -/
def read23 (w : Nat) (xs : List Word) : Option Instr := some (.atg (fld w 25 20) (fld w 19 14) (bit w 13) (fld w 12 9) (bit w 8) (fld w 7 6) (fld w 5 3) (bit w 2) (offOf (bit w 0) xs))
/-- Fields of major opcode 0x24 (02 R57). -/
def read24 (w : Nat) (xs : List Word) : Option Instr := some (.ats (fld w 25 20) (fld w 19 14) (bit w 13) (fld w 12 9) (bit w 8) (fld w 7 6) (fld w 5 3) (bit w 2) (offOf (bit w 0) xs))
/-- Fields of major opcode 0x25 (02 R57). -/
def read25 (w : Nat) (xs : List Word) : Option Instr := some (.atc (fld w 25 20) (fld w 19 14) (bit w 13) (fld w 12 9) (bit w 8) (fld w 7 6) (fld w 5 3) (bit w 2) (offOf (bit w 0) xs))
/-- Fields of major opcode 0x26 (02 R57). -/
def read26 (w : Nat) (xs : List Word) : Option Instr := some (.atx (fld w 25 20) (fld w 19 14) (bit w 13) (fld w 12 9) (bit w 8) (fld w 7 6) (fld w 5 3) (bit w 2) (offOf (bit w 0) xs))
/-- Fields of major opcode 0x27 (02 R57). -/
def read27 (w : Nat) (_ : List Word) : Option Instr :=
  if w % 16 = 0 then some (.fenceAcq (fld w 13 8)) else
  if w % 16 = 1 then some (.fenceRel (fld w 13 8)) else
  if w % 16 = 2 then some (.fenceAr (fld w 13 8)) else
  if w % 16 = 3 then some (.fenceSc (fld w 13 8)) else
  if w % 16 = 4 then some (.ackwait) else
  none
/-- Fields of major opcode 0x28 (02 R57). -/
noncomputable def read28 (w : Nat) (_ : List Word) : Option Instr :=
  if fld w 25 22 = 0 then some (.pf (fld w 15 10)) else
  if fld w 25 22 = 1 then some (.pf2 (fld w 15 10)) else
  if fld w 25 22 = 2 then some (.wbr (fld w 15 10) (fld w 9 4) (bit w 0)) else
  if fld w 25 22 = 3 then some (.invr (fld w 15 10) (fld w 9 4) (bit w 1) (bit w 0)) else
  if fld w 25 22 = 4 then some (.icpf (fld w 15 10)) else
  if fld w 25 22 = 5 then some (.bpf (fld w 15 10)) else
  none
/-- Fields of major opcode 0x29 (02 R57). -/
noncomputable def read29 (w : Nat) (_ : List Word) : Option Instr :=
  if fld w 25 22 = 0 then some (.cpg2s (fld w 21 16) (fld w 15 10) (fld w 9 4)) else
  if fld w 25 22 = 1 then some (.cps2g (fld w 21 16) (fld w 15 10) (fld w 9 4)) else
  if fld w 25 22 = 2 then some (.cps2s (fld w 21 16) (fld w 15 10) (fld w 9 4)) else
  if fld w 25 22 = 3 then some (.cps2c (fld w 21 16) (fld w 15 10) (fld w 9 4)) else
  if fld w 25 22 = 4 then some (.cpc2s (fld w 21 16) (fld w 15 10) (fld w 9 4)) else
  if fld w 25 22 = 5 then some (.tld (fld w 21 16) (fld w 15 10) (fld w 9 4)) else
  if fld w 25 22 = 6 then some (.tst (fld w 21 16) (fld w 15 10) (fld w 9 4)) else
  if fld w 25 22 = 7 then some (.tslot (fld w 21 16) (fld w 15 10) (fld w 9 4) (bit w 0)) else
  if fld w 25 22 = 8 then some (.cpclose) else
  if fld w 25 22 = 9 then some (.waitc (fld w 15 10) (w % 16)) else
  if fld w 25 22 = 10 then some (.cpring (fld w 15 10)) else
  none
/-- Fields of major opcode 0x2A (02 R57). -/
noncomputable def read2A (w : Nat) (xs : List Word) : Option Instr :=
  if fld w 25 22 = 0 then some (.mma (fld w 21 18) (fld w 17 14) (fld w 13 10) (fld w 9 7) (fld w 6 4)) else
  if fld w 25 22 = 1 then some (.mmaz (fld w 21 18) (fld w 17 14) (fld w 13 10) (fld w 9 7) (fld w 6 4)) else
  if fld w 25 22 = 2 then some (.accz (fld w 21 18) (fld w 6 4)) else
  if fld w 25 22 = 3 then some (.accst (fld w 21 18) (fld w 2 1) (bit w 0) (fld w 6 4) (extA xs) (extB xs) (extImm xs)) else
  if fld w 25 22 = 4 then some (.accld (fld w 21 18) (fld w 6 4) (extA xs) (extB xs) (extImm xs)) else
  if fld w 25 22 = 5 then some (.accrd (fld w 21 18) (fld w 17 12) (fld w 6 4) (extA xs) (extImm xs)) else
  if fld w 25 22 = 6 then some (.accwr (fld w 21 18) (fld w 17 12) (fld w 6 4) (extA xs) (extImm xs)) else
  if fld w 25 22 = 7 then some (.oclaim (fld w 17 14) (fld w 6 4)) else
  if fld w 25 22 = 8 then some (.orel (fld w 17 14) (fld w 6 4)) else
  if fld w 25 22 = 9 then (if w % 16 = 8 then some (.oloadData (fld w 17 14) (fld w 6 4) (extA xs) (extB xs) (extImm xs)) else if w % 16 = 10 then some (.oloadSide (fld w 17 14) (fld w 6 4) (extA xs) (extB xs) (extImm xs)) else if w % 16 = 12 then some (.oloadBand (fld w 17 14) (fld w 6 4) (extA xs) (extImm xs)) else none) else
  if fld w 25 22 = 10 then (if w % 16 = 8 then some (.accsclF32 (fld w 21 18) (fld w 6 4) (extA xs)) else if w % 16 = 9 then some (.accsclI2f (fld w 21 18) (fld w 6 4) (extA xs)) else if w % 16 = 10 then some (.accsclF2i (fld w 21 18) (fld w 6 4) (extA xs)) else none) else
  none
/-- Fields of major opcode 0x2B (02 R57). -/
noncomputable def read2B (w : Nat) (_ : List Word) : Option Instr :=
  if fld w 25 22 = 0 then some (.qpush (fld w 9 4) (fld w 15 10) (fld w 3 1)) else
  if fld w 25 22 = 1 then some (.qpop (fld w 9 4) (fld w 15 10) (fld w 3 1)) else
  if fld w 25 22 = 2 then some (.qpushn (fld w 21 16) (fld w 9 4) (fld w 15 10) (fld w 3 1)) else
  if fld w 25 22 = 3 then some (.qpopn (fld w 21 16) (fld w 9 4) (fld w 15 10) (fld w 3 1)) else
  if fld w 25 22 = 4 then some (.qallow (fld w 9 4) (fld w 15 10) (fld w 3 1)) else
  if fld w 25 22 = 5 then some (.qlen (fld w 21 16) (fld w 9 4) (fld w 3 1)) else
  if fld w 25 22 = 6 then some (.chsend (fld w 9 4) (fld w 15 10) (fld w 3 1)) else
  if fld w 25 22 = 7 then some (.chrecv (fld w 9 4) (fld w 15 10) (fld w 3 1)) else
  if fld w 25 22 = 8 then some (.chsendn (fld w 21 16) (fld w 9 4) (fld w 15 10) (fld w 3 1)) else
  if fld w 25 22 = 9 then some (.chrecvn (fld w 21 16) (fld w 9 4) (fld w 15 10) (fld w 3 1)) else
  if fld w 25 22 = 10 then some (.renq (fld w 21 16) (fld w 15 10) (fld w 3 1)) else
  if fld w 25 22 = 11 then some (.rdeq (fld w 21 16) (fld w 15 10) (fld w 3 1)) else
  if fld w 25 22 = 12 then some (.rawait (fld w 21 16) (fld w 15 10) (fld w 3 1)) else
  if fld w 25 22 = 13 then some (.rrel (fld w 15 10) (fld w 3 1)) else
  none
/-- Fields of major opcode 0x2C (02 R57). -/
noncomputable def read2C (w : Nat) (_ : List Word) : Option Instr :=
  if fld w 25 22 = 0 then some (.barinit (fld w 9 4) (fld w 15 10) (fld w 3 1)) else
  if fld w 25 22 = 1 then some (.bararr (fld w 21 16) (fld w 9 4) (fld w 3 1)) else
  if fld w 25 22 = 2 then some (.barwait (fld w 9 4) (fld w 15 10) (fld w 3 1)) else
  if fld w 25 22 = 3 then some (.barsync (fld w 9 4) (fld w 3 1)) else
  if fld w 25 22 = 4 then some (.jinc (fld w 15 10) (fld w 3 1)) else
  if fld w 25 22 = 5 then some (.spawn (fld w 21 16) (fld w 15 10) (fld w 3 1)) else
  if fld w 25 22 = 6 then some (.spawnw (fld w 21 16) (fld w 15 10) (fld w 3 1)) else
  if fld w 25 22 = 7 then some (.doneCrew (fld w 15 10) (fld w 3 1)) else
  if fld w 25 22 = 8 then some (.cancel (fld w 15 10) (fld w 3 1)) else
  if fld w 25 22 = 9 then some (.wflag (fld w 9 4) (fld w 3 1)) else
  none
/-- Fields of major opcode 0x2D (02 R57). -/
noncomputable def read2D (w : Nat) (_ : List Word) : Option Instr :=
  if fld w 25 22 = 0 then some (.tbpub (fld w 11 10 * 64 + fld w 9 4) (fld w 3 1)) else
  if fld w 25 22 = 1 then some (.tbrel (fld w 11 10 * 64 + fld w 9 4) (fld w 3 1)) else
  if fld w 25 22 = 2 then some (.tbstat (fld w 21 16) (fld w 11 10 * 64 + fld w 9 4) (fld w 3 1)) else
  if fld w 25 22 = 3 then some (.spchk (fld w 21 16) (fld w 3 1)) else
  if fld w 25 22 = 4 then some (.spbar (fld w 3 1)) else
  none
/-- Fields of major opcode 0x2E (02 R57). -/
noncomputable def read2E (w : Nat) (_ : List Word) : Option Instr :=
  if fld w 25 22 = 0 then some (.march (fld w 21 16) (fld w 15 10) (fld w 9 4) (bit w 2) (w % 4)) else
  if fld w 25 22 = 1 then some (.marchr (fld w 21 16) (fld w 15 10)) else
  if fld w 25 22 = 2 then some (.fprep (fld w 21 16) (fld w 15 10) (fld w 9 4)) else
  if fld w 25 22 = 3 then some (.bfetch (fld w 21 16) (fld w 15 10) (fld w 9 4)) else
  if fld w 25 22 = 4 then some (.trace (fld w 21 16) (fld w 15 10) (fld w 9 4)) else
  if fld w 25 22 = 5 then some (.tracer (fld w 21 16) (fld w 15 10)) else
  if fld w 25 22 = 6 then some (.tex (fld w 21 16) (fld w 15 10) (fld w 9 4)) else
  if fld w 25 22 = 7 then some (.texq (fld w 21 16) (fld w 15 10) (fld w 9 4)) else
  none
/-- Fields of major opcode 0x2F (02 R57). -/
noncomputable def read2F (w : Nat) (_ : List Word) : Option Instr :=
  if fld w 25 22 = 0 then some (.cred (fld w 21 16) (fld w 15 10) (fld w 9 4) (w % 4) (bit w 2)) else
  if fld w 25 22 = 1 then some (.cgat (fld w 21 16) (fld w 15 10) (fld w 9 4)) else
  if fld w 25 22 = 2 then some (.crsc (fld w 21 16) (fld w 15 10) (fld w 9 4) (w % 4) (bit w 2)) else
  if fld w 25 22 = 3 then some (.ca2a (fld w 21 16) (fld w 15 10) (fld w 9 4)) else
  if fld w 25 22 = 4 then some (.csend (fld w 15 10) (fld w 9 4)) else
  if fld w 25 22 = 5 then some (.crecv (fld w 21 16) (fld w 9 4)) else
  if fld w 25 22 = 6 then some (.cwait (fld w 9 4)) else
  none
/-- Fields of major opcode 0x30 (02 R57). -/
noncomputable def read30 (w : Nat) (_ : List Word) : Option Instr :=
  if w % 16 = 0 then some (.dadd (fld w 25 20) (fld w 19 14) (fld w 13 8) (fld w 6 4)) else
  if w % 16 = 1 then some (.dsub (fld w 25 20) (fld w 19 14) (fld w 13 8) (fld w 6 4)) else
  if w % 16 = 2 then some (.dmul (fld w 25 20) (fld w 19 14) (fld w 13 8) (fld w 6 4)) else
  if w % 16 = 3 then some (.dfma (fld w 25 20) (fld w 19 14) (fld w 13 8) (fld w 6 4)) else
  if w % 16 = 4 then some (.ddiv (fld w 25 20) (fld w 19 14) (fld w 13 8) (fld w 6 4)) else
  if w % 16 = 5 then some (.dsqrt (fld w 25 20) (fld w 19 14) (fld w 6 4)) else
  if w % 16 = 6 then some (.cvtF64F32 (fld w 25 20) (fld w 19 14) (fld w 6 4)) else
  if w % 16 = 7 then some (.cvtF32F64 (fld w 25 20) (fld w 19 14) (fld w 6 4)) else
  none
/-- Fields of major opcode 0x3E (02 R57). -/
noncomputable def read3E (w : Nat) (_ : List Word) : Option Instr :=
  if w % 16 = 0 then some (.brk (fld w 13 8) (fld w 6 4)) else
  if w % 16 = 1 then some (.rdcnt (fld w 25 20) (fld w 13 8) (fld w 6 4)) else
  if w % 16 = 2 then some (.mark (fld w 13 8) (fld w 6 4)) else
  none
/-- Fields of major opcode 0x3F (02 R57). -/
noncomputable def read3F (w : Nat) (_ : List Word) : Option Instr :=
  if fld w 25 20 = 0 then some (.crd (fld w 19 14) (fld w 13 8) (w % 256)) else
  if fld w 25 20 = 1 then (if w % 256 = 1 then some (.freplyResume (fld w 19 14) (fld w 13 8)) else if w % 256 = 10 then some (.carve (fld w 19 14) (fld w 13 8)) else if w % 256 = 12 then some (.pjob (fld w 19 14) (fld w 13 8)) else some (.cwr (fld w 19 14) (fld w 13 8) (w % 256))) else
  if fld w 25 20 = 2 then (if w % 256 = 0 then some (.tlbinvPage (fld w 13 8)) else if w % 256 = 1 then some (.tlbinvAsid (fld w 13 8)) else if w % 256 = 2 then some (.tlbinvAll (fld w 13 8)) else none) else
  if fld w 25 20 = 3 then some (.slsync (fld w 19 14) (fld w 13 8)) else
  if fld w 25 20 = 4 then some (.halt (fld w 19 14) (fld w 13 8)) else
  none

/-- The candidate instruction of a first word and the words that follow it, by its major opcode (02 R57). -/
noncomputable def readFields (w : Nat) (xs : List Word) : Option Instr :=
  if w / 67108864 = 1 then read01 w xs else
  if w / 67108864 = 2 then read02 w xs else
  if w / 67108864 = 3 then read03 w xs else
  if w / 67108864 = 4 then read04 w xs else
  if w / 67108864 = 5 then read05 w xs else
  if w / 67108864 = 6 then read06 w xs else
  if w / 67108864 = 7 then read07 w xs else
  if w / 67108864 = 8 then read08 w xs else
  if w / 67108864 = 9 then read09 w xs else
  if w / 67108864 = 10 then read0A w xs else
  if w / 67108864 = 11 then read0B w xs else
  if w / 67108864 = 12 then read0C w xs else
  if w / 67108864 = 13 then read0D w xs else
  if w / 67108864 = 14 then read0E w xs else
  if w / 67108864 = 15 then read0F w xs else
  if w / 67108864 = 16 then read10 w xs else
  if w / 67108864 = 17 then read11 w xs else
  if w / 67108864 = 18 then read12 w xs else
  if w / 67108864 = 19 then read13 w xs else
  if w / 67108864 = 20 then read14 w xs else
  if w / 67108864 = 21 then read15 w xs else
  if w / 67108864 = 22 then read16 w xs else
  if w / 67108864 = 23 then read17 w xs else
  if w / 67108864 = 24 then read18 w xs else
  if w / 67108864 = 25 then read19 w xs else
  if w / 67108864 = 26 then read1A w xs else
  if w / 67108864 = 27 then read1B w xs else
  if w / 67108864 = 28 then read1C w xs else
  if w / 67108864 = 29 then read1D w xs else
  if w / 67108864 = 30 then read1E w xs else
  if w / 67108864 = 31 then read1F w xs else
  if w / 67108864 = 32 then read20 w xs else
  if w / 67108864 = 33 then read21 w xs else
  if w / 67108864 = 34 then read22 w xs else
  if w / 67108864 = 35 then read23 w xs else
  if w / 67108864 = 36 then read24 w xs else
  if w / 67108864 = 37 then read25 w xs else
  if w / 67108864 = 38 then read26 w xs else
  if w / 67108864 = 39 then read27 w xs else
  if w / 67108864 = 40 then read28 w xs else
  if w / 67108864 = 41 then read29 w xs else
  if w / 67108864 = 42 then read2A w xs else
  if w / 67108864 = 43 then read2B w xs else
  if w / 67108864 = 44 then read2C w xs else
  if w / 67108864 = 45 then read2D w xs else
  if w / 67108864 = 46 then read2E w xs else
  if w / 67108864 = 47 then read2F w xs else
  if w / 67108864 = 48 then read30 w xs else
  if w / 67108864 = 62 then read3E w xs else
  if w / 67108864 = 63 then read3F w xs else
  none

/-- The words of an instruction, first word first (02 R42, R45, R46); an event has none. -/
def encode : Instr → List Word
  | .sadd d a b g => asmA 1 d a.fld b.fld 1 g 0 :: (a.lits ++ b.lits)
  | .ssub d a b g => asmA 1 d a.fld b.fld 1 g 1 :: (a.lits ++ b.lits)
  | .smul d a b g => asmA 1 d a.fld b.fld 1 g 2 :: (a.lits ++ b.lits)
  | .smulh d a b g => asmA 1 d a.fld b.fld 1 g 3 :: (a.lits ++ b.lits)
  | .smulhn d a b g => asmA 1 d a.fld b.fld 1 g 4 :: (a.lits ++ b.lits)
  | .sand d a b g => asmA 1 d a.fld b.fld 1 g 5 :: (a.lits ++ b.lits)
  | .sor d a b g => asmA 1 d a.fld b.fld 1 g 6 :: (a.lits ++ b.lits)
  | .sxor d a b g => asmA 1 d a.fld b.fld 1 g 7 :: (a.lits ++ b.lits)
  | .sshl d a b g => asmA 1 d a.fld b.fld 1 g 8 :: (a.lits ++ b.lits)
  | .sshr d a b g => asmA 1 d a.fld b.fld 1 g 9 :: (a.lits ++ b.lits)
  | .ssra d a b g => asmA 1 d a.fld b.fld 1 g 10 :: (a.lits ++ b.lits)
  | .smin d a b g => asmA 1 d a.fld b.fld 1 g 11 :: (a.lits ++ b.lits)
  | .smax d a b g => asmA 1 d a.fld b.fld 1 g 12 :: (a.lits ++ b.lits)
  | .sminn d a b g => asmA 1 d a.fld b.fld 1 g 13 :: (a.lits ++ b.lits)
  | .smaxn d a b g => asmA 1 d a.fld b.fld 1 g 14 :: (a.lits ++ b.lits)
  | .smov d b g => asmA 1 d 0 b.fld 1 g 15 :: b.lits
  | .saddi d a imm => asmI 2 d a 0 imm.toNat :: []
  | .sandi d a imm => asmI 2 d a 1 imm.toNat :: []
  | .sori d a imm => asmI 2 d a 2 imm.toNat :: []
  | .sxori d a imm => asmI 2 d a 3 imm.toNat :: []
  | .sshli d a c => asmI 3 d a 0 c :: []
  | .sshri d a c => asmI 3 d a 1 c :: []
  | .ssrai d a c => asmI 3 d a 2 c :: []
  | .slui d imm => asmI 3 d 0 3 imm.toNat :: []
  | .scmpEq d a b g => asmA 4 d a.fld b.fld 1 g 0 :: (a.lits ++ b.lits)
  | .scmpNe d a b g => asmA 4 d a.fld b.fld 1 g 1 :: (a.lits ++ b.lits)
  | .scmpLt d a b g => asmA 4 d a.fld b.fld 1 g 2 :: (a.lits ++ b.lits)
  | .scmpLe d a b g => asmA 4 d a.fld b.fld 1 g 3 :: (a.lits ++ b.lits)
  | .scmpGt d a b g => asmA 4 d a.fld b.fld 1 g 4 :: (a.lits ++ b.lits)
  | .scmpGe d a b g => asmA 4 d a.fld b.fld 1 g 5 :: (a.lits ++ b.lits)
  | .scmpLtn d a b g => asmA 4 d a.fld b.fld 1 g 6 :: (a.lits ++ b.lits)
  | .scmpLen d a b g => asmA 4 d a.fld b.fld 1 g 7 :: (a.lits ++ b.lits)
  | .scmpGtn d a b g => asmA 4 d a.fld b.fld 1 g 8 :: (a.lits ++ b.lits)
  | .scmpGen d a b g => asmA 4 d a.fld b.fld 1 g 9 :: (a.lits ++ b.lits)
  | .vadd d a b g => asmA 5 d a b.fld b.sb g 0 :: b.lits
  | .vsub d a b g => asmA 5 d a b.fld b.sb g 1 :: b.lits
  | .vmul d a b g => asmA 5 d a b.fld b.sb g 2 :: b.lits
  | .vmulh d a b g => asmA 5 d a b.fld b.sb g 3 :: b.lits
  | .vmulhn d a b g => asmA 5 d a b.fld b.sb g 4 :: b.lits
  | .vand d a b g => asmA 5 d a b.fld b.sb g 5 :: b.lits
  | .vor d a b g => asmA 5 d a b.fld b.sb g 6 :: b.lits
  | .vxor d a b g => asmA 5 d a b.fld b.sb g 7 :: b.lits
  | .vshl d a b g => asmA 5 d a b.fld b.sb g 8 :: b.lits
  | .vshr d a b g => asmA 5 d a b.fld b.sb g 9 :: b.lits
  | .vsra d a b g => asmA 5 d a b.fld b.sb g 10 :: b.lits
  | .vmin d a b g => asmA 5 d a b.fld b.sb g 11 :: b.lits
  | .vmax d a b g => asmA 5 d a b.fld b.sb g 12 :: b.lits
  | .vminn d a b g => asmA 5 d a b.fld b.sb g 13 :: b.lits
  | .vmaxn d a b g => asmA 5 d a b.fld b.sb g 14 :: b.lits
  | .vmov d b g => asmA 5 d 0 b.fld b.sb g 15 :: b.lits
  | .vabs d a g => asmA 6 d a 0 0 g 0 :: []
  | .vneg d a g => asmA 6 d a 0 0 g 1 :: []
  | .vclz d a g => asmA 6 d a 0 0 g 2 :: []
  | .vpopc d a g => asmA 6 d a 0 0 g 3 :: []
  | .vbrev d a g => asmA 6 d a 0 0 g 4 :: []
  | .vaddsat d a b g => asmA 6 d a b.fld b.sb g 5 :: b.lits
  | .vsubsat d a b g => asmA 6 d a b.fld b.sb g 6 :: b.lits
  | .vmad d a b g => asmA 6 d a b.fld b.sb g 7 :: b.lits
  | .vsel d a b g => asmA 6 d a b.fld b.sb g 8 :: b.lits
  | .vsext8 d a g => asmA 6 d a 0 0 g 9 :: []
  | .vsext16 d a g => asmA 6 d a 0 0 g 10 :: []
  | .vzext8 d a g => asmA 6 d a 0 0 g 11 :: []
  | .vzext16 d a g => asmA 6 d a 0 0 g 12 :: []
  | .vbfe d a b g => asmA 6 d a b.fld b.sb g 13 :: b.lits
  | .vbfi d a b g => asmA 6 d a b.fld b.sb g 14 :: b.lits
  | .vdp4 d a b g => asmA 6 d a b.fld b.sb g 15 :: b.lits
  | .vaddi d a imm => asmI 7 d a 0 imm.toNat :: []
  | .vandi d a imm => asmI 7 d a 1 imm.toNat :: []
  | .vori d a imm => asmI 7 d a 2 imm.toNat :: []
  | .vxori d a imm => asmI 7 d a 3 imm.toNat :: []
  | .vshli d a c => asmI 8 d a 0 c :: []
  | .vshri d a c => asmI 8 d a 1 c :: []
  | .vsrai d a c => asmI 8 d a 2 c :: []
  | .vmovi d imm => asmI 8 d 0 3 imm.toNat :: []
  | .vcmpEq d a b g => asmA 9 d a b.fld b.sb g 0 :: b.lits
  | .vcmpNe d a b g => asmA 9 d a b.fld b.sb g 1 :: b.lits
  | .vcmpLt d a b g => asmA 9 d a b.fld b.sb g 2 :: b.lits
  | .vcmpLe d a b g => asmA 9 d a b.fld b.sb g 3 :: b.lits
  | .vcmpGt d a b g => asmA 9 d a b.fld b.sb g 4 :: b.lits
  | .vcmpGe d a b g => asmA 9 d a b.fld b.sb g 5 :: b.lits
  | .vcmpLtn d a b g => asmA 9 d a b.fld b.sb g 6 :: b.lits
  | .vcmpLen d a b g => asmA 9 d a b.fld b.sb g 7 :: b.lits
  | .vcmpGtn d a b g => asmA 9 d a b.fld b.sb g 8 :: b.lits
  | .vcmpGen d a b g => asmA 9 d a b.fld b.sb g 9 :: b.lits
  | .pand d a b g => asmA 10 d a b 0 g 0 :: []
  | .por d a b g => asmA 10 d a b 0 g 1 :: []
  | .pxor d a b g => asmA 10 d a b 0 g 2 :: []
  | .pandn d a b g => asmA 10 d a b 0 g 3 :: []
  | .pnot d a g => asmA 10 d a 0 0 g 4 :: []
  | .pmov d a g => asmA 10 d a 0 0 g 5 :: []
  | .br g n off => asmB 11 g n.toNat off.toNat :: []
  | .call g n off => asmB 12 g n.toNat off.toNat :: []
  | .meet g n off => asmB 13 g n.toNat off.toNat :: []
  | .ret g => asmA 14 0 0 0 0 g 0 :: []
  | .exit g => asmA 14 0 0 0 0 g 1 :: []
  | .yield g => asmA 14 0 0 0 0 g 2 :: []
  | .brx a g => asmA 14 0 a 0 0 g 3 :: []
  | .callx a g => asmA 14 0 a 0 0 g 4 :: []
  | .mrget d g => asmA 14 d 0 0 0 g 5 :: []
  | .mrset a g => asmA 14 0 a 0 0 g 6 :: []
  | .nop => asmA 14 0 0 0 0 7 7 :: []
  | .csign cv => asmA 14 cv 0 0 0 7 8 :: []
  | .trap n g => asmA 14 0 0 n 0 g 9 :: []
  | .tret => asmA 14 0 0 0 0 7 10 :: []
  | .tretSkip => asmA 14 1 0 0 0 7 10 :: []
  | .wreq d a => asmA 14 d a.fld 0 0 7 11 :: a.lits
  | .rdsp d sc x g => asmA 14 d 0 x sc.toNat g 12 :: []
  | .wrsp x a g => asmA 14 0 a.fld x a.sb g 13 :: a.lits
  | .fadd d a b g => asmA 15 d a b.fld b.sb g 0 :: b.lits
  | .fsub d a b g => asmA 15 d a b.fld b.sb g 1 :: b.lits
  | .fmul d a b g => asmA 15 d a b.fld b.sb g 2 :: b.lits
  | .ffma d a b g => asmA 15 d a b.fld b.sb g 3 :: b.lits
  | .ffms d a b g => asmA 15 d a b.fld b.sb g 4 :: b.lits
  | .fmin d a b g => asmA 15 d a b.fld b.sb g 5 :: b.lits
  | .fmax d a b g => asmA 15 d a b.fld b.sb g 6 :: b.lits
  | .fminnm d a b g => asmA 15 d a b.fld b.sb g 7 :: b.lits
  | .fmaxnm d a b g => asmA 15 d a b.fld b.sb g 8 :: b.lits
  | .fabs d a g => asmA 15 d a 0 0 g 9 :: []
  | .fneg d a g => asmA 15 d a 0 0 g 10 :: []
  | .fcpsgn d a b g => asmA 15 d a b.fld b.sb g 11 :: b.lits
  | .frndn d a g => asmA 15 d a 0 0 g 12 :: []
  | .frndz d a g => asmA 15 d a 0 0 g 13 :: []
  | .frndd d a g => asmA 15 d a 0 0 g 14 :: []
  | .frndu d a g => asmA 15 d a 0 0 g 15 :: []
  | .hadd d a b g => asmA 16 d a b.fld b.sb g 0 :: b.lits
  | .hsub d a b g => asmA 16 d a b.fld b.sb g 1 :: b.lits
  | .hmul d a b g => asmA 16 d a b.fld b.sb g 2 :: b.lits
  | .hfma d a b g => asmA 16 d a b.fld b.sb g 3 :: b.lits
  | .hmin d a b g => asmA 16 d a b.fld b.sb g 4 :: b.lits
  | .hmax d a b g => asmA 16 d a b.fld b.sb g 5 :: b.lits
  | .habs d a g => asmA 16 d a 0 0 g 6 :: []
  | .hneg d a g => asmA 16 d a 0 0 g 7 :: []
  | .badd d a b g => asmA 17 d a b.fld b.sb g 0 :: b.lits
  | .bsub d a b g => asmA 17 d a b.fld b.sb g 1 :: b.lits
  | .bmul d a b g => asmA 17 d a b.fld b.sb g 2 :: b.lits
  | .bfma d a b g => asmA 17 d a b.fld b.sb g 3 :: b.lits
  | .bmin d a b g => asmA 17 d a b.fld b.sb g 4 :: b.lits
  | .bmax d a b g => asmA 17 d a b.fld b.sb g 5 :: b.lits
  | .babs d a g => asmA 17 d a 0 0 g 6 :: []
  | .bneg d a g => asmA 17 d a 0 0 g 7 :: []
  | .faddRd d a b g => asmA 18 d a b.fld b.sb g 0 :: b.lits
  | .faddRu d a b g => asmA 18 d a b.fld b.sb g 1 :: b.lits
  | .fsubRd d a b g => asmA 18 d a b.fld b.sb g 2 :: b.lits
  | .fsubRu d a b g => asmA 18 d a b.fld b.sb g 3 :: b.lits
  | .fmulRd d a b g => asmA 18 d a b.fld b.sb g 4 :: b.lits
  | .fmulRu d a b g => asmA 18 d a b.fld b.sb g 5 :: b.lits
  | .ffmaRd d a b g => asmA 18 d a b.fld b.sb g 6 :: b.lits
  | .ffmaRu d a b g => asmA 18 d a b.fld b.sb g 7 :: b.lits
  | .fsqrtRd d a g => asmA 18 d a 0 0 g 8 :: []
  | .fsqrtRu d a g => asmA 18 d a 0 0 g 9 :: []
  | .fdivRd d a b g => asmA 18 d a b.fld b.sb g 10 :: b.lits
  | .fdivRu d a b g => asmA 18 d a b.fld b.sb g 11 :: b.lits
  | .feq d a b g => asmA 19 d a b.fld b.sb g 0 :: b.lits
  | .fne d a b g => asmA 19 d a b.fld b.sb g 1 :: b.lits
  | .flt d a b g => asmA 19 d a b.fld b.sb g 2 :: b.lits
  | .fle d a b g => asmA 19 d a b.fld b.sb g 3 :: b.lits
  | .fgt d a b g => asmA 19 d a b.fld b.sb g 4 :: b.lits
  | .fge d a b g => asmA 19 d a b.fld b.sb g 5 :: b.lits
  | .funord d a b g => asmA 19 d a b.fld b.sb g 6 :: b.lits
  | .ford d a b g => asmA 19 d a b.fld b.sb g 7 :: b.lits
  | .frcp d a g => asmA 20 d a 0 0 g 0 :: []
  | .frsq d a g => asmA 20 d a 0 0 g 1 :: []
  | .fsqrt d a g => asmA 20 d a 0 0 g 2 :: []
  | .fdiv d a b g => asmA 20 d a b.fld b.sb g 3 :: b.lits
  | .fexp2 d a g => asmA 20 d a 0 0 g 4 :: []
  | .flog2 d a g => asmA 20 d a 0 0 g 5 :: []
  | .fsinpi d a g => asmA 20 d a 0 0 g 6 :: []
  | .fcospi d a g => asmA 20 d a 0 0 g 7 :: []
  | .ftanh d a g => asmA 20 d a 0 0 g 8 :: []
  | .fsigm d a g => asmA 20 d a 0 0 g 9 :: []
  | .cvtI32F32 d a g => asmA 21 d a 0 0 g 0 :: []
  | .cvtN32F32 d a g => asmA 21 d a 0 0 g 1 :: []
  | .cvtF32I32 d a g => asmA 21 d a 0 0 g 2 :: []
  | .cvtF32N32 d a g => asmA 21 d a 0 0 g 3 :: []
  | .cvtF16F32 d a g => asmA 21 d a 0 0 g 4 :: []
  | .cvtF32F16 d a g => asmA 21 d a 0 0 g 5 :: []
  | .cvtBf16F32 d a g => asmA 21 d a 0 0 g 6 :: []
  | .cvtF32Bf16 d a g => asmA 21 d a 0 0 g 7 :: []
  | .cvtE4m3F32 d a g => asmA 21 d a 0 0 g 8 :: []
  | .cvtF32E4m3 d a g => asmA 21 d a 0 0 g 9 :: []
  | .cvtE5m2F32 d a g => asmA 21 d a 0 0 g 10 :: []
  | .cvtF32E5m2 d a g => asmA 21 d a 0 0 g 11 :: []
  | .cvtE2m1F32 d a g => asmA 21 d a 0 0 g 12 :: []
  | .cvtF32E2m1 d a g => asmA 21 d a 0 0 g 13 :: []
  | .pk2Bf16 d a b g => asmA 21 d a b.fld b.sb g 14 :: b.lits
  | .pk2F16 d a b g => asmA 21 d a b.fld b.sb g 15 :: b.lits
  | .shfl d a b g => asmA 22 d a b.fld b.sb g 0 :: b.lits
  | .shflup d a b g => asmA 22 d a b.fld b.sb g 1 :: b.lits
  | .shfldn d a b g => asmA 22 d a b.fld b.sb g 2 :: b.lits
  | .shflx d a b g => asmA 22 d a b.fld b.sb g 3 :: b.lits
  | .bcast d a b g => asmA 22 d a b.fld 1 g 4 :: b.lits
  | .vany d a g => asmA 22 d a 0 0 g 5 :: []
  | .vall d a g => asmA 22 d a 0 0 g 6 :: []
  | .ballot d a g => asmA 22 d a 0 0 g 7 :: []
  | .vpfxc d a g => asmA 22 d a 0 0 g 8 :: []
  | .vcomp d a b g => asmA 22 d a b 0 g 9 :: []
  | .vexpd d a b g => asmA 22 d a b 0 g 10 :: []
  | .vmrank d a g => asmA 22 d a 0 0 g 11 :: []
  | .vmcnt d a g => asmA 22 d a 0 0 g 12 :: []
  | .vmlead d a g => asmA 22 d a 0 0 g 13 :: []
  | .vtopk d a b g => asmA 22 d a b.fld 1 g 14 :: b.lits
  | .vtopka d a b g => asmA 22 d a b.fld 1 g 15 :: b.lits
  | .raddI32 d a g => asmA 23 d a 0 0 g 0 :: []
  | .rminI32 d a g => asmA 23 d a 0 0 g 1 :: []
  | .rmaxI32 d a g => asmA 23 d a 0 0 g 2 :: []
  | .rand d a g => asmA 23 d a 0 0 g 3 :: []
  | .ror d a g => asmA 23 d a 0 0 g 4 :: []
  | .rxor d a g => asmA 23 d a 0 0 g 5 :: []
  | .raddF32 d a g => asmA 23 d a 0 0 g 6 :: []
  | .raddF32Any d a g => asmA 23 d a 0 0 g 7 :: []
  | .rminF32 d a g => asmA 23 d a 0 0 g 8 :: []
  | .rmaxF32 d a g => asmA 23 d a 0 0 g 9 :: []
  | .scanI32 d a g => asmA 23 d a 0 0 g 10 :: []
  | .scanF32 d a g => asmA 23 d a 0 0 g 11 :: []
  | .xscanI32 d a g => asmA 23 d a 0 0 g 12 :: []
  | .rgput a g => asmA 24 0 a.fld 0 0 g 0 :: a.lits
  | .rgflush g => asmA 24 0 0 0 0 g 1 :: []
  | .rgqry d g => asmA 24 d 0 0 1 g 2 :: []
  | .ldg t a u size ord scope g off => asmM 25 t a u.toNat size ord scope g off.isSome.toNat :: off.toList
  | .stg t a u size ord scope g off => asmM 26 t a u.toNat size ord scope g off.isSome.toNat :: off.toList
  | .lds t a u size ord scope g off => asmM 27 t a u.toNat size ord scope g off.isSome.toNat :: off.toList
  | .sts t a u size ord scope g off => asmM 28 t a u.toNat size ord scope g off.isSome.toNat :: off.toList
  | .ldc t a u size ord scope g off => asmM 29 t a u.toNat size ord scope g off.isSome.toNat :: off.toList
  | .stc t a u size ord scope g off => asmM 30 t a u.toNat size ord scope g off.isSome.toNat :: off.toList
  | .ldx t a u size ord scope g off => asmM 31 t a u.toNat size ord scope g off.isSome.toNat :: off.toList
  | .stx t a u size ord scope g off => asmM 32 t a u.toNat size ord scope g off.isSome.toNat :: off.toList
  | .ldp t a u size ord scope g off => asmM 33 t a u.toNat size ord scope g off.isSome.toNat :: off.toList
  | .stp t a u size ord scope g off => asmM 34 t a u.toNat size ord scope g off.isSome.toNat :: off.toList
  | .atg t a u aop w ord scope rt off => asmT 35 t a u.toNat aop w.toNat ord scope rt.toNat off.isSome.toNat :: off.toList
  | .ats t a u aop w ord scope rt off => asmT 36 t a u.toNat aop w.toNat ord scope rt.toNat off.isSome.toNat :: off.toList
  | .atc t a u aop w ord scope rt off => asmT 37 t a u.toNat aop w.toNat ord scope rt.toNat off.isSome.toNat :: off.toList
  | .atx t a u aop w ord scope rt off => asmT 38 t a u.toNat aop w.toNat ord scope rt.toNat off.isSome.toNat :: off.toList
  | .fenceAcq sc => asmA 39 0 0 sc 0 7 0 :: []
  | .fenceRel sc => asmA 39 0 0 sc 0 7 1 :: []
  | .fenceAr sc => asmA 39 0 0 sc 0 7 2 :: []
  | .fenceSc sc => asmA 39 0 0 sc 0 7 3 :: []
  | .ackwait => asmA 39 0 0 0 0 7 4 :: []
  | .pf a => asmE 40 0 0 a 0 0 :: []
  | .pf2 a => asmE 40 1 0 a 0 0 :: []
  | .wbr a b phys => asmE 40 2 0 a b phys.toNat :: []
  | .invr a b l2 phys => asmE 40 3 0 a b (2 * l2.toNat + phys.toNat) :: []
  | .icpf a => asmE 40 4 0 a 0 0 :: []
  | .bpf a => asmE 40 5 0 a 0 0 :: []
  | .cpg2s d a b => asmE 41 0 d a b 0 :: []
  | .cps2g d a b => asmE 41 1 d a b 0 :: []
  | .cps2s d a b => asmE 41 2 d a b 0 :: []
  | .cps2c d a b => asmE 41 3 d a b 0 :: []
  | .cpc2s d a b => asmE 41 4 d a b 0 :: []
  | .tld d a b => asmE 41 5 d a b 0 :: []
  | .tst d a b => asmE 41 6 d a b 0 :: []
  | .tslot n a b sc => asmE 41 7 n a b sc.toNat :: []
  | .cpclose => asmE 41 8 0 0 0 0 :: []
  | .waitc n cls => asmE 41 9 0 n 0 cls :: []
  | .cpring a => asmE 41 10 0 a 0 0 :: []
  | .mma n sa sb fs cv => asmX 0 n sa sb fs cv 0 :: []
  | .mmaz n sa sb fs cv => asmX 1 n sa sb fs cv 0 :: []
  | .accz n cv => asmX 2 n 0 0 0 cv 0 :: []
  | .accst n out keep cv xa xb imm => asmX 3 n 0 0 0 cv (8 + 2 * out + keep.toNat) :: [asmExt xa xb imm.toNat]
  | .accld n cv xa xb imm => asmX 4 n 0 0 0 cv 8 :: [asmExt xa xb imm.toNat]
  | .accrd n r cv xa imm => asmX 5 n (r / 4) (r % 4 * 4) 0 cv 8 :: [asmExt xa 0 imm.toNat]
  | .accwr n r cv xa imm => asmX 6 n (r / 4) (r % 4 * 4) 0 cv 8 :: [asmExt xa 0 imm.toNat]
  | .oclaim n cv => asmX 7 0 n 0 0 cv 0 :: []
  | .orel n cv => asmX 8 0 n 0 0 cv 0 :: []
  | .oloadData n cv xa xb imm => asmX 9 0 n 0 0 cv 8 :: [asmExt xa xb imm.toNat]
  | .oloadSide n cv xa xb imm => asmX 9 0 n 0 0 cv 10 :: [asmExt xa xb imm.toNat]
  | .oloadBand n cv xa imm => asmX 9 0 n 0 0 cv 12 :: [asmExt xa 0 imm.toNat]
  | .accsclF32 n cv xa => asmX 10 n 0 0 0 cv 8 :: [asmExt xa 0 0]
  | .accsclI2f n cv xa => asmX 10 n 0 0 0 cv 9 :: [asmExt xa 0 0]
  | .accsclF2i n cv xa => asmX 10 n 0 0 0 cv 10 :: [asmExt xa 0 0]
  | .qpush n a g => asmQ 43 0 0 a n g 1 :: []
  | .qpop n a g => asmQ 43 1 0 a n g 1 :: []
  | .qpushn d n a g => asmQ 43 2 d a n g 0 :: []
  | .qpopn d n a g => asmQ 43 3 d a n g 0 :: []
  | .qallow n a g => asmQ 43 4 0 a n g 0 :: []
  | .qlen d n g => asmQ 43 5 d 0 n g 0 :: []
  | .chsend n a g => asmQ 43 6 0 a n g 1 :: []
  | .chrecv n a g => asmQ 43 7 0 a n g 1 :: []
  | .chsendn d n a g => asmQ 43 8 d a n g 0 :: []
  | .chrecvn d n a g => asmQ 43 9 d a n g 0 :: []
  | .renq d a g => asmQ 43 10 d a 0 g 0 :: []
  | .rdeq d a g => asmQ 43 11 d a 0 g 0 :: []
  | .rawait d a g => asmQ 43 12 d a 0 g 1 :: []
  | .rrel a g => asmQ 43 13 0 a 0 g 0 :: []
  | .barinit n a g => asmQ 44 0 0 a n g 0 :: []
  | .bararr d n g => asmQ 44 1 d 0 n g 0 :: []
  | .barwait n a g => asmQ 44 2 0 a n g 1 :: []
  | .barsync n g => asmQ 44 3 0 0 n g 1 :: []
  | .jinc a g => asmQ 44 4 0 a 0 g 0 :: []
  | .spawn d a g => asmQ 44 5 d a 0 g 0 :: []
  | .spawnw d a g => asmQ 44 6 d a 0 g 1 :: []
  | .doneCrew a g => asmQ 44 7 0 a 0 g 0 :: []
  | .cancel a g => asmQ 44 8 0 a 0 g 0 :: []
  | .wflag n g => asmQ 44 9 0 0 n g 1 :: []
  | .tbpub n g => asmQ 45 0 0 (n / 64) (n % 64) g 0 :: []
  | .tbrel n g => asmQ 45 1 0 (n / 64) (n % 64) g 0 :: []
  | .tbstat d n g => asmQ 45 2 d (n / 64) (n % 64) g 0 :: []
  | .spchk d g => asmQ 45 3 d 0 0 g 0 :: []
  | .spbar g => asmQ 45 4 0 0 0 g 1 :: []
  | .march d a b sp mode => asmE 46 0 d a b (4 * sp.toNat + mode) :: []
  | .marchr d a => asmE 46 1 d a 0 0 :: []
  | .fprep d a b => asmE 46 2 d a b 0 :: []
  | .bfetch d a b => asmE 46 3 d a b 0 :: []
  | .trace d a b => asmE 46 4 d a b 0 :: []
  | .tracer d a => asmE 46 5 d a 0 0 :: []
  | .tex d a b => asmE 46 6 d a b 0 :: []
  | .texq d a b => asmE 46 7 d a b 0 :: []
  | .cred d a b rop w => asmE 47 0 d a b (4 * w.toNat + rop) :: []
  | .cgat d a b => asmE 47 1 d a b 0 :: []
  | .crsc d a b rop w => asmE 47 2 d a b (4 * w.toNat + rop) :: []
  | .ca2a d a b => asmE 47 3 d a b 0 :: []
  | .csend a b => asmE 47 4 0 a b 0 :: []
  | .crecv d b => asmE 47 5 d 0 b 0 :: []
  | .cwait b => asmE 47 6 0 0 b 0 :: []
  | .dadd d a b g => asmA 48 d a b 0 g 0 :: []
  | .dsub d a b g => asmA 48 d a b 0 g 1 :: []
  | .dmul d a b g => asmA 48 d a b 0 g 2 :: []
  | .dfma d a b g => asmA 48 d a b 0 g 3 :: []
  | .ddiv d a b g => asmA 48 d a b 0 g 4 :: []
  | .dsqrt d a g => asmA 48 d a 0 0 g 5 :: []
  | .cvtF64F32 d a g => asmA 48 d a 0 0 g 6 :: []
  | .cvtF32F64 d a g => asmA 48 d a 0 0 g 7 :: []
  | .brk n g => asmA 62 0 0 n 0 g 0 :: []
  | .rdcnt d n g => asmA 62 d 0 n 0 g 1 :: []
  | .mark n g => asmA 62 0 0 n 0 g 2 :: []
  | .crd d a idx => asmS 0 d a idx :: []
  | .cwr d a idx => asmS 1 d a idx :: []
  | .freplyResume d a => asmS 1 d a 1 :: []
  | .freplyReject d a => asmS 1 d a 1 :: []
  | .carve d a => asmS 1 d a 10 :: []
  | .pjob d a => asmS 1 d a 12 :: []
  | .tlbinvPage a => asmS 2 0 a 0 :: []
  | .tlbinvAsid a => asmS 2 0 a 1 :: []
  | .tlbinvAll a => asmS 2 0 a 2 :: []
  | .slsync d a => asmS 3 d a 0 :: []
  | .halt d a => asmS 4 d a 0 :: []
  | .runStart _ _ _ => []
  | .clauseIssue _ _ _ => []
  | .emulationReturn _ _ => []
  | .icacheFill _ _ _ => []
  | .loadDataReturn _ _ => []
  | .longLatencyCompletion _ _ => []
  | .acknowledgement _ => []
  | .homeRequest _ => []
  | .requestReplay _ => []
  | .translationWalk _ _ _ => []
  | .impreciseReportArrival _ => []
  | .copyGranule _ _ => []
  | .copyBatchComplete _ => []
  | .copyRingAdvance _ => []
  | .mtxCompletion _ => []
  | .tileBind _ => []
  | .slotClaim _ => []
  | .matrixStartAdmission _ => []
  | .admissionWindow _ => []
  | .rayEnd _ _ _ => []
  | .wreqGrant _ => []
  | .binFormation _ _ _ => []
  | .autoFlush _ => []
  | .cohortRetire _ => []
  | .queueWaiterRetry _ _ _ => []
  | .channelDelivery _ => []
  | .creditPacket _ => []
  | .faultRecordPost _ => []
  | .rdmaWrite _ _ => []
  | .rdmaRead _ => []
  | .ringKick _ => []
  | .launchPacket _ => []
  | .cancelPacket _ => []
  | .packetReread _ => []
  | .resetKick _ => []
  | .completionRecord _ => []
  | .storeEntryGrant => []
  | .idleCoreRequest _ => []
  | .crewPlacement _ => []
  | .verdict _ => []
  | .resolutionArrival _ => []
  | .commit _ => []
  | .coreHalted _ => []
  | .swap _ => []
  | .longWaitSwapOut _ => []
  | .crewReturn _ => []
  | .migrationRequest _ _ => []
  | .migrationWithdraw _ => []
  | .saveStep _ => []
  | .migrationRecord _ => []
  | .restoreStep _ _ => []
  | .drawTake _ => []
  | .drawEnd _ => []
  | .collectiveComplete _ => []
  | .queuePairFatalError _ _ => []
  | .congestionNotification _ _ => []
  | .connectionOpen _ => []
  | .attestationRequest _ => []
  | .recoveryImage _ => []
  | .powerOnReset => []
  | .clusterRelease => []
  | .thermalChange _ _ => []
  | .patrolScrub _ => []
  | .dramRefresh _ => []
  | .arithmeticClockCycle _ => []
  | .onDiePathFailure _ => []
  | .historyCopyComplete _ => []

/-- The number of words of an instruction. -/
def Instr.len (i : Instr) : Nat := (encode i).length

/-- Why words are no instruction (02 R58). -/
inductive Reject where
  /-- No word, or a literal or extension word is missing. -/
  | truncated
  /-- A reserved major opcode. -/
  | reservedMajor
  /-- A function value marked illegal. -/
  | reservedValue
  /-- A nonzero reserved bit, or an unused field that is not 0 (an unused G that is not 7). -/
  | reservedBits
  /-- Fields in range whose combination is illegal. -/
  | illegalForm
  deriving DecidableEq, Repr

/-- Does the list begin with these words? -/
def startsWith : List Word → List Word → Bool
  | [], _ => true
  | _ :: _, [] => false
  | a :: as, b :: bs => a == b && startsWith as bs

/-- A major opcode of the opcode map (02 R57). -/
def knownMajor (op : Nat) : Bool := decide (1 ≤ op ∧ op ≤ 48) || op == 62 || op == 63

/-- The instruction that words begin with, and the words after it; a refusal by name otherwise. -/
noncomputable def decode : List Word → Except Reject (Instr × List Word)
  | [] => .error .truncated
  | w :: xs =>
    match readFields w.toNat xs with
    | none => .error (if knownMajor (w.toNat / 67108864) then .reservedValue else .reservedMajor)
    | some i =>
      if i.wellFormed then
        if startsWith (encode i) (w :: xs) then .ok (i, (w :: xs).drop i.len)
        else .error (if xs.length + 1 < i.len then .truncated else .reservedBits)
      else .error .illegalForm

/-- A word from its four bytes, least significant first (02 R30). -/
def wordOfBytes (a b c d : Byte) : Word :=
  BitVec.ofNat 32 (a.toNat + b.toNat * 256 + c.toNat * 65536 + d.toNat * 16777216)

/-- The whole words of a byte string. -/
def wordsOfBytes : List Byte → List Word
  | a :: b :: c :: d :: rest => wordOfBytes a b c d :: wordsOfBytes rest
  | _ => []

/-- The bytes of a word, least significant first. -/
def bytesOfWord (w : Word) : List Byte :=
  [BitVec.ofNat 8 w.toNat, BitVec.ofNat 8 (w.toNat / 256), BitVec.ofNat 8 (w.toNat / 65536),
   BitVec.ofNat 8 (w.toNat / 16777216)]

/-- The instruction a byte string begins with, for any bytes. -/
noncomputable def decodeBytes (bs : List Byte) : Except Reject Instr := (decode (wordsOfBytes bs)).map (·.1)

/-- The instruction at the head of words, if they begin with one. -/
noncomputable def decodeWord (ws : List Word) : Option Instr :=
  match decode ws with
  | .ok (i, _) => some i
  | .error _ => none

/-- The words that hold the bits of `w`, bit 0 the least significant of the first word, for an instruction of at most
three words (02 R46). -/
def tableWords (w : Nat) : List Word :=
  [BitVec.ofNat 32 w, BitVec.ofNat 32 (w / 4294967296), BitVec.ofNat 32 (w / 18446744073709551616)]

/-- What the decoder reads from the low `nbits` bits of `w`, every later bit 0. -/
noncomputable def decodeTableWord (nbits w : Nat) : Option Instr :=
  decodeWord (wordsOfBytes ((tableWords (w % 2 ^ nbits)).flatMap bytesOfWord))

end Sys2Proof
end

