-- ==== Sys2Proof/Machine/State.lean ====
section
/-!
DEFINITION. Sys2Proof/Machine/State.lean: everything the spec gives the machine, as plain data, and the machine right
after reset. INVENTORY.md lists each item with its rule and reset value. Addresses that are computed are numbers; values
of registers are bit vectors. A thing that the device holds many of, most of them in their reset state, is a table.
-/

namespace Sys2Proof.Machine

/-! ### Threads -/

/-- The condition a waiting thread waits for (02 R33, 05 R113). -/
inductive Wait where
  /-- waitc: at most `n` outstanding of a class (11 R258). -/
  | counter (cls n : Nat)
  /-- wflag (16 R348). -/
  | flag (n : Nat)
  /-- barwait: the phase differs from `ph` (16 R347). -/
  | barrier (b : Nat) (ph : Nat)
  /-- barsync: the phase differs from the one its counted arrival read (16 R347, 13 R295). -/
  | barsync (b : Nat) (ph : Nat)
  /-- rawait: a filled slot of the ring object (14 R314). -/
  | ring (off : Nat)
  /-- qpush or qpop: the queue unit retries it (14 R304). -/
  | queue (q : Nat) (push : Bool)
  /-- chsend: peer placed and credit left (14 R307). -/
  | chSend (n : Nat)
  /-- chrecv: the next message present (14 R308). -/
  | chRecv (n : Nat)
  /-- spawnw: an entry of the pending-launch store (15 R322). -/
  | spawn
  /-- wreq: the gathering of the crew, and the header after its clause (05 R126). -/
  | wreq (dst req next : Nat)
  deriving DecidableEq, Repr

/-- Why a thread is parked (05 R113). -/
inductive Park where
  /-- XLATE park (09 R198). -/
  | xlate
  /-- Emulation park (09 R199): feature bit and the binary64 operation parked. -/
  | feature
  /-- Parked by speculation until the launch resolves (17 R357). -/
  | spec
  /-- At a safe point's LABEL, for a migration (13 R291). -/
  | safePoint
  deriving DecidableEq, Repr

/-- The states of a thread (05 R113; saved: 13 R292). -/
inductive TStat where
  | eligible
  | held
  | signed (cv : Nat)
  | yielded (w : List Nat)
  | waiting (w : Wait)
  | parked (p : Park)
  | saved
  | exited
  deriving DecidableEq, Repr

/-- One thread with its registers (03 R72). -/
structure Thread where
  tid : Nat
  lane : Nat
  st : TStat := .eligible
  /-- In the active set of the clause under way (05 R114). -/
  act : Bool := false
  pc : Dword := 0
  mr : Dword := BitVec.allOnes 64
  lr : Dword := 0
  tpc : Dword := 0
  tmr : Dword := 0
  tinfo : Dword := 0
  tcause : BitVec 32 := 0
  /-- In its handler (05 R125). -/
  inH : Bool := false
  /-- Its first issue skips the core watch check (09 R206). -/
  skipW : Bool := false
  /-- Predicates p0-p6. -/
  p : BitVec 7 := 0
  /-- v0-v62, unlisted registers 0. -/
  v : Tab Word := []
  /-- Poisoned vector registers (10 R234). -/
  vPoison : Tab Bool := []
  /-- Its bits of cv0-cv6 (05 R122). -/
  cv : BitVec 7 := 0
  /-- Counted barsync arrivals not yet passed: address of the word, phase read (13 R295). -/
  arrived : List (Nat × Nat) := []
  /-- The safe-point entry its save or restore belongs to, and whether it waited there (13 R292). -/
  label : Option Nat := none
  waited : Bool := false
  /-- Released from a safe point (13 R291): it issues the clause of this LABEL before it parks there again. -/
  skipLabel : Option Nat := none
  deriving DecidableEq, Repr

/-! ### Long-latency work -/

/-- A result register write, kept until the operation completes (02 R39). -/
inductive RegWrite where
  | v (tid reg : Nat) (x : Word) (poison : Bool)
  | s (reg : Nat) (x : Dword)
  /-- A scalar register becomes poisoned (10 R234). -/
  | sBad (reg : Nat)
  | p (tid reg : Nat) (b : Bool)
  deriving DecidableEq, Repr

/-- Classes of outstanding counters (20 R409). -/
inductive Cls where
  | none | mtx | gath | coll
  deriving DecidableEq, Repr

/-- A long-latency operation that has issued and not completed (02 R35, R36). -/
structure Op where
  id : Nat
  /-- A load: its registers are written by LOAD_DATA_RETURN. -/
  load : Bool := false
  /-- Flags whose counts it raised. -/
  flags : List Nat := []
  /-- Destination registers, for the scoreboard (02 R39). -/
  regsV : List Nat := []
  regsS : List Nat := []
  regsP : List Nat := []
  /-- Results so far. -/
  res : List RegWrite := []
  /-- Sticky bits written with the results (03 R84). -/
  fp : Dword := 0
  /-- Packets and parts still to come. -/
  left : Nat := 0
  /-- Acquire scope, 0 for none (11 R243). -/
  acq : Nat := 0
  /-- Packets that the releases pending at its issue wait for: engine work begins after them (12 R275). -/
  need : List Nat := []
  cls : Cls := .none
  /-- An SFU or F64 instruction (03 R84). -/
  sfu : Bool := false
  deriving DecidableEq, Repr

/-- An open convergence signature of a cohort (05 R122). -/
structure Sig where
  cv : Nat
  pc : Dword
  csign : Bool
  deriving DecidableEq, Repr

/-- The clause under way: header address, header word and the words that the sequencer fetched with it (05 R114). -/
structure Clause where
  hdr : Nat
  word : Word
  /-- The words after the header, as fetched (02 R31, R41). -/
  words : List Word
  deriving DecidableEq, Repr

/-- A pending imprecise report (09 R192, R201, R202). -/
structure Report where
  code : Nat
  detail : Nat
  entry : Nat := 0
  eng : Nat := 0
  unit : Nat := 0
  ipc : Nat := 0
  overrun : Bool := false
  deriving DecidableEq, Repr

/-- What a reply names its record by (09 R198): the SEQ, the sub-core and the place that the record carried. -/
structure RecAt where
  seq : Nat
  sub : Nat
  place : Nat
  deriving DecidableEq, Repr

/-- One outstanding record of an XLATE park (09 R198). -/
structure XRec where
  seq : Nat
  region : Nat
  /-- The reply: RESUME is false, REJECT is true. -/
  answer : Option Bool := none
  deriving DecidableEq, Repr

/-- An XLATE park (09 R198): its records, the faulting lanes with their addresses, DETAIL, and the %tpc of a rejection. -/
structure XPark where
  recs : List XRec
  lanes : List (Nat × Nat)
  detail : Nat
  tpc : Nat
  deriving DecidableEq, Repr

/-- What an accepted MTX operation does (08 R178-R186), with its operands read at issue (08 R171). -/
inductive MtxKind where
  | mma (acc sa sb fmt : Nat)
  | mmaz (acc sa sb fmt : Nat)
  | accz (acc : Nat)
  | accst (acc a d out : Nat) (keep : Bool)
  | accld (acc a d : Nat)
  | accrd (acc reg : Nat) (idx : List (Nat × Nat))
  | accwr (acc : Nat) (vals : List (Nat × Nat × Word × Bool))
  | oclaim (slot : Nat)
  | orel (slot : Nat)
  | oload (slot part a d : Nat)
  | accscl (acc mode : Nat) (f : Word)
  deriving DecidableEq, Repr

/-- An operation of a cohort's matrix stream (08 R173). -/
structure MtxOp where
  op : Nat
  kind : MtxKind
  /-- A fresh tile taken by TILE_BIND for it (08 R169). -/
  tile : Option Nat := none
  /-- The slot obtained by SLOT_CLAIM. -/
  claimed : Bool := false
  /-- Admitted by the sector's window, or continuing (21 R430). -/
  admitted : Bool := false
  deriving DecidableEq, Repr

/-- The unfinished members of an outstanding counter, in issue order (20 R409). -/
structure Outst where
  id : Nat
  cls : Cls
  done : Bool := false
  deriving DecidableEq, Repr

/-- An F64 instruction parked for emulation (06 R140). -/
structure Emul where
  fn : Nat
  d : Nat
  a : Nat
  b : Nat
  g : Nat
  op : Nat
  deriving DecidableEq, Repr

/-- A hash of an interleave domain (10 R229, 16 R341). -/
structure Dom where
  base : Nat := 0
  last : Nat := 0
  k : Nat := 0
  s0 : Nat := 0
  masks : Tab Nat := []
  deriving DecidableEq, Repr

/-- One cohort (00 Units of work, 03 R72). -/
structure Cohort where
  key : Nat
  crew : Nat
  cid : Nat
  role : Nat
  sub : Nat
  port : Nat
  place : Nat
  threads : List Thread
  /-- s0-s62, unlisted registers 0. -/
  s : Tab Dword := []
  sPoison : Tab Bool := []
  /-- Flag counts (02 R35). -/
  flags : Tab Nat := []
  /-- acc name to tile number + 1; an unlisted name is unbound (08 R168). -/
  acc : Tab Nat := []
  fpst : Dword := 0
  mstat : Dword := 0
  tmode : Bool := false
  sigs : List Sig := []
  clause : Option Clause := none
  ops : List Op := []
  /-- Unacknowledged packets with the spans that they touch, oldest first (11 R241, R242). -/
  unacked : List (Nat × List Nat) := []
  outst : List Outst := []
  openBatch : Option Nat := none
  reports : List Report := []
  xpark : Option XPark := none
  emul : Option Emul := none
  stream : List MtxOp := []
  /-- Words of the run under way (02 R38). -/
  run : Nat := 0
  /-- The next clause belongs to the run under way (02 R38). -/
  chain : Bool := false
  /-- Order of its last run, 0 for never (15 R328). -/
  lastRun : Nat := 0
  /-- Formed by regrouping (07 R157, R160). -/
  regrouped : Bool := false
  /-- Its drain of the effect buffer is parked: the record, and the place of the entry in the buffer (17 R464). -/
  drainPark : Option (RecAt × Nat) := none
  /-- The first entry of its drain that was dropped: the code, and its ADDR (17 R464). -/
  drainFault : Option (Nat × Nat) := none
  /-- The partition of its halt that has begun and not resumed (13 R285). -/
  haltP : Option Nat := none
  /-- Packets that its tlbinv waits for (10 R228). -/
  tlbWait : Option (List Nat) := none
  /-- Its packet of a fence.sc whose increment has not returned (11 R249): the operation's id. -/
  fence : Option Nat := none
  /-- The domain whose slsync it waits for, with the fields that it takes (10 R231). -/
  sync : Option (Nat × Dom) := none
  deriving DecidableEq, Repr

/-- An operand slot away from its reset contents (08 R164): data, sidecar, band, owner, last crew, poisoned bytes. -/
structure Slot where
  data : Tab Byte := []
  side : Tab Byte := []
  band : Nat := 0x3F80
  owner : Nat := 0
  lastCrew : Nat := 0
  poison : Tab Bool := []
  deriving DecidableEq, Repr

/-- An accumulator tile (08 R168): words, owning cohort (0 free), poisoned words. -/
structure Tile where
  words : Tab Word := []
  owner : Nat := 0
  poison : Tab Bool := []
  deriving DecidableEq, Repr

/-! ### Crews and launches -/

/-- A queue entry of the kernel header (16 R334). -/
structure QDecl where
  depth : Nat
  elem : Nat
  off : Nat
  deriving DecidableEq, Repr

/-- A role of the kernel header (16 R334). -/
structure RoleDecl where
  entry : Nat
  threads : Nat
  v : Nat
  s : Nat
  deriving DecidableEq, Repr

/-- A kernel header (16 R334). -/
structure Header where
  text : Nat := 0
  tlen : Nat := 0
  priv : Nat := 0
  cmap : Nat := 0
  trappc : Nat := 0
  spt : Nat := 0
  spn : Nat := 0
  h : Nat := 0
  wreq : Nat := 64
  roles : List RoleDecl := []
  system : Bool := false
  boff : Nat := 0xFFFFFFFF
  qmask : Nat := 0
  qtab : List QDecl := []
  bcnt : List Nat := []
  deriving DecidableEq, Repr

/-- A channel entry (16 R331). -/
structure Chan where
  ro : Nat
  delta : Int
  ss : Nat
  sc : Nat
  deriving DecidableEq, Repr

/-- A waiting qpush or qpop (14 R304): the part of a cohort that issued it waits for a step of its own. -/
structure QWaiter where
  cohort : Nat
  tids : List Nat
  q : Nat
  push : Bool
  off : Nat
  deriving DecidableEq, Repr

/-- A held store of a speculative crew (17 R358). -/
structure Effect where
  cohort : Nat
  va : Nat
  size : Nat
  data : List Byte
  /-- Its place in the effect buffer. -/
  pos : Nat
  /-- Already sent by the drain (17 R362). -/
  sent : Bool := false
  deriving DecidableEq, Repr

/-- Units that hold rays (18 R383, 19 R399). -/
inductive RayUnit where
  | marcher | traverser
  deriving DecidableEq, Repr

/-- An element of EFC arithmetic, as FP32 codes: a value, an interval, or c + alpha eps + [-e, e] (18 R374). -/
inductive EVal where
  | pt (c : Nat)
  | iv (l h : Nat)
  | af (c a e : Nat)
  deriving DecidableEq, Repr

/-- The state of a marched ray (18 R381, R383): the segment stack, top first; the segment under evaluation and the steps; the
instance records read; the instance under evaluation with the scene's bounds so far; the program's place, stack and
position. -/
structure MarchSt where
  segs : List (Nat × Nat) := []
  a : Nat := 0
  b : Nat := 0
  steps : Nat := 0
  insts : List (Nat × Nat) := []
  i : Nat := 0
  lo : Nat := 0x7F800000
  hi : Nat := 0x7F800000
  hit : Nat := 0xFFFFFFFF
  pc : Nat := 0
  est : List EVal := []
  cur : List EVal := []
  /-- The header of its specialised program as read before the loop: the instance, and the length of the code (18 R391). -/
  sp : Option (Nat × Nat) := none
  deriving DecidableEq, Repr

/-- A candidate of a traced ray (19 R398). -/
structure THit where
  t : X
  u : X
  v : X
  front : Bool
  inst : Nat
  tri : Nat
  prim : Nat
  deriving DecidableEq, Repr

/-- A child still to visit: in the top tree or an instance's, node or leaf, with its parameter range (none: unbounded). -/
structure TTodo where
  inst : Option Nat
  leaf : Bool
  ix : Nat
  lo : Option X := none
  hi : Option X := none
  deriving DecidableEq, Repr

/-- The state of a traced ray (19 R398, R399). -/
structure TraceSt where
  todo : List TTodo := []
  visits : Nat := 0
  insts : List (Nat × Nat) := []
  best : Option THit := none
  cand : Option THit := none
  deriving DecidableEq, Repr

/-- A ray in its slot (18 R381-R384, 19 R399). -/
structure Ray where
  unit : RayUnit
  tid : Nat
  op : Nat
  /-- Stopped at CALL. -/
  stopped : Bool := false
  mode : Nat := 0
  /-- The descriptor as read at issue, and what ended its reading: status and DETAIL. -/
  scene : Nat
  bad : Option (Nat × Nat) := none
  /-- Scratchpad offset of a specialised program (18 R391). -/
  spOff : Option Nat := none
  input : List Word
  dest : Nat
  ipc : Nat
  /-- The reply to its CALL. -/
  reply : Option (Word × Word) := none
  march : MarchSt := {}
  trace : TraceSt := {}
  deriving DecidableEq, Repr

/-- A job descriptor as read, with its partition (16 R342). -/
structure JobDesc where
  part : Nat := 0
  active : Bool := true
  asid : Nat := 0
  job : Nat := 0
  root : Nat := 0
  cxbase : Nat := 0
  cxsize : Nat := 0
  fq : Nat := 0
  img : Nat := 0
  imgsz : Nat := 0
  deriving DecidableEq, Repr

/-- The record of a kill (09 R196). -/
structure Kill where
  code : Nat
  detail : Nat
  info : Dword
  pc : Dword
  sub : Nat
  place : Nat
  deriving DecidableEq, Repr

/-- Migration of a crew (13 R291-R293). -/
inductive Mig where
  | none
  /-- Asked for, to a core. -/
  | requested (core : Nat)
  /-- The save step runs. -/
  | saving (core : Nat)
  /-- Record written and allocation copied; waits for its grant on the core. -/
  | moving (core : Nat)
  deriving DecidableEq, Repr

/-- One crew (00 Units of work). -/
structure Crew where
  key : Nat
  launch : Nat
  index : Nat
  core : Nat
  /-- Base sub-core b (01 R22). -/
  base : Nat
  slot : Nat
  /-- Scratchpad allocation (10 R209). -/
  sbase : Nat
  ssize : Nat
  hdr : Header
  /-- The job descriptor as read at placement or swap-in (16 R342). -/
  jd : JobDesc := {}
  gw : Nat
  lastGrant : Nat
  lastReq : Nat := 64
  spec : Bool := false
  /-- Dirty private bytes of L1 by physical address (10 R217). -/
  privMem : Tab (Option Byte) := []
  /-- Poisoned 8-byte words of its dirty lines (10 R233). -/
  privBad : Tab Bool := []
  seqWord : Nat := 0
  qwait : List QWaiter := []
  join : Nat := 0
  /-- done has been executed; the continuation's handle when there is one (15 R323). -/
  doneUsed : Bool := false
  cont : Option Nat := none
  effects : List Effect := []
  pubs : List Nat := []
  rels : List Nat := []
  /-- Buffers that it reads at PRED (17 R359, R368). -/
  views : List Nat := []
  heldKill : Option Kill := none
  rays : List Ray := []
  cancelled : Bool := false
  /-- Being torn down (15 R324). -/
  torn : Bool := false
  /-- Torn down by a squash: its retirement counts for nothing (17 R363). -/
  squashed : Bool := false
  mig : Mig := .none
  /-- clk for which all its threads have waited (13 R286). -/
  waitClk : Nat := 0
  /-- Swapped out by the long-wait rule: first frame and frame count of its image (13 R287). -/
  out : Option (Nat × Nat) := none
  /-- In the shadow context of its core (13 R280). -/
  shadow : Bool := false
  /-- Committing: cohorts stopped at step 1 of 17 R362. -/
  committing : Bool := false
  /-- First frame and frame count of its migration record (13 R288). -/
  frames : Option (Nat × Nat) := none
  /-- Tiles of a swapped-out crew: cohort, name, contents; and its claimed slots by key (13 R287). -/
  savedTiles : List (Nat × Nat × Tile) := []
  savedSlots : List (Nat × Slot) := []
  deriving DecidableEq, Repr

/-- A launch record as read (16 R330). -/
structure LRec where
  khdr : Nat
  arg : Nat
  lo : Nat
  hi : Nat
  grain : Nat
  prio : Nat
  cosched : Bool
  spec : Bool
  spin : Nat
  fs : List Nat
  job : Nat
  phase : Nat
  graph : Nat
  priv : Nat
  cont : Nat
  deriving DecidableEq, Repr

/-- What a counted child decrements at its completion (15 R323). -/
inductive Parent where
  | none
  | crew (key : Nat)
  | launch (handle : Nat)
  deriving DecidableEq, Repr

/-- A resolution that a speculative launch awaits (17 R356). -/
inductive Await where
  /-- The verdict of a predicted buffer. -/
  | verdict (tb : Nat)
  /-- The resolution of the producer of a SPECV version. -/
  | producer (handle tb : Nat)
  deriving DecidableEq, Repr

/-- One launch (15 R319-R327). -/
structure Launch where
  handle : Nat
  lrec : LRec
  chans : List Chan := []
  /-- Bound tile buffers: number, written (16 R331). -/
  binds : List (Nat × Bool) := []
  age : Nat := 0
  /-- It holds an entry of the pending-launch store. -/
  inStore : Bool := true
  join : Nat := 0
  tasks : List (Nat × Nat) := []
  /-- Completion counter (20 R410). -/
  left : Nat
  cancelled : Bool := false
  /-- Being torn down as a whole (15 R324). -/
  torn : Bool := false
  /-- Ring and TAG of a host launch (15 R318). -/
  host : Option (Nat × Nat) := none
  parent : Parent := .none
  /-- Created by the management core (02 R54). -/
  system : Bool := false
  /-- Order of first placement, 0 for none (17 R363). -/
  placed : Nat := 0
  depth : Nat := 0
  /-- Started speculatively and not resolved. -/
  spec : Bool := false
  awaits : List Await := []
  /-- Buffers through whose prediction it started (17 R355). -/
  preds : List Nat := []
  /-- Reads it holds references for (17 R352). -/
  refs : List Nat := []
  /-- Crews that have retired, by index. -/
  retired : List Nat := []
  /-- Crews of its squash that are to retire before its relaunch (17 R363). -/
  after : List Nat := []
  deriving DecidableEq, Repr

/-- A request that waits for an entry of the store (15 R319). -/
inductive StoreReq where
  /-- spawnw of waiting threads of a cohort. -/
  | spawnw (cohort : Nat) (tids : List Nat)
  /-- done that holds for threads of a cohort. -/
  | done (cohort : Nat) (tids : List Nat)
  /-- The front end's packet of a ring. -/
  | ring (n : Nat)
  /-- A CONT record of a completed launch (16 R330). -/
  | cont (job addr : Nat) (system : Bool) (host : Option (Nat × Nat))
  deriving DecidableEq, Repr

/-- A counter of a graph, phase or job (20 R410). -/
structure GroupCnt where
  /-- 0 graph, 1 phase, 2 job. -/
  level : Nat
  job : Nat
  id : Nat
  count : Nat
  cancelled : Bool := false
  deriving DecidableEq, Repr

/-! ### Memory system -/

/-- What a request packet does at its home (11 R239-R248, 14 R311). -/
inductive PKind where
  /-- Load `n` bytes into a lane's registers; `known` are bytes already known by index; `fill` installs the L1 line, a
  private one for the crew `priv`. -/
  | load (tid reg n : Nat) (known : List (Nat × Byte)) (fill : Bool) (priv : Nat)
  /-- Store bytes at their addresses; poisoned bytes none. -/
  | store (bytes : List (Nat × Byte))
  /-- Atomic: AOP (with 16 times the bytes written, where its word straddles a protected one), width in bytes, lanes (tid, operand, new value of cas), register for RET = 1. -/
  | atom (aop n : Nat) (lanes : List (Nat × Nat × Nat)) (ret : Option Nat)
  /-- Combined reduction, one operand. -/
  | red (aop n x : Nat)
  /-- Ring operation at a control block: renq with its value, or rdeq; the block's page and virtual address; status predicate,
  destination. -/
  | ring (push : Bool) (x : Dword) (page : Nat × Nat) (va pS dst : Nat)
  /-- Increment of a sequence word (11 R250). -/
  | seqInc (word : Nat)
  /-- jinc (16 R348). -/
  | joinAdd (sel : Nat) (x : Int)
  deriving DecidableEq, Repr

/-- Memories that a packet goes to. -/
inductive Space where
  /-- Global memory by physical address. -/
  | glob
  /-- The carve-out by its byte number (10 R214). -/
  | chip
  /-- The active scratchpad bank of a core. -/
  | spad (core : Nat)
  /-- The shadow scratchpad bank of a core (10 R212, 13 R284). -/
  | shad (core : Nat)
  /-- No memory: a sequence word or a join counter. -/
  | unit
  deriving DecidableEq, Repr

/-- A request packet on its way to its home (11 R241). -/
structure Packet where
  id : Nat
  /-- Issuing cohort, 0 for a drained or foreign source. -/
  cohort : Nat
  op : Nat := 0
  core : Nat
  /-- The crew whose scratchpad allocation it addresses, 0 for none (10 R213). -/
  target : Nat := 0
  space : Space
  addr : Nat
  kind : PKind
  /-- Packets that must be acknowledged before it is performed (11 R243). -/
  need : List Nat := []
  /-- It counts in the ack counter. -/
  acked : Bool := true
  dom : Nat := 0
  gen : Nat := 0
  nacked : Bool := false
  ipc : Nat := 0
  deriving DecidableEq, Repr

/-- An acknowledgement on its way back, with the watch reports that travel with it (09 R205). -/
structure Ack where
  id : Nat
  cohort : Nat
  op : Nat
  counts : Bool
  reports : List Report
  deriving DecidableEq, Repr

/-- A report on its way to a cohort (09 R202). -/
structure RepIn where
  cohort : Nat
  crew : Nat
  report : Report
  deriving DecidableEq, Repr

/-- A 32-byte record on its way to a fault queue (09 R197, 14 R312). -/
structure Post where
  /-- Physical address of the ring block. -/
  ring : Nat
  words : List Nat
  /-- Held at the slice for want of space; held posts stand in the order of their arrival there. -/
  held : Bool := false
  deriving DecidableEq, Repr

/-- A TLB entry (10 R224-R227): page base and size, physical base, rights R, W, X. -/
structure TlbE where
  /-- Core of an L1 TLB, or 640 + sector of an L2 TLB. -/
  where_ : Nat
  asid : Nat
  vpage : Nat
  size : Nat
  ppage : Nat
  r : Bool
  w : Bool
  x : Bool
  deriving DecidableEq, Repr

/-- A clean L1 line: core, line number, its 128 bytes (10 R218); a private line has its crew's key, a global line 0. -/
structure L1Line where
  core : Nat
  line : Nat
  priv : Nat := 0
  data : List Byte
  deriving DecidableEq, Repr

/-- A cached line of text with its clause-map bits (10 R220, 15 R329). -/
structure ILine where
  core : Nat
  job : Nat
  line : Nat
  words : List Word
  /-- The clause-map bits held with the line, when they could be read. -/
  map : Option Nat
  /-- Bit i: word i was read poisoned (10 R234). -/
  poison : Nat := 0
  deriving DecidableEq, Repr

/-- A cached brick: core, physical address, its 2,000 bytes (10 R219). -/
structure BLine where
  core : Nat
  addr : Nat
  data : List Byte
  deriving DecidableEq, Repr

/-- A protected word that may hold an error (10 R233): of 8 bytes, of 4 in scratchpad; a tier's burst of 32 bytes; an 8-byte word
of an operand slot (DATA, then SIDE, then BAND) or of a tile; a register, which moves with its cohort into the shadow store; a
dirty line of a crew's private memory. -/
inductive Site where
  | glob (word : Nat)
  | burst (n : Nat)
  | chip (word : Nat)
  | spad (word : Nat)
  | slot (unit word : Nat)
  | tile (unit word : Nat)
  | vreg (cohort tid reg : Nat)
  | sreg (cohort reg : Nat)
  | priv (crew line : Nat)
  deriving DecidableEq, Repr

/-- A page walk under way (10 R227): the core that missed, what the walk delivers, and the entries that it reads; `install` falls when a
tlbinv marks it. -/
structure PageWalk where
  core : Nat
  asid : Nat
  vpage : Nat
  size : Nat
  ppage : Nat
  r : Bool
  w : Bool
  x : Bool
  install : Bool := true
  ptes : List Nat := []
  deriving DecidableEq, Repr

/-- Requesters that replay their NACKed requests as work of their own (10 R230): a copy engine, an RDMA engine of a port, a sector's
walker, a raster, compare or collective engine, a core's marcher, traverser, fetch and write-back of private lines. -/
inductive Requester where
  | copy | rdma (port : Nat) | walker | raster | compare | history | collective | ray | fetch | writeBack
  deriving DecidableEq, Repr

/-- A copy command under way (11 R253-R262). -/
inductive CopyKind where
  | g2s | s2g | s2s | s2c | c2s | tld | tst | tslot (sc : Bool)
  deriving DecidableEq, Repr

/-- A tensor layout record as read (16 R336). -/
structure TRec where
  base : Nat
  n : Nat
  fmt : Nat
  scale : Nat
  bands : Nat
  ext : List Nat
  str : List Nat
  box : List Nat
  swz : Nat
  deriving DecidableEq, Repr

/-- One copy of a batch (11 R255). -/
structure Copy where
  id : Nat
  cohort : Nat
  crew : Nat
  core : Nat
  op : Nat
  batch : Nat
  kind : CopyKind
  dst : Nat
  src : Nat
  len : Nat
  coord : List Int := []
  trec : Option TRec := none
  /-- Slot and sub-core of a tslot. -/
  slot : Nat := 0
  granules : List Nat := []
  /-- Bytes written, with the mask of their bits, of words of global memory that no granule alone writes whole (10 R234). -/
  parts : List (Nat × Nat) := []
  ipc : Nat := 0
  /-- Paused by a watch until the handler that received its report returns: has the report been delivered (09 R204)? -/
  pausedW : Option Bool := none
  done : Bool := false
  deriving DecidableEq, Repr

/-- A batch of copies (11 R257). -/
structure Batch where
  id : Nat
  cohort : Nat
  crew : Nat
  closed : Bool := false
  count : Nat := 0
  /-- Bound copy completion ring (11 R259). -/
  ring : Option Nat := none
  advanced : Bool := false
  done : Bool := false
  /-- No further bytes are written (11 R256). -/
  ended : Bool := false
  /-- Paused by a translation fault: its record, and the issuing PC of the copy that met it (09 R198, R201). A crew that returns
  from a swap to other places keeps the record's own. -/
  paused : Option (RecAt × Nat) := none
  poisonReported : Bool := false
  /-- PC of the cpring that bound it. -/
  ipc : Nat := 0
  deriving DecidableEq, Repr

/-- A channel message in flight (14 R307). -/
structure Msg where
  launch : Nat
  dest : Nat
  chan : Nat
  seq : Nat
  data : List Byte
  cohort : Nat
  op : Nat
  deriving DecidableEq, Repr

/-- A credit packet in flight (14 R308). -/
structure Credit where
  launch : Nat
  dest : Nat
  chan : Nat
  value : Nat
  deriving DecidableEq, Repr

/-! ### Sub-core units -/

/-- A regroup bin (07 R158, 16 R344). -/
structure Bin where
  held : Bool := false
  crew : Nat := 0
  role : Nat := 0
  key : Nat := 0
  cpc : Nat := 0
  full : Bool := false
  threads : List Thread := []
  s : Tab Dword := []
  sPoison : Tab Bool := []
  fpst : Dword := 0
  mstat : Dword := 0
  deriving DecidableEq, Repr

/-- Halt and swap of a core (13 R281). -/
inductive CorePhase where
  | running | halting | halted
  /-- Swapped for the hot condition: its context is in shadow storage and none resumes (21 R431). -/
  | held
  deriving DecidableEq, Repr

/-- Per-core state that is not a memory. -/
structure CoreSt where
  cyc : Dword := 0
  released : Bool := false
  phase : CorePhase := .running
  /-- Which scratchpad bank is active (10 R212). -/
  bank : Nat := 0
  octmap : Nat := 0xFFFF
  watchA : Tab Nat := []
  watchC : Tab Nat := []
  pmsel : Tab Nat := []
  pmcnt : Tab Nat := []
  slip : Tab Nat := []
  ecc : Nat := 0
  seq : Nat := 0
  /-- Task held by the core: launch and interval (15 R326). -/
  task : Option (Nat × Nat × Nat) := none
  deriving DecidableEq, Repr

/-! ### Opal, raster, collectives, host -/

/-- What the home of a tile-buffer descriptor records (17 R352-R360). -/
structure TbHome where
  job : Nat
  tb : Nat
  writer : Option Nat := none
  /-- Producer of the SPECV version, with its depth. -/
  producer : Option (Nat × Nat) := none
  /-- Launches that started on the present prediction. -/
  starters : List Nat := []
  predFmt : Nat := 0
  predSize : Nat := 0
  deriving DecidableEq, Repr

/-- A compare or a history copy that the compare engine has under way (17 R353, R360). -/
structure Compare where
  job : Nat
  tb : Nat
  deriving DecidableEq, Repr

/-- A resolution on its way to a launch (17 R360, R361). -/
structure Resol where
  launch : Nat
  what : Await
  commit : Bool
  deriving DecidableEq, Repr

/-- A draw that a raster engine has taken (19 R402-R405). -/
structure Draw where
  engine : Nat
  drec : Nat
  jd : JobDesc
  status : Nat
  flushes : Nat
  deriving DecidableEq, Repr

/-- An entry of a communicator's peer table (21 R421). -/
structure CommPeer where
  path : Nat
  lqpn : Nat
  rqpn : Nat
  rkey : Nat
  rstage : Nat
  deriving DecidableEq, Repr

/-- A communicator that the engine has accepted a collective of: the physical address of its record, and its peers as last read
(20 R414, 21 R421). -/
structure Comm where
  pa : Nat
  peers : List CommPeer
  deriving DecidableEq, Repr

/-- A collective under way on the engine (20 R414-R419), with what its communicator record held at its acceptance. -/
structure Coll where
  id : Nat
  cohort : Nat
  crew : Nat
  op : Nat
  /-- SUB of 20 R415. -/
  kind : Nat
  /-- Virtual address of the communicator record, and the job. -/
  comm : Nat
  job : Nat
  dst : Nat
  src : Nat
  count : Nat
  fl : Nat
  /-- Of csend and crecv. -/
  peer : Nat
  tag : Nat
  seq : Nat
  ipc : Nat
  nrank : Nat := 0
  rank : Nat := 0
  peers : List CommPeer := []
  /-- Physical address of the rank's staging area. -/
  stage : Option Nat := none
  /-- DETAIL of the report that it ends with, 0 for none. -/
  bad : Nat := 0
  /-- Its contributions have left. -/
  sent : Bool := false
  /-- Core and index of its crew, for a record after the crew has retired. -/
  core : Nat := 0
  index : Nat := 0
  deriving DecidableEq, Repr

/-- A rank's contribution to a collective, arrived in the staging area of the rank it is for (20 R416-R418, 21 R421). -/
structure PeerPart where
  /-- Physical address of the receiving rank's staging area. -/
  stage : Nat
  /-- The sending rank. -/
  rank : Nat
  /-- SUB; 15 where the sender's collective ended with a refusal. -/
  kind : Nat
  /-- csend and crecv pair by tag, the others by number. -/
  tag : Option Nat
  seq : Nat
  count : Nat
  fl : Nat
  data : List (Byte × Bool)
  deriving DecidableEq, Repr

/-- A queue pair's rate and failure (21 R420, R421); the rate is in 1/65536 of line rate. -/
structure QPair where
  port : Nat
  qp : Nat
  rate : Nat := 65536
  /-- Bytes sent since the rate last recovered. -/
  sent : Nat := 0
  failed : Bool := false
  deriving DecidableEq, Repr

/-- A submission ring and its completion ring (15 R316-R318, 21 R423). -/
structure Ring where
  n : Nat
  region : Nat
  nslot : Nat
  job : Nat
  next : Nat := 0
  /-- An inbound write has reached the kick word, which the front end has not read since. -/
  kicked : Bool := false
  /-- KSEQ and KCRC of the kicks read whose packet has not passed, newest first. -/
  kicks : List (Nat × Nat) := []
  /-- The last packet announced, while packets are left to accept. -/
  target : Option Nat := none
  stopped : Bool := false
  /-- More than 256 records have waited since it stopped for them (21 R423). -/
  full : Bool := false
  /-- Failed reads of the packet NEXT. -/
  reads : Nat := 0
  /-- Inbound writes into the region completed since, each worth one more read. -/
  landed : Nat := 0
  torn : Nat := 0
  conn : Nat := 0
  /-- The completion ring that the host supplies: slots, address and rkey. -/
  nc : Nat := 16
  cq : Nat := 0
  rkey : Nat := 0
  /-- Records written, and the consumed count as last read. -/
  p : Nat := 0
  c : Nat := 0
  /-- Completion records that wait, oldest first: TAG, STATUS, ring number. -/
  waiting : List (Nat × Nat × Nat) := []
  deriving DecidableEq, Repr

/-- An open connection, and the version that both sides use (21 R422). -/
structure Conn where
  id : Nat
  version : Nat
  deriving DecidableEq, Repr

/-- A region that firmware has registered for a connection (21 R420). -/
structure Region where
  conn : Nat
  base : Nat
  len : Nat
  deriving DecidableEq, Repr

/-- Messages from hosts (12 R277, 21 R422-R428). -/
inductive HostIn where
  /-- RDMA WRITE: port, connection and its 64-byte parts (physical address, bytes), parts performed. -/
  | write (port conn : Nat) (parts : List (Nat × List Byte)) (done : List Nat)
  /-- RDMA READ of `n` bytes. -/
  | read (port conn addr n : Nat)
  /-- SEND of a version bitmask, with the rings, regions, slot counts, job and completion ring that firmware assigns, and the
  regions that it registers. -/
  | open_ (mask : Nat) (rings : List Ring) (regs : List (Nat × Nat))
  /-- SEND of a nonce. -/
  | attest (nonce : Nat)
  /-- SEND of a firmware image. -/
  | image (port : Nat) (img : List Byte)
  /-- The version bitmask of a firmware tool (21 R422). -/
  | tools (mask : Nat)
  /-- A request for the certificate of the fused identity (21 R427). -/
  | certificate
  deriving DecidableEq, Repr

/-- Messages to hosts and peer devices. -/
inductive HostOut where
  | ack (port : Nat)
  | nak (port : Nat)
  | data (bs : List Byte)
  | mask (m : Nat)
  | report (bs : List Byte)
  /-- A contribution of a collective: port, queue pair and rkey of the peer (21 R421). -/
  | coll (port qp rkey : Nat) (part : PeerPart)
  /-- A completion record: connection, the host address that it goes to, the rkey, TAG, STATUS, ring number (15 R318, 21 R423). -/
  | record (conn addr rkey tag status ring : Nat)
  | certificate (bs : List Byte)
  deriving DecidableEq, Repr

/-- Thermal condition (21 R431). -/
inductive Thermal where
  | normal | warm | hot | critical
  deriving DecidableEq, Repr

/-- Boot and identity (21 R424-R428). -/
structure Boot where
  /-- The management core runs firmware. -/
  running : Bool := false
  recovery : Bool := false
  /-- Ethernet ports are open (step 6). -/
  portsOpen : Bool := false
  /-- Clusters released so far. -/
  released : Nat := 0
  flash : List Byte := []
  fuseKey : Nat := 0
  fuseSvn : Nat := 0
  fuseBoots : Nat := 0
  fuseSecret : Nat := 0
  svn : Nat := 0
  fwDigest : Nat := 0
  /-- Igwick's certificate for the fused identity, in flash, and the public identity key of this boot (21 R427). -/
  cert : List Byte := []
  pubKey : Nat × Nat := (0, 0)
  /-- Tier-1 channels that train (step 3), and the interface version masks of the tier-2 modules in the eight sockets, 0 for an empty
  one (21 R422). -/
  tier1Ok : Bool := true
  modules : List Nat := [3, 3, 3, 3, 3, 3, 3, 3]
  /-- Configured values that firmware writes at step 4: index of the register, selector, value (21 R424). -/
  config : List (Nat × Nat × Nat) := []
  /-- The version of the firmware interface that firmware and its tools use (21 R422). -/
  tools : Option Nat := none
  powered : Bool := true
  deriving DecidableEq, Repr

/-- What firmware on the management core does of its own accord. -/
inductive Firmware where
  /-- A launch placed in the store by firmware itself: its record (02 R54). -/
  | launch (lrec : Nat)
  /-- cwr: index, selector, value (16 R337). -/
  | config (idx sel value : Nat)
  /-- slsync of a domain, and tlbinv: mode and operand (10 R228, R231). -/
  | slsync (dom : Nat)
  | tlbinv (mode operand : Nat)
  /-- halt of a partition (13 R285). -/
  | halt (part : Nat)
  /-- Bytes written to memory, at an address. -/
  | store (addr : Nat) (bs : List Byte)
  /-- A queue pair of a port, created and connected (21 R421). -/
  | queuePair (port qp : Nat)
  /-- A region registered for a connection (21 R420). -/
  | register (r : Region)
  /-- The fused minimum of the security version is raised (21 R425). -/
  | minimum (svn : Nat)
  /-- Message `n` of the inbox answered: versions of a tool, or the certificate (21 R422, R427). -/
  | answer (n : Nat)
  deriving DecidableEq, Repr

/-- Who moves next: an event of the table, the issue of a port, an action of firmware, or what arrives from a host or from a peer
device (notes/assumptions/5.md). -/
inductive Move where
  | event (i : Instr)
  | issue (core sub port : Nat)
  | firmware (f : Firmware)
  | message (m : HostIn)
  | contribution (p : PeerPart)
  deriving DecidableEq, Repr

/-- The whole machine. -/
structure State where
  /-- Global memory by physical address, bit 40 the tier (10 R222). -/
  gmem : Memory := []
  /-- Chip scratchpad by carve-out byte (10 R214). -/
  cmem : Memory := []
  /-- Scratchpad banks: (core * 2 + bank) * 2^23 + byte (10 R208). -/
  smem : Memory := []
  /-- Poisoned words: global by 8 bytes, chip by 8 bytes, scratchpad by 4 bytes (10 R233). -/
  gPoison : Tab Bool := []
  cPoison : Tab Bool := []
  sPoison : Tab Bool := []
  /-- Soft errors that no access and no scrub has met yet: where, and whether uncorrectable (10 R233, R235). -/
  latent : List (Site × Bool) := []
  /-- Dirty lines of L2 by line number (10 R221). -/
  l2dirty : Tab Bool := []
  l1 : List L1Line := []
  bricks : List BLine := []
  icache : List ILine := []
  tlb : List TlbE := []
  /-- Walks under way, in arrival order (10 R227). -/
  walks : List PageWalk := []
  cores : Tab CoreSt := []
  /-- Operand slots and tiles: (core * 4 + sub-core) * 16 + number. -/
  slots : Tab Slot := []
  tiles : Tab Tile := []
  /-- Regroup bins: (core * 4 + sub-core) * 8 + number. -/
  bins : Tab Bin := []
  cohorts : List Cohort := []
  crews : List Crew := []
  launches : List Launch := []
  storeWait : List StoreReq := []
  groups : List GroupCnt := []
  /-- Cohort running on a port, by (core * 4 + sub-core) * 2 + port; 0 for none. -/
  running : Tab Nat := []
  /-- Sequencers that a missing line freezes: the lowest PC at the fetch that missed, and the missing address (15 R329). -/
  frozen : Tab (Option (Nat × Nat)) := []
  /-- Sub-cores whose array is busy (21 R430): key core * 4 + sub-core. -/
  busy : Tab Bool := []
  /-- Starts admitted in the window of a sector (21 R430). -/
  admitted : Tab Nat := []
  /-- Starts not admitted, oldest first: sector and cohort (21 R430). -/
  admWait : List (Nat × Nat) := []
  fabric : List Packet := []
  acks : List Ack := []
  repIn : List RepIn := []
  posts : List Post := []
  copies : List Copy := []
  batches : List Batch := []
  msgs : List Msg := []
  credits : List Credit := []
  /-- Interleave domains: current, pending, generation (10 R229-R231). -/
  doms : Tab Dom := []
  domsNew : Tab Dom := []
  gens : Tab Nat := []
  /-- Domains for which the slices are in the change state of an slsync (10 R231). -/
  changing : List Nat := []
  /-- Engines whose request was NACKed and is to be replayed: the engine and its work (10 R230). -/
  nacked : List (Requester × Nat) := []
  replays : Nat := 0
  /-- Corrected errors of a slice. -/
  slEcc : Tab Nat := []
  /-- Sequence words of clusters 0-39 and of the device, number 40 (11 R250). -/
  seqWords : Tab Nat := []
  swatchA : Tab Nat := []
  swatchC : Tab Nat := []
  swring : Nat := 0
  carve : Nat := 0
  part : Tab Nat := []
  pjob : Tab Nat := []
  emul : Tab Nat := []
  tbHomes : List TbHome := []
  compares : List Compare := []
  history : List Compare := []
  resols : List Resol := []
  draws : List Draw := []
  /-- Next ring p of a raster engine's round-robin (19 R402). -/
  rasterNext : Tab Nat := []
  colls : List Coll := []
  /-- Communicators that the collective engine knows. -/
  comms : List Comm := []
  peerIn : List PeerPart := []
  qpairs : List QPair := []
  rings : List Ring := []
  conns : List Conn := []
  inbox : List HostIn := []
  outbox : List HostOut := []
  /-- Registered RDMA regions (21 R420). -/
  regions : List Region := []
  thermal : Thermal := .normal
  dieTemp : Int := 25
  inletTemp : Int := 25
  /-- Partitions whose contexts the hot condition puts into shadow storage, and those whose swap for it, or back, is still to begin
  (21 R431). -/
  heatOut : List Nat := []
  heatSwaps : List Nat := []
  boot : Boot := {}
  /-- What the management core holds for: packets of its tlbinv (10 R228), and the partition of its halt (13 R285). -/
  fwPackets : List Nat := []
  fwHalt : Option Nat := none
  nextHandle : Nat := 1
  nextAge : Nat := 0
  /-- Moves chosen to come next (notes/assumptions/5.md). -/
  agenda : List Move := []
  /-- The port whose sequencer moves when the agenda is empty: (core * 4 + sub-core) * 2 + port. -/
  focus : Nat := 0
  /-- The last issue on the focus port was held, or its run has ended (notes/assumptions/5.md). -/
  stalled : Bool := false
  /-- Counts the turns of the pending events (notes/assumptions/5.md). -/
  turns : Nat := 0
  /-- Fresh keys of the model (notes/assumptions/6.md). -/
  fresh : Nat := 1
  deriving DecidableEq, Repr

/-- Why the model stops. -/
inductive Fault where
  /-- Raised by every meaning of an encoded instruction when no cohort has its clause under way on the focus port: the
  hardware then issues nothing. Safe: nothing is claimed of such a state, and `step` never reaches it. -/
  | noIssuer
  deriving DecidableEq, Repr

/-- Why an instruction has no meaning. -/
inductive Refusal where
  /-- Raised by an arm of `exec` whose instruction has no meaning yet. Safe: nothing is claimed of it. -/
  | notModelled (mnemonic : String)
  deriving DecidableEq, Repr

/-- The machine right after power-on reset: every cluster is held in reset (21 R424), no crew is placed, configuration
registers are 0 (16 R339, R341, R343); notes/assumptions/1.md to 4.md name the values that the spec does not give. -/
def State.reset : State := {}

end Sys2Proof.Machine
end

