-- ==== Sys2Proof/Machine/Words.lean ====
section
/-!
DEFINITION. Sys2Proof/Machine/Words.lean: what the sequencer reads from a word before it issues it: class, length, and
whether it transfers control, waits, or is long-latency (02 R31-R36).
-/

namespace Sys2Proof.Machine

/-- Major opcode of a word. -/
def wOp (w : Word) : Nat := w.toNat / 67108864

/-- FN of format A, or SUB of formats E, X and Q. -/
def wFn (w : Word) : Nat := w.toNat % 16
def wSub (w : Word) : Nat := fld w.toNat 25 22

/-- ECLASS of a major opcode (02 R32); a reserved major has none. -/
def classOf (op : Nat) : Option Nat :=
  if (1 ≤ op ∧ op ≤ 0x0E) ∨ op = 0x3E ∨ op = 0x3F then some 0
  else if (0x0F ≤ op ∧ op ≤ 0x15) ∨ op = 0x30 then some 1
  else if 0x16 ≤ op ∧ op ≤ 0x18 then some 2
  else if 0x19 ≤ op ∧ op ≤ 0x28 then some 3
  else if op = 0x2A then some 4
  else if op = 0x29 ∨ op = 0x2F then some 5
  else if 0x2B ≤ op ∧ op ≤ 0x2E then some 6
  else none

/-- Words of the instruction that a word begins, itself included (02 R45, R46). -/
def rawLen (w : Word) : Nat :=
  let n := w.toNat
  let op := wOp w
  let a63 : Bool := fld n 19 14 == 63
  let b63 : Bool := fld n 13 8 == 63 && bit n 7
  let litA : Bool := a63 && (op == 0x01 || op == 0x04 || (op == 0x0E && (wFn w == 11 || (wFn w == 13 && bit n 7)))
    || (op == 0x18 && wFn w == 0))
  let litB : Bool := b63 && (op == 0x01 || op == 0x04 || op == 0x05 || op == 0x06 || op == 0x09
    || (decide (0x0F ≤ op) && decide (op ≤ 0x16)))
  let off : Bool := bit n 0 && decide (0x19 ≤ op) && decide (op ≤ 0x26)
  let ext : Bool := op == 0x2A && bit n 3
  1 + litA.toNat + litB.toNat + off.toNat + ext.toNat

/-- Control transfers of 02 R33. -/
def isTransfer (w : Word) : Bool :=
  wOp w == 0x0B || wOp w == 0x0C || (wOp w == 0x0E && [0, 1, 3, 4, 9, 10].contains (wFn w))

/-- Waiting instructions of 02 R33. -/
def isWaiting (w : Word) : Bool :=
  (wOp w == 0x0E && wFn w == 11) || (wOp w == 0x29 && wSub w == 9) ||
  ((wOp w == 0x2B || wOp w == 0x2C || wOp w == 0x2D) && bit w.toNat 0)

/-- Long-latency operations of 02 R36. -/
def isLong (w : Word) : Bool :=
  let op := wOp w
  let sub := wSub w
  [0x19, 0x1B, 0x1D, 0x1F, 0x21].contains op || (decide (0x23 ≤ op) && decide (op ≤ 0x26) && bit w.toNat 2) ||
  op == 0x28 || (op == 0x29 && sub != 8 && sub != 10) || op == 0x2A || (op == 0x2B && sub != 4 && sub != 5) ||
  (op == 0x2C && sub != 0 && sub != 4) || op == 0x2D || op == 0x2E || op == 0x2F || op == 0x14 || op == 0x30

/-- Words of the list that begin an instruction, with their positions counted from 1 (02 R31). -/
def instrsOf : Nat → Nat → List Word → List (Nat × Word × Nat)
  | 0, _, _ => []
  | _, _, [] => []
  | fuel + 1, pos, w :: ws => (pos, w, ws.length) :: instrsOf fuel (pos + rawLen w) ((w :: ws).drop (rawLen w))

/-- Is there a long-latency operation among these words? -/
def anyLong (ws : List Word) : Bool := (instrsOf ws.length 1 ws).any fun e => isLong e.2.1

/-- Fields of a clause header (02 R30). -/
def hCount (w : Word) : Nat := w.toNat / 2 ^ 28
def hClass (w : Word) : Nat := bitsOf w.toNat 25 3
def hWait (w : Word) : Nat := bitsOf w.toNat 13 12
def hSetA (w : Word) : Nat := bitsOf w.toNat 9 4
def hSetB (w : Word) : Nat := bitsOf w.toNat 5 4
def hChain (w : Word) : Bool := bit w.toNat 4
def hStall (w : Word) : Nat := bitsOf w.toNat 0 4

/-- The header checks of 02 R31: the position of the first offending word, 0 for the header itself. -/
def clauseFault (h : Word) (ws : List Word) : Option Nat :=
  if hCount h = 0 ∨ (12 ≤ hSetA h ∧ hSetA h ≤ 14) ∨ (12 ≤ hSetB h ∧ hSetB h ≤ 14) then some 0
  else
    let bad := (instrsOf ws.length 1 ws).filter fun (_, w, after) =>
      (hClass h != 7 && (classOf (wOp w)).isSome && classOf (wOp w) != some (hClass h)) ||
      decide (after + 1 < rawLen w) ||
      ((isTransfer w || isWaiting w) && decide (rawLen w < after + 1))
    match bad with
    | [] => none
    | (p, _) :: _ => some p

end Sys2Proof.Machine
end

