-- ==== Sys2Proof/Machine/Get.lean ====
section
/-!
DEFINITION. Sys2Proof/Machine/Get.lean: finding and replacing the cohorts, crews, launches and per-core records of the
state, and reading and writing registers (03 R72, R73).
-/

namespace Sys2Proof.Machine

/-! ### Registers of a thread and of a cohort -/

/-- A vector register; v63 reads 0 (02 R55). -/
def Thread.vr (t : Thread) (n : Nat) : Word := if n = 63 then 0 else Tab.read 0 t.v n

/-- Write a vector register; v63 discards, and a written register is no longer poisoned (02 R55, 10 R234). -/
def Thread.setV (t : Thread) (n : Nat) (x : Word) : Thread :=
  if n = 63 then t else { t with v := Tab.put 0 t.v n x, vPoison := Tab.put false t.vPoison n false }

/-- A register pair, low word first (02 R55). -/
def Thread.vPair (t : Thread) (n : Nat) : Dword := BitVec.ofNat 64 ((t.vr n).toNat + (t.vr (n + 1)).toNat * 4294967296)

/-- Write a register pair. -/
def Thread.setPair (t : Thread) (n : Nat) (x : Dword) : Thread :=
  (t.setV n (BitVec.ofNat 32 x.toNat)).setV (n + 1) (BitVec.ofNat 32 (x.toNat / 4294967296))

/-- Write consecutive registers. -/
def Thread.setVs (t : Thread) (n : Nat) : List Word → Thread
  | [] => t
  | x :: xs => (t.setV n x).setVs (n + 1) xs

/-- A predicate; p7 reads true (02 R55). -/
def Thread.pr (t : Thread) (n : Nat) : Bool := if n = 7 then true else t.p.getLsbD n

/-- Write a predicate; p7 discards. -/
def Thread.setP (t : Thread) (n : Nat) (b : Bool) : Thread :=
  if n = 7 then t
  else { t with p := if b then t.p ||| (1#7 <<< n) else t.p &&& ~~~ (1#7 <<< n) }

/-- Does the thread act under guard field `g` (02 R44)? -/
def Thread.acts (t : Thread) (g : Nat) : Bool := t.act && t.pr g

/-- A scalar register that is no literal; s63 reads 0 (02 R45). -/
def Cohort.sr (c : Cohort) (n : Nat) : Dword := if n = 63 then 0 else Tab.read 0 c.s n

/-- Write a scalar register; s63 discards. -/
def Cohort.setS (c : Cohort) (n : Nat) (x : Dword) : Cohort :=
  if n = 63 then c else { c with s := Tab.put 0 c.s n x, sPoison := Tab.put false c.sPoison n false }

/-- Change the threads that satisfy a test. -/
def Cohort.mapT (c : Cohort) (p : Thread → Bool) (f : Thread → Thread) : Cohort :=
  { c with threads := mapIf p f c.threads }

/-- The active threads, lowest %tid first. -/
def Cohort.actives (c : Cohort) : List Thread := c.threads.filter (·.act)

/-- The acting threads of a guard (02 R44). -/
def Cohort.actors (c : Cohort) (g : Nat) : List Thread := c.threads.filter (·.acts g)

/-- The threads that have not exited. -/
def Cohort.live (c : Cohort) : List Thread := c.threads.filter fun t => decide (t.st ≠ .exited)

/-- The guard of an instruction that acts once per cohort (02 R44): the active thread with the lowest %tid. -/
def Cohort.guard (c : Cohort) (g : Nat) : Bool :=
  match c.actives with
  | [] => false
  | t :: _ => t.pr g

/-- PC of the word that issues: the PC that the active threads share. -/
def Cohort.pc (c : Cohort) : Nat :=
  match c.actives with
  | [] => 0
  | t :: _ => t.pc.toNat

/-- A flag count (02 R35). -/
def Cohort.flag (c : Cohort) (n : Nat) : Nat := Tab.read 0 c.flags n

/-- Raise or lower flag counts. -/
def Cohort.raise (c : Cohort) : List Nat → Cohort
  | [] => c
  | f :: fs => ({ c with flags := Tab.put 0 c.flags f (c.flag f + 1) }).raise fs
def Cohort.lower (c : Cohort) : List Nat → Cohort
  | [] => c
  | f :: fs => ({ c with flags := Tab.put 0 c.flags f (c.flag f - 1) }).lower fs

/-- The outstanding count of a class (20 R409). -/
def Cohort.count (c : Cohort) (k : Cls) : Nat := (c.outst.filter fun o => decide (o.cls = k)).length

/-- The ack counter (11 R241). -/
def Cohort.acks (c : Cohort) : Nat := c.unacked.length

/-- Every flag named by a WAIT field is clear (02 R37). -/
def Cohort.waitClear (c : Cohort) (wait : Nat) : Bool :=
  (upto 12).all fun i => !(bit wait i) || c.flag i == 0

/-! ### The state's records -/

/-- Global core, sub-core and port numbers. -/
def subIx (core sub : Nat) : Nat := core * 4 + sub
def portIx (core sub port : Nat) : Nat := (core * 4 + sub) * 2 + port

/-- A cohort by key. -/
def State.cohort (s : State) (k : Nat) : Option Cohort := s.cohorts.find? fun c => c.key == k
/-- Replace a cohort by the one with the same key. -/
def State.setCohort (s : State) (c : Cohort) : State :=
  { s with cohorts := mapIf (fun x => x.key == c.key) (fun _ => c) s.cohorts }
/-- Change a cohort. -/
def State.onCohort (s : State) (k : Nat) (f : Cohort → Cohort) : State :=
  { s with cohorts := mapIf (fun x => x.key == k) f s.cohorts }

/-- A crew by key. -/
def State.crew (s : State) (k : Nat) : Option Crew := s.crews.find? fun c => c.key == k
/-- Change a crew. -/
def State.onCrew (s : State) (k : Nat) (f : Crew → Crew) : State :=
  { s with crews := mapIf (fun x => x.key == k) f s.crews }

/-- A crew of nothing, for the totality of reads. -/
def noCrew : Crew :=
  { key := 0, launch := 0, index := 0, core := 0, base := 0, slot := 0, sbase := 0, ssize := 0, hdr := {}, gw := 16,
    lastGrant := 16 }

/-- The crew of a cohort. -/
def State.crewOf (s : State) (c : Cohort) : Crew := (s.crew c.crew).getD noCrew

/-- The cohorts of a crew. -/
def State.cohortsOf (s : State) (k : Nat) : List Cohort := s.cohorts.filter fun c => c.crew == k

/-- A launch by handle. -/
def State.launch (s : State) (h : Nat) : Option Launch := s.launches.find? fun l => l.handle == h
/-- Change a launch. -/
def State.onLaunch (s : State) (h : Nat) (f : Launch → Launch) : State :=
  { s with launches := mapIf (fun x => x.handle == h) f s.launches }

/-- Per-core record. -/
def State.core (s : State) (n : Nat) : CoreSt := Tab.read {} s.cores n
/-- Change a per-core record. -/
def State.onCore (s : State) (n : Nat) (f : CoreSt → CoreSt) : State :=
  { s with cores := Tab.put {} s.cores n (f (s.core n)) }

/-- Is the crew in its save step, or on its way to its new core (13 R292)? -/
def Crew.saving (cr : Crew) : Bool :=
  match cr.mig with
  | .saving _ => true
  | _ => false
def Crew.moving (cr : Crew) : Bool :=
  match cr.mig with
  | .moving _ => true
  | _ => false
def Crew.migrating (cr : Crew) : Bool := cr.saving || cr.moving

/-- The job of a crew's launch. -/
def State.jobOf (s : State) (cr : Crew) : Nat :=
  match s.launch cr.launch with
  | some l => l.lrec.job
  | none => cr.jd.job

/-- Does a halt keep the core's engines from starting work (13 R281)? Not while a clause under way on it may wait for them
(02 R34). -/
def State.engineHolds (s : State) (core : Nat) : Bool :=
  (s.core core).phase != .running &&
    !((upto 8).any fun p => (s.cohort (Tab.read 0 s.running (core * 8 + p))).any fun c => c.clause.isSome)

/-- A fresh key and the state that has used it (notes/assumptions/6.md). -/
def State.newKey (s : State) : Nat × State := (s.fresh, { s with fresh := s.fresh + 1 })

/-- The role's register budget (03 R73). -/
def Crew.role (cr : Crew) (n : Nat) : RoleDecl := cr.hdr.roles.getD n { entry := 0, threads := 0, v := 0, s := 0 }

/-- Thread base of role `k` (03 R74). -/
def Header.tbase (h : Header) (k : Nat) : Nat := ((h.roles.take k).map fun r => 64 * ceilDiv r.threads 64).sum

/-- The crew's thread span (10 R216). -/
def Header.span (h : Header) : Nat := h.tbase h.roles.length

/-- First %cid of role `k` at width `g` (03 R75). -/
def Header.cbase (h : Header) (k g : Nat) : Nat := ((h.roles.take k).map fun r => ceilDiv r.threads g).sum

/-! ### Performance counters (20 R411) -/

/-- Does a select count this event of this sub-core? Mark events carry their value. -/
def pmHits (sel ev sub mark : Nat) : Bool :=
  bit sel 31 && bitsOf sel 0 8 == ev &&
  (!([2, 3, 4, 5, 8, 10, 13].contains ev) || bit sel (12 + sub)) &&
  (ev != 10 || bitsOf sel 16 6 == 63 || bitsOf sel 16 6 == mark)

/-- Count `n` events on a core. -/
def State.countPm (s : State) (core sub ev n : Nat) (mark : Nat := 0) : State :=
  let k := s.core core
  let hit := (upto 8).filter fun i => pmHits (Tab.read 0 k.pmsel i) ev sub mark
  if n = 0 ∨ hit = [] then s
  else s.onCore core fun k =>
    { k with pmcnt := Tab.putAll 0 k.pmcnt (hit.map fun i => (i, (Tab.read 0 k.pmcnt i + n) % 2 ^ 64)) }

end Sys2Proof.Machine
end

