-- ==== Sys2Proof/Machine/Mem.lean ====
section
/-!
DEFINITION. Sys2Proof/Machine/Mem.lean: the memories and their homes: reading, writing and poisoning bytes (10 R208,
R233, R234), translation (R223-R227), interleave domains (R229), watches (09 R203), caches (R218-R220).
-/

namespace Sys2Proof.Machine

/-! ### Bytes of a space -/

/-- Key of a scratchpad byte: core, bank and physical byte. -/
def spadKey (core bank off : Nat) : Nat := (core * 2 + bank) * 8388608 + off

/-- Base key of the active bank of a core. -/
def State.spadBase (s : State) (core : Nat) : Nat := spadKey core (s.core core).bank 0
/-- Base key of the shadow bank of a core. -/
def State.shadBase (s : State) (core : Nat) : Nat := spadKey core (1 - (s.core core).bank) 0

/-- Bytes of a space from an address. -/
def State.readBytes (s : State) (sp : Space) (a n : Nat) : List Byte :=
  match sp with
  | .glob => s.gmem.bytes a n
  | .chip => s.cmem.bytes a n
  | .spad c => s.smem.bytes (s.spadBase c + a) n
  | .shad c => s.smem.bytes (s.shadBase c + a) n
  | .unit => []

/-- The number in bytes of a space. -/
def State.readNat (s : State) (sp : Space) (a n : Nat) : Nat := leNat (s.readBytes sp a n)

/-- Poison keys that the bytes of a write cover whole (10 R234): `w` bytes to a word. -/
def wholeWords (w : Nat) (as : List Nat) : List Nat :=
  (distinct (as.map (· / w))).filter fun k => decide ((distinct (as.filter fun a => a / w == k)).length = w)

/-- Clear the poison of the words written whole. -/
def unpoison (w : Nat) (t : Tab Bool) (as : List Nat) : Tab Bool :=
  if t = [] then t else Tab.putAll false t ((wholeWords w as).map fun k => (k, false))

/-! ### Interleave domains and slices (10 R229) -/

/-- Does a domain's range cover a physical address? -/
def Dom.covers (d : Dom) (pa : Nat) : Bool := decide (d.base ≤ pa / 65536 ∧ pa / 65536 ≤ d.last)

/-- The domain that governs an address: the lowest that covers it, domain 0 where none does. -/
def domOfIn (ds : Tab Dom) (pa : Nat) : Nat := ((upto 8).find? fun d => (Tab.read {} ds d).covers pa).getD 0

/-- Parity of the bits of a number below bit `n`. -/
def parity (x : Nat) : Nat → Bool
  | 0 => false
  | n + 1 => bit x n != parity x n

/-- The slice of an address in a domain. -/
def Dom.slice (d : Dom) (pa : Nat) : Nat :=
  d.s0 + ((upto d.k).map fun i => if parity (pa &&& Tab.read 0 d.masks i) 41 then 2 ^ i else 0).sum

def State.domOf (s : State) (pa : Nat) : Nat := domOfIn s.doms pa
def State.slice (s : State) (pa : Nat) : Nat := (Tab.read {} s.doms (s.domOf pa)).slice pa
/-- The slice that homes an address of a space (10 R214, R229). -/
def State.sliceOf (s : State) (sp : Space) (a : Nat) : Nat :=
  match sp with
  | .chip => a / 256 % 128
  | _ => s.slice a

/-- Units at which the governing domain may change. -/
def domEdges (ds : List Dom) : List Nat :=
  (0 :: ds.flatMap fun d => [d.base, d.last + 1]).filter fun u => decide (u < 2 ^ 25)

/-- The domains that a change of `d` to these fields affects (10 R231). -/
def State.domAffected (s : State) (d : Nat) (new : Dom) : List Nat :=
  let edges := domEdges ((upto 8).map (fun e => Tab.read {} s.doms e) ++ [new])
  distinct (d :: (edges.filter fun u => domOfIn (Tab.put {} s.doms d new) (u * 65536) == d).map fun u =>
    domOfIn s.doms (u * 65536))

/-- A domain change takes effect (10 R231, steps 3 to 5): lines of the old and new ranges leave L2, the copies take the fields, the
generations of the affected domains advance and the change state ends. The second answer is the number of dirty lines. -/
def State.syncEnd (s : State) (d : Nat) (new : Dom) : State × Nat :=
  let doms := Tab.put {} s.doms d new
  let hit := fun (l : Nat) => domOfIn s.doms (l * 128) == d || domOfIn doms (l * 128) == d
  let dirty := (s.l2dirty.filter fun e => hit e.1).length
  let gens := s.changing.foldl (fun g e => Tab.put 0 g e ((Tab.read 0 g e + 1) % 16)) s.gens
  ({ s with fresh := s.fresh + 1, doms := doms, gens := gens, changing := [], l2dirty := Tab.only (fun l => !(hit l)) s.l2dirty },
    Config.dirtyLeft s.fresh % (dirty + 1))

/-- Does a request for these physical addresses meet the change state of a domain (10 R230)? -/
def State.blocked (s : State) (pas : List Nat) : Bool := pas.any fun pa => s.changing.contains (s.domOf pa)

/-- A request of a requester `key` is NACKed, which a core that receives it counts (20 R411). -/
def State.nack (s : State) (core : Nat) (key : Requester × Nat) : State :=
  if s.nacked.contains key then s else { s.countPm core 0 9 1 with nacked := key :: s.nacked }

/-- It is done: a replay where it was NACKed before. -/
def State.replayed (s : State) (key : Requester × Nat) : State :=
  if s.nacked.contains key then
    { s with nacked := s.nacked.filter (fun k => k != key), replays := (s.replays + 1) % 2 ^ 64 }
  else s

/-- Does a request for these physical addresses have to wait for the end of the change state? -/
def State.mustReplay (s : State) (pas : List Nat) : Bool := !s.changing.isEmpty && s.blocked pas

/-- Work of a requester `key` that reaches these physical addresses: in the change state of a domain of theirs its request is NACKed,
and done later it is a replay (10 R230). -/
def State.atHomes (s : State) (core : Nat) (key : Requester × Nat) (pas : List Nat) (work : State → State) : State :=
  if s.mustReplay pas then s.nack core key else work (s.replayed key)

/-! ### Protected words and their errors (10 R233-R235) -/

/-- The word is marked poisoned; of a vector register file, one register of one thread (notes/assumptions/95.md). -/
def State.mark (s : State) : Site → State
  | .glob w => { s with gPoison := Tab.put false s.gPoison w true }
  | .burst n => { s with gPoison := Tab.putAll false s.gPoison ((upto 4).map fun j => (4 * n + j, true)) }
  | .chip w => { s with cPoison := Tab.put false s.cPoison w true }
  | .spad w => { s with sPoison := Tab.put false s.sPoison w true }
  | .slot u w =>
    let z := Tab.read {} s.slots u
    let bytes := (upto (if w = 1280 then 1 else 8)).map fun j => (8 * w + j, true)
    { s with slots := Tab.put {} s.slots u { z with poison := Tab.putAll false z.poison bytes } }
  | .tile u w =>
    let z := Tab.read {} s.tiles u
    { s with tiles := Tab.put {} s.tiles u { z with poison := Tab.putAll false z.poison [(2 * w, true), (2 * w + 1, true)] } }
  | .vreg k t r => s.onCohort k fun c => c.mapT (fun x => x.tid == t && r != 63) fun x =>
      { x with vPoison := Tab.put false x.vPoison r true }
  | .sreg k r => s.onCohort k fun c => if r = 63 then c else { c with sPoison := Tab.put false c.sPoison r true }
  | .priv k l => s.onCrew k fun cr =>
      if !(cr.privMem.any fun e => e.1 / 128 == l) then cr
      else { cr with privBad := Tab.putAll false cr.privBad ((upto 16).map fun j => (16 * l + j, true)) }

/-- A corrected error is counted, by the core or by the slice that holds the word (20 R409). -/
def State.countEcc (s : State) (x : Site) : State :=
  let core := fun (n : Nat) => s.onCore n fun k => { k with ecc := min (k.ecc + 1) 4294967295 }
  let slice := fun (n : Nat) => { s with slEcc := Tab.put 0 s.slEcc n (min (Tab.read 0 s.slEcc n + 1) 4294967295) }
  let ofCohort := fun (k : Nat) => match s.cohort k with
    | some c => core (s.crewOf c).core
    | none => s
  match x with
  | .glob w => slice (s.slice (8 * w))
  | .burst n => slice (s.slice (32 * n))
  | .chip w => slice (s.sliceOf .chip (8 * w))
  | .spad w => core (w / 4194304)
  | .slot u _ | .tile u _ => core (u / 64)
  | .vreg k _ _ | .sreg k _ => ofCohort k
  | .priv _ _ => s

/-- Words of dirty lines of an L1, which parity guards. -/
def Site.parity : Site → Bool
  | .priv _ _ => true
  | _ => false

/-- An error is met: a parity error of a dirty line and an uncorrectable error poison, another is corrected and counted. -/
def State.meetOne (s : State) (e : Site × Bool) : State :=
  let s := { s with latent := s.latent.filter fun x => decide (x ≠ e) }
  if e.2 || e.1.parity then s.mark e.1 else s.countEcc e.1

/-- The errors of the words that an access reads are met. -/
def State.meet (s : State) (ks : List Site) : State :=
  (s.latent.filter fun e => ks.contains e.1).foldl State.meetOne s

/-- Words of a space that an access touches. -/
def State.poisonKeys (s : State) (sp : Space) (a n : Nat) : List Site :=
  let words := fun (w b : Nat) => distinct ((upto n).map fun i => (b + a + i) / w)
  match sp with
  | .glob => (words 8 0).map .glob
  | .chip => (words 8 0).map .chip
  | .spad c => (words 4 (s.spadBase c)).map .spad
  | .shad c => (words 4 (s.shadBase c)).map .spad
  | .unit => []

/-- Is a word one of the scratchpad words of `n` bytes from a key? -/
def spadSite (key n : Nat) (x : Site) : Bool :=
  match x with
  | .spad w => decide (key ≤ 4 * w ∧ 4 * w < key + n)
  | _ => false

/-- The words that an access reads, with the bursts of the tier that hold them. -/
def State.sites (s : State) (sp : Space) (a n : Nat) : List Site :=
  s.poisonKeys sp a n ++ match sp with
    | .glob => (distinct ((upto n).map fun i => (a + i) / 32)).map .burst
    | _ => []

/-- Is the word poisoned, or does it hold an uncorrectable error that the access will meet? -/
def State.wordBad (s : State) (k : Site) : Bool :=
  match k with
  | .glob w => Tab.read false s.gPoison w || s.latent.contains (.glob w, true) || s.latent.contains (.burst (w / 4), true)
  | .chip w => Tab.read false s.cPoison w || s.latent.contains (.chip w, true)
  | .spad w => Tab.read false s.sPoison w || s.latent.contains (.spad w, true)
  | _ => false

/-- Does an access touch a poisoned word? -/
def State.poisoned (s : State) (sp : Space) (a n : Nat) : Bool :=
  if s.gPoison = [] ∧ s.cPoison = [] ∧ s.sPoison = [] ∧ s.latent = [] then false
  else (s.poisonKeys sp a n).any s.wordBad

/-- The lowest poisoned address of an access. -/
def State.poisonAddr (s : State) (sp : Space) (a n : Nat) : Nat :=
  match (upto n).find? fun i => s.poisoned sp (a + i) 1 with
  | some i => a + i
  | none => a

/-- Poison marks put on the words of a write, the words written whole by these bytes (10 R234: copies). -/
def State.markPoison (s : State) (sp : Space) (a n : Nat) : State := (s.poisonKeys sp a n).foldl State.mark s

/-- The errors that words written whole held are gone. -/
def State.clearErrors (s : State) (site : Nat → Site) (ws : List Nat) : List (Site × Bool) :=
  if s.latent = [] then [] else s.latent.filter fun e => !((ws.map site).contains e.1)

/-- Dirty lines of L2 as slices with `ways` ways keep them, of 1,024 lines of 128 bytes each: those beyond leave for their tier, the
lines `new` last (10 R221). -/
def State.l2Keep (s : State) (ways : Nat) (slices new : List Nat) (t : Tab Bool) : Tab Bool :=
  let cap := ways * 1024
  if t.length ≤ cap then t
  else
    let out := slices.flatMap fun k =>
      let mine := t.filter fun e => s.slice (e.1 * 128) == k
      ((mine.filter fun e => !(new.contains e.1)).take (mine.length - cap)).map (·.1)
    Tab.only (fun l => !(out.contains l)) t

/-- The dirty lines of L2 with these lines written. -/
def State.l2Take (s : State) (lines : List Nat) : Tab Bool :=
  s.l2Keep (12 - s.carve) (distinct (lines.map fun l => s.slice (l * 128))) lines
    (Tab.putAll false s.l2dirty (lines.map fun l => (l, true)))

/-- Bytes written to a space; a line of L2 is read from its tier before it is written. -/
def State.writeBytes (s : State) (sp : Space) (bs : List (Nat × Byte)) : State :=
  let as := bs.map (·.1)
  match sp with
  | .glob =>
    let s := s.meet (as.map fun a => .burst (a / 32))
    { s with gmem := Tab.putAll 0 s.gmem bs, gPoison := unpoison 8 s.gPoison as,
             latent := s.clearErrors .glob (wholeWords 8 as), l2dirty := s.l2Take (as.map (· / 128)) }
  | .chip => { s with cmem := Tab.putAll 0 s.cmem bs, cPoison := unpoison 8 s.cPoison as,
                      latent := s.clearErrors .chip (wholeWords 8 as) }
  | .spad c =>
    let b := s.spadBase c
    { s with smem := Tab.putAll 0 s.smem (bs.map fun e => (b + e.1, e.2)), sPoison := unpoison 4 s.sPoison (as.map (b + ·)),
             latent := s.clearErrors .spad (wholeWords 4 (as.map (b + ·))) }
  | .shad c =>
    let b := s.shadBase c
    { s with smem := Tab.putAll 0 s.smem (bs.map fun e => (b + e.1, e.2)), sPoison := unpoison 4 s.sPoison (as.map (b + ·)),
             latent := s.clearErrors .spad (wholeWords 4 (as.map (b + ·))) }
  | .unit => s

/-- `bs` at consecutive addresses from `a`. -/
def atAddr (a : Nat) : List Byte → List (Nat × Byte)
  | [] => []
  | b :: bs => (a, b) :: atAddr (a + 1) bs

/-- Bytes of a scratchpad bank from a key: words written whole lose their poison and their errors. -/
def State.setSpad (s : State) (key : Nat) (bs : List Byte) : State :=
  let as := (upto bs.length).map (key + ·)
  { s with smem := s.smem.setBytes key bs, sPoison := unpoison 4 s.sPoison as,
           latent := s.clearErrors .spad (wholeWords 4 as) }

/-- A number written in `n` bytes. -/
def State.writeNat (s : State) (sp : Space) (a n x : Nat) : State := s.writeBytes sp (atAddr a (leBytes n x))

/-! ### Translation (10 R223-R227) -/

/-- Kinds of access; `detail` is their DETAIL (09 R193). -/
inductive Acc where
  | read | write | atomic | fetch
  deriving DecidableEq, Repr

def Acc.detail : Acc → Nat
  | .read => 1
  | .write => 2
  | .atomic => 3
  | .fetch => 4

/-- Bytes of tier-2: 128 GiB for each socket whose module is used (10 R222, 21 R422). -/
def State.tier2Size (s : State) : Nat := (s.boot.modules.filter fun m => m % 4 != 0).length * 2 ^ 37

/-- Do `n` bytes from a physical address lie in its tier (10 R222)? -/
def State.tierOk (s : State) (pa n : Nat) : Bool :=
  decide (pa < 2 ^ 41) && decide (pa % 2 ^ 40 + n ≤ if pa < 2 ^ 40 then 72 * 2 ^ 30 else s.tier2Size)

/-- What a leaf maps. -/
structure Leaf where
  size : Nat
  ppage : Nat
  r : Bool
  w : Bool
  x : Bool
  deriving DecidableEq, Repr

/-- A valid table entry: none for a table outside its tier, a poisoned entry, V = 0 or a reserved bit (10 R225, R226). -/
def State.pte (s : State) (tbl ix entries : Nat) : Option Nat :=
  let a := tbl + 8 * ix
  let e := s.gmem.nat a 8
  if s.tierOk tbl (8 * entries) && !(s.poisoned .glob a 8) && bit e 0 && bitsOf e 41 23 == 0 && bitsOf e 7 9 == 0
  then some e else none

/-- The next table of a non-leaf entry. -/
def pteNext (e : Nat) (gran : Bool) : Option Nat :=
  if !bit e 1 && !bit e 6 && (gran || !bit e 5) then some (bitsOf e 16 25 * 65536) else none

/-- The page of a leaf entry. -/
def State.pteLeaf (s : State) (e size : Nat) : Option Leaf :=
  let p := bitsOf e 16 25 * 65536
  if bit e 1 && bit e 6 == bit e 40 && !bit e 5 && p % size == 0 && s.tierOk p size
  then some ⟨size, p, bit e 2, bit e 3, bit e 4⟩ else none

/-- The four-level walk (10 R224, R226). -/
def State.walk (s : State) (root va : Nat) : Option Leaf := do
  let _ ← if root % 65536 = 0 then some () else none
  let e0 ← s.pte root (bitsOf va 48 9) 512
  let t1 ← pteNext e0 false
  let e1 ← s.pte t1 (bitsOf va 39 9) 512
  let t2 ← pteNext e1 false
  let e2 ← s.pte t2 (bitsOf va 30 9) 512
  if bit e2 1 then s.pteLeaf e2 (2 ^ 30)
  else do
    let t3 ← pteNext e2 true
    if bit e2 5 then s.pteLeaf (← s.pte t3 (bitsOf va 21 9) 512) (2 ^ 21)
    else if bit t3 16 then none
    else s.pteLeaf (← s.pte t3 (bitsOf va 16 14) 16384) (2 ^ 16)

/-- The physical addresses of the table entries that a walk reads, one after another. -/
def State.walkPtes (s : State) (root va : Nat) : List Nat :=
  let clean : State := { s with gPoison := [], latent := [] }
  let next := fun (t ix entries : Nat) => (clean.pte t ix entries).bind fun e => (pteNext e true).map fun t => (t, bit e 5)
  let first := bitsOf va 48 9
  (root + 8 * first) :: match next root first 512 with
    | none => []
    | some e => (e.1 + 8 * bitsOf va 39 9) :: match next e.1 (bitsOf va 39 9) 512 with
      | none => []
      | some e => (e.1 + 8 * bitsOf va 30 9) :: match next e.1 (bitsOf va 30 9) 512 with
        | none => []
        | some e => [e.1 + 8 * if e.2 then bitsOf va 21 9 else bitsOf va 16 14]

/-- Does the walk meet a poisoned entry (10 R234)? -/
def State.walkPoison (s : State) (root va : Nat) : Bool := (s.walkPtes root va).any fun a => s.poisoned .glob a 8

/-- The sector of a core (01 R8); 640 + k stands for the units of sector k, which use its L2 TLB alone. -/
def sectorOf (core : Nat) : Nat := if core < 640 then core / 160 else core - 640

/-- The entry of a TLB that covers an address. -/
def State.tlbHit (s : State) (wh asid va : Nat) : Option TlbE :=
  s.tlb.find? fun e => e.where_ == wh && e.asid == asid && decide (e.vpage ≤ va ∧ va < e.vpage + e.size)

/-- Does the walk resolve the page of an address for a sector? One that a tlbinv has marked serves no later access. -/
def PageWalk.serves (k : PageWalk) (sector asid va : Nat) : Bool :=
  k.install && sectorOf k.core == sector && k.asid == asid && decide (k.vpage ≤ va ∧ va < k.vpage + k.size)

/-- The leaf that an access uses: of the core's L1 TLB, of its sector's L2 TLB, of a walk under way in the sector, which it joins,
or of a walk of its own (10 R227). -/
def State.leafOf (s : State) (core : Nat) (jd : JobDesc) (va : Nat) : Option Leaf :=
  match (s.tlbHit core jd.asid va).or (s.tlbHit (640 + sectorOf core) jd.asid va) with
  | some e => some ⟨e.size, e.ppage, e.r, e.w, e.x⟩
  | none => match s.walks.find? fun k => k.serves (sectorOf core) jd.asid va with
    | some k => some ⟨k.size, k.ppage, k.r, k.w, k.x⟩
    | none => s.walk jd.root va

/-- A leaf's right for an access. -/
def Leaf.allows (l : Leaf) : Acc → Bool
  | .read => l.r
  | .write | .atomic => l.w
  | .fetch => l.x

/-- The physical address of a virtual one, or the cause: PROT 6, XLATE 5 (10 R223, R226). -/
def State.translate (s : State) (core : Nat) (jd : JobDesc) (va : Nat) (k : Acc) : Except Nat Nat :=
  if 2 ^ 57 ≤ va then .error 6
  else match s.leafOf core jd va with
    | none => .error 5
    | some l => if l.allows k then .ok (l.ppage + va % l.size) else .error 6

/-- A translation enters a TLB; the oldest entry of a full one is replaced. -/
def tlbPut (cap : Nat) (e : TlbE) (l : List TlbE) : List TlbE :=
  let mine := l.filter fun x => x.where_ == e.where_
  let l := if mine.length < cap then l else match mine with
    | [] => l
    | o :: _ => l.filter fun x => decide (x ≠ o)
  l ++ [e]

/-- The entries that the walks for these pages read, those of them that no TLB and no walk under way serves. -/
def State.pteReads (s : State) (core : Nat) (jd : JobDesc) (vas : List Nat) : List Nat :=
  vas.flatMap fun va =>
    if (s.tlbHit core jd.asid va).isSome || (s.tlbHit (640 + sectorOf core) jd.asid va).isSome ||
      s.walks.any (fun k => k.serves (sectorOf core) jd.asid va) then [] else s.walkPtes jd.root va

/-- The walker reads entries and meets their errors (10 R233). -/
def State.meetPtes (s : State) (core : Nat) (jd : JobDesc) (vas : List Nat) : State :=
  if s.latent = [] then s else s.meet ((s.pteReads core jd vas).flatMap fun a => s.sites .glob a 8)

/-- Install the walk's result for an address in the TLBs that miss it (10 R227), counting the L1 miss. -/
def State.touchTlb (s : State) (core : Nat) (jd : JobDesc) (va : Nat) : State :=
  if (s.tlbHit core jd.asid va).isSome then s
  else
    let s := s.meetPtes core jd [va]
    let s := if core < 640 then s.countPm core 0 7 1 else s
    match s.leafOf core jd va with
    | none => s
    | some l =>
      let e : TlbE := ⟨core, jd.asid, va / l.size * l.size, l.size, l.ppage, l.r, l.w, l.x⟩
      let sec := 640 + sectorOf core
      let t := if (s.tlbHit sec jd.asid va).isSome then s.tlb else tlbPut 4096 { e with where_ := sec } s.tlb
      { s with tlb := if core < 640 then tlbPut 64 e t else t }

/-- The pages of an access that the core has still to wait for: in neither TLB, mapped, and in no walk of the core's own. -/
def State.misses (s : State) (core : Nat) (jd : JobDesc) (vas : List Nat) : List PageWalk :=
  distinct (vas.filterMap fun va =>
    if (s.tlbHit core jd.asid va).isSome || (s.tlbHit (640 + sectorOf core) jd.asid va).isSome ||
      s.walks.any (fun k => k.core == core && k.serves (sectorOf core) jd.asid va) then none
    else (s.leafOf core jd va).map fun l =>
      ⟨core, jd.asid, va / l.size * l.size, l.size, l.ppage, l.r, l.w, l.x, true, s.pteReads core jd [va]⟩)

/-- Free miss slots of a core, of 8. -/
def State.missRoom (s : State) (core : Nat) : Nat := 8 - (s.walks.filter fun k => k.core == core).length

/-- The misses of an access take miss slots, as far as they are free, and their walks begin or wait. -/
def State.startWalks (s : State) (core : Nat) (jd : JobDesc) (vas : List Nat) : State :=
  let new := (s.misses core jd vas).take (s.missRoom core)
  let s := if s.latent = [] then s else s.meet ((new.flatMap (·.ptes)).flatMap fun a => s.sites .glob a 8)
  { s with walks := s.walks ++ new }

/-- Must the access hold for a ninth outstanding miss (10 R227)? -/
def State.missHeld (s : State) (core : Nat) (jd : JobDesc) (vas : List Nat) : Bool :=
  decide (s.missRoom core < (s.misses core jd vas).length)

/-- The translations of an access: pages that an L2 TLB holds enter the core's own, the others wait for their walks. -/
def State.useTlb (s : State) (core : Nat) (jd : JobDesc) (vas : List Nat) : State :=
  let s := s.startWalks core jd vas
  vas.foldl (fun s va => if (s.tlbHit (640 + sectorOf core) jd.asid va).isSome then s.touchTlb core jd va else
    if (s.tlbHit core jd.asid va).isSome then s else s.countPm core 0 7 1) s

/-- The pages that a sector's walker resolves at once: the first 32 distinct ones in arrival order. -/
def State.walking (s : State) (sector : Nat) : List (Nat × Nat) :=
  (distinct ((s.walks.filter fun k => sectorOf k.core == sector).map fun k => (k.asid, k.vpage))).take 32

/-- A walk ends: one result serves every requester that joined it, and enters their L1 TLBs and the sector's L2 TLB, where no
tlbinv has marked it. -/
def State.endWalk (s : State) (sector : Nat) (page : Nat × Nat) : State :=
  let mine := fun (k : PageWalk) => sectorOf k.core == sector && (k.asid, k.vpage) == page
  let put := fun (t : List TlbE) (k : PageWalk) =>
    let e : TlbE := ⟨k.core, k.asid, k.vpage, k.size, k.ppage, k.r, k.w, k.x⟩
    let t := if t.any fun x => x.where_ == 640 + sector && x.asid == k.asid && x.vpage == k.vpage then t
      else tlbPut 4096 { e with where_ := 640 + sector } t
    if t.any fun x => x.where_ == k.core && x.asid == k.asid && x.vpage == k.vpage then t else tlbPut 64 e t
  { s with tlb := (s.walks.filter fun k => mine k && k.install).foldl put s.tlb, walks := s.walks.filter fun k => !(mine k) }

/-! ### Core watches (09 R203, 16 R339) -/

/-- Does entry `i` of a core's watch table strike this byte? -/
def watchByte (k : CoreSt) (i asid : Nat) (kind : Acc) (copy : Bool) (va : Nat) : Bool :=
  let c := Tab.read 0 k.watchC i
  bit c 63 && bitsOf c 32 16 == asid && bit c (if copy then 20 else 19) &&
  bit c (match kind with | .read => 16 | .write => 17 | _ => 18) &&
  bitsOf (Tab.read 0 k.watchA i) 4 53 == va % 2 ^ 57 / 16 && bit c (va % 16)

/-- The lowest-indexed entry that strikes a byte of an access, with its lowest struck byte (09 R203). -/
def State.watchHit (s : State) (core asid : Nat) (kind : Acc) (copy : Bool) (va n : Nat) : Option (Nat × Nat) :=
  let k := s.core core
  (upto 4).findSome? fun i =>
    ((upto n).find? fun j => watchByte k i asid kind copy (va + j)).map fun j => (i, va + j)

/-! ### Slice watches (09 R205, 16 R340) -/

/-- Does entry `i` of the slice watch table strike a byte? -/
def State.slByte (s : State) (i : Nat) (atomic : Bool) (pa : Nat) : Bool :=
  let c := Tab.read 0 s.swatchC i
  bit c 63 && bit c (if atomic then 18 else 17) && bitsOf (Tab.read 0 s.swatchA i) 4 37 == pa / 16 && bit c (pa % 16)

/-- The lowest entry that strikes one of the addresses, with the address. -/
def State.slStrike (s : State) (atomic : Bool) (as : List Nat) : Option (Nat × Nat) :=
  if s.swatchC = [] then none
  else (upto 16).findSome? fun i => (as.find? (s.slByte i atomic)).map fun a => (i, a)

/-- The report of a struck operation, to travel with its acknowledgement (09 R205). -/
def State.slReport (s : State) (atomic : Bool) (as : List Nat) (ipc : Nat) : List Report :=
  match s.slStrike atomic as with
  | none => []
  | some (i, a) =>
    [{ code := 0x12, detail := if atomic then 3 else 2, entry := i, eng := 1, unit := s.slice a, ipc := ipc }]

/-- A struck operation whose source has no cohort goes to the report ring; dropped while SWRING is 0 (16 R340). -/
def State.slPost (s : State) (atomic : Bool) (as : List Nat) : State :=
  match s.slStrike atomic as with
  | none => s
  | some (i, a) =>
    if s.swring = 0 then s
    else { s with posts := s.posts ++ [({ ring := s.swring, words :=
      [5 + 0x12 * 2 ^ 8 + (if atomic then 3 else 2) * 2 ^ 16 + i * 2 ^ 24, a, 0, 0] } : Post)] }

/-! ### Caches (10 R218-R220) -/

/-- The bytes of a line, or none on a miss; a line with no bytes holds the dirty bytes of a private line alone. -/
def State.l1Line (s : State) (core line priv : Nat) : Option (List Byte) :=
  match s.l1.find? fun e => e.core == core && e.line == line && e.priv == priv with
  | some e => if e.data = [] then none else some e.data
  | none => none

/-- Memory bytes with the known ones, by index, put over them. -/
def overlay (bs : List Byte) (known : List (Nat × Byte)) : List Byte :=
  (List.zip (upto bs.length) bs).map fun e => ((known.find? fun k => k.1 == e.1).map (·.2)).getD e.2

/-- Dirty lines of a crew's private memory go to their homes, poisoned words as poisoned ones (10 R217, R233); a line of L1 that was
dirty stays, clean (11 R251). Each is a write whose source has no cohort (16 R340). -/
def State.privOut (s : State) (k : Nat) (p : Nat → Bool) : State :=
  match s.crew k with
  | none => s
  | some cr =>
    let out := cr.privMem.filter fun e => p (e.1 / 128)
    let s := s.meet ((distinct (out.map fun e => e.1 / 128)).map (.priv k))
    let bad := (((s.crew k).map Crew.privBad).getD []).filter fun e => p (e.1 / 16)
    let s := (distinct (out.map fun e => e.1 / 128)).foldl (fun s l =>
      s.slPost false ((out.filter fun e => e.1 / 128 == l).map (·.1))) s
    let s := s.writeBytes .glob (out.filterMap fun e => e.2.map fun b => (e.1, b))
    let s := bad.foldl (fun s e => s.mark (.glob e.1)) s
    let clean := fun (e : L1Line) => { e with data := s.gmem.bytes (e.line * 128) 128 }
    let s := s.onCrew k fun cr => { cr with
      privMem := Tab.only (fun a => !(p (a / 128))) cr.privMem, privBad := Tab.only (fun w => !(p (w / 16))) cr.privBad }
    let kept := s.l1.filter fun e => !(e.priv == k && bad.any fun x => x.1 / 16 == e.line)
    { s with l1 := mapIf (fun e => e.priv == k && out.any fun x => x.1 / 128 == e.line) clean kept }

/-- Addresses of the dirty lines of a crew's private memory. -/
def State.privHomes (s : State) (k : Nat) (p : Nat → Bool) : List Nat :=
  match s.crew k with
  | none => []
  | some cr => distinct ((cr.privMem.filter fun e => p (e.1 / 128)).map fun e => e.1 / 128 * 128)

/-- Room for a line in L1, which holds 2,048: the oldest leaves a full one, written back where it is dirty; one whose write-back the
change state of a domain would turn away stays while there is another. -/
def State.l1Room (s : State) (core : Nat) : State :=
  let mine := s.l1.filter fun e => e.core == core
  let stuck := fun (e : L1Line) => e.priv != 0 && s.blocked (s.privHomes e.priv fun l => l == e.line)
  if mine.length < 2048 then s else match (mine.filter fun e => !(stuck e)) ++ mine with
    | [] => s
    | o :: _ =>
      let s := if o.priv = 0 then s else s.privOut o.priv fun l => l == o.line
      { s with l1 := s.l1.filter fun e => !(e.core == core && e.line == o.line && e.priv == o.priv) }

/-- A line enters L1. -/
def State.l1Put (s : State) (core line priv : Nat) (data : List Byte) : State :=
  let s : State := { s with l1 := s.l1.filter fun e => !(e.core == core && e.line == line && e.priv == priv) }
  let s := s.l1Room core
  { s with l1 := s.l1 ++ [⟨core, line, priv, data⟩] }

/-- A line is read from its home into L1. -/
def State.l1Fill (s : State) (core line priv : Nat) : State := s.l1Put core line priv (s.gmem.bytes (line * 128) 128)

/-- Lines dropped from a core's L1. -/
def State.l1Drop (s : State) (core : Nat) (lines : List Nat) : State :=
  { s with l1 := s.l1.filter fun e => !(e.core == core && e.priv == 0 && lines.contains e.line) }

/-- Flash invalidation: clean L1 lines and brick copies drop, and no fill under way is installed (11 R243, 12 R265). -/
def State.flash (s : State) (core : Nat) : State :=
  { s with l1 := s.l1.filter (fun e => e.core != core || e.priv != 0), bricks := s.bricks.filter (fun e => e.core != core),
           fabric := mapIf (fun p => p.core == core) (fun p => { p with kind := match p.kind with
             | .load t r n k f v => .load t r n k (f && v != 0) v
             | k => k }) s.fabric }

/-! ### Instruction fetch (02 R40, R41; 10 R220) -/

/-- A cached line of text. -/
def State.iline (s : State) (core job line : Nat) : Option ILine :=
  s.icache.find? fun l => l.core == core && l.job == job && l.line == line

/-- The clause-map bit of a text address, by a fetch of its byte; a cause and its address otherwise (02 R40). -/
def State.mapFetch (s : State) (cr : Crew) (pc : Nat) : Except (Nat × Nat) Bool :=
  let i := (pc - cr.hdr.text) / 4
  let va := cr.hdr.cmap + i / 8
  match s.translate cr.core cr.jd va .fetch with
  | .error e => .error (e, va)
  | .ok pa => if s.poisoned .glob pa 1 then .error (12, va) else .ok (bit (s.gmem.nat pa 1) (i % 8))

/-- The clause-map bit: of the copy held with the line, or fetched. -/
def State.mapBit (s : State) (cr : Crew) (pc : Nat) : Except (Nat × Nat) Bool :=
  match (s.iline cr.core cr.jd.job (pc / 64)).bind (·.map) with
  | some m => .ok (bit m (pc % 64 / 4))
  | none => s.mapFetch cr pc

/-- Is an address in the crew's text and aligned? -/
def Crew.inText (cr : Crew) (pc : Nat) : Bool :=
  pc % 4 == 0 && decide (cr.hdr.text ≤ pc ∧ pc < cr.hdr.text + cr.hdr.tlen)

/-- The target check of 02 R40: none when legal, else the cause and %tinfo. -/
def State.badTarget (s : State) (cr : Crew) (pc : Nat) : Option (Nat × Nat) :=
  if !cr.inText pc then some (8, pc)
  else match s.mapBit cr pc with
    | .ok true => none
    | .ok false => some (8, pc)
    | .error e => some e

/-- Is the word a clause header by the clause map? -/
def State.isHeader (s : State) (cr : Crew) (pc : Nat) : Bool :=
  match s.mapBit cr pc with
  | .ok b => b
  | .error _ => false

/-- The pages that the fetch of a line of text and of its clause-map bits uses. -/
def State.fetchPages (_s : State) (cr : Crew) (line : Nat) : List Nat :=
  let m := cr.hdr.cmap + (line * 64 - cr.hdr.text) / 4 / 8
  distinct ([line * 64, m, m + 2].map fun a => a / 65536 * 65536)

/-- The physical addresses that it reads. -/
def State.fetchHomes (s : State) (cr : Crew) (line : Nat) : List Nat :=
  let m := cr.hdr.cmap + (line * 64 - cr.hdr.text) / 4 / 8
  ([line * 64, m, m + 2].filterMap fun a => (s.translate cr.core cr.jd a .fetch).toOption) ++
    s.pteReads cr.core cr.jd (s.fetchPages cr line)

/-- The protected words that it reads. -/
def State.fetchSites (s : State) (cr : Crew) (line : Nat) : List Site :=
  if s.latent = [] then []
  else
    let m := cr.hdr.cmap + (line * 64 - cr.hdr.text) / 4 / 8
    let of := fun (va n : Nat) => match s.translate cr.core cr.jd va .fetch with
      | .ok pa => s.sites .glob pa n
      | .error _ => []
    of (line * 64) 64 ++ (upto 3).flatMap fun k => of (m + k) 1

/-- A line of text is fetched into the instruction cache, or a cause with the address (10 R220, R226, R234). -/
def State.ifill (s : State) (cr : Crew) (line : Nat) : Except (Nat × Nat) State :=
  match s.translate cr.core cr.jd (line * 64) .fetch with
  | .error e => .error (e, line * 64)
  | .ok pa =>
    let s := (s.useTlb cr.core cr.jd (s.fetchPages cr line)).meet (s.fetchSites cr line)
    let ws := (upto 16).map fun i => BitVec.ofNat 32 (s.gmem.nat (pa + 4 * i) 4)
    let bits := (upto 16).map fun i => s.mapFetch cr (line * 64 + 4 * i)
    let map := if bits.all (fun b => match b with | .ok _ => true | .error _ => false)
      then some ((upto 16).map fun i => match bits.getD i (.ok false) with
        | .ok true => 2 ^ i
        | _ => 0).sum else none
    let bad := ((upto 16).map fun i => if s.poisoned .glob (pa + 4 * i) 4 then 2 ^ i else 0).sum
    let rest := s.icache.filter fun l => !(l.core == cr.core && l.job == cr.jd.job && l.line == line)
    let mine := rest.filter fun l => l.core == cr.core
    let rest := if mine.length < 2048 then rest else match mine with
      | [] => rest
      | o :: _ => rest.filter fun l => decide (l ≠ o)
    .ok { s with icache := rest ++ [⟨cr.core, cr.jd.job, line, ws, map, bad⟩] }

/-- A cached word of text. -/
def State.iword (s : State) (cr : Crew) (pc : Nat) : Option Word :=
  (s.iline cr.core cr.jd.job (pc / 64)).bind fun l => l.words[pc % 64 / 4]?

/-- Was the cached word poisoned? -/
def State.iwordBad (s : State) (cr : Crew) (pc : Nat) : Bool :=
  match s.iline cr.core cr.jd.job (pc / 64) with
  | some l => bit l.poison (pc % 64 / 4)
  | none => false

end Sys2Proof.Machine
end

