-- ==== Sys2Proof/Machine/Ops.lean ====
section
/-!
DEFINITION. Sys2Proof/Machine/Ops.lean: the named operations that the meanings share: taking an exception (09
R191-R196) and returning from one (05 R125), boundaries of clauses (05 R114-R116), long-latency operations (02 R35),
the teardown of a crew (15 R324), and `issue`, the frame of every encoded instruction.
-/

namespace Sys2Proof.Machine

/-! ### Causes and their rank (09 R193, R194) -/

/-- A cause found in a lane. -/
structure LCause where
  tid : Nat
  code : Nat
  detail : Nat := 0
  info : Nat := 0
  entry : Nat := 0
  deriving DecidableEq, Repr

/-- Rank of a cause: lower wins (02 R58, 09 R194). -/
def causeRank (code : Nat) : Nat :=
  if code = 0x0F then 1 else if code = 0x10 then 2 else if code = 0x0D then 3 else if code = 0x0E then 4
  else if code = 0x08 then 5 else if code = 0x04 then 6 else if code = 0x07 then 7 else if code = 0x06 then 8
  else if code = 0x05 then 9 else if code = 0x0C then 10 else if code = 0x0A then 11 else 0

/-- The lanes that found the highest cause, each once. -/
def winners (l : List LCause) : List LCause :=
  let best := leastD 12 (l.map fun c => causeRank c.code)
  let top := l.filter fun c => causeRank c.code == best
  top.filter fun c => (top.find? fun d => d.tid == c.tid) == some c

/-- The cause of the lowest %tid among them (09 R196). -/
def lowestLane (l : LCause) (ls : List LCause) : LCause := ls.foldl (fun a b => if b.tid < a.tid then b else a) l

/-- What a meaning answers to the frame. -/
inductive Res where
  /-- The effect is complete: the active threads go on after the instruction. -/
  | done (s : State)
  /-- The meaning has set PC and state of every active thread, and the clause ends; `endRun` where it ends the run. -/
  | moved (s : State) (endRun : Bool := true)
  /-- An interlock: nothing changes and the word issues again (02 R39). -/
  | hold
  /-- An interlock that has changed the state (a fence's request has left, 11 R249). -/
  | held (s : State)
  /-- A precise fault (09 R191); `tpc` where it is not the word. -/
  | fault (lanes : List LCause)
  /-- A precise fault of the threads that are active in a state where they have all signed (08 R176). -/
  | faultIn (s : State) (lanes : List LCause)
  /-- A waiting instruction that is not satisfied (02 R33, 05 R113). -/
  | wait (s : State) (w : Wait)
  /-- The cohort parks by speculation (17 R357). -/
  | spec
  /-- The cohort has parked before its operands are checked (09 R199, 02 R58). -/
  | parks (s : State)
  /-- The active threads have left their handlers; `skip` marks their first issue (05 R125, 09 R206). -/
  | returns (s : State) (skip : Bool)
  /-- A precise fault that kills the crew wherever it is found (09 R196: of a tret). -/
  | kills (lanes : List LCause)

/-- A per-cohort fault: every active thread found it. -/
def Cohort.all (c : Cohort) (code : Nat) (detail info : Nat := 0) : Res :=
  .fault (c.actives.map fun t => ⟨t.tid, code, detail, info, 0⟩)

/-! ### Records of the fault unit (09 R197) -/

/-- A record of a fault queue, as four 64-bit words. -/
def recordWords (kind code detail core sub place asid addr pc crew seq : Nat) : List Nat :=
  [kind + code * 2 ^ 8 + detail * 2 ^ 16 + core * 2 ^ 32 + sub * 2 ^ 42 + place * 2 ^ 44 + asid * 2 ^ 48, addr, pc,
   crew % 2 ^ 32 + seq * 2 ^ 32]

/-- A record leaves the fault unit of a core for a job's fault queue; its SEQ is the core's record number. -/
def State.postFor (s : State) (core : Nat) (jd : JobDesc) (index sub place kind code detail addr pc : Nat) : State :=
  let seq := (s.core core).seq
  let s := s.onCore core fun k => { k with seq := (k.seq + 1) % 2 ^ 32 }
  { s with posts := s.posts ++
      [{ ring := jd.fq, words := recordWords kind code detail core sub place jd.asid addr pc index seq }] }

/-- A record of a cohort of a crew. -/
def State.postRecord (s : State) (cr : Crew) (sub place kind code detail addr pc : Nat) : State :=
  s.postFor cr.core cr.jd cr.index sub place kind code detail addr pc

/-! ### Threads that may run (05 R113, 09 R195) -/

/-- May the thread be chosen? While %tmode is 1, only the threads of the handler. -/
def Cohort.elig (c : Cohort) (t : Thread) : Bool := decide (t.st = .eligible) && (!c.tmode || t.inH)

/-- R115: release the held threads of every meeting address that all its non-exited threads hold. -/
def Cohort.release (c : Cohort) : Cohort :=
  let open_ := fun (m : Dword) => c.threads.any fun t => decide (t.mr = m ∧ t.st ≠ .exited ∧ t.st ≠ .held)
  c.mapT (fun t => decide (t.st = .held) && !(open_ t.mr)) fun t => { t with st := .eligible, mr := BitVec.allOnes 64 }

/-- R116: yielded threads return once no thread of their set is still to issue. -/
def Cohort.unyield (c : Cohort) : Cohort :=
  let still := fun (w : List Nat) => w.filter fun n => c.threads.any fun t => t.tid == n && c.elig t
  { c with threads := c.threads.map fun t => match t.st with
      | .yielded w => { t with st := if still w = [] then .eligible else .yielded (still w) }
      | _ => t }

/-- R114, steps 2 and 3, at a clause boundary, and R125: %tmode falls when no thread is in its handler. A thread that was held before a
trap, or that tret returns to a PC equal to its MR, counts as held while %tmode is 1 and not as parked: the release of R115 does not wait
for it (notes/assumptions/78.md). -/
def Cohort.settle (c : Cohort) : Cohort :=
  let c := { c with tmode := c.tmode && c.threads.any (·.inH) }
  let c := if c.clause = none then
    c.mapT (fun t => decide (t.st = .eligible ∧ t.pc = t.mr)) fun t => { t with st := .held } else c
  c.release.unyield

/-- The end of the clause under way: nothing is active; `endRun` ends the run (02 R38). -/
def Cohort.endClause (c : Cohort) (endRun : Bool) : Cohort :=
  let ch := match c.clause with
    | some cl => hChain cl.word
    | none => false
  ({ c with clause := none, chain := ch && !endRun, threads := c.threads.map fun t => { t with act := false } } : Cohort).settle

/-- Address of the clause header after the clause under way. -/
def Cohort.nextHeader (c : Cohort) : Nat :=
  match c.clause with
  | some cl => cl.hdr + 4 * (1 + hCount cl.word)
  | none => 0

/-- Word number, from 0, of a PC in the clause under way. -/
def Cohort.wordIx (c : Cohort) (pc : Nat) : Nat :=
  match c.clause with
  | some cl => (pc - cl.hdr) / 4 - 1
  | none => 0

/-- The threads `ids` have issued once: their watch skip is used and they leave every yield set (05 R116, 09 R206). -/
def Cohort.issued (c : Cohort) (ids : List Nat) : Cohort :=
  { c with threads := c.threads.map fun t =>
      let t := if ids.contains t.tid then { t with skipW := false } else t
      match t.st with
      | .yielded w => { t with st := .yielded (w.filter fun n => !(ids.contains n)) }
      | _ => t }

/-- The active threads pass an instruction of `len` words; at the clause's end the clause ends. -/
def Cohort.advance (c : Cohort) (len : Nat) : Cohort :=
  let c := c.mapT (·.act) fun t => { t with pc := BitVec.ofNat 64 (t.pc.toNat + 4 * len) }
  if c.actives = [] ∨ c.nextHeader ≤ c.pc then c.endClause false else c.unyield

/-! ### Long-latency operations (02 R35, R36, R39) -/

/-- The flags that the instruction at the issuing word raises: SETA, and SETB when no later word is long-latency. -/
def Cohort.opFlags (c : Cohort) (len : Nat) : List Nat :=
  match c.clause with
  | none => []
  | some cl =>
    let a := if hSetA cl.word = 15 then [] else [hSetA cl.word]
    let b := if hSetB cl.word = 15 ∨ anyLong (cl.words.drop (c.wordIx c.pc + len)) then [] else [hSetB cl.word]
    distinct (a ++ b)

/-- Have packets been acknowledged? -/
def State.landed (s : State) (ids : List Nat) : Bool :=
  ids.all fun id => !(s.fabric.any fun q => q.id == id) && !(s.cohorts.any fun c => c.unacked.any fun u => u.1 == id)

/-- The packets that a cohort's pending releases wait for (11 R243). -/
def State.releaseNeeds (s : State) (k : Nat) : List Nat := (s.fabric.filter fun p => p.cohort == k).flatMap (·.need)

/-- A long-latency operation begins: the cohort's list, flags and counter take it; its id is the second answer. -/
def State.startOp (s : State) (k len : Nat) (op : Op) : State × Nat :=
  let id := s.fresh
  let need := s.releaseNeeds k
  let s := { s with fresh := id + 1 }
  (s.onCohort k fun c =>
    let fl := c.opFlags len
    let c := c.raise fl
    { c with ops := c.ops ++ [{ op with id := id, flags := fl, need := need }],
             outst := if op.cls = .none then c.outst else c.outst ++ [{ id := id, cls := op.cls }] }, id)

/-- Apply a result write. -/
def Cohort.applyWrite (c : Cohort) : RegWrite → Cohort
  | .v tid reg x po => c.mapT (fun t => t.tid == tid) fun t =>
      let t := t.setV reg x
      if po && reg != 63 then { t with vPoison := Tab.put false t.vPoison reg true } else t
  | .s reg x => c.setS reg x
  | .sBad reg => if reg = 63 then c else { c with sPoison := Tab.put false c.sPoison reg true }
  | .p tid reg b => c.mapT (fun t => t.tid == tid) fun t => t.setP reg b

def Cohort.applyWrites (c : Cohort) : List RegWrite → Cohort
  | [] => c
  | w :: ws => (c.applyWrite w).applyWrites ws

/-- Finished members leave an outstanding counter in issue order (01 R29, 20 R409). -/
def retireOuts : List Outst → List Outst → List Outst
  | _, [] => []
  | seen, o :: os =>
    if o.done && !(seen.any fun x => decide (x.cls = o.cls)) then retireOuts seen os else o :: retireOuts (o :: seen) os

/-- An operation of the list with this id. -/
def Cohort.op (c : Cohort) (id : Nat) : Option Op := c.ops.find? fun o => o.id == id

/-- The operation completes: its results and sticky bits are written, its flags fall, its counter retires. -/
def Cohort.completeOp (c : Cohort) (id : Nat) : Cohort :=
  match c.op id with
  | none => c
  | some o =>
    let c := (c.applyWrites o.res).lower o.flags
    { c with ops := c.ops.filter (fun x => x.id != id), fpst := c.fpst ||| o.fp,
             outst := retireOuts [] (mapIf (fun x => x.id == id) (fun x => { x with done := true }) c.outst) }

/-- Change an operation. -/
def Cohort.onOp (c : Cohort) (id : Nat) (f : Op → Op) : Cohort :=
  { c with ops := mapIf (fun o => o.id == id) f c.ops }

/-- May the engine begin the operation: are the releases that were pending at its issue performed (12 R275)? -/
def State.opMay (s : State) (c : Cohort) (id : Nat) : Bool := (c.op id).all fun o => s.landed o.need

/-- An operation that is complete when it has issued: its results are written by the completion event. -/
def State.quickOp (s : State) (k len : Nat) (op : Op) : State := (s.startOp k len op).1

/-! ### Teardown and kill (15 R324, 09 R196) -/

/-- Set the CANCELLED bits of a launch and of the instances above it (20 R410). -/
def State.markCancelled (s : State) (h : Nat) : State :=
  match s.launch h with
  | none => s
  | some l =>
    let s := s.onLaunch h fun l => { l with cancelled := true }
    let above := fun (g : GroupCnt) => g.job == l.lrec.job &&
      (g.level == 2 || (g.level == 0 && g.id == l.lrec.graph) || (g.level == 1 && g.id == l.lrec.phase))
    { s with groups := mapIf above (fun g => { g with cancelled := true }) s.groups }

/-- A torn-down cohort: no thread runs, waits end, unstarted matrix work is dropped, results are discarded. -/
def Cohort.tear (c : Cohort) : Cohort :=
  let dropped := (c.stream.filter fun m => !m.admitted).map (·.op) ++ (c.emul.map (·.op)).toList
  let c : Cohort := { c with
    threads := c.threads.map fun t => { t with st := .exited, act := false, inH := false, cv := 0 }
    clause := none, sigs := [], reports := [], xpark := none, emul := none, drainPark := none, drainFault := none, fence := none,
    haltP := none, tlbWait := none, sync := none, tmode := false, stream := c.stream.filter (·.admitted), openBatch := none }
  let c : Cohort := { c with ops := c.ops.map fun o => { o with res := [] } }
  dropped.foldl Cohort.completeOp c

/-- Tear a crew down: its cohorts issue nothing more, its copies stop, its bins empty, its rays and held stores drop. -/
def State.tearCrew (s : State) (k : Nat) (squash : Bool) : State :=
  match s.crew k with
  | none => s
  | some cr =>
    let s := s.onCrew k fun cr =>
      { cr with torn := true, squashed := cr.squashed || squash, cancelled := cr.cancelled || !squash, qwait := [],
                effects := [], rays := [], heldKill := none, committing := false, mig := if cr.moving then cr.mig else .none }
    let keys := (s.cohortsOf k).map (·.key)
    let dead := cr.rays.map (·.op) ++ (s.copies.filter fun x => x.crew == k).map (·.op)
    let torn := fun (c : Cohort) => dead.foldl Cohort.completeOp c.tear
    let stays := fun (r : StoreReq) => match r with
      | .spawnw c _ | .done c _ => !(keys.contains c)
      | _ => true
    let ended := fun (b : Batch) => { b with closed := true, ended := true, paused := none }
    let dropped := fun (x : Copy) => { x with done := true, pausedW := none }
    let s := (s.cohortsOf k).foldl (fun s c => match c.sync with
      | some e => (s.syncEnd e.1 e.2).1
      | none => s) s
    { s with cohorts := mapIf (fun c => c.crew == k) torn s.cohorts,
             running := s.running.filter (fun e => !(keys.contains e.2)),
             storeWait := s.storeWait.filter stays,
             batches := mapIf (fun b => b.crew == k) ended s.batches,
             copies := mapIf (fun c => c.crew == k) dropped s.copies,
             bins := s.bins.filter fun e => e.2.crew != k }

/-- A kill takes effect: the record is posted, the CANCELLED bits are set, the crew is torn down. -/
def State.killNow (s : State) (k : Nat) (r : Kill) : State :=
  match s.crew k with
  | none => s
  | some cr =>
    let s := s.postRecord cr r.sub r.place 2 r.code r.detail r.info.toNat r.pc.toNat
    (s.markCancelled cr.launch).tearCrew k false

/-- A kill of a crew: held while it is speculative, its faulting threads parked (17 R357). -/
def State.killCrew (s : State) (c : Cohort) (who : Thread → Bool) (r : Kill) : State :=
  if (s.crewOf c).spec then
    let s := s.onCrew c.crew fun cr => { cr with heldKill := cr.heldKill.or (some r) }
    s.onCohort c.key fun c => (c.mapT who fun t => { t with st := .parked .spec, act := false }).endClause true
  else s.killNow c.crew r

/-! ### Requests of threads (14 R304, 15 R319) -/

/-- Does a request of the store belong to threads of a cohort? -/
def StoreReq.ofThreads (r : StoreReq) (k : Nat) (tids : List Nat) : Bool :=
  match r with
  | .spawnw c ts | .done c ts => c == k && ts.any tids.contains
  | _ => false

/-- The requests of the threads `gone` of a cohort are withdrawn, at a queue unit and at the store: their instruction has ended in an
exception or a report, or their thread parks; those of its other threads stay. -/
def State.endWaits (s : State) (k : Nat) (gone : List Nat) : State :=
  let stays := fun (w : QWaiter) => w.cohort != k || !(w.tids.any gone.contains)
  { s with crews := s.crews.map (fun cr => { cr with qwait := cr.qwait.filter stays }),
           storeWait := s.storeWait.filter fun r => !(r.ofThreads k gone) }

/-! ### Taking an exception (09 R191-R198) -/

/-- %tcause of a delivery (09 R192). -/
def tcauseOf (code detail entry : Nat) (peer imprecise overrun : Bool) : BitVec 32 :=
  BitVec.ofNat 32 (code + detail * 2 ^ 8 + entry * 2 ^ 16 + imprecise.toNat * 2 ^ 24 + overrun.toNat * 2 ^ 25 +
    peer.toNat * 2 ^ 26)

/-- A thread is delivered: its trap registers, then its PC := the trap PC (09 R191). -/
def Thread.deliver (t : Thread) (tpc info : Nat) (cause : BitVec 32) (trappc : Nat) : Thread :=
  { t with tpc := BitVec.ofNat 64 tpc, tmr := t.mr, tcause := cause, tinfo := BitVec.ofNat 64 info,
           pc := BitVec.ofNat 64 trappc, inH := true, act := false, skipW := false, st := .eligible }

/-- The threads `who` are delivered: those with an entry in `lanes` with its own record, the others with PEER = 1. -/
def Cohort.deliverAll (c : Cohort) (who : Thread → Bool) (tpc code detail : Nat) (lanes : List LCause) (trappc : Nat) :
    Cohort :=
  let one := fun (t : Thread) => match lanes.find? fun (x : LCause) => x.tid == t.tid with
    | some x => t.deliver tpc x.info (tcauseOf code detail x.entry false false false) trappc
    | none => t.deliver tpc 0 (tcauseOf code detail 0 true false false) trappc
  ({ c.mapT who one with tmode := true } : Cohort).endClause true

/-- Is a trap PC one that R40 refuses, or absent (09 R196)? -/
def State.trapRefused (s : State) (cr : Crew) : Bool :=
  cr.hdr.trappc == 0 || (s.badTarget cr cr.hdr.trappc).isSome

/-- An XLATE park: one record of KIND 1 for each 64 KiB region, with its lowest faulting address (09 R198). The threads' requests are
withdrawn. A watch skip of tret.skip is not spent by it, nor by a wait (notes/assumptions/99.md). -/
def State.xpark (s : State) (c : Cohort) (who : Thread → Bool) (word tpc : Nat) (lanes : List LCause) : State :=
  let cr := s.crewOf c
  let regions := distinct (lanes.map fun l => l.info / 65536)
  let detail := (lanes.head?.map (·.detail)).getD 1
  let step := fun (a : State × List XRec) (r : Nat) =>
    let addr := leastD 0 ((lanes.filter fun l => l.info / 65536 == r).map (·.info))
    (a.1.postRecord cr c.sub c.place 1 5 detail addr word,
      a.2 ++ [({ seq := (a.1.core cr.core).seq, region := r } : XRec)])
  let (s, recs) := regions.foldl step (s, [])
  (s.endWaits c.key ((c.threads.filter who).map (·.tid))).onCohort c.key fun c =>
    let c := (c.mapT who fun t => { t with st := .parked .xlate, act := false }).endClause true
    { c with
      xpark := some { recs := recs, lanes := lanes.map fun l => (l.tid, l.info), detail := detail, tpc := tpc } }

/-- A precise fault kills the crew: the record holds the cause of a lane (09 R196). -/
def State.killFault (s : State) (c : Cohort) (who : Thread → Bool) (tpc : Nat) (l : LCause) : State :=
  s.killCrew c who { code := l.code, detail := l.detail, info := BitVec.ofNat 64 l.info, pc := BitVec.ofNat 64 tpc,
                     sub := c.sub, place := c.place }

/-- TAKING AN EXCEPTION: the threads `who` of a cohort are delivered with the winning cause found in `lanes`, the others
of them with PEER = 1 (09 R191, R194), and their requests end; XLATE parks (R198); in trap mode, with no usable trap PC or in a save step the crew
is killed (R196; 13 R292). `word` is the address that a record holds, `tpc` the value of %tpc. -/
def State.takeFault (s : State) (k : Nat) (who : Thread → Bool) (word tpc : Nat) (lanes : List LCause) : State :=
  match s.cohort k, winners lanes with
  | some c, l :: ls =>
    let cr := s.crewOf c
    if l.code = 5 then s.xpark c who word tpc (l :: ls)
    else if c.tmode || s.trapRefused cr || cr.saving then s.killFault c who tpc (lowestLane l ls)
    else
      (s.endWaits k ((c.threads.filter who).map (·.tid))).onCohort k fun c =>
        c.deliverAll who tpc l.code l.detail (l :: ls) cr.hdr.trappc
  | _, _ => s

/-- The return from an exception of one thread (05 R125): it leaves its handler and continues at %tpc, MR as it is. -/
def Thread.leave (t : Thread) (skip : Bool) : Thread :=
  { t with pc := t.tpc, inH := false, act := false, skipW := skip }

/-- THE RETURN FROM AN EXCEPTION: every active thread leaves its handler; %tmode falls when none is left in it, and the copies whose
watch report that handler received go on (09 R204). -/
def State.returnTrap (s : State) (k : Nat) (skip : Bool) : State :=
  let resumes := fun (x : Copy) => x.cohort == k && x.pausedW == some true
  ({ s with copies := mapIf resumes (fun x => { x with pausedW := none }) s.copies } : State).onCohort k fun c =>
    (c.mapT (·.act) fun t => t.leave skip).endClause true

/-- A rejected XLATE park is delivered (09 R198): PEER = 0 for the lanes whose page was rejected. -/
def State.rejectPark (s : State) (c : Cohort) (p : XPark) : State :=
  let bad := (p.recs.filter fun r => r.answer == some true).map (·.region)
  let who := fun (t : Thread) => decide (t.st = .parked .xlate)
  let cr := s.crewOf c
  let lanes := p.lanes.filter fun l => bad.contains (l.2 / 65536)
  let s := s.onCohort c.key fun c => { c with xpark := none }
  if c.tmode || s.trapRefused cr || cr.saving then
    let ls := lanes.map fun l => (⟨l.1, 5, p.detail, l.2, 0⟩ : LCause)
    s.killFault c who p.tpc (lowestLane (ls.headD ⟨0, 5, p.detail, 0, 0⟩) ls)
  else
    s.onCohort c.key fun c =>
      c.deliverAll who p.tpc 5 p.detail (lanes.map fun l => ⟨l.1, 5, p.detail, l.2, 0⟩) cr.hdr.trappc

/-! ### Imprecise reports (09 R200-R202) -/

/-- %tinfo of a report (09 R201). -/
def Report.info (r : Report) : Nat := r.ipc / 4 % 2 ^ 55 + r.unit * 2 ^ 55 + r.eng * 2 ^ 62

/-- A report reaches its cohort: merged into an equal pending one, queued, or dropped with OVERRUN (09 R202). -/
def mergeReport (l : List Report) (r : Report) : List Report :=
  let same := fun (x : Report) => x.code == r.code && x.eng == r.eng && x.unit == r.unit && x.ipc == r.ipc
  if l.any same then mapIf same (fun x => { x with detail := max x.detail r.detail, entry := min x.entry r.entry }) l
  else if l.length < 4 then l ++ [r]
  else l.take 3 ++ (l.drop 3).map fun x => { x with overrun := true }

/-- An ORPHAN record of a report (09 R196, R202). -/
def State.orphan (s : State) (cr : Crew) (sub place : Nat) (r : Report) (pc : Nat) : State :=
  s.postRecord cr sub place 3 r.code r.detail r.info pc

/-- A copy that a watch paused learns what became of its report: delivered, it waits for that handler's return; posted as an ORPHAN,
no handler will return and it goes on (09 R204; notes/assumptions/70.md). The delivery of a report with OVERRUN stands for those
that were dropped. -/
def State.watchReport (s : State) (k : Nat) (r : Report) (delivered : Bool) : State :=
  let of := fun (x : Copy) => x.cohort == k && x.pausedW.isSome &&
    ((r.code == 18 && r.eng == 0 && r.ipc == x.ipc) || r.overrun)
  { s with copies := mapIf of (fun x => { x with pausedW := if delivered then some true else none }) s.copies }

/-- Delivery of the oldest pending report to the threads `who` (09 R200), whose requests end; an ORPHAN where no trap PC is usable, whose
record holds the PC at which they would have taken it (notes/assumptions/97.md). A save step delivers it as any other time
(notes/assumptions/98.md). -/
def State.deliverReport (s : State) (k : Nat) (who : Thread → Bool) : State :=
  match s.cohort k with
  | none => s
  | some c =>
    match c.reports with
    | [] => s
    | r :: rest =>
      let cr := s.crewOf c
      let s := s.onCohort k fun c => { c with reports := rest }
      let pc := match c.threads.find? who with
        | some t => t.pc.toNat
        | none => 0
      if s.trapRefused cr then (s.orphan cr c.sub c.place r pc).watchReport k r false
      else ((s.watchReport k r true).endWaits k ((c.threads.filter who).map (·.tid))).onCohort k fun c =>
        let cause := tcauseOf r.code r.detail r.entry false true r.overrun
        let c := c.mapT who fun t => t.deliver t.pc.toNat r.info cause cr.hdr.trappc
        ({ c with tmode := true } : Cohort).endClause true

/-! ### The frame of an instruction -/

/-- What the frame must know of an instruction: its words, its guard field (7: none), the registers it reads and writes,
whether it is long-latency, and whether it reads its registers only when its signature is complete (08 R171). -/
structure Info where
  words : List Word
  g : Nat := 7
  vs : List Nat := []
  vd : List Nat := []
  ss : List Nat := []
  sd : List Nat := []
  ps : List Nat := []
  long : Bool := false
  late : Bool := false
  /-- Its destination is not written in every acting lane. -/
  part : Bool := false
  deriving DecidableEq, Repr

/-- The number of the words of an instruction. -/
def Info.len (i : Info) : Nat := i.words.length

/-- Every register is in the role's budget (03 R73). -/
def Info.inBudget (i : Info) (r : RoleDecl) : Bool :=
  (i.vs ++ i.vd).all (fun n => n == 63 || decide (n < r.v)) && (i.ss ++ i.sd).all fun n => n == 63 || decide (n < r.s)

/-- The scoreboard holds a register that an operation under way is to write (02 R39). -/
def Cohort.busyRegs (c : Cohort) (i : Info) : Bool :=
  c.ops.any fun o => (i.vs ++ i.vd).any (o.regsV.contains ·) || (i.ss ++ i.sd).any (o.regsS.contains ·) ||
    (i.g :: i.ps).any (o.regsP.contains ·)

/-- Poisoned source registers of the acting lanes (09 R193, 10 R234); a lane that does not act gives a shuffle its word whether poisoned
or not (notes/assumptions/96.md). -/
def Cohort.badRegs (c : Cohort) (i : Info) : List LCause :=
  let sBad := i.ss.find? fun n => Tab.read false c.sPoison n
  (c.actors i.g).filterMap fun t =>
    match i.vs.find? fun n => Tab.read false t.vPoison n with
    | some n => some ⟨t.tid, 12, 0, 2 ^ 63 + n, 0⟩
    | none => sBad.map fun n => ⟨t.tid, 12, 0, 2 ^ 63 + 256 + n, 0⟩

/-- Those that a word finds as it issues. -/
def Cohort.regPoison (c : Cohort) (i : Info) : List LCause := if i.late then [] else c.badRegs i

/-- The registers that the acting lanes read, as protected words (10 R233). -/
def Cohort.regSites (c : Cohort) (i : Info) : List Site :=
  ((c.actors i.g).flatMap fun t => i.vs.map fun n => Site.vreg c.key t.tid n) ++ i.ss.map fun n => Site.sreg c.key n

/-- Those that a word reads as it issues. -/
def Cohort.issueSites (c : Cohort) (i : Info) : List Site := if i.late then [] else c.regSites i

/-- The registers that a word writes as it issues: those of the acting lanes and the scalar ones. -/
def Cohort.destSites (c : Cohort) (i : Info) : List Site :=
  if i.long || i.part then []
  else ((c.actors i.g).flatMap fun t => i.vd.map fun n => Site.vreg c.key t.tid n) ++ i.sd.map fun n => Site.sreg c.key n

/-- Words are written whole: the errors that they held are gone (10 R233). -/
def State.rewrite (s : State) (ws : List Site) : State :=
  if s.latent = [] then s else { s with latent := s.latent.filter fun e => !(ws.contains e.1) }

/-- The words of a register file that a result writes. -/
def RegWrite.sites (k : Nat) : RegWrite → List Site
  | .v tid reg _ _ => [.vreg k tid reg]
  | .s reg _ | .sBad reg => [.sreg k reg]
  | .p _ _ _ => []

/-- The cohort whose clause is under way on the focus port. -/
def State.issuer (s : State) : Option Cohort :=
  match s.cohort (Tab.read 0 s.running s.focus) with
  | some c => if c.clause.isSome && !c.actives.isEmpty then some c else none
  | none => none

/-- The port holds its word: an interlock cycle is counted (02 R39, 20 R411). -/
def State.stall (s : State) : State :=
  { s.countPm (s.focus / 8) (s.focus / 2 % 4) 3 1 with stalled := true }

/-- The cohort parks by speculation (17 R357). -/
def State.specPark (s : State) (k : Nat) : State :=
  (s.onCohort k fun c =>
    (c.mapT (·.act) fun t => { t with st := .parked .spec, act := false }).endClause true).countPm
      (s.focus / 8) (s.focus / 2 % 4) 13 1

/-- The word has issued for the threads `ids`: counted, and noted for yields and watch skips. -/
def State.wordIssued (s : State) (k : Nat) (ids : List Nat) : State :=
  (s.onCohort k fun c => c.issued ids).countPm (s.focus / 8) (s.focus / 2 % 4) 2 1

/-- What the frame makes of a meaning's answer. -/
def State.finish (s : State) (c : Cohort) (len : Nat) (poison : List LCause) : Res → State
  | .hold => s.stall
  | .held s' => s'.stall
  | .done s' => (s'.wordIssued c.key (c.actives.map (·.tid))).onCohort c.key fun c => c.advance len
  | .moved s' r => (s'.wordIssued c.key (c.actives.map (·.tid))).onCohort c.key fun c => c.endClause r
  | .parks s' => (s'.wordIssued c.key (c.actives.map (·.tid))).onCohort c.key fun c => c.endClause true
  | .returns s' skip =>
      let ids := c.actives.map (·.tid)
      (s'.wordIssued c.key ids).onCohort c.key fun c =>
        (c.mapT (fun t => ids.contains t.tid) fun t => { t with skipW := skip }).endClause true
  | .kills lanes => match winners lanes with
    | l :: ls => s.killFault c (·.act) c.pc (lowestLane l ls)
    | [] => s
  | .wait s' w => s'.onCohort c.key fun c =>
      (c.mapT (·.act) fun t => { t with st := .waiting w, act := false }).endClause true
  | .spec => s.specPark c.key
  | .faultIn s' lanes => s'.takeFault c.key (·.act) c.pc c.pc lanes
  | .fault lanes => s.takeFault c.key (·.act) c.pc c.pc (poison ++ lanes)

/-- Does an answer go before a poisoned source register (09 R194)? -/
def Res.before (r : Res) : Bool :=
  match r with
  | .fault _ => true
  | .faultIn _ _ => true
  | .hold => true
  | .held _ => true
  | .parks _ => true
  | .kills _ => true
  | _ => false

/-- The meaning's answer; where it is complete, the registers that it has written hold no error (10 R233). -/
def Cohort.answer (c : Cohort) (i : Info) (s : State) (body : Cohort → State → Res) : Res :=
  if s.latent = [] then body c s
  else match body c s with
    | .done _ => body c (s.rewrite (c.destSites i))
    | r => r

/-- The word acts: the errors of the registers that it reads are met (10 R233), and its meaning answers, unless a poisoned source goes
before the answer (10 R234). -/
def State.wordActs (s : State) (c : Cohort) (i : Info) (body : Cohort → State → Res) : State :=
  let s := s.meet (c.issueSites i)
  let c := (s.cohort c.key).getD c
  let p := c.regPoison i
  let r := c.answer i s body
  s.finish c i.len p (if p ≠ [] ∧ r.before = false then .fault p else r)

/-- THE FRAME of an encoded instruction: the issuing cohort is the one whose clause is under way on the focus port;
ILLEGAL_OP for a register outside the budget (03 R73), the interlocks of the scoreboard and of full flags (02 R35, R39), and the word
acts. -/
def issue (i : Info) (s : State) (body : Cohort → State → Res) : Host.Outcome State Fault Refusal :=
  match s.issuer with
  | none => .fault .noIssuer
  | some c =>
    let s := { s with stalled := false }
    if !i.inBudget ((s.crewOf c).role c.role) then
      .next (s.takeFault c.key (·.act) c.pc c.pc (c.actives.map fun t => ⟨t.tid, 1, 0, ((i.words.headD 0).toNat), 0⟩))
    else if c.busyRegs i || (i.long && (c.opFlags i.len).any fun f => decide (63 ≤ c.flag f)) then .next s.stall
    else .next (s.wordActs c i body)

/-- ILLEGAL_OP found by a meaning (02 R58). -/
def Cohort.illegal (c : Cohort) (i : Info) : Res := c.all 1 0 ((i.words.headD 0).toNat)

/-- May the crew run privileged instructions (02 R54)? -/
def State.privileged (s : State) (c : Cohort) : Bool :=
  let cr := s.crewOf c
  cr.hdr.system && match s.launch cr.launch with
    | some l => l.system
    | none => false

/-- Has the cohort an acquire under way (12 R270)? -/
def Cohort.acquiring (c : Cohort) : Bool := c.ops.any fun o => o.acq != 0

end Sys2Proof.Machine
end

