-- ==== Sys2Proof/Machine/Flags.lean ====
section
/-!
DEFINITION. Sys2Proof/Machine/Flags.lean: conditions of the integer compares (05 R106, R111), of FCMP (06 R134), and the
sticky status bits (03 R82, R83).
-/

namespace Sys2Proof.Machine

/-- The answers of a meaning. -/
abbrev Out := Host.Outcome State Fault Refusal

/-- Conditions of SCMP and VCMP (05 R106). -/
inductive Cond where
  | eq | ne | lt | le | gt | ge | ltn | len | gtn | gen
  deriving DecidableEq, Repr

/-- A condition on two values of one width. -/
def Cond.holds {w : Nat} (c : Cond) (a b : BitVec w) : Bool :=
  match c with
  | .eq => a == b
  | .ne => a != b
  | .lt => a.slt b
  | .le => a.sle b
  | .gt => b.slt a
  | .ge => b.sle a
  | .ltn => a.ult b
  | .len => a.ule b
  | .gtn => b.ult a
  | .gen => b.ule a

/-- Conditions of FCMP (06 R134). -/
inductive FCond where
  | eq | ne | lt | le | gt | ge | un | ord
  deriving DecidableEq, Repr

/-- Is the condition true of the order of two values, none when unordered? -/
def FCond.holds (c : FCond) (o : Option Int) : Bool :=
  match c, o with
  | .eq, some x => x == 0
  | .ne, some x => x != 0
  | .ne, none => true
  | .lt, some x => decide (x < 0)
  | .le, some x => decide (x ≤ 0)
  | .gt, some x => decide (0 < x)
  | .ge, some x => decide (0 ≤ x)
  | .un, none => true
  | .ord, some _ => true
  | _, _ => false

/-- IV of an FCMP: any NaN for the ordering conditions, a signalling NaN for the others. -/
def FCond.invalid (c : FCond) (a b : FVal) : FFlags :=
  match c with
  | .lt | .le | .gt | .ge => if a.isNan || b.isNan then fIV else 0
  | _ => snanFlag [a, b]

/-- Sticky bits are ORed into %fpst (03 R82). -/
def Cohort.addFp (c : Cohort) (f : FFlags) : Cohort := { c with fpst := c.fpst ||| f.zeroExtend 64 }

/-- Sticky bits of %mstat: bit 0 SAT, bit 1 OF, bit 2 IV (03 R83). -/
def Cohort.addM (c : Cohort) (f : BitVec 3) : Cohort := { c with mstat := c.mstat ||| f.zeroExtend 64 }

end Sys2Proof.Machine
end

