-- ==== Sys2Proof/Machine/Operands.lean ====
section
/-!
DEFINITION. Sys2Proof/Machine/Operands.lean: reading and writing the operand forms of the nine formats (02 R42-R55), the
register numbers that each form names, and the shared frames of per-lane and per-cohort instructions (02 R44).
-/

namespace Sys2Proof

/-! ### Values of sources (02 R45) -/

/-- The value of a scalar source: a literal is sign-extended to 64 bits. -/
def SSrc.val (c : Machine.Cohort) : SSrc → Dword
  | .r n => c.sr n
  | .lit w => w.signExtend 64

/-- The value of a vector source in a thread: a scalar gives its low 32 bits. -/
def VSrc.val (c : Machine.Cohort) (t : Machine.Thread) : VSrc → Word
  | .v n => t.vr n
  | .s n => (c.sr n).truncate 32
  | .lit w => w

/-- The 64-bit value of a scalar operand of wrsp and of other per-cohort forms. -/
def VSrc.sval (c : Machine.Cohort) : VSrc → Dword
  | .v _ => 0
  | .s n => c.sr n
  | .lit w => w.signExtend 64

/-! ### Registers that a source names -/

/-- Scalar registers of a scalar source. -/
def SSrc.regs : SSrc → List Nat
  | .r n => [n]
  | .lit _ => []
/-- Vector registers of a vector source. -/
def VSrc.vregs : VSrc → List Nat
  | .v n => if n = 63 then [] else [n]
  | _ => []
/-- Scalar registers of a vector source. -/
def VSrc.sregs : VSrc → List Nat
  | .s n => [n]
  | _ => []

end Sys2Proof

namespace Sys2Proof.Machine

/-! ### Registers that a form names -/

/-- A source register; field 63 names none. -/
def src (n : Nat) : List Nat := if n = 63 then [] else [n]
/-- A destination register; field 63 discards. -/
def dst (n : Nat) : List Nat := if n = 63 then [] else [n]
/-- `k` consecutive registers. -/
def grp (a k : Nat) : List Nat := (upto k).map (a + ·)
def grpV (a k : Nat) : List Nat := grp a k
/-- Special registers that are vector pairs (02 R56). -/
def spPair (x : Nat) : Bool := x == 32 || x == 33 || x == 34 || x == 35 || x == 37

/-- Registers of SIZE (02 R49). -/
def sizeRegs (size : Nat) : Nat := if size = 3 then 2 else if size = 4 then 4 else 1

/-- Vector registers of an address operand; a scalar address names none (02 R49). -/
def addrV (glob : Bool) (a : Nat) (u : Bool) : List Nat := if u then [] else if glob then grp a 2 else src a
def addrS (a : Nat) (u : Bool) : List Nat := if u then src a else []

/-- Registers read and written by a load or a store: vector sources, vector destinations, scalar sources, scalar
destinations. -/
def memUses (glob isLoad : Bool) (t a : Nat) (u : Bool) (size : Nat) : List Nat × List Nat × List Nat × List Nat :=
  let data := if sizeRegs size = 1 then src t else grp t (sizeRegs size)
  (addrV glob a u ++ (if isLoad then [] else data), if isLoad then data else [], addrS a u, [])

/-- Registers of an atomic (02 R50, 11 R247). -/
def atUses (glob : Bool) (t a : Nat) (u : Bool) (aop : Nat) (w rt : Bool) :
    List Nat × List Nat × List Nat × List Nat :=
  let n := (if w then 2 else 1) * (if aop = 10 then 2 else 1)
  let data := if n = 1 then src t else grp t n
  let out := if w then grp t 2 else src t
  (addrV glob a u ++ data, if rt then out else [], addrS a u, [])

/-! ### Frames -/

/-- An instruction that acts once per cohort, under the guard of the lowest active thread (02 R44). -/
def perCohort (i : Info) (s : State) (f : Cohort → Cohort) : Out :=
  issue i s fun c s => .done (if c.guard i.g then s.onCohort c.key f else s)

/-- An instruction that acts in every acting lane (02 R44, 05 R107). -/
def perLane (i : Info) (s : State) (f : Cohort → Thread → Thread) : Out :=
  issue i s fun c s => .done (s.onCohort c.key fun c => c.mapT (·.acts i.g) (f c))

/-- A scalar result. -/
def scalarOp (i : Info) (d : Nat) (s : State) (f : Cohort → Dword) : Out :=
  perCohort i s fun c => c.setS d (f c)

/-- A vector result. -/
def vectorOp (i : Info) (d : Nat) (s : State) (f : Cohort → Thread → Word) : Out :=
  perLane i s fun c t => t.setV d (f c t)

/-- A predicate result in the acting lanes. -/
def predOp (i : Info) (d : Nat) (s : State) (f : Cohort → Thread → Bool) : Out :=
  perLane i s fun c t => t.setP d (f c t)

/-- A floating-point vector result with its flags, ORed over the acting lanes (06 R128). -/
def floatOp (i : Info) (d : Nat) (s : State) (f : Cohort → Thread → FRes) : Out :=
  issue i s fun c s => .done (s.onCohort c.key fun c =>
    ((c.actors i.g).foldl (fun k t => k.addFp (f c t).2) c).mapT (·.acts i.g) fun t =>
      t.setV d (BitVec.ofNat 32 (f c t).1))

/-! ### The words and registers of every shape of instruction -/

def infoSal (op : Nat) (fn : Nat) (d : Nat) (a b : SSrc) (g : Nat) : Info :=
  { words := asmA op d a.fld b.fld 1 g fn :: (a.lits ++ b.lits), g := g, vs := [], vd := [], ss := a.regs ++ b.regs, sd := dst d, ps := [] }

def infoSmov (op : Nat) (fn : Nat) (d : Nat) (b : SSrc) (g : Nat) : Info :=
  { words := asmA op d 0 b.fld 1 g fn :: b.lits, g := g, vs := [], vd := [], ss := b.regs, sd := dst d, ps := [] }

def infoSali (op : Nat) (fn : Nat) (d a : Nat) (imm : BitVec 12) : Info :=
  { words := asmI op d a fn imm.toNat :: [], g := 7, vs := [], vd := [], ss := src a, sd := dst d, ps := [] }

def infoSshi (op : Nat) (fn : Nat) (d a c : Nat) : Info :=
  { words := asmI op d a fn c :: [], g := 7, vs := [], vd := [], ss := src a, sd := dst d, ps := [] }

def infoSlui (op : Nat) (fn : Nat) (d : Nat) (imm : BitVec 12) : Info :=
  { words := asmI op d 0 fn imm.toNat :: [], g := 7, vs := [], vd := [], ss := [], sd := dst d, ps := [] }

def infoScmp (op : Nat) (fn : Nat) (d : Nat) (a b : SSrc) (g : Nat) : Info :=
  { words := asmA op d a.fld b.fld 1 g fn :: (a.lits ++ b.lits), g := g, vs := [], vd := [], ss := a.regs ++ b.regs, sd := [], ps := [d] }

def infoVal (op : Nat) (fn : Nat) (d a : Nat) (b : VSrc) (g : Nat) : Info :=
  { words := asmA op d a b.fld b.sb g fn :: b.lits, g := g, vs := src a ++ b.vregs, vd := dst d, ss := b.sregs, sd := [], ps := [] }

def infoVmov (op : Nat) (fn : Nat) (d : Nat) (b : VSrc) (g : Nat) : Info :=
  { words := asmA op d 0 b.fld b.sb g fn :: b.lits, g := g, vs := b.vregs, vd := dst d, ss := b.sregs, sd := [], ps := [] }

def infoVun (op : Nat) (fn : Nat) (d a g : Nat) : Info :=
  { words := asmA op d a 0 0 g fn :: [], g := g, vs := src a, vd := dst d, ss := [], sd := [], ps := [] }

def infoValD (op : Nat) (fn : Nat) (d a : Nat) (b : VSrc) (g : Nat) : Info :=
  { words := asmA op d a b.fld b.sb g fn :: b.lits, g := g, vs := src d ++ src a ++ b.vregs, vd := dst d, ss := b.sregs, sd := [], ps := [] }

def infoVali (op : Nat) (fn : Nat) (d a : Nat) (imm : BitVec 12) : Info :=
  { words := asmI op d a fn imm.toNat :: [], g := 7, vs := src a, vd := dst d, ss := [], sd := [], ps := [] }

def infoVshi (op : Nat) (fn : Nat) (d a c : Nat) : Info :=
  { words := asmI op d a fn c :: [], g := 7, vs := src a, vd := dst d, ss := [], sd := [], ps := [] }

def infoVmovi (op : Nat) (fn : Nat) (d : Nat) (imm : BitVec 12) : Info :=
  { words := asmI op d 0 fn imm.toNat :: [], g := 7, vs := [], vd := dst d, ss := [], sd := [], ps := [] }

def infoVcmp (op : Nat) (fn : Nat) (d a : Nat) (b : VSrc) (g : Nat) : Info :=
  { words := asmA op d a b.fld b.sb g fn :: b.lits, g := g, vs := src a ++ b.vregs, vd := [], ss := b.sregs, sd := [], ps := [d] }

def infoPred (op : Nat) (fn : Nat) (d a b g : Nat) : Info :=
  { words := asmA op d a b 0 g fn :: [], g := g, vs := [], vd := [], ss := [], sd := [], ps := [d, a, b] }

def infoPredU (op : Nat) (fn : Nat) (d a g : Nat) : Info :=
  { words := asmA op d a 0 0 g fn :: [], g := g, vs := [], vd := [], ss := [], sd := [], ps := [d, a] }

def infoBr (op : Nat) (g : Nat) (n : Bool) (off : BitVec 22) : Info :=
  { words := asmB op g n.toNat off.toNat :: [], g := 7, vs := [], vd := [], ss := [], sd := [], ps := [g] }

def infoGonly (op : Nat) (fn : Nat) (g : Nat) : Info :=
  { words := asmA op 0 0 0 0 g fn :: [], g := g, vs := [], vd := [], ss := [], sd := [], ps := [] }

def infoPairA (op : Nat) (fn : Nat) (a g : Nat) : Info :=
  { words := asmA op 0 a 0 0 g fn :: [], g := g, vs := [a, a + 1], vd := [], ss := [], sd := [], ps := [] }

def infoPairD (op : Nat) (fn : Nat) (d g : Nat) : Info :=
  { words := asmA op d 0 0 0 g fn :: [], g := g, vs := [], vd := [d, d + 1], ss := [], sd := [], ps := [] }

def infoNone (op : Nat) (fn : Nat)  : Info :=
  { words := asmA op 0 0 0 0 7 fn :: [], g := 7, vs := [], vd := [], ss := [], sd := [], ps := [] }

def infoCsign (op : Nat) (fn : Nat) (cv : Nat) : Info :=
  { words := asmA op cv 0 0 0 7 fn :: [], g := 7, vs := [], vd := [], ss := [], sd := [], ps := [] }

def infoNum (op : Nat) (fn : Nat) (n g : Nat) : Info :=
  { words := asmA op 0 0 n 0 g fn :: [], g := g, vs := [], vd := [], ss := [], sd := [], ps := [] }

def infoTret (dd : Nat)  : Info :=
  { words := asmA 14 dd 0 0 0 7 10 :: [], g := 7, vs := [], vd := [], ss := [], sd := [], ps := [] }

def infoWreq (op : Nat) (fn : Nat) (d : Nat) (a : SSrc) : Info :=
  { words := asmA op d a.fld 0 0 7 fn :: a.lits, g := 7, vs := [], vd := [], ss := a.regs, sd := dst d, ps := [] }

def infoRdsp (op : Nat) (fn : Nat) (d : Nat) (sc : Bool) (x g : Nat) : Info :=
  let us : List Nat × List Nat × List Nat × List Nat := if sc then ⟨[], [], [], dst d⟩ else ⟨[], if spPair x then grpV d 2 else dst d, [], []⟩
  { words := asmA op d 0 x sc.toNat g fn :: [], g := g, vs := us.1, vd := us.2.1, ss := us.2.2.1, sd := us.2.2.2, ps := [] }

def infoWrsp (op : Nat) (fn : Nat) (x : Nat) (a : VSrc) (g : Nat) : Info :=
  { words := asmA op 0 a.fld x a.sb g fn :: a.lits, g := g, vs := match a with | .v n => (if spPair x then grpV n 2 else src n) | _ => [], vd := [], ss := a.sregs, sd := [], ps := [] }

def infoBcast (op : Nat) (fn : Nat) (d a : Nat) (b : SSrc) (g : Nat) : Info :=
  { words := asmA op d a b.fld 1 g fn :: b.lits, g := g, vs := src a, vd := dst d, ss := b.regs, sd := [], ps := [] }

def infoVote (op : Nat) (fn : Nat) (d a g : Nat) : Info :=
  { words := asmA op d a 0 0 g fn :: [], g := g, vs := [], vd := [], ss := [], sd := dst d, ps := [a] }

def infoVpfxc (op : Nat) (fn : Nat) (d a g : Nat) : Info :=
  { words := asmA op d a 0 0 g fn :: [], g := g, vs := [], vd := dst d, ss := [], sd := [], ps := [a] }

def infoVcomp (op : Nat) (fn : Nat) (d a b g : Nat) : Info :=
  { words := asmA op d a b 0 g fn :: [], g := g, vs := src a, vd := dst d, ss := [], sd := [], ps := [b] }

def infoVtopk (op : Nat) (fn : Nat) (d a : Nat) (b : SSrc) (g : Nat) : Info :=
  { words := asmA op d a b.fld 1 g fn :: b.lits, g := g, vs := src a, vd := [], ss := b.regs, sd := [], ps := [d] }

def infoVredS (op : Nat) (fn : Nat) (d a g : Nat) : Info :=
  { words := asmA op d a 0 0 g fn :: [], g := g, vs := src a, vd := [], ss := [], sd := dst d, ps := [] }

def infoRgput (op : Nat) (fn : Nat) (a : SSrc) (g : Nat) : Info :=
  { words := asmA op 0 a.fld 0 0 g fn :: a.lits, g := g, vs := [], vd := [], ss := a.regs, sd := [], ps := [] }

def infoRgqry (op : Nat) (fn : Nat) (d g : Nat) : Info :=
  { words := asmA op d 0 0 1 g fn :: [], g := g, vs := [], vd := [], ss := [], sd := dst d, ps := [] }

def infoLd (op : Nat) (glob : Bool) (t a : Nat) (u : Bool) (size ord scope g : Nat) (off : Option (BitVec 32)) : Info :=
  let us : List Nat × List Nat × List Nat × List Nat := memUses glob true t a u size
  { words := asmM op t a u.toNat size ord scope g off.isSome.toNat :: off.toList, g := g, vs := us.1, vd := us.2.1, ss := us.2.2.1, sd := us.2.2.2, ps := [] }

def infoSt (op : Nat) (glob : Bool) (t a : Nat) (u : Bool) (size ord scope g : Nat) (off : Option (BitVec 32)) : Info :=
  let us : List Nat × List Nat × List Nat × List Nat := memUses glob false t a u size
  { words := asmM op t a u.toNat size ord scope g off.isSome.toNat :: off.toList, g := g, vs := us.1, vd := us.2.1, ss := us.2.2.1, sd := us.2.2.2, ps := [] }

def infoAt (op : Nat) (glob : Bool) (t a : Nat) (u : Bool) (aop : Nat) (w : Bool) (ord scope : Nat) (rt : Bool) (off : Option (BitVec 32)) : Info :=
  let us : List Nat × List Nat × List Nat × List Nat := atUses glob t a u aop w rt
  { words := asmT op t a u.toNat aop w.toNat ord scope rt.toNat off.isSome.toNat :: off.toList, g := 7, vs := us.1, vd := us.2.1, ss := us.2.2.1, sd := us.2.2.2, ps := [] }

def infoFence (op : Nat) (fn : Nat) (sc : Nat) : Info :=
  { words := asmA op 0 0 sc 0 7 fn :: [], g := 7, vs := [], vd := [], ss := [], sd := [], ps := [] }

def infoFenceSc (op : Nat) (fn : Nat) (sc : Nat) : Info :=
  { words := asmA op 0 0 sc 0 7 fn :: [], g := 7, vs := [], vd := [], ss := [], sd := [], ps := [] }

def infoE1 (op : Nat) (sub : Nat) (a : Nat) : Info :=
  { words := asmE op sub 0 a 0 0 :: [], g := 7, vs := [], vd := [], ss := src a, sd := [], ps := [] }

def infoWbr (op : Nat) (sub : Nat) (a b : Nat) (phys : Bool) : Info :=
  { words := asmE op sub 0 a b phys.toNat :: [], g := 7, vs := [], vd := [], ss := src a ++ src b, sd := [], ps := [] }

def infoInvr (op : Nat) (sub : Nat) (a b : Nat) (l2 phys : Bool) : Info :=
  { words := asmE op sub 0 a b (2 * l2.toNat + phys.toNat) :: [], g := 7, vs := [], vd := [], ss := src a ++ src b, sd := [], ps := [] }

def infoCp (op : Nat) (sub : Nat) (d a b : Nat) : Info :=
  { words := asmE op sub d a b 0 :: [], g := 7, vs := [], vd := [], ss := src d ++ src a ++ src b, sd := [], ps := [] }

def infoTcp (op : Nat) (sub : Nat) (d a b : Nat) : Info :=
  { words := asmE op sub d a b 0 :: [], g := 7, vs := [], vd := [], ss := src d ++ src a ++ [b, b + 1, b + 2], sd := [], ps := [] }

def infoTslot (op : Nat) (sub : Nat) (n a b : Nat) (sc : Bool) : Info :=
  { words := asmE op sub n a b sc.toNat :: [], g := 7, vs := [], vd := [], ss := src a ++ [b, b + 1, b + 2], sd := [], ps := [] }

def infoENone (op : Nat) (sub : Nat)  : Info :=
  { words := asmE op sub 0 0 0 0 :: [], g := 7, vs := [], vd := [], ss := [], sd := [], ps := [] }

def infoWaitc (op : Nat) (sub : Nat) (n cls : Nat) : Info :=
  { words := asmE op sub 0 n 0 cls :: [], g := 7, vs := [], vd := [], ss := [], sd := [], ps := [] }

def infoMma (sub : Nat) (n sa sb fs cv : Nat) : Info :=
  { words := asmX sub n sa sb fs cv 0 :: [], g := 7, vs := [], vd := [], ss := [], sd := [], ps := [] }

def infoAccz (sub : Nat) (n cv : Nat) : Info :=
  { words := asmX sub n 0 0 0 cv 0 :: [], g := 7, vs := [], vd := [], ss := [], sd := [], ps := [] }

def infoAccst (sub : Nat) (n out : Nat) (keep : Bool) (cv xa xb : Nat) (imm : BitVec 20) : Info :=
  { words := asmX sub n 0 0 0 cv (8 + 2 * out + keep.toNat) :: [asmExt xa xb imm.toNat], g := 7, vs := [], vd := [], ss := src xa ++ src xb, sd := [], ps := [] }

def infoAccld (sub : Nat) (n cv xa xb : Nat) (imm : BitVec 20) : Info :=
  { words := asmX sub n 0 0 0 cv 8 :: [asmExt xa xb imm.toNat], g := 7, vs := [], vd := [], ss := src xa ++ src xb, sd := [], ps := [] }

def infoAccrd (sub : Nat) (n r cv xa : Nat) (imm : BitVec 20) : Info :=
  { words := asmX sub n (r / 4) (r % 4 * 4) 0 cv 8 :: [asmExt xa 0 imm.toNat], g := 7, vs := [], vd := dst r, ss := src xa, sd := [], ps := [] }

def infoAccwr (sub : Nat) (n r cv xa : Nat) (imm : BitVec 20) : Info :=
  { words := asmX sub n (r / 4) (r % 4 * 4) 0 cv 8 :: [asmExt xa 0 imm.toNat], g := 7, vs := src r, vd := [], ss := src xa, sd := [], ps := [] }

def infoOclaim (sub : Nat) (n cv : Nat) : Info :=
  { words := asmX sub 0 n 0 0 cv 0 :: [], g := 7, vs := [], vd := [], ss := [], sd := [], ps := [] }

def infoOload (sub : Nat) (part : Nat) (n cv xa xb : Nat) (imm : BitVec 20) : Info :=
  { words := asmX sub 0 n 0 0 cv part :: [asmExt xa xb imm.toNat], g := 7, vs := [], vd := [], ss := src xa ++ src xb, sd := [], ps := [] }

def infoOband (sub : Nat) (n cv xa : Nat) (imm : BitVec 20) : Info :=
  { words := asmX sub 0 n 0 0 cv 12 :: [asmExt xa 0 imm.toNat], g := 7, vs := [], vd := [], ss := src xa, sd := [], ps := [] }

def infoAccscl (sub : Nat) (part : Nat) (n cv xa : Nat) : Info :=
  { words := asmX sub n 0 0 0 cv part :: [asmExt xa 0 0], g := 7, vs := [], vd := [], ss := src xa, sd := [], ps := [] }

def infoQa (op : Nat) (sub : Nat) (blk : Nat) (n a g : Nat) : Info :=
  { words := asmQ op sub 0 a n g blk :: [], g := g, vs := [], vd := [], ss := src a, sd := [], ps := [] }

def infoQda (op : Nat) (sub : Nat) (blk : Nat) (d n a g : Nat) : Info :=
  { words := asmQ op sub d a n g blk :: [], g := g, vs := [], vd := [], ss := src a, sd := dst d, ps := [] }

def infoQlen (op : Nat) (sub : Nat) (blk : Nat) (d n g : Nat) : Info :=
  { words := asmQ op sub d 0 n g blk :: [], g := g, vs := [], vd := [], ss := [], sd := dst d, ps := [] }

def infoCha (op : Nat) (sub : Nat) (blk : Nat) (n a g : Nat) : Info :=
  { words := asmQ op sub 0 a n g blk :: [], g := g, vs := [], vd := [], ss := src a, sd := [], ps := [] }

def infoChda (op : Nat) (sub : Nat) (blk : Nat) (d n a g : Nat) : Info :=
  { words := asmQ op sub d a n g blk :: [], g := g, vs := [], vd := [], ss := src a, sd := dst d, ps := [] }

def infoRenq (op : Nat) (sub : Nat) (blk : Nat) (d a g : Nat) : Info :=
  { words := asmQ op sub d a 0 g blk :: [], g := g, vs := [], vd := [], ss := src d ++ src a, sd := [], ps := [] }

def infoRdeq (op : Nat) (sub : Nat) (blk : Nat) (d a g : Nat) : Info :=
  { words := asmQ op sub d a 0 g blk :: [], g := g, vs := [], vd := [], ss := src a, sd := dst d, ps := [] }

def infoRrel (op : Nat) (sub : Nat) (blk : Nat) (a g : Nat) : Info :=
  { words := asmQ op sub 0 a 0 g blk :: [], g := g, vs := [], vd := [], ss := src a, sd := [], ps := [] }

def infoBari (op : Nat) (sub : Nat) (blk : Nat) (n a g : Nat) : Info :=
  { words := asmQ op sub 0 a n g blk :: [], g := g, vs := [], vd := [], ss := src a, sd := [], ps := [] }

def infoBararr (op : Nat) (sub : Nat) (blk : Nat) (d n g : Nat) : Info :=
  { words := asmQ op sub d 0 n g blk :: [], g := g, vs := [], vd := [], ss := [], sd := dst d, ps := [] }

def infoBars (op : Nat) (sub : Nat) (blk : Nat) (n g : Nat) : Info :=
  { words := asmQ op sub 0 0 n g blk :: [], g := g, vs := [], vd := [], ss := [], sd := [], ps := [] }

def infoWflag (op : Nat) (sub : Nat) (blk : Nat) (n g : Nat) : Info :=
  { words := asmQ op sub 0 0 n g blk :: [], g := g, vs := [], vd := [], ss := [], sd := [], ps := [] }

def infoTb (op : Nat) (sub : Nat) (blk : Nat) (n g : Nat) : Info :=
  { words := asmQ op sub 0 (n / 64) (n % 64) g blk :: [], g := g, vs := [], vd := [], ss := [], sd := [], ps := [] }

def infoTbstat (op : Nat) (sub : Nat) (blk : Nat) (d n g : Nat) : Info :=
  { words := asmQ op sub d (n / 64) (n % 64) g blk :: [], g := g, vs := [], vd := [], ss := [], sd := dst d, ps := [] }

def infoSpchk (op : Nat) (sub : Nat) (blk : Nat) (d g : Nat) : Info :=
  { words := asmQ op sub d 0 0 g blk :: [], g := g, vs := [], vd := [], ss := [], sd := dst d, ps := [] }

def infoSpbar (op : Nat) (sub : Nat) (blk : Nat) (g : Nat) : Info :=
  { words := asmQ op sub 0 0 0 g blk :: [], g := g, vs := [], vd := [], ss := [], sd := [], ps := [] }

def infoMarch (op : Nat) (sub : Nat) (d a b : Nat) (sp : Bool) (mode : Nat) : Info :=
  { words := asmE op sub d a b (4 * sp.toNat + mode) :: [], g := 7, vs := grp a 8, vd := grp d 4, ss := if sp then [b, b + 1] else src b, sd := [], ps := [] }

def infoMarchr (op : Nat) (sub : Nat) (d a : Nat) : Info :=
  { words := asmE op sub d a 0 0 :: [], g := 7, vs := grp a 2, vd := grp d 4, ss := [], sd := [], ps := [] }

def infoFprep (op : Nat) (sub : Nat) (d a b : Nat) : Info :=
  { words := asmE op sub d a b 0 :: [], g := 7, vs := [], vd := [], ss := src a ++ src b, sd := dst d, ps := [] }

def infoBfetch (op : Nat) (sub : Nat) (d a b : Nat) : Info :=
  { words := asmE op sub d a b 0 :: [], g := 7, vs := grp a 3, vd := grp d 4, ss := src b, sd := [], ps := [] }

def infoTrace (op : Nat) (sub : Nat) (d a b : Nat) : Info :=
  { words := asmE op sub d a b 0 :: [], g := 7, vs := grp a 8, vd := grp d 5, ss := src b, sd := [], ps := [] }

def infoTracer (op : Nat) (sub : Nat) (d a : Nat) : Info :=
  { words := asmE op sub d a 0 0 :: [], g := 7, vs := src a, vd := grp d 5, ss := [], sd := [], ps := [] }

def infoTex (op : Nat) (sub : Nat) (d a b : Nat) : Info :=
  { words := asmE op sub d a b 0 :: [], g := 7, vs := grp a 3, vd := grp d 4, ss := src b, sd := [], ps := [] }

def infoTexq (op : Nat) (sub : Nat) (d a b : Nat) : Info :=
  { words := asmE op sub d a b 0 :: [], g := 7, vs := grp a 3, vd := dst d, ss := src b, sd := [], ps := [] }

def infoCred (op : Nat) (sub : Nat) (d a b rop : Nat) (w : Bool) : Info :=
  { words := asmE op sub d a b (4 * w.toNat + rop) :: [], g := 7, vs := [], vd := [], ss := src d ++ src a ++ [b, b + 1], sd := [], ps := [] }

def infoCgat (op : Nat) (sub : Nat) (d a b : Nat) : Info :=
  { words := asmE op sub d a b 0 :: [], g := 7, vs := [], vd := [], ss := src d ++ src a ++ [b, b + 1], sd := [], ps := [] }

def infoCsend (op : Nat) (sub : Nat) (a b : Nat) : Info :=
  { words := asmE op sub 0 a b 0 :: [], g := 7, vs := [], vd := [], ss := src a ++ [b, b + 1], sd := [], ps := [] }

def infoCrecv (op : Nat) (sub : Nat) (d b : Nat) : Info :=
  { words := asmE op sub d 0 b 0 :: [], g := 7, vs := [], vd := [], ss := src d ++ [b, b + 1], sd := [], ps := [] }

def infoCwait (op : Nat) (sub : Nat) (b : Nat) : Info :=
  { words := asmE op sub 0 0 b 0 :: [], g := 7, vs := [], vd := [], ss := src b, sd := [], ps := [] }

def infoD3 (op : Nat) (fn : Nat) (d a b g : Nat) : Info :=
  { words := asmA op d a b 0 g fn :: [], g := g, vs := [a, a + 1, b, b + 1], vd := [d, d + 1], ss := [], sd := [], ps := [] }

def infoD3D (op : Nat) (fn : Nat) (d a b g : Nat) : Info :=
  { words := asmA op d a b 0 g fn :: [], g := g, vs := [d, d + 1, a, a + 1, b, b + 1], vd := [d, d + 1], ss := [], sd := [], ps := [] }

def infoD2 (op : Nat) (fn : Nat) (d a g : Nat) : Info :=
  { words := asmA op d a 0 0 g fn :: [], g := g, vs := [a, a + 1], vd := [d, d + 1], ss := [], sd := [], ps := [] }

def infoDw (op : Nat) (fn : Nat) (d a g : Nat) : Info :=
  { words := asmA op d a 0 0 g fn :: [], g := g, vs := src a, vd := [d, d + 1], ss := [], sd := [], ps := [] }

def infoDn (op : Nat) (fn : Nat) (d a g : Nat) : Info :=
  { words := asmA op d a 0 0 g fn :: [], g := g, vs := [a, a + 1], vd := dst d, ss := [], sd := [], ps := [] }

def infoRdcnt (op : Nat) (fn : Nat) (d n g : Nat) : Info :=
  { words := asmA op d 0 n 0 g fn :: [], g := g, vs := [], vd := [], ss := [], sd := dst d, ps := [] }

def infoCrd (sub : Nat) (d a idx : Nat) : Info :=
  { words := asmS sub d a idx :: [], g := 7, vs := [], vd := [], ss := src a, sd := dst d, ps := [] }

def infoCwr (sub : Nat) (d a idx : Nat) : Info :=
  { words := asmS sub d a idx :: [], g := 7, vs := [], vd := [], ss := src d ++ src a, sd := [], ps := [] }

def infoCwri (sub : Nat) (imm8 : Nat) (d a : Nat) : Info :=
  { words := asmS sub d a imm8 :: [], g := 7, vs := [], vd := [], ss := src d ++ src a, sd := [], ps := [] }

def infoTlbinv (sub : Nat) (imm8 : Nat) (a : Nat) : Info :=
  { words := asmS sub 0 a imm8 :: [], g := 7, vs := [], vd := [], ss := src a, sd := [], ps := [] }

def infoSysda (sub : Nat) (d a : Nat) : Info :=
  { words := asmS sub d a 0 :: [], g := 7, vs := [], vd := [], ss := src a, sd := dst d, ps := [] }

end Sys2Proof.Machine
end

