-- ==== Sys2Proof/Machine/Barrier.lean ====
section
/-!
DEFINITION. Sys2Proof/Machine/Barrier.lean: the crew's scratchpad allocation as units reach it (10 R209), barrier words and
their instructions (16 R345-R347), and wflag (16 R348).
-/

namespace Sys2Proof.Machine

/-! ### A unit's access to a crew's allocation -/

/-- Key of the first byte of a crew's allocation, in the bank that holds its context (10 R209, R212). -/
def State.crewKey (s : State) (cr : Crew) : Nat :=
  let b := (s.core cr.core).bank
  spadKey cr.core (if cr.shadow then 1 - b else b) cr.sbase

/-- `n` bytes at a crew offset as a number. -/
def State.crewNat (s : State) (cr : Crew) (off n : Nat) : Nat := s.smem.nat (s.crewKey cr + off) n

/-- A unit reads bytes at a crew offset and meets their words' errors (10 R233). -/
def State.meetCrew (s : State) (cr : Crew) (off n : Nat) : State :=
  if s.latent = [] then s
  else s.meet ((distinct ((upto n).map fun j => (s.crewKey cr + off + j) / 4)).map .spad)

/-- A unit changes `n` bytes at a crew offset: it reads their words and writes them; words written whole are no longer poisoned. -/
def State.crewSet (s : State) (cr : Crew) (off n x : Nat) : State :=
  (s.meetCrew cr off n).setSpad (s.crewKey cr + off) (leBytes n x)

/-- Bytes at a crew offset. -/
def State.crewBytes (s : State) (cr : Crew) (off n : Nat) : List Byte := s.smem.bytes (s.crewKey cr + off) n
def State.crewPut (s : State) (cr : Crew) (off : Nat) (bs : List Byte) : State :=
  s.setSpad (s.crewKey cr + off) bs

/-! ### Barrier words (16 R345) -/

/-- A barrier word: EXPECT, ARRIVED, PHASE. -/
structure Bar where
  expect : Nat
  arrived : Nat
  phase : Nat
  deriving DecidableEq, Repr

def State.bar (s : State) (cr : Crew) (n : Nat) : Bar :=
  let o := cr.hdr.boff + 8 * n
  ⟨s.crewNat cr o 2, s.crewNat cr (o + 2) 2, s.crewNat cr (o + 4) 4⟩

/-- The completion that follows every operation. -/
def Bar.complete (b : Bar) : Bar :=
  if 0 < b.expect ∧ b.expect ≤ b.arrived then { b with arrived := b.arrived - b.expect, phase := (b.phase + 1) % 2 ^ 32 }
  else b

def State.setBar (s : State) (cr : Crew) (n : Nat) (b : Bar) : State :=
  s.crewSet cr (cr.hdr.boff + 8 * n) 8 (b.expect % 2 ^ 16 + b.arrived % 2 ^ 16 * 2 ^ 16 + b.phase % 2 ^ 32 * 2 ^ 32)

/-- A crew has barrier words (16 R334). -/
def Crew.hasBars (cr : Crew) : Bool := cr.hdr.boff != 0xFFFFFFFF

/-- `k` threads exit: EXPECT falls in every barrier whose EXPECT is nonzero, and the completion follows (16 R347). -/
def State.barExit (s : State) (cr : Crew) (k : Nat) : State :=
  if !cr.hasBars then s
  else (List.replicate k ()).foldl (fun s _ => (upto 16).foldl (fun s n =>
    let b := s.bar cr n
    if b.expect = 0 then s else s.setBar cr n ({ b with expect := b.expect - 1 } : Bar).complete) s) s

/-- QID of a barrier instruction: %tinfo holds ID and SUB (09 R193, 16 R345, R346). -/
def Cohort.qid (c : Cohort) (id sub : Nat) : Res := c.all 13 0 (id + sub * 256)

/-- barinit: EXPECT := sA, then the completion (16 R346, R347). -/
def barinit (i : Info) (n a : Nat) (s : State) : Out :=
  issue i s fun c s =>
    let cr := s.crewOf c
    if !c.guard i.g then .done s
    else if !cr.hasBars then c.qid n 0
    else
      let x := (c.sr a).toNat
      if x = 0 ∨ 1024 < x then c.all 7 0 x
      else .done (s.setBar cr n ({ s.bar cr n with expect := x } : Bar).complete)

/-- bararr: waits for the ack counter, then sD := PHASE and ARRIVED rises by the acting threads (16 R347). -/
def bararr (i : Info) (d n : Nat) (s : State) : Out :=
  issue i s fun c s =>
    let cr := s.crewOf c
    let k := (c.actors i.g).length
    if k = 0 then .done s
    else if !cr.hasBars || (s.bar cr n).expect == 0 then c.qid n 1
    else if c.acks ≠ 0 then .hold
    else
      let b := s.bar cr n
      let s := s.quickOp c.key i.len { id := 0, regsS := dst d, res := [.s d (BitVec.ofNat 64 b.phase)] }
      .done (s.setBar cr n ({ b with arrived := b.arrived + k } : Bar).complete)

/-- barwait: waits until PHASE differs from sA[31:0] (16 R347). -/
def barwait (i : Info) (n a : Nat) (s : State) : Out :=
  issue i s fun c s =>
    let cr := s.crewOf c
    if !c.guard i.g then .done s
    else if !cr.hasBars || (s.bar cr n).expect == 0 then c.qid n 2
    else
      let ph := (c.sr a).toNat % 2 ^ 32
      if (s.bar cr n).phase ≠ ph then .done ((s.meetCrew cr (cr.hdr.boff + 8 * n) 8).quickOp c.key i.len { id := 0 })
      else .wait s (.barrier n ph)

/-- The phase of a thread's counted arrival at the barsync at `pc`. -/
def Thread.counted (t : Thread) (pc : Nat) : Option Nat := (t.arrived.find? fun e => e.1 == pc).map (·.2)

/-- barsync: every acting thread arrives once, and waits until the phase differs from the one it read (16 R347, 13 R295). -/
def barsync (i : Info) (n : Nat) (s : State) : Out :=
  issue i s fun c s =>
    let cr := s.crewOf c
    let pc := c.pc
    let acting := c.actors i.g
    let fresh := acting.filter fun t => t.counted pc == none
    if acting = [] then .done s
    else if !cr.hasBars || ((s.bar cr n).expect == 0 && fresh ≠ []) then c.qid n 3
    else if fresh ≠ [] ∧ c.acks ≠ 0 then .hold
    else
      let b := s.bar cr n
      let s := if fresh = [] then s else s.setBar cr n ({ b with arrived := b.arrived + fresh.length } : Bar).complete
      let ph := (s.bar cr n).phase
      let nh := BitVec.ofNat 64 c.nextHeader
      let s := if fresh = [] then s else s.quickOp c.key i.len { id := 0 }
      let stays := fun (t : Thread) => t.acts i.g && ph == (t.counted pc).getD b.phase
      .moved (s.onCohort c.key fun c => c.mapT (·.act) fun t =>
        let rest := t.arrived.filter fun e => e.1 != pc
        let old := (t.counted pc).getD b.phase
        if stays t then { t with arrived := (pc, old) :: rest, st := .waiting (.barsync n old), act := false }
        else { t with pc := nh, arrived := if t.acts i.g then rest else t.arrived }) (endRun := acting.any stays)

/-- wflag: waits until the flag is clear (16 R348). -/
def wflag (i : Info) (n : Nat) (s : State) : Out :=
  issue i s fun c s =>
    if !c.guard i.g then .done s
    else if c.flag n = 0 then .done (s.quickOp c.key i.len { id := 0 })
    else .wait s (.flag n)

/-- BARINIT (R347): Set a barrier's expected count. -/
def execBarinit (n a g : Nat) (s : State) : Out :=
  barinit (infoBari 44 0 0 n a g) n a s

/-- BARARR (R347): Arrive at a barrier, returning its phase. -/
def execBararr (d n g : Nat) (s : State) : Out :=
  bararr { infoBararr 44 1 0 d n g with long := true } d n s

/-- BARWAIT (R347): Wait for a barrier phase change. -/
def execBarwait (n a g : Nat) (s : State) : Out :=
  barwait { infoBari 44 2 1 n a g with long := true } n a s

/-- BARSYNC (R347): Arrive at a barrier and wait for the phase to complete. -/
def execBarsync (n g : Nat) (s : State) : Out :=
  barsync { infoBars 44 3 1 n g with long := true } n s

/-- WFLAG (R348): Wait until a completion flag is clear. -/
def execWflag (n g : Nat) (s : State) : Out :=
  wflag { infoWflag 44 9 1 n g with long := true } n s

end Sys2Proof.Machine
end

