-- ==== Sys2Proof/Machine/Control.lean ====
section
/-!
DEFINITION. Sys2Proof/Machine/Control.lean: branches, calls, meets, exits, yields and signatures (05 R117-R123), traps and
returns from them (05 R124, R125; 09 R206, R207), width requests (05 R126).
-/

namespace Sys2Proof.Machine

/-- A code address of the crew's thread as a number. -/
def pc64 (x : Int) : Dword := BitVec.ofInt 64 x

/-- The target of a format-B word (02 R48). -/
def Cohort.bTarget (c : Cohort) (off : BitVec 22) : Dword := pc64 ((c.pc : Int) + 4 * off.toInt)

/-- The guard of format B in a thread (05 R117). -/
def Thread.actsB (t : Thread) (g : Nat) (n : Bool) : Bool := t.act && (t.pr g != n)

/-- The faults of targets (02 R40): every failing lane of BAD_TARGET records the target of the failing thread with the lowest %tid (05
R119; notes/assumptions/22.md), those of a failed clause-map read their own, with DETAIL 4. -/
def State.targetFaults (s : State) (cr : Crew) (l : List (Nat × Dword)) : List LCause :=
  let bad := winners (l.filterMap fun e => (s.badTarget cr e.2.toNat).map fun b =>
    ({ tid := e.1, code := b.1, detail := if b.1 = 8 then 0 else 4, info := b.2 } : LCause))
  match bad with
  | [] => []
  | x :: _ => if x.code = 8 then bad.map fun y => { y with info := x.info } else bad

/-- A transfer: the taking threads go to their targets, the others to the next header; it ends the run when taken. -/
def transfer (c : Cohort) (s : State) (takes : Thread → Bool) (target : Thread → Dword) (lr : Bool) : Res :=
  let ts := c.threads.filter takes
  let bad := s.targetFaults (s.crewOf c) (ts.map fun t => (t.tid, target t))
  let nh := BitVec.ofNat 64 c.nextHeader
  if bad ≠ [] then
    .fault bad
  else .moved (s.onCohort c.key fun c => c.mapT (·.act) fun t =>
    if takes t then { t with pc := target t, lr := if lr then nh else t.lr } else { t with pc := nh }) (endRun := ts ≠ [])

/-- br and call (05 R117). -/
def branch (i : Info) (g : Nat) (n : Bool) (off : BitVec 22) (lr : Bool) (s : State) : Out :=
  issue i s fun c s => transfer c s (·.actsB g n) (fun _ => c.bTarget off) lr

/-- meet: MR := target in the acting threads (05 R117). -/
def meet (i : Info) (g : Nat) (n : Bool) (off : BitVec 22) (s : State) : Out :=
  issue i s fun c s =>
    let t := c.bTarget off
    let ts := c.threads.filter (·.actsB g n)
    match s.targetFaults (s.crewOf c) (ts.map fun x => (x.tid, t)) with
    | b :: bs => .fault (b :: bs)
    | [] => .done (s.onCohort c.key fun c => c.mapT (·.actsB g n) fun x => { x with mr := t })

/-- ret, brx, callx (05 R119). -/
def jump (i : Info) (target : Thread → Dword) (lr : Bool) (s : State) : Out :=
  issue i s fun c s => transfer c s (·.acts i.g) target lr

/-- mrset: MR := the pair, which is clear or a clause header (05 R121). -/
def mrset (i : Info) (a : Nat) (s : State) : Out :=
  issue i s fun c s =>
    let ts := (c.actors i.g).filter fun t => t.vPair a != BitVec.allOnes 64
    match s.targetFaults (s.crewOf c) (ts.map fun t => (t.tid, t.vPair a)) with
    | b :: bs => .fault (b :: bs)
    | [] => .done (s.onCohort c.key fun c => c.mapT (·.acts i.g) fun t => { t with mr := t.vPair a })

/-- Signatures that are now complete, because every non-exited thread has signed (05 R122): their threads become eligible
and the cohort's bits clear. -/
def Cohort.closeSigs (c : Cohort) : Cohort :=
  let full := (c.sigs.filter fun g => c.live.all fun t => t.cv.getLsbD g.cv).map (·.cv)
  if full = [] then c
  else
    let mask : BitVec 7 := full.foldl (fun m n => m ||| (1#7 <<< n)) 0
    { c with sigs := c.sigs.filter (fun g => !(full.contains g.cv)), threads := c.threads.map fun t =>
        match t.st with
        | .signed n => if full.contains n then { t with st := .eligible, cv := t.cv &&& ~~~ mask }
            else { t with cv := t.cv &&& ~~~ mask }
        | _ => { t with cv := t.cv &&& ~~~ mask } }

/-- exit: the acting threads leave every release, signature and barrier (05 R120); in a save step they are saved, not
exited (13 R292). -/
def exitThreads (i : Info) (s : State) : Out :=
  issue i s fun c s =>
    let gone := c.actors i.g
    let nh := BitVec.ofNat 64 c.nextHeader
    let all := gone.length == c.actives.length
    if (s.crewOf c).saving then
      .moved (s.onCohort c.key fun c => c.mapT (·.act) fun t =>
        if t.acts i.g then { t with st := .saved, act := false } else { t with pc := nh }) (endRun := all)
    else
    let s := s.onCohort c.key fun c =>
      Cohort.closeSigs (c.mapT (·.act) fun t =>
        if t.acts i.g then { t with st := .exited, act := false, inH := false, cv := 0 } else { t with pc := nh })
    .moved (s.barExit (s.crewOf c) gone.length) (endRun := all)

/-- yield (05 R116). -/
def yield (i : Info) (s : State) : Out :=
  issue i s fun c s =>
    let w := (c.threads.filter fun t => c.elig t && !t.act).map (·.tid)
    if w = [] then .done s
    else .done (s.onCohort c.key fun c =>
      c.mapT (·.acts i.g) fun t => { t with st := .yielded w, act := false, pc := t.pc + 4 })

/-- The open signature on a convergence register. -/
def Cohort.sig (c : Cohort) (cv : Nat) : Option Sig := c.sigs.find? fun g => g.cv == cv

/-- CONV of an instruction (09 R193). -/
def Cohort.conv (c : Cohort) (cv sub major : Nat) : Res := c.all 15 0 (cv + sub * 256 + major * 65536)

/-- csign (05 R123). -/
def csign (i : Info) (cv : Nat) (s : State) : Out :=
  issue i s fun c s =>
    let here := BitVec.ofNat 64 c.pc
    match c.sig cv with
    | some g => if g.pc ≠ here ∧ !g.csign then c.conv cv 8 14 else sign c s here
    | none => sign c s here
where
  sign (c : Cohort) (s : State) (here : Dword) : Res :=
    .done (s.onCohort c.key fun c =>
      let c := c.mapT (·.act) fun t =>
        { t with st := .signed cv, act := false, pc := t.pc + 4, cv := t.cv ||| (1#7 <<< cv) }
      let c := if (c.sig cv).isSome then c else { c with sigs := c.sigs ++ [⟨cv, here, true⟩] }
      c.closeSigs)

/-- A software trap: the acting threads are delivered with `tpc`, the others go on at `next` (05 R124, 09 R207). -/
def softTrap (c : Cohort) (s : State) (i : Info) (tpc : Nat) (info : Nat) : Res :=
  let acting := c.actors i.g
  let nx := BitVec.ofNat 64 tpc
  let s := s.onCohort c.key fun c => c.mapT (fun t => t.act && !(t.acts i.g)) fun t => { t with pc := nx, act := false }
  if acting = [] then .moved s (endRun := false)
  else .moved (s.takeFault c.key (·.act) c.pc tpc (acting.map fun t => ⟨t.tid, 9, 0, info, 0⟩))

/-- trap N (05 R124). -/
def trap (i : Info) (n : Nat) (s : State) : Out := issue i s fun c s => softTrap c s i c.nextHeader n

/-- brk N (09 R207). -/
def brk (i : Info) (n : Nat) (s : State) : Out :=
  issue i s fun c s => if c.actors i.g = [] then .done s else softTrap c s i (c.pc + 4) (0x100 + n)

/-- A word of text as the sequencer reads it: cached, or fetched. -/
def State.textWord (s : State) (cr : Crew) (pc : Nat) : Except (Nat × Nat) Word :=
  match s.iword cr pc with
  | some w => .ok w
  | none => match s.translate cr.core cr.jd pc .fetch with
    | .error e => .error (e, pc)
    | .ok pa => .ok (BitVec.ofNat 32 (s.gmem.nat pa 4))

/-- The clause that holds a PC which is no header: the nearest header at most 15 words below, when its COUNT reaches the PC
(05 R114, R125). -/
def State.clauseOf (s : State) (cr : Crew) (pc : Nat) : Option Nat :=
  match (upto 15).find? fun k => s.isHeader cr (pc - 4 * (k + 1)) with
  | none => none
  | some k =>
    let h := pc - 4 * (k + 1)
    match s.textWord cr h with
    | .ok w => if k + 1 ≤ hCount w then some h else none
    | .error _ => none

/-- Does an instruction of the clause at `h` begin at `pc`? -/
def State.startsInstr (s : State) (cr : Crew) (h pc : Nat) : Bool :=
  match s.textWord cr h with
  | .error _ => false
  | .ok w =>
    let ws := (upto (hCount w)).map fun k => match s.textWord cr (h + 4 * (k + 1)) with
      | .ok x => x
      | .error _ => 0
    (instrsOf ws.length 1 ws).any fun e => e.1 == (pc - h) / 4

/-- The check of a %tpc (05 R125). -/
def State.badTpc (s : State) (cr : Crew) (pc : Nat) : Option (Nat × Nat) :=
  if !cr.inText pc then some (8, pc)
  else match s.mapBit cr pc with
    | .error e => some e
    | .ok true => none
    | .ok false => match s.clauseOf cr pc with
      | some h => if s.startsInstr cr h pc then none else some (8, pc)
      | none => some (8, pc)

/-- tret and tret.skip (05 R125, 09 R206); outside trap mode its ILLEGAL_OP kills the crew (09 R196). -/
def tret (i : Info) (skip : Bool) (s : State) : Out :=
  issue i s fun c s =>
    if !c.tmode then .kills (c.actives.map fun t => ⟨t.tid, 1, 0, (i.words.headD 0).toNat, 0⟩)
    else
      let cr := s.crewOf c
      let bad := c.actives.filterMap fun t => (s.badTpc cr t.tpc.toNat).map fun b =>
        ({ tid := t.tid, code := b.1, detail := if b.1 = 8 then 0 else 4, info := b.2 } : LCause)
      if bad ≠ [] then .fault bad else .returns (s.returnTrap c.key skip) skip

/-- wreq: the cohort waits at the gathering, all its threads active (05 R126). In trap mode, of which 03 R76 says only that wreq does
not run in it, it waits there too (notes/assumptions/72.md). -/
def wreq (i : Info) (d : Nat) (a : SSrc) (s : State) : Out :=
  issue i s fun c s =>
    if c.live.length ≠ c.actives.length then c.conv 7 11 14
    else .wait s (.wreq d (a.val c).toNat c.nextHeader)

/-- BR (R117): Relative branch of guarded threads, target checked against the clause map. -/
def execBr (g : Nat) (n : Bool) (off : BitVec 22) (s : State) : Out :=
  branch (infoBr 11 g n off) g n off false s

/-- CALL (R117): Relative call setting %lr to the next clause header. -/
def execCall (g : Nat) (n : Bool) (off : BitVec 22) (s : State) : Out :=
  branch (infoBr 12 g n off) g n off true s

/-- MEET (R117): Set the meeting register MR of guarded threads. -/
def execMeet (g : Nat) (n : Bool) (off : BitVec 22) (s : State) : Out :=
  meet (infoBr 13 g n off) g n off s

/-- RET (R119): Return: PC := %lr in acting threads. -/
def execRet (g : Nat) (s : State) : Out :=
  jump (infoGonly 14 0 g) (·.lr) false s

/-- EXIT (R120): Acting threads exit, leaving signatures, releases and barriers. -/
def execExit (g : Nat) (s : State) : Out :=
  exitThreads (infoGonly 14 1 g) s

/-- YIELD (R116): Acting threads become yielded until the other eligible threads issue. -/
def execYield (g : Nat) (s : State) : Out :=
  yield (infoGonly 14 2 g) s

/-- BRX (R119): Indirect branch to a per-thread 64-bit target. -/
def execBrx (a g : Nat) (s : State) : Out :=
  jump (infoPairA 14 3 a g) (·.vPair a) false s

/-- CALLX (R119): Indirect call setting %lr. -/
def execCallx (a g : Nat) (s : State) : Out :=
  jump (infoPairA 14 4 a g) (·.vPair a) true s

/-- MRGET (R121): Read each acting thread's MR into a vector pair. -/
def execMrget (d g : Nat) (s : State) : Out :=
  perLane (infoPairD 14 5 d g) s fun _ t => t.setPair d t.mr

/-- MRSET (R121): Set each acting thread's MR from a vector pair. -/
def execMrset (a g : Nat) (s : State) : Out :=
  mrset (infoPairA 14 6 a g) a s

/-- NOP (R118): No operation. -/
def execNop (s : State) : Out :=
  issue (infoNone 14 7) s fun _ s => .done s

/-- CSIGN (R123): Active threads sign convergence register cvN and become signed. -/
def execCsign (cv : Nat) (s : State) : Out :=
  csign (infoCsign 14 8 cv) cv s

/-- TRAP (R124): Raise cause TRAP in acting threads and deliver them to the trap PC. -/
def execTrap (n g : Nat) (s : State) : Out :=
  trap (infoNum 14 9 n g) n s

/-- TRET (R125): Return from the trap handler to %tpc. -/
def execTret (s : State) : Out :=
  tret (infoTret 0) false s

/-- TRET_SKIP (R206): Return from the trap handler, skipping the core watch check on the first issue. -/
def execTretSkip (s : State) : Out :=
  tret (infoTret 1) true s

/-- WREQ (R126): Crew-wide width request; the cohort waits at the gathering. -/
def execWreq (d : Nat) (a : SSrc) (s : State) : Out :=
  wreq (infoWreq 14 11 d a) d a s

/-- BRK (R207): Breakpoint raising TRAP with %tpc at the next word. -/
def execBrk (n g : Nat) (s : State) : Out :=
  brk (infoNum 62 0 n g) n s

end Sys2Proof.Machine
end

