-- ==== Sys2Proof/Machine/Special.lean ====
section
/-!
DEFINITION. Sys2Proof/Machine/Special.lean: special registers (02 R56, 03 R79-R84, 05 R127), and the counters that rdcnt and
mark reach (20 R412, R413).
-/

namespace Sys2Proof.Machine

/-- A scalar special register (02 R56, 03 R79). -/
def State.spScalar (s : State) (c : Cohort) (x : Nat) : Option Dword :=
  let cr := s.crewOf c
  let n := fun (k : Nat) => some (BitVec.ofNat 64 k)
  if x = 0 then n cr.gw else if x = 3 then n c.cid else if x = 4 then n (s.cohortsOf c.crew).length
  else if x = 5 then n cr.index else if x = 6 then n cr.core else if x = 7 then n (cr.core / 16)
  else if x = 8 then n c.role else if x = 9 then some (s.core cr.core).cyc
  else if x = 10 then n (if cr.lastGrant = cr.gw then 0 else 1) else if x = 11 then some c.fpst
  else if x = 12 then some c.mstat else if x = 13 then n cr.spec.toNat else if x = 14 then n c.tmode.toNat
  else none

/-- A vector special register, zero-extended (02 R56, 03 R79). -/
def Thread.spVector (t : Thread) (x : Nat) : Option Dword :=
  if x = 1 then some (BitVec.ofNat 64 t.lane) else if x = 2 then some (BitVec.ofNat 64 t.tid)
  else if x = 32 then some t.lr else if x = 33 then some t.mr else if x = 34 then some t.tpc
  else if x = 35 then some t.tmr else if x = 36 then some (t.tcause.zeroExtend 64) else if x = 37 then some t.tinfo
  else none

/-- Is the index a vector one? -/
def spIsVector (x : Nat) : Bool := x == 1 || x == 2 || (decide (32 ≤ x) && decide (x ≤ 37))
/-- Is the index a scalar one? -/
def spIsScalar (x : Nat) : Bool := decide (x ≤ 14) && x != 1 && x != 2

/-- Reads and writes of %fpst and %mstat wait for earlier work of their kind (03 R84). -/
def Cohort.spWaits (c : Cohort) (x : Nat) : Bool :=
  (x == 11 && c.ops.any (·.sfu)) || (x == 12 && c.ops.any fun o => decide (o.cls = .mtx))

/-- rdsp (05 R127); a read of %gw sets the last-read grant (03 R80). A pair that is odd or reaches v63 is ILLEGAL_OP (02 R55), and
so is the scalar form of %lane and %tid, whose kind is vector in 02 R56: that R79 and R127 name a zero-extended scalar read of them
gives no value that a cohort shares (notes/assumptions/71.md). -/
def rdsp (i : Info) (d : Nat) (sc : Bool) (x : Nat) (s : State) : Out :=
  issue i s fun c s =>
    if sc != spIsScalar x || (!sc && (!spIsVector x || (spPair x && (d % 2 != 0 || decide (63 < d + 2))))) then c.illegal i
    else if c.spWaits x then .hold
    else if sc then
      if !c.guard i.g then .done s
      else
        let v := (s.spScalar c x).getD 0
        let s := if x = 0 then s.onCrew c.crew fun cr => { cr with lastGrant := cr.gw } else s
        .done (s.onCohort c.key fun c => c.setS d v)
    else .done (s.onCohort c.key fun c => c.mapT (·.acts i.g) fun t =>
      let v := (t.spVector x).getD 0
      if spPair x then t.setPair d v else t.setV d (v.truncate 32))

/-- A write of a vector special register in a thread; reserved bits of %tcause are ignored (00 R4, 09 R192). -/
def Thread.spWrite (t : Thread) (x : Nat) (v : Dword) : Thread :=
  if x = 32 then { t with lr := v } else if x = 34 then { t with tpc := v } else if x = 35 then { t with tmr := v }
  else if x = 36 then { t with tcause := v.truncate 32 &&& 0x07FFFFFF } else { t with tinfo := v }

/-- May wrsp name the index, given %tmode (02 R56)? -/
def spWritable (x : Nat) (tmode : Bool) : Bool :=
  x == 11 || x == 12 || x == 32 || (tmode && decide (34 ≤ x) && decide (x ≤ 37))

/-- wrsp (05 R127); reserved bits of %fpst and %mstat are ignored (00 R4, 03 R82, R83). -/
def wrsp (i : Info) (x : Nat) (a : VSrc) (s : State) : Out :=
  issue i s fun c s =>
    let kindOk := match a with
      | .v n => spIsVector x && (!spPair x || n % 2 == 0 && decide (n + 2 ≤ 63))
      | _ => spIsScalar x
    if !kindOk || !spWritable x c.tmode then c.illegal i
    else if c.spWaits x then .hold
    else match a with
      | .v n => .done (s.onCohort c.key fun c => c.mapT (·.acts i.g) fun t =>
          t.spWrite x (if spPair x then t.vPair n else (t.vr n).zeroExtend 64))
      | _ =>
        if !c.guard i.g then .done s
        else
          let v := a.sval c
          .done (s.onCohort c.key fun c =>
            if x = 11 then { c with fpst := v &&& 0x3F } else { c with mstat := v &&& 0x7 })

/-! ### Counters (20 R410, R412) -/

/-- A group counter's value with CANCELLED in bit 63; 0 members read 0 in bits 31:0. -/
def State.groupVal (s : State) (level job id : Nat) : Nat :=
  match s.groups.find? fun g => g.level == level && g.job == job && (level == 2 || g.id == id) with
  | some g => g.count + g.cancelled.toNat * 2 ^ 63
  | none => 0

/-- The value of counter `n` (20 R412). -/
def State.counter (s : State) (c : Cohort) (n : Nat) : Option Nat :=
  let cr := s.crewOf c
  let k := s.core cr.core
  let l := s.launch cr.launch
  let grp := fun (level : Nat) (id : LRec → Nat) => match l with
    | some l => s.groupVal level l.lrec.job (id l.lrec)
    | none => 0
  if n < 8 then some (Tab.read 0 k.pmcnt n)
  else if n < 12 then some (Tab.read 0 k.slip (n - 8))
  else if n = 12 then some (Tab.read 0 k.slip c.sub)
  else if n = 16 then some ((s.batches.filter fun b => b.cohort == c.key).length)
  else if n = 17 then some (c.count .mtx) else if n = 18 then some (c.count .gath)
  else if n = 19 then some (c.count .coll) else if n = 20 then some c.acks
  else if n = 24 then some ((s.cohortsOf c.crew).length + cr.cancelled.toNat * 2 ^ 63)
  else if n = 25 then some (match l with
    | some l => l.left + l.cancelled.toNat * 2 ^ 63
    | none => 0)
  else if n = 26 then some (grp 0 (·.graph)) else if n = 27 then some (grp 1 (·.phase))
  else if n = 28 then some (grp 2 fun _ => 0)
  else if n = 29 then some (match cr.cont with
    | some h => ((s.launch h).map (·.join)).getD cr.join
    | none => cr.join)
  else none

/-- rdcnt (20 R412). -/
def rdcnt (i : Info) (d n : Nat) (s : State) : Out :=
  issue i s fun c s =>
    match s.counter c n with
    | none => c.illegal i
    | some v => .done (if c.guard i.g then s.onCohort c.key fun c => c.setS d (BitVec.ofNat 64 v) else s)

/-- mark: event 10 with its value (20 R413). -/
def mark (i : Info) (n : Nat) (s : State) : Out :=
  issue i s fun c s => .done (if c.guard i.g then s.countPm (s.focus / 8) (s.focus / 2 % 4) 10 1 n else s)

/-- RDSP (R127): Read a special register. -/
def execRdsp (d : Nat) (sc : Bool) (x g : Nat) (s : State) : Out :=
  rdsp (infoRdsp 14 12 d sc x g) d sc x s

/-- WRSP (R127): Write a special register. -/
def execWrsp (x : Nat) (a : VSrc) (g : Nat) (s : State) : Out :=
  wrsp (infoWrsp 14 13 x a g) x a s

/-- RDCNT (R412): Read a counter into a scalar. -/
def execRdcnt (d n g : Nat) (s : State) : Out :=
  rdcnt (infoRdcnt 62 1 d n g) d n s

/-- MARK (R413): Issue performance event 10 with a value. -/
def execMark (n g : Nat) (s : State) : Out :=
  mark (infoNum 62 2 n g) n s

end Sys2Proof.Machine
end

