-- ==== Sys2Proof/Machine/Lanes.lean ====
section
/-!
DEFINITION. Sys2Proof/Machine/Lanes.lean: the cross-lane groups LANE and VRED (07 R145-R157) and regrouping (07 R158-R163).
-/

namespace Sys2Proof.Machine

/-! ### LANE -/

/-- The value of register `a` in lane `k`: 0 where it holds no thread (07 R145). -/
def Cohort.laneVal (c : Cohort) (a k : Nat) : Word :=
  match c.threads.find? fun t => t.lane == k with
  | some t => t.vr a
  | none => 0

/-- Shuffles: `k` finds the source lane from the lane and b (07 R146). -/
def shuffle (i : Info) (d a : Nat) (b : Cohort → Thread → Word) (k : Nat → Nat → Int) (s : State) : Out :=
  issue i s fun c s =>
    let g := (s.crewOf c).gw
    .done (s.onCohort c.key fun c => c.mapT (·.acts i.g) fun t =>
      let n := k t.lane (b c t).toNat
      t.setV d (if 0 ≤ n ∧ n < g then c.laneVal a n.toNat else t.vr a))

/-- A vote or a reduction into a scalar: written once, even when no lane acts (07 R145). -/
def reduceOp (i : Info) (d : Nat) (s : State) (f : Cohort → List Thread → Dword) : Out :=
  issue i s fun c s => .done (s.onCohort c.key fun c => c.setS d (f c (c.actors i.g)))

/-- A per-lane result computed from the acting lanes, in lane order (07 R145). -/
def crossOp (i : Info) (d : Nat) (s : State) (f : List Thread → Thread → Word) : Out :=
  issue i s fun c s =>
    let l := c.actors i.g
    .done (s.onCohort c.key fun c => c.mapT (·.acts i.g) fun t => t.setV d (f l t))

/-- The lanes of a list before a thread's. -/
def before (l : List Thread) (t : Thread) : List Thread := l.filter fun x => decide (x.lane < t.lane)

/-- ballot's word (07 R147). -/
def ballotOf (l : List Thread) (a : Nat) : Dword :=
  l.foldl (fun m t => if t.pr a then m ||| (1#64 <<< t.lane) else m) 0

/-- vcomp (07 R148). -/
def compOf (a b : Nat) (l : List Thread) (t : Thread) : Word :=
  match (l.filter (·.pr b))[(before l t).length]? with
  | some x => x.vr a
  | none => 0

/-- vexpd (07 R148). -/
def expdOf (d a b : Nat) (l : List Thread) (t : Thread) : Word :=
  if t.pr b then
    match l[((before l t).filter (·.pr b)).length]? with
    | some x => x.vr a
    | none => t.vr d
  else t.vr d

/-- vexpd writes the selected ones of the acting lanes; the other words of vD stay as they are. -/
def expand (i : Info) (d a b : Nat) (s : State) : Out :=
  issue { i with part := true } s fun c s =>
    let sel := fun (t : Thread) => t.acts i.g && t.pr b
    let s := if d = 63 then s else s.rewrite ((c.threads.filter sel).map fun t => .vreg c.key t.tid d)
    .done (s.onCohort c.key fun c => c.mapT sel fun t => t.setV d (expdOf d a b (c.actors i.g) t))

/-- The acting lanes of a lane's group (07 R149). -/
def groupOf (a : Nat) (l : List Thread) (t : Thread) : List Thread := l.filter fun x => x.vr a == t.vr a

/-- Order key of top-k: value or magnitude, both zeros equal, NaN below everything (07 R150). -/
def topKey (mag : Bool) (x : Nat) : Int :=
  let v := fp32.val x
  if v.isNan then -(2 ^ 40) else if v.isZero then 0 else fp32.key (if mag then x % 2147483648 else x)

/-- vtopk and vtopka (07 R150); k is the whole 64-bit value of B, which R150 gives no width (notes/assumptions/74.md). -/
def topk (i : Info) (mag : Bool) (d a : Nat) (b : SSrc) (s : State) : Out :=
  issue i s fun c s =>
    let l := c.actors i.g
    let key := fun (t : Thread) => topKey mag (t.vr a).toNat
    let sel := fun (t : Thread) =>
      decide ((l.filter fun x => decide (key t < key x ∨ (key x = key t ∧ x.tid < t.tid))).length < (b.val c).toNat)
    let nan := l.any fun t => sel t && (fp32.val (t.vr a).toNat).isNan
    .done (s.onCohort c.key fun c =>
      (c.addFp (if nan then fIV else 0)).mapT (·.acts i.g) fun t => t.setP d (sel t))

/-! ### VRED -/

/-- Integer sum, least and greatest of the acting lanes (07 R151). -/
def rsum (a : Nat) (l : List Thread) : Dword := BitVec.ofInt 64 ((l.map fun t => (t.vr a).toInt).sum)
def rminI (a : Nat) (l : List Thread) : Dword :=
  BitVec.ofInt 64 (l.foldl (fun m t => if (t.vr a).toInt < m then (t.vr a).toInt else m) 2147483647)
def rmaxI (a : Nat) (l : List Thread) : Dword :=
  BitVec.ofInt 64 (l.foldl (fun m t => if m < (t.vr a).toInt then (t.vr a).toInt else m) (-2147483648))

/-- Bitwise reductions, zero-extended (07 R151). -/
def rbits (a : Nat) (e : Word) (f : Word → Word → Word) (l : List Thread) : Dword :=
  (l.foldl (fun m t => f m (t.vr a)) e).zeroExtend 64

/-- A sum of values with the flags so far. -/
def faddF (x y : FRes) : FRes :=
  let r := fp32.addV .ne (fp32.val x.1) (fp32.val y.1)
  (r.1, r.2 ||| x.2 ||| y.2)

/-- One level of the pairwise tree (07 R152). -/
def treeLevel : List FRes → List FRes
  | x :: y :: l => faddF x y :: treeLevel l
  | l => l

/-- The root of the pairwise tree over 2^k leaves. -/
def treeRoot : Nat → List FRes → FRes
  | 0, l => l.headD (0x80000000, 0)
  | k + 1, l => treeRoot k (treeLevel l)

/-- Leaves of a cohort's positions: a lane that does not act keeps its position with -0 (07 R152, R157). -/
def Cohort.leaves (c : Cohort) (g gw a : Nat) : List FRes :=
  (upto gw).map fun k => match c.threads.find? fun t => t.lane == k with
    | some t => (if t.acts g then (t.vr a).toNat else 0x80000000, 0)
    | none => (0x80000000, 0)

/-- A scalar float reduction with its flags. -/
def freduce (i : Info) (d : Nat) (s : State) (f : Cohort → Nat → FRes) : Out :=
  issue i s fun c s =>
    let r := f c (s.crewOf c).gw
    .done (s.onCohort c.key fun c => (c.addFp r.2).setS d (BitVec.ofNat 64 r.1))

/-- radd.f32 (07 R152). -/
def raddF (g a : Nat) (c : Cohort) (gw : Nat) : FRes := treeRoot (Nat.log2 gw) (c.leaves g gw a)

/-- A NaN that is delivered without an addition is delivered as the canonical one (04 R88). -/
def canonF (r : FRes) : FRes := if (fp32.val r.1).isNan then (fp32.nan, r.2) else r

/-- radd.f32.any: compacted and padded with -0 (07 R155). -/
def raddAny (g a : Nat) (c : Cohort) (_ : Nat) : FRes :=
  let l := (c.actors g).map fun t => (((t.vr a).toNat, 0) : FRes)
  let k := if l.length ≤ 1 then 0 else Nat.log2 (l.length - 1) + 1
  canonF (treeRoot k (l ++ List.replicate (2 ^ k - l.length) (0x80000000, 0)))

/-- rmin.f32 and rmax.f32 (07 R156). -/
def rextF (isMax : Bool) (g a : Nat) (c : Cohort) (_ : Nat) : FRes :=
  let l := (c.actors g).map fun t => (t.vr a).toNat
  let vs := l.map fp32.val
  if vs.any (·.isNan) then fp32.nanRes (snanFlag vs)
  else
    let best := fun (m x : Nat) => if (decide (fp32.key m ≤ fp32.key x)) != isMax then m else x
    (l.foldl best (if isMax then 0xFF800000 else 0x7F800000), 0)

/-- The aligned nodes that split positions 0 to `n` - 1, largest first (07 R154). -/
def splitNodes (l : List FRes) : Nat → Nat → List FRes
  | 0, _ => []
  | k + 1, n =>
    if bit n k then treeRoot k (l.take (2 ^ k)) :: splitNodes (l.drop (2 ^ k)) k n
    else splitNodes l k n

/-- n1 + (n2 + ( ... + nt)), the innermost addition first. -/
def nestSum : List FRes → FRes
  | [] => (0x80000000, 0)
  | [x] => x
  | x :: xs => faddF x (nestSum xs)

/-- scan.f32 (07 R154). -/
def scanF (i : Info) (d a : Nat) (s : State) : Out :=
  issue i s fun c s =>
    let gw := (s.crewOf c).gw
    let lv := c.leaves i.g gw a
    let r := fun (t : Thread) => canonF (nestSum (splitNodes lv 7 (t.lane + 1)))
    .done (s.onCohort c.key fun c =>
      ((c.actors i.g).foldl (fun k t => k.addFp (r t).2) c).mapT (·.acts i.g) fun t =>
        t.setV d (BitVec.ofNat 32 (r t).1))

/-! ### Resources of a sub-core (01 R9, R11, R23) -/

/-- Working octets of a sub-core, by OCTMAP (01 R13). -/
def State.octets (s : State) (core sub : Nat) : Nat :=
  ((upto 4).filter fun k => bit (s.core core).octmap (4 * sub + k)).length

/-- The cohorts resident on a sub-core: those of crews in the active context that are neither swapped out nor between two cores. -/
def State.residents (s : State) (core sub : Nat) : List Cohort :=
  s.cohorts.filter fun c => c.sub == sub &&
    (match s.crew c.crew with
     | some cr => cr.core == core && !cr.shadow && cr.out == none && !cr.moving
     | none => false)

/-- Register bytes of a cohort: G x V x 4 (01 R23). -/
def Crew.cohortBytes (cr : Crew) (role : Nat) : Nat := cr.gw * (cr.role role).v * 4

/-- Free register bytes of a sub-core. -/
def State.freeRegs (s : State) (core sub : Nat) : Nat :=
  32768 * s.octets core sub -
    ((s.residents core sub).map fun c => (s.crewOf c).cohortBytes c.role).sum

/-- The lowest free cohort place of a sub-core. -/
def State.freePlace (s : State) (core sub : Nat) : Option Nat :=
  (upto 16).find? fun p => !((s.residents core sub).any fun c => c.place == p)

/-! ### Regroup bins (07 R158-R161) -/

/-- Key of a bin. -/
def binIx (core sub n : Nat) : Nat := (core * 4 + sub) * 8 + n

/-- A bin forms its cohort when a place and register bytes are free (07 R160); a bin of a saved context is kept as it is (07 R163).
%fpst and %mstat come from the snapshot, as R160 says; 03 R76 has 0 there (notes/assumptions/75.md). -/
def State.formBin (s : State) (core sub n : Nat) : Option State :=
  let ix := binIx core sub n
  let b := Tab.read {} s.bins ix
  match s.crew b.crew with
  | none => none
  | some cr =>
    match s.freePlace core sub with
    | none => none
    | some pl =>
      if s.freeRegs core sub < cr.cohortBytes b.role ∨ b.threads = [] ∨ cr.shadow ∨ cr.out.isSome then none
      else
        let mine := s.cohortsOf b.crew
        let count := fun (p : Nat) => ((s.residents core sub).filter fun c => c.port == p).length
        let cid := freshFrom (mine.map (·.cid)) 4096 mine.length
        let seat := fun (e : Thread × Nat) => { e.1 with lane := e.2, st := TStat.eligible, act := false }
        let lanes := (List.zip b.threads (upto b.threads.length)).map seat
        let c : Cohort :=
          { key := s.fresh, crew := b.crew, cid := cid, role := b.role, sub := sub,
            port := if count 1 < count 0 then 1 else 0, place := pl, threads := lanes, s := b.s, sPoison := b.sPoison,
            fpst := b.fpst, mstat := b.mstat, regrouped := true }
        some { s with fresh := s.fresh + 1, cohorts := s.cohorts ++ [c], bins := Tab.put {} s.bins ix {} }

/-- The register words that a deposit reads: v0-v15 of the threads and the scalars; and those that it writes. -/
def Cohort.depositReads (c : Cohort) (ts : List Thread) : List Site :=
  (ts.flatMap fun t => (upto 16).map (.vreg c.key t.tid)) ++ (upto 63).map (.sreg c.key)
def Cohort.depositWrites (c : Cohort) (ts : List Thread) : List Site :=
  ts.flatMap fun t => (upto 47).map fun n => .vreg c.key t.tid (16 + n)

/-- What a deposited thread keeps: v0-v15, p0-p6 and %tid; the rest is reset (07 R159, 03 R76). -/
def Thread.binned (t : Thread) (cpc : Dword) : Thread :=
  { tid := t.tid, lane := t.lane, pc := cpc, p := t.p, v := t.v.filter (fun e => decide (e.1 < 16)),
    vPoison := t.vPoison.filter fun e => decide (e.1 < 16) }

/-- Insert threads by %tid. -/
def mergeTids (l : List Thread) (new : List Thread) : List Thread := new.foldr (insertBy (·.tid)) l

/-- Threads deposited into bins of a cohort's sub-core: the state, and the threads that no bin could take. `same` is the bin that has
just formed a cohort, which the rest of the deposit opens again; `fuel` bounds the bins that one deposit opens. -/
def State.deposit (c : Cohort) (cr : Crew) (key cpc : Nat) : Nat → Option Nat → State → List Thread → State × List Thread
  | 0, _, s, ts => (s, ts)
  | _, _, s, [] => (s, [])
  | fuel + 1, same, s, ts =>
    let at_ := fun (n : Nat) => Tab.read {} s.bins (binIx cr.core c.sub n)
    let fits := fun (b : Bin) => b.held && b.crew == cr.key && b.role == c.role && b.key == key && b.cpc == cpc && !b.full
    match same.or (((upto 8).find? fun n => fits (at_ n)).or ((upto 8).find? fun n => !(at_ n).held)) with
    | none => (s, ts)
    | some n =>
      let b := at_ n
      let put := ts.take (cr.gw - b.threads.length)
      let low := leastD 4096 (b.threads.map (·.tid))
      let newLow := leastD 4096 (put.map (·.tid))
      let snap := decide (newLow < low)
      let all := mergeTids b.threads put
      let full := decide (cr.gw ≤ all.length)
      let b : Bin := { b with
        held := true, crew := cr.key, role := c.role, key := key, cpc := cpc, threads := all,
        full := full, s := if snap then c.s else b.s, sPoison := if snap then c.sPoison else b.sPoison, fpst := if snap then c.fpst else b.fpst,
        mstat := if snap then c.mstat else b.mstat }
      let s : State := { s with bins := Tab.put {} s.bins (binIx cr.core c.sub n) b }
      match if b.full then s.formBin cr.core c.sub n else none with
      | some s => State.deposit c cr key cpc fuel (some n) s (ts.drop put.length)
      | none => State.deposit c cr key cpc fuel none s (ts.drop put.length)

/-- rgput (07 R159); it holds until the ack counter is 0 (12 R276) and the registers that it deposits or clears are produced (02 R39).
The words that it reads have their errors met (10 R233). -/
def rgput (i : Info) (a : SSrc) (s : State) : Out :=
  issue i s fun c s =>
    if c.tmode then c.illegal i
    else if c.acks ≠ 0 ∨ (c.ops.any fun o => !o.regsV.isEmpty || !o.regsS.isEmpty || !o.regsP.isEmpty)
    then .hold
    else
      let cr := s.crewOf c
      let cpc := BitVec.ofNat 64 c.nextHeader
      let s := (s.meet (c.depositReads (c.actors i.g))).rewrite (c.depositWrites (c.actors i.g))
      let c := (s.cohort c.key).getD c
      let ts := (c.actors i.g).map fun t => t.binned cpc
      let r := s.deposit c cr (a.val c).toNat c.nextHeader 9 none ts
      let stay := r.2.map (·.tid)
      let gone := (ts.map (·.tid)).filter fun n => !(stay.contains n)
      .done (r.1.onCohort c.key fun c =>
        let c : Cohort := { c with threads := c.threads.filter (fun t => !(gone.contains t.tid)) }
        ((c.mapT (fun t => stay.contains t.tid) fun t => t.binned cpc).release).closeSigs)

/-- Every nonempty bin of a crew forms its cohort, or waits full (07 R161). -/
def State.flushCrew (s : State) (k : Nat) : State :=
  (s.bins.filter fun e => e.2.held && e.2.crew == k).foldl (fun s e =>
    let s : State := { s with bins := Tab.put {} s.bins e.1 { e.2 with full := true } }
    (s.formBin (e.1 / 32) (e.1 / 8 % 4) (e.1 % 8)).getD s) s

/-- rgflush (07 R161). -/
def rgflush (i : Info) (s : State) : Out :=
  issue i s fun c s =>
    if c.tmode then c.illegal i
    else .done (if c.guard i.g then s.flushCrew c.crew else s)

/-- rgqry (07 R162). -/
def rgqry (i : Info) (d : Nat) (s : State) : Out :=
  issue i s fun c s =>
    let cr := s.crewOf c
    let byte := fun (n : Nat) =>
      let b := Tab.read {} s.bins (binIx cr.core c.sub n)
      if !b.held then 0 else if b.crew == cr.key && b.role == c.role then b.threads.length % 64 else 128
    .done (if c.guard i.g then
      s.onCohort c.key fun c => c.setS d (BitVec.ofNat 64 (((upto 8).map fun n => byte n * 256 ^ n).sum)) else s)

/-- BIN_FORMATION: a full bin forms its cohort (07 R160). -/
def binFormation (core sub n : Nat) (s : State) : State :=
  if (Tab.read {} s.bins (binIx core sub n)).full then (s.formBin core sub n).getD s else s

/-- AUTO_FLUSH: every non-exited thread is binned, or every cohort that holds a thread waits at a wreq (07 R161); a saved context
keeps its bins (07 R163). -/
def autoFlush (k : Nat) (s : State) : State :=
  let saved := (s.crew k).any fun cr => cr.shadow || cr.out.isSome
  let live := (s.cohortsOf k).filter fun c => !c.live.isEmpty
  let atWreq := fun (t : Thread) => match t.st with
    | .waiting (.wreq _ _ _) => true
    | .exited => true
    | _ => false
  if !saved && live.all fun c => c.threads.all atWreq then s.flushCrew k else s

/-- SHFL (R146): Shuffle from an indexed lane. -/
def execShfl (d a : Nat) (b : VSrc) (g : Nat) (s : State) : Out :=
  shuffle (infoVal 22 0 d a b g) d a (fun c t => b.val c t) (fun _ b => b) s

/-- SHFLUP (R146): Shuffle from lane l − b. -/
def execShflup (d a : Nat) (b : VSrc) (g : Nat) (s : State) : Out :=
  shuffle (infoVal 22 1 d a b g) d a (fun c t => b.val c t) (fun l b => (l : Int) - b) s

/-- SHFLDN (R146): Shuffle from lane l + b. -/
def execShfldn (d a : Nat) (b : VSrc) (g : Nat) (s : State) : Out :=
  shuffle (infoVal 22 2 d a b g) d a (fun c t => b.val c t) (fun l b => (l : Int) + b) s

/-- SHFLX (R146): Shuffle from lane l XOR b. -/
def execShflx (d a : Nat) (b : VSrc) (g : Nat) (s : State) : Out :=
  shuffle (infoVal 22 3 d a b g) d a (fun c t => b.val c t) (fun l b => (l ^^^ b : Nat)) s

/-- BCAST (R146): Broadcast one lane to all acting lanes. -/
def execBcast (d a : Nat) (b : SSrc) (g : Nat) (s : State) : Out :=
  shuffle (infoBcast 22 4 d a b g) d a (fun c _ => (b.val c).truncate 32) (fun _ b => b) s

/-- VANY (R147): Scalar vote: predicate true in some acting lane. -/
def execVany (d a g : Nat) (s : State) : Out :=
  reduceOp (infoVote 22 5 d a g) d s fun _ l => if l.any (·.pr a) then 1 else 0

/-- VALL (R147): Scalar vote: predicate true in all acting lanes. -/
def execVall (d a g : Nat) (s : State) : Out :=
  reduceOp (infoVote 22 6 d a g) d s fun _ l => if l.all (·.pr a) then 1 else 0

/-- BALLOT (R147): Scalar bitmask of lanes whose predicate is true. -/
def execBallot (d a g : Nat) (s : State) : Out :=
  reduceOp (infoVote 22 7 d a g) d s fun _ l => ballotOf l a

/-- VPFXC (R147): Per-lane prefix count of true predicates. -/
def execVpfxc (d a g : Nat) (s : State) : Out :=
  crossOp (infoVpfxc 22 8 d a g) d s fun l t => BitVec.ofNat 32 ((before l t).filter (·.pr a)).length

/-- VCOMP (R148): Compact selected lanes' values to the low acting lanes. -/
def execVcomp (d a b g : Nat) (s : State) : Out :=
  crossOp (infoVcomp 22 9 d a b g) d s (compOf a b)

/-- VEXPD (R148): Expand acting values into selected lanes. -/
def execVexpd (d a b g : Nat) (s : State) : Out :=
  expand (infoVcomp 22 10 d a b g) d a b s

/-- VMRANK (R149): Rank of each lane within its match group. -/
def execVmrank (d a g : Nat) (s : State) : Out :=
  crossOp (infoVun 22 11 d a g) d s fun l t => BitVec.ofNat 32 (before (groupOf a l t) t).length

/-- VMCNT (R149): Size of each lane's match group. -/
def execVmcnt (d a g : Nat) (s : State) : Out :=
  crossOp (infoVun 22 12 d a g) d s fun l t => BitVec.ofNat 32 (groupOf a l t).length

/-- VMLEAD (R149): Lowest lane index of each lane's match group. -/
def execVmlead (d a g : Nat) (s : State) : Out :=
  crossOp (infoVun 22 13 d a g) d s fun l t => BitVec.ofNat 32 (((groupOf a l t).head?.map (·.lane)).getD 0)

/-- VTOPK (R150): Select the k greatest FP32 values into a predicate. -/
def execVtopk (d a : Nat) (b : SSrc) (g : Nat) (s : State) : Out :=
  topk (infoVtopk 22 14 d a b g) false d a b s

/-- VTOPKA (R150): Select the k greatest magnitudes into a predicate. -/
def execVtopka (d a : Nat) (b : SSrc) (g : Nat) (s : State) : Out :=
  topk (infoVtopk 22 15 d a b g) true d a b s

/-- RADD_I32 (R151): Integer sum reduction to a scalar. -/
def execRaddI32 (d a g : Nat) (s : State) : Out :=
  reduceOp (infoVredS 23 0 d a g) d s fun _ l => rsum a l

/-- RMIN_I32 (R151): Signed minimum reduction. -/
def execRminI32 (d a g : Nat) (s : State) : Out :=
  reduceOp (infoVredS 23 1 d a g) d s fun _ l => rminI a l

/-- RMAX_I32 (R151): Signed maximum reduction. -/
def execRmaxI32 (d a g : Nat) (s : State) : Out :=
  reduceOp (infoVredS 23 2 d a g) d s fun _ l => rmaxI a l

/-- RAND (R151): AND reduction. -/
def execRand (d a g : Nat) (s : State) : Out :=
  reduceOp (infoVredS 23 3 d a g) d s fun _ l => rbits a (BitVec.allOnes 32) (· &&& ·) l

/-- ROR (R151): OR reduction. -/
def execRor (d a g : Nat) (s : State) : Out :=
  reduceOp (infoVredS 23 4 d a g) d s fun _ l => rbits a 0 (· ||| ·) l

/-- RXOR (R151): XOR reduction. -/
def execRxor (d a g : Nat) (s : State) : Out :=
  reduceOp (infoVredS 23 5 d a g) d s fun _ l => rbits a 0 (· ^^^ ·) l

/-- RADD_F32 (R152): Canonical-tree FP32 sum reduction. -/
def execRaddF32 (d a g : Nat) (s : State) : Out :=
  freduce (infoVredS 23 6 d a g) d s (raddF g a)

/-- RADD_F32_ANY (R155): Compacted-tree FP32 sum reduction. -/
def execRaddF32Any (d a g : Nat) (s : State) : Out :=
  freduce (infoVredS 23 7 d a g) d s (raddAny g a)

/-- RMIN_F32 (R156): FP32 minimum reduction. -/
def execRminF32 (d a g : Nat) (s : State) : Out :=
  freduce (infoVredS 23 8 d a g) d s (rextF false g a)

/-- RMAX_F32 (R156): FP32 maximum reduction. -/
def execRmaxF32 (d a g : Nat) (s : State) : Out :=
  freduce (infoVredS 23 9 d a g) d s (rextF true g a)

/-- SCAN_I32 (R151): Inclusive integer scan. -/
def execScanI32 (d a g : Nat) (s : State) : Out :=
  crossOp (infoVun 23 10 d a g) d s fun l t => t.vr a + ((before l t).map (·.vr a)).sum

/-- SCAN_F32 (R154): Canonical inclusive FP32 scan. -/
def execScanF32 (d a g : Nat) (s : State) : Out :=
  scanF (infoVun 23 11 d a g) d a s

/-- XSCAN_I32 (R151): Exclusive integer scan. -/
def execXscanI32 (d a g : Nat) (s : State) : Out :=
  crossOp (infoVun 23 12 d a g) d s fun l t => ((before l t).map (·.vr a)).sum

/-- RGPUT (R159): Deposit acting threads into a regroup bin by key. -/
def execRgput (a : SSrc) (g : Nat) (s : State) : Out :=
  rgput (infoRgput 24 0 a g) a s

/-- RGFLUSH (R161): Form cohorts from every nonempty bin of the crew. -/
def execRgflush (g : Nat) (s : State) : Out :=
  rgflush (infoGonly 24 1 g) s

/-- RGQRY (R162): Read bin occupancy of the sub-core into a scalar. -/
def execRgqry (d g : Nat) (s : State) : Out :=
  rgqry (infoRgqry 24 2 d g) d s

/-- BIN_FORMATION (R160): A full regroup bin forms a cohort once a place and register bytes are free. -/
def execBinFormation (core sub bin : Nat) (s : State) : Out :=
  .next (binFormation core sub bin s)

/-- AUTO_FLUSH (R161): Hardware flushes a crew's bins when all its threads are binned or waiting at wreq. -/
def execAutoFlush (crew : Nat) (s : State) : Out :=
  .next (autoFlush crew s)

end Sys2Proof.Machine
end

