-- ==== Sys2Proof/Machine/Access.lean ====
section
/-!
DEFINITION. Sys2Proof/Machine/Access.lean: addresses and checks of the five spaces (11 R236-R239), the packets of an access
(11 R241, R242), what a packet does at its home (11 R246-R248), and protected words (14 R301, 16 R345, 17 R358).
-/

namespace Sys2Proof.Machine

/-- The spaces of loads, stores and atomics (11 R236). -/
inductive Spc where
  | g | s | c | x | p
  deriving DecidableEq, Repr

/-! ### Crews and their allocations -/

/-- Bytes of a crew's allocation that units keep live and that stores do not write: queue control words, channel words,
barrier words, the effect buffer of a launch that may start speculatively (14 R301, R306; 16 R345; 17 R358). -/
def State.protects (s : State) (cr : Crew) (off : Nat) : Bool :=
  let within := fun (a n : Nat) => decide (a ≤ off ∧ off < a + n)
  ((upto 64).any fun q => bit cr.hdr.qmask q && within ((cr.hdr.qtab.getD q ⟨0, 0, 0⟩).off) 16) ||
  (cr.hasBars && within cr.hdr.boff 128) ||
  (match s.launch cr.launch with
   | some l => (l.chans.any fun ch => within ch.ro 16) || (l.lrec.spec && within (cr.ssize - 32768) 32768)
   | none => false)

/-- The target crew of a window address (10 R213). Until its core has swapped too, it stands in that core's shadow context (13
R281). -/
def State.windowTarget (s : State) (cr : Crew) (a : Nat) : Option Crew :=
  let n := a / 2 ^ 28
  if n = cr.core % 16 then some cr
  else
    let k := cr.core / 16 * 16 + n
    (sortBy (·.index) (s.crews.filter fun x => x.launch == cr.launch && x.core == k && !x.moving)).head?

/-- The scratchpad bank that holds a crew's allocation (10 R212). -/
def Crew.bank (cr : Crew) : Space := if cr.shadow then .shad cr.core else .spad cr.core

/-- Private base of a crew (16 R330). -/
def State.privBase (s : State) (cr : Crew) : Nat :=
  match s.launch cr.launch with
  | some l => l.lrec.priv + (cr.index - l.lrec.lo) * cr.hdr.priv * cr.hdr.span
  | none => 0

/-! ### Addresses -/

/-- The raw operand of a lane, offset word added; exact (11 R236). -/
def laneAddr (sp : Spc) (c : Cohort) (t : Thread) (a : Nat) (u : Bool) (off : Option (BitVec 32)) : Int :=
  let o := match off with
    | some w => w.toInt
    | none => 0
  match sp with
  | .g => (if u then ((c.sr a).toNat : Int) else ((t.vPair a).toNat : Int)) + o
  | .c => (if u then ((c.sr a).toNat : Int) else ((t.vr a).toNat : Int)) + o
  | _ => (if u then (c.sr a).toInt else (t.vr a).toInt) + o

/-- A run of bytes of one access at its home: `ix` is its place in the access, `va` the virtual address or offset. -/
structure Piece where
  ix : Nat
  n : Nat
  va : Nat
  sp : Space
  addr : Nat
  deriving DecidableEq, Repr

/-- 64 bits of a two's complement number, as %tinfo holds it. -/
def info64 (x : Int) : Nat := (BitVec.ofInt 64 x).toNat

/-- The pieces of `n` bytes at one address: aligned runs of at most `w` bytes. -/
def cut (w n : Nat) (sp : Space) (va addr : Nat) : List Piece :=
  (upto (ceilDiv n w)).map fun k => ⟨w * k, min w (n - w * k), va + w * k, sp, addr + w * k⟩

/-- Translate pieces of a global access, or the first cause found: PROT before XLATE (09 R194). -/
def State.mapPieces (s : State) (cr : Crew) (k : Acc) (ps : List Piece) : Except (Nat × Nat) (List Piece) :=
  let rs := ps.map fun p => (p, s.translate cr.core cr.jd p.va k)
  let errs := rs.filterMap fun e => match e.2 with
    | .error c => some (c, e.1.va)
    | .ok _ => none
  match (errs.find? fun e => e.1 == 6).or errs.head? with
  | some e => .error e
  | none => .ok (rs.map fun e => match e.2 with
      | .ok pa => { e.1 with addr := pa }
      | .error _ => e.1)

/-- The checks ALIGN, RANGE, PROT, XLATE of one lane, and its pieces (11 R236, R237). -/
def State.checkLane (s : State) (sp : Spc) (cr : Crew) (tid : Nat) (n : Nat) (k : Acc) (a : Int) :
    Except LCause (List Piece) :=
  let bad := fun (code info : Nat) => Except.error
    (⟨tid, code, if code = 5 ∨ code = 6 then k.detail else 0, info, 0⟩ : LCause)
  let w := a % 2 ^ 32
  let x := match sp with
    | .c => w
    | _ => a
  if x % (n : Int) ≠ 0 then bad 4 (info64 x)
  else match sp with
  | .g =>
    if a < 0 ∨ 2 ^ 57 ≤ a then bad 6 (info64 a)
    else match s.mapPieces cr k (cut 8 n .glob a.toNat 0) with
      | .error e => bad e.1 e.2
      | .ok ps => .ok ps
  | .s =>
    if a < 0 ∨ (cr.ssize : Int) < a + n then bad 7 (info64 a)
    else .ok (cut 8 n (.spad cr.core) a.toNat (cr.sbase + a.toNat))
  | .c =>
    let wa := w.toNat
    let o := wa % 2 ^ 28
    (match s.windowTarget cr wa with
     | some t => if o + n ≤ t.ssize then .ok (cut 8 n t.bank wa (t.sbase + o)) else bad 7 wa
     | none => bad 7 wa)
  | .x =>
    if a < 0 ∨ (cr.jd.cxsize : Int) < a + n ∨ s.carve * 2 ^ 24 < cr.jd.cxbase + a.toNat + n then bad 7 (info64 a)
    else .ok (cut 8 n .chip a.toNat (cr.jd.cxbase + a.toNat))
  | .p =>
    if a < 0 ∨ (cr.hdr.priv : Int) < a + n then bad 7 (info64 a)
    else
      let o := a.toNat
      let va := fun (o : Nat) => s.privBase cr + o / 4 * 4 * cr.hdr.span + 4 * tid + o % 4
      let ps := (upto (ceilDiv n 4)).map fun k => (⟨4 * k, min 4 n, va (o + 4 * k), .glob, 0⟩ : Piece)
      match s.mapPieces cr k ps with
      | .error e => bad e.1 e.2
      | .ok ps => .ok ps

/-- POISON of a load or of an atomic that returns: the poisoned word's address (09 R193). -/
def State.piecePoison (s : State) (tid : Nat) (ps : List Piece) : Option LCause :=
  (ps.find? fun p => s.poisoned p.sp p.addr p.n).map fun p =>
    let w := if p.sp = .glob ∨ p.sp = .chip then 8 else 4
    let d := s.poisonAddr p.sp p.addr p.n - p.addr
    ⟨tid, 12, 0, (p.va + d) / w * w, 0⟩

/-- WATCH_P of a lane's global access (09 R203): the lowest-indexed entry that strikes, with the lowest byte that this entry strikes
(notes/assumptions/94.md). -/
def State.pieceWatch (s : State) (cr : Crew) (t : Thread) (k : Acc) (ps : List Piece) : Option LCause :=
  if t.skipW then none
  else
    let hits := ps.filterMap fun p => s.watchHit cr.core cr.jd.asid k false p.va p.n
    match sortBy (·.1) hits with
    | [] => none
    | h :: hs => some ⟨t.tid, 10, k.detail, leastD h.2 ((h :: hs).filter (·.1 == h.1) |>.map (·.2)), h.1⟩

/-- All lanes of an access: their pieces, or the causes found. -/
def checkLanes {α : Type} (f : Thread → Except LCause α) (l : List Thread) : Except (List LCause) (List (Thread × α)) :=
  let rs := l.map fun t => (t, f t)
  let bad := rs.filterMap fun e => match e.2 with
    | .error c => some c
    | .ok _ => none
  if bad ≠ [] then .error bad
  else .ok (rs.filterMap fun e => match e.2 with
    | .ok x => some (e.1, x)
    | .error _ => none)

/-! ### Spans, packets and holds -/

/-- The 128-byte span of a home address (11 R242). -/
def spanKey (sp : Space) (addr : Nat) : Nat :=
  match sp with
  | .glob => addr / 128 * 4
  | .chip => addr / 128 * 4 + 1
  | .spad c | .shad c => (c * 8388608 + addr) / 128 * 4 + 2
  | .unit => 3

/-- Does the cohort have an unacknowledged packet to one of the spans? -/
def Cohort.spanBusy (c : Cohort) (ps : List Piece) : Bool :=
  c.unacked.any fun u => ps.any fun p => u.2.contains (spanKey p.sp p.addr)

/-- The spans that a packet touches: those of its bytes. -/
def spansOf (sp : Space) (addr : Nat) : PKind → List Nat
  | .store bytes => distinct ((addr :: bytes.map (·.1)).map (spanKey sp))
  | _ => [spanKey sp addr]

/-- Packets of the cohort under way to a span, which a later access to it must follow (11 R242, 12 R267). -/
def State.loadsTo (s : State) (k span : Nat) : List Nat :=
  (s.fabric.filter fun p => p.cohort == k && (spansOf p.space p.addr p.kind).contains span).map (·.id)

/-- Has the cohort packets under way to its core's own scratchpad: stores and atomics that their releases still hold? Whatever reads or
writes the scratchpad after them follows them (11 R242, 14 R304). -/
def State.ownPending (s : State) (c : Cohort) (core : Nat) : Bool :=
  s.fabric.any fun p => p.cohort == c.key && (p.space == .spad core || p.space == .shad core)

/-- Does a copy under way write scratchpad bytes of the core that a piece touches (11 R263)? -/
def State.rangeBusy (s : State) (core : Nat) (ps : List Piece) : Bool :=
  s.copies.any fun x => !x.done && x.core == core &&
    (x.kind == .g2s || x.kind == .s2s || x.kind == .c2s || x.kind == .tld) && decide (0 < x.len) &&
    (match s.crew x.crew with
     | some cr => !cr.shadow && ps.any fun p => p.sp == .spad core &&
         decide (p.addr < cr.sbase + x.dst + x.len ∧ cr.sbase + x.dst < p.addr + p.n)
     | none => false)

/-- The crew whose allocation holds a byte of a scratchpad bank, 0 for none. -/
def State.allocOf (s : State) (sp : Space) (addr : Nat) : Nat :=
  match s.crews.find? fun cr => decide (cr.bank = sp ∧ cr.sbase ≤ addr ∧ addr < cr.sbase + cr.ssize) && !cr.moving with
  | some cr => cr.key
  | none => 0

/-- A packet leaves for its home; `counts` packets raise the ack counter. -/
def State.send (s : State) (c : Cohort) (core op : Nat) (sp : Space) (addr : Nat) (k : PKind) (need : List Nat)
    (counts : Bool) : State :=
  let id := s.fresh
  let spans := spansOf sp addr k
  let d := match sp with
    | .glob => s.domOf addr
    | _ => 0
  let p : Packet :=
    { id := id, cohort := c.key, op := op, core := core, target := s.allocOf sp addr, space := sp, addr := addr, kind := k,
      need := need ++ spans.flatMap (s.loadsTo c.key), acked := counts, dom := d, gen := Tab.read 0 s.gens d, ipc := c.pc }
  let s := { s with fresh := id + 1, fabric := s.fabric ++ [p] }
  if counts then s.onCohort c.key fun c => { c with unacked := c.unacked ++ [(id, spans)] } else s

/-- A store whose source has no cohort leaves for its home (10 R230, 16 R340). -/
def State.foreignStore (s : State) (core : Nat) (bytes : List (Nat × Byte)) : State :=
  let id := s.fresh
  let addr := (bytes.head?.map (·.1)).getD 0
  let d := s.domOf addr
  { s with fresh := id + 1, fabric := s.fabric ++ [{ id := id, cohort := 0, core := core, space := .glob, addr := addr,
                                                     kind := .store bytes, acked := false, dom := d, gen := Tab.read 0 s.gens d }] }

/-- An access performed at issue is acknowledged like a packet (11 R241). -/
def State.ackNow (s : State) (c : Cohort) (op span : Nat) : State :=
  let id := s.fresh
  let s := { s with fresh := id + 1, acks := s.acks ++ [({ id := id, cohort := c.key, op := op, counts := true, reports := [] } : Ack)] }
  s.onCohort c.key fun c => { c with unacked := c.unacked ++ [(id, [span])] }

/-! ### What an atomic computes (11 R246-R248) -/

/-- A number of `n` bytes. -/
def wrapN (n x : Nat) : Nat := x % 2 ^ (8 * n)

/-- m' of an AOP on `n` bytes; `y` is the new value of cas; AOP 15 leaves the word (a protected one). -/
def aopNew (aop n m x y : Nat) : Nat :=
  let b := 8 * n
  if aop = 0 then wrapN n (m + x) else if aop = 1 then wrapN n (m + 2 ^ b - x)
  else if aop = 2 then (if sextNat b m ≤ sextNat b x then m else x)
  else if aop = 3 then (if sextNat b m ≤ sextNat b x then x else m)
  else if aop = 4 then min m x else if aop = 5 then max m x
  else if aop = 6 then m &&& x else if aop = 7 then m ||| x else if aop = 8 then m ^^^ x
  else if aop = 9 then x else if aop = 10 then (if m = x then y else m)
  else if aop = 11 then (fp32.addV .ne (fp32.val m) (fp32.val x)).1
  else if aop = 12 then (fp32.minMaxNm false m x).1 else if aop = 13 then (fp32.minMaxNm true m x).1
  else if aop = 14 then (if x ≤ m then 0 else m + 1) else m

/-- The operand of a combined reduction: the operation itself, sub by the sum (11 R248). -/
def combine (aop n : Nat) : List Nat → Nat
  | [] => 0
  | x :: xs => xs.foldl (fun m y => aopNew (if aop = 1 then 0 else aop) n m y 0) x

/-- Lanes applied one after another at the home: the last value and each lane's old value. -/
def applyLanes (aop n : Nat) : Nat → List (Nat × Nat × Nat) → Nat × List (Nat × Nat)
  | m, [] => (m, [])
  | m, (t, x, y) :: l =>
    let r := applyLanes aop n (aopNew aop n m x y) l
    (r.1, (t, m) :: r.2)

/-- Register writes of a value of `n` bytes into a lane. -/
def regWrites (tid reg n x : Nat) (poison : Bool) : List RegWrite :=
  (upto (ceilDiv n 4)).map fun k => .v tid (if reg = 63 then 63 else reg + k) (BitVec.ofNat 32 (x / 2 ^ (32 * k))) poison

/-- The space that a packet reaches: the scratchpad bank that holds its target's allocation when it arrives (10 R212). -/
def State.homeSpace (s : State) (p : Packet) : Space :=
  match p.space with
  | .spad c | .shad c =>
    match s.crew p.target with
    | some cr => if cr.shadow then .shad c else .spad c
    | none => p.space
  | sp => sp

/-- An atomic performed at its home: the new state and the register writes of its lanes. The operation is `aop` modulo 16, 15 where its
word is protected; `aop` div 16 counts the bytes before a protected one, where the word straddles its beginning (14 R301). -/
def State.doAtom (s : State) (sp : Space) (addr aop n : Nat) (lanes : List (Nat × Nat × Nat)) (ret : Option Nat) :
    State × List RegWrite :=
  let m := s.readNat sp addr n
  let r := applyLanes (aop % 16) n m lanes
  let s := if aop % 16 = 15 then s else s.writeNat sp addr (if aop < 16 then n else aop / 16) r.1
  match ret with
  | none => (s, [])
  | some reg => (s, r.2.flatMap fun e => regWrites e.1 reg n e.2 false)

end Sys2Proof.Machine
end

