-- ==== Sys2Proof/Machine/Memory.lean ====
section
/-!
DEFINITION. Sys2Proof/Machine/Memory.lean: loads, stores, atomics and fences as they issue (11 R236-R250, 12 R270), with the
held stores of speculative crews (17 R357, R358).
-/

namespace Sys2Proof.Machine

/-! ### Loads -/

/-- Bytes of a piece that the crew itself holds, by index: its held stores (17 R358) or its dirty private bytes (10 R217). -/
def Crew.known (cr : Crew) (sp : Spc) (p : Piece) : List (Nat × Byte) :=
  (upto p.n).filterMap fun j =>
    match sp with
    | .g =>
      (cr.effects.reverse.find? fun e => decide (e.va ≤ p.va + j ∧ p.va + j < e.va + e.data.length)).bind fun e =>
        (e.data[p.va + j - e.va]?).map fun b => (j, b)
    | .p => (Tab.read none cr.privMem (p.addr + j)).map fun b => (j, b)
    | _ => none

/-- The part of a clean L1 line that a piece reads; a load of the cohort under way to the line goes first (12 R267). -/
def State.l1Hit (s : State) (c : Cohort) (cr : Crew) (sp : Spc) (p : Piece) : Option (List Byte) :=
  let priv := if sp = .p then cr.key else 0
  if (sp ≠ .g ∧ sp ≠ .p) ∨ s.loadsTo c.key (spanKey p.sp p.addr) ≠ [] then none
  else (s.l1Line cr.core (p.addr / 128) priv).map fun l => (l.drop (p.addr % 128)).take p.n

/-- The bytes of a piece when the core has them at issue: own scratchpad, bytes it holds, a line of L1. -/
def State.atHand (s : State) (c : Cohort) (cr : Crew) (sp : Spc) (p : Piece) : Option (List Byte) :=
  if sp = .s then some (s.readBytes p.sp p.addr p.n)
  else
    let k := cr.known sp p
    if k.length = p.n then some (overlay (List.replicate p.n 0) k)
    else (s.l1Hit c cr sp p).map fun bs => overlay bs k

/-- POISON of an ldp that reads a poisoned word of a dirty line of its crew's private memory, or a dirty line with a parity error (10
R233, R234). -/
def State.privPoison (s : State) (cr : Crew) (tid : Nat) (ps : List Piece) : Option LCause :=
  let bad := fun (p : Piece) => Tab.read false cr.privBad (p.addr / 8) ||
    ((s.latent.any fun e => decide (e.1 = .priv cr.key (p.addr / 128))) &&
      cr.privMem.any fun e => e.1 / 128 == p.addr / 128)
  (ps.find? bad).map fun p => ⟨tid, 12, 0, p.va / 8 * 8, 0⟩

/-- POISON of a load: a poisoned word that is read from its home or from a dirty private line (10 R234). -/
def State.loadPoison (s : State) (c : Cohort) (cr : Crew) (sp : Spc) (tid : Nat) (ps : List Piece) : Option LCause :=
  let far := ps.filter fun p => decide (sp = .s) || (s.atHand c cr sp p).isNone
  Option.or (if sp = .p then s.privPoison cr tid ps else none) <| (s.piecePoison tid far).bind fun e =>
    if far.any fun p => let k := cr.known sp p
      (upto p.n).any fun j => !(k.any fun x => x.1 == j) && s.poisoned p.sp (p.addr + j) 1 then some e else none

/-- Are the accesses of the space watched (09 R203)? -/
def Spc.watched : Spc → Bool
  | .g | .p => true
  | _ => false

/-- The checks of one lane of a load (11 R239). -/
def State.loadLane (s : State) (c : Cohort) (cr : Crew) (sp : Spc) (a : Nat) (u : Bool) (off : Option (BitVec 32))
    (n : Nat) (t : Thread) : Except LCause (List Piece) :=
  match s.checkLane sp cr t.tid n .read (laneAddr sp c t a u off) with
  | .error e => .error e
  | .ok ps =>
    match (s.loadPoison c cr sp t.tid ps).or (if sp.watched then s.pieceWatch cr t .read ps else none) with
    | some e => .error e
    | none => .ok ps

/-- The interlocks of an access with these pieces (11 R242, R263). -/
def State.accessHeld (s : State) (c : Cohort) (cr : Crew) (sp : Spc) (ps : List Piece) : Bool :=
  if sp = .s then
    s.rangeBusy cr.core ps || ps.any fun p => decide (s.loadsTo c.key (spanKey p.sp p.addr) ≠ [])
  else c.spanBusy ps || s.rangeBusy cr.core ps

/-- Passes of one group of lanes beyond the first: words by bank (10 R211). -/
def morePasses (words : List Nat) : Nat :=
  let ws := distinct words
  (ws.map fun w => (ws.filter fun x => x % 64 == w % 64).length).foldl max 1 - 1

/-- Scratchpad passes beyond the first of an access; at G = 64 each pass of 32 lanes counts by itself (10 R211). -/
def passesOf (gw : Nat) (lanes : List (Thread × List Piece)) : Nat :=
  let words := fun (l : List (Thread × List Piece)) =>
    l.flatMap fun e => e.2.flatMap fun p => (upto (ceilDiv p.n 4)).map fun k => (p.addr + 4 * k) / 4
  if gw = 64 then
    morePasses (words (lanes.filter fun e => decide (e.1.lane < 32))) +
      morePasses (words (lanes.filter fun e => decide (32 ≤ e.1.lane)))
  else morePasses (words lanes)

/-- The 64 KiB pages that the translations of an access are for. -/
def pagesOf (sp : Spc) (lanes : List (Thread × List Piece)) : List Nat :=
  match sp with
  | .g | .p => distinct (lanes.flatMap fun e => e.2.map fun p => p.va / 65536 * 65536)
  | _ => []

/-- Must an access hold for a ninth outstanding miss of its core (10 R227)? -/
def State.tlbHeld (s : State) (cr : Crew) (sp : Spc) (lanes : List (Thread × List Piece)) : Bool :=
  s.missHeld cr.core cr.jd (pagesOf sp lanes)

/-- A held access has its first misses under way. -/
def State.tlbStart (s : State) (cr : Crew) (sp : Spc) (lanes : List (Thread × List Piece)) : State :=
  s.startWalks cr.core cr.jd (pagesOf sp lanes)

/-- Translations used, lines missed and passes made by an access enter the TLBs and the counters (20 R411). -/
def State.countAccess (s : State) (c : Cohort) (cr : Crew) (sp : Spc) (lanes : List (Thread × List Piece)) (missed : Nat) :
    State :=
  match sp with
  | .g | .p => (s.useTlb cr.core cr.jd (pagesOf sp lanes)).countPm cr.core c.sub 6 missed
  | .s => s.countPm cr.core c.sub 8 (passesOf cr.gw lanes)
  | _ => s

/-- Number of a lane's destination register for a place in its access. -/
def regAt (t ix : Nat) : Nat := if t = 63 then 63 else t + ix / 4

/-- The errors of the scratchpad words that an access of their core reads are met (10 R233). -/
def State.meetOwn (s : State) (sp : Spc) (lanes : List (Thread × List Piece)) : State :=
  if sp = .s then s.meet (lanes.flatMap fun e => e.2.flatMap fun p => s.poisonKeys p.sp p.addr p.n) else s

/-- A load issues: values at hand are kept for its return, the other pieces leave as requests. -/
def State.beginLoad (s : State) (i : Info) (c : Cohort) (cr : Crew) (sp : Spc) (t : Nat) (ord scope : Nat)
    (lanes : List (Thread × List Piece)) : State :=
  let s := s.meetOwn sp lanes
  let all := lanes.flatMap fun e => e.2.map fun p => (e.1.tid, p)
  let near := all.filterMap fun e => (s.atHand c cr sp e.2).map fun bs => (e.1, e.2, bs)
  let far := all.filter fun e => (s.atHand c cr sp e.2).isNone
  let res := near.flatMap fun e => regWrites e.1 (regAt t e.2.1.ix) e.2.1.n (leNat e.2.2) false
  let missed := (distinct (far.map fun e => e.2.addr / 128)).length
  let (s, id) := s.startOp c.key i.len
    { id := 0, load := true, regsV := i.vd, res := res, left := far.length, acq := if ord = 1 then scope else 0 }
  let s := far.foldl (fun s e =>
    let fill := (sp == .g || sp == .p) && ord != 3
    s.send c cr.core id e.2.sp e.2.addr
      (.load e.1 (regAt t e.2.ix) e.2.n (cr.known sp e.2) fill (if sp = .p then cr.key else 0)) [] false) s
  s.countAccess c cr sp lanes missed

/-- ldg, lds, ldc, ldx, ldp (11 R239, R243, R244). -/
def load (i : Info) (sp : Spc) (t a : Nat) (u : Bool) (size ord scope : Nat) (off : Option (BitVec 32)) (s : State) : Out :=
  issue i s fun c s =>
    let cr := s.crewOf c
    if c.acquiring then .hold
    else match checkLanes (s.loadLane c cr sp a u off (2 ^ size)) (c.actors i.g) with
      | .error l => .fault l
      | .ok lanes =>
        if s.accessHeld c cr sp (lanes.flatMap (·.2)) then .hold
        else if s.tlbHeld cr sp lanes then .held (s.tlbStart cr sp lanes)
        else .done (s.beginLoad i c cr sp t ord scope lanes)

/-! ### Stores -/

/-- The data of a lane: registers from `t` on, lowest first (11 R237). -/
def Thread.data (th : Thread) (t n : Nat) : Nat :=
  ((upto (ceilDiv n 4)).map fun k => (th.vr (regAt t (4 * k))).toNat * 2 ^ (32 * k)).sum % 2 ^ (8 * n)

/-- The bytes that a lane stores, at their home addresses. -/
def laneBytes (th : Thread) (t n : Nat) (ps : List Piece) : List (Nat × Byte) :=
  let bs := leBytes n (th.data t n)
  ps.flatMap fun p => atAddr p.addr ((bs.drop p.ix).take p.n)

/-- The checks of one lane of a store. -/
def State.storeLane (s : State) (c : Cohort) (cr : Crew) (sp : Spc) (a : Nat) (u : Bool) (off : Option (BitVec 32))
    (n : Nat) (t : Thread) : Except LCause (List Piece) :=
  match s.checkLane sp cr t.tid n .write (laneAddr sp c t a u off) with
  | .error e => .error e
  | .ok ps =>
    match (if sp.watched then s.pieceWatch cr t .write ps else none) with
    | some e => .error e
    | none => .ok ps

/-- BASE and length in bytes of a tile buffer of a job (17 R349). -/
def State.tbRange (s : State) (jd : JobDesc) (n : Nat) : Nat × Nat :=
  (s.gmem.nat (jd.img + 64 * n) 8 % 2 ^ 57, s.gmem.nat (jd.img + 64 * n + 24) 2 % 2 ^ 13 * 256)

/-- Do bytes lie in a buffer that the crew's launch writes (17 R357)? -/
def State.inWritten (s : State) (cr : Crew) (va n : Nat) : Bool :=
  match s.launch cr.launch with
  | none => false
  | some l => l.binds.any fun b =>
      let r := s.tbRange cr.jd b.1
      b.2 && decide (r.1 ≤ va ∧ va + n ≤ r.1 + r.2)

/-- The bytes of an entry of the effect buffer (17 R358). -/
def Effect.bytes (e : Effect) : List Byte :=
  leBytes 8 (e.va + e.size * 2 ^ 57) ++ e.data ++
    List.replicate ((if e.size = 4 then 16 else 8) - e.data.length) 0

/-- Bytes of the effect buffer in use. -/
def Crew.effectEnd (cr : Crew) : Nat :=
  match cr.effects.reverse with
  | [] => 0
  | e :: _ => e.pos + e.bytes.length

/-- A held lane appends its entry. -/
def State.holdStore (s : State) (c : Cohort) (size t : Nat) (th : Thread) (va : Nat) : State :=
  match s.crew c.crew with
  | none => s
  | some cr =>
    let n := 2 ^ size
    let e : Effect :=
      { cohort := c.key, va := va, size := size, data := leBytes n (th.data t n), pos := cr.effectEnd }
    let s := s.onCrew cr.key fun cr => { cr with effects := cr.effects ++ [e] }
    let key := s.crewKey cr + (cr.ssize - 32768) + e.pos
    s.setSpad key e.bytes

/-- The packets of a store: space, address and bytes of each (11 R241). -/
def storePackets (sp : Spc) (cr : Crew) (lanes : List (Space × List (Nat × Byte))) : List (Space × List (Nat × Byte)) :=
  let spaces := distinct (lanes.map (·.1))
  spaces.flatMap fun x =>
    let bytes := (lanes.filter fun e => decide (e.1 = x)).flatMap (·.2)
    match sp with
    | .g | .x | .p => (distinct (bytes.map fun b => b.1 / 128)).map fun l => (x, bytes.filter fun b => b.1 / 128 == l)
    | _ => if cr.ssize = 0 then [] else [(x, bytes)]

/-- The bytes of a lane that its space takes: protected bytes of a scratchpad are not written (14 R301). -/
def State.unprotected (s : State) (sp : Spc) (cr : Crew) (a : Nat) (bs : List (Nat × Byte)) : List (Nat × Byte) :=
  let t := match sp with
    | .s => some cr
    | .c => s.windowTarget cr a
    | _ => none
  match t with
  | none => bs
  | some x => bs.filter fun b => !(s.protects x (b.1 - x.sbase))

/-- A store issues its packets, or writes the core's own scratchpad at once, and drops its lines from L1 (11 R240, R241). -/
def State.sendStore (s : State) (c : Cohort) (cr : Crew) (sp : Spc) (pk : List (Space × List (Nat × Byte)))
    (need : List Nat) : State :=
  let s := pk.foldl (fun s e =>
    let addr := (e.2.head?.map (·.1)).getD cr.sbase
    if sp = .s ∧ need = [] then (s.writeBytes e.1 e.2).ackNow c 0 (spanKey e.1 addr)
    else s.send c cr.core 0 e.1 addr (.store e.2) need true) s
  if sp = .g then s.l1Drop cr.core (pk.map fun e => ((e.2.head?.map (·.1)).getD 0) / 128) else s

/-- A line of L1 takes the bytes of an stp; a line that L1 does not hold takes a place with its dirty bytes alone (10 R217). -/
def State.l1Store (s : State) (core line priv : Nat) (bytes : List (Nat × Byte)) : State :=
  let mine := fun (e : L1Line) => e.core == core && e.line == line && e.priv == priv
  let here := (bytes.filter fun b => b.1 / 128 == line).map fun b => (b.1 % 128, b.2)
  if s.l1.any mine then { s with l1 := mapIf mine (fun e => { e with data := overlay e.data here }) s.l1 }
  else s.l1Put core line priv []

/-- stp: the bytes become dirty in the core's L1; words written whole are no longer poisoned (10 R217, R234). -/
def State.storePriv (s : State) (c : Cohort) (cr : Crew) (bytes : List (Nat × Byte)) : State :=
  let s := (distinct (bytes.map fun b => b.1 / 128)).foldl (fun s l => s.l1Store cr.core l cr.key bytes) s
  s.onCrew c.crew fun cr => { cr with
    privMem := Tab.putAll none cr.privMem (bytes.map fun b => (b.1, some b.2)),
    privBad := unpoison 8 cr.privBad (bytes.map (·.1)) }

/-- Does a speculative crew park at this store or atomic (17 R357)? -/
def Cohort.specStops (c : Cohort) (cr : Crew) (sp : Spc) (atomic : Bool) (a : Nat) (u : Bool)
    (off : Option (BitVec 32)) (g : Nat) : Bool :=
  cr.spec && match sp with
    | .x => true
    | .g => atomic
    | .c => (c.actors g).any fun t => (laneAddr sp c t a u off % 2 ^ 32).toNat / 2 ^ 28 != cr.core % 16
    | _ => false

/-- stg, sts, stc, stx, stp (11 R240-R243). -/
def store (i : Info) (sp : Spc) (t a : Nat) (u : Bool) (size ord : Nat) (off : Option (BitVec 32)) (s : State) : Out :=
  issue i s fun c s =>
    let cr := s.crewOf c
    let n := 2 ^ size
    if c.acquiring then .hold
    else if c.specStops cr sp false a u off i.g then .spec
    else match checkLanes (s.storeLane c cr sp a u off n) (c.actors i.g) with
      | .error l => .fault l
      | .ok lanes =>
        let va := fun (e : Thread × List Piece) => (e.2.head?.map (·.va)).getD 0
        let kept := if cr.spec ∧ sp = .g then lanes.filter fun e => !(s.inWritten cr (va e) n) else []
        let out := if cr.spec ∧ sp = .g then lanes.filter fun e => s.inWritten cr (va e) n else lanes
        let bytes := out.map fun e =>
          (((e.2.head?.map (·.sp)).getD .unit), s.unprotected sp cr (va e) (laneBytes e.1 t n e.2))
        let pk := storePackets sp cr bytes
        let need := if ord = 2 then c.unacked.map (·.1) else []
        if 32768 < cr.effectEnd + kept.length * (if size = 4 then 24 else 16) ∧ kept ≠ [] then .spec
        else if s.accessHeld c cr sp (out.flatMap (·.2)) || (sp == .p && need != []) ||
            (sp != .p && decide (4095 < c.acks + pk.length)) then .hold
        else if s.tlbHeld cr sp lanes then .held (s.tlbStart cr sp lanes)
        else
          let s := kept.foldl (fun s e => s.holdStore c size t e.1 (va e)) s
          let s := if sp = .p then s.storePriv c cr (bytes.flatMap (·.2)) else s.sendStore c cr sp pk need
          .done (s.countAccess c cr sp lanes 0)

/-! ### Atomics and reductions -/

/-- The checks of one lane of an atomic (11 R245, R248). -/
def State.atomLane (s : State) (c : Cohort) (cr : Crew) (sp : Spc) (a : Nat) (u : Bool) (off : Option (BitVec 32))
    (n : Nat) (ret : Bool) (t : Thread) : Except LCause (List Piece) :=
  match s.checkLane sp cr t.tid n .atomic (laneAddr sp c t a u off) with
  | .error e => .error e
  | .ok ps =>
    match (if ret then s.piecePoison t.tid ps else none).or (if sp.watched then s.pieceWatch cr t .atomic ps else none) with
    | some e => .error e
    | none => .ok ps

/-- Operand and new value of a lane (11 R246, R247). -/
def atomOperand (th : Thread) (t n aop : Nat) : Nat × Nat :=
  let x := th.data t n
  if aop = 10 then (x, th.data (if t = 63 then 63 else t + n / 4) n) else (x, 0)

/-- The packets of an atomic: one for each distinct address, its lanes in ascending %tid (11 R241, R248). -/
def atomPackets (t n aop : Nat) (lanes : List (Thread × List Piece)) : List (Space × Nat × Nat × List (Nat × Nat × Nat)) :=
  let at_ := lanes.filterMap fun e => e.2.head?.map fun p => (e.1, p)
  (distinct (at_.map fun e => (e.2.sp, e.2.addr, e.2.va))).map fun k =>
    (k.1, k.2.1, k.2.2, (at_.filter fun e => decide ((e.2.sp, e.2.addr, e.2.va) = k)).map fun e =>
      (e.1.tid, atomOperand e.1 t n aop))

/-- One packet of an atomic leaves, or takes effect at once in the core's own scratchpad. -/
def State.sendAtom (s : State) (c : Cohort) (cr : Crew) (sp : Spc) (op aop n : Nat) (ret : Option Nat) (need : List Nat)
    (k : Space × Nat × Nat × List (Nat × Nat × Nat)) : State :=
  let free := (s.unprotected sp cr k.2.2.1 ((upto n).map fun j => (k.2.1 + j, 0))).length
  let code := if free = 0 then 15 else if free < n then aop + 16 * free else aop
  let kind : PKind :=
    if ret.isSome ∨ aop = 14 then .atom code n k.2.2.2 ret else .red code n (combine aop n (k.2.2.2.map (·.2.1)))
  if sp = .s ∧ need = [] then
    if ret.isNone && s.poisoned k.1 k.2.1 n then s.ackNow c op (spanKey k.1 k.2.1)
    else
      let r := match kind with
        | .red code n x => s.doAtom k.1 k.2.1 code n [(0, x, 0)] none
        | _ => s.doAtom k.1 k.2.1 code n k.2.2.2 ret
      (r.1.onCohort c.key fun c => c.onOp op fun o => { o with res := o.res ++ r.2 }).ackNow c op (spanKey k.1 k.2.1)
  else s.send c cr.core op k.1 k.2.1 kind need true

/-- atg, ats, atc, atx (11 R245-R248). -/
def atomic (i : Info) (sp : Spc) (t a : Nat) (u : Bool) (aop : Nat) (w : Bool) (ord scope : Nat) (ret : Bool)
    (off : Option (BitVec 32)) (s : State) : Out :=
  issue i s fun c s =>
    let cr := s.crewOf c
    let n := if w then 8 else 4
    if c.acquiring then .hold
    else if c.specStops cr sp true a u off i.g then .spec
    else match checkLanes (s.atomLane c cr sp a u off n ret) (c.actors i.g) with
      | .error l => .fault l
      | .ok lanes =>
        let pk := atomPackets t n aop lanes
        let need := if ord = 2 ∨ ord = 3 then c.unacked.map (·.1) else []
        if s.accessHeld c cr sp (lanes.flatMap (·.2)) || decide (4095 < c.acks + pk.length) then .hold
        else if s.tlbHeld cr sp lanes then .held (s.tlbStart cr sp lanes)
        else
          let s := s.meetOwn sp lanes
          let r := if ret then s.startOp c.key i.len
              { id := 0, load := true, regsV := i.vd, left := pk.length,
                acq := if ord = 1 ∨ ord = 3 then scope else 0 }
            else (s, 0)
          let s := pk.foldl (fun s k => s.sendAtom c cr sp r.2 aop n (if ret then some t else none) need k) r.1
          let s := if sp = .g then s.l1Drop cr.core (pk.map fun k => k.2.1 / 128) else s
          .done (s.countAccess c cr sp lanes 0)

/-! ### Fences (11 R249) -/

/-- The acquire half: holds until every earlier load has returned, then invalidates at .cl or wider. -/
def acquireHalf (c : Cohort) (s : State) (scope : Nat) : Res :=
  if c.ops.any (·.load) then .hold
  else .done (if 3 ≤ scope then s.flash (s.crewOf c).core else s)

/-- fence.acq. -/
def fenceAcq (i : Info) (scope : Nat) (s : State) : Out :=
  issue i s fun c s => if scope = 0 ∨ 5 < scope then c.illegal i else acquireHalf c s scope

/-- fence.rel: holds until the ack counter is zero. -/
def fenceRel (i : Info) (scope : Nat) (s : State) : Out :=
  issue i s fun c s => if scope = 0 ∨ 5 < scope then c.illegal i else if c.acks ≠ 0 then .hold else .done s

/-- fence.ar. -/
def fenceAr (i : Info) (scope : Nat) (s : State) : Out :=
  issue i s fun c s =>
    if scope = 0 ∨ 5 < scope then c.illegal i else if c.acks ≠ 0 then .hold else acquireHalf c s scope

/-- The sequence word of a scope (11 R250): 41 is the crew's own, 40 the device's. -/
def seqWordOf (core scope : Nat) : Nat := if scope = 2 then 41 else if scope = 3 then core / 16 else 40

/-- fence.sc: release, one increment of the sequence word waited for, acquire. -/
def fenceSc (i : Info) (scope : Nat) (s : State) : Out :=
  issue i s fun c s =>
    let cr := s.crewOf c
    if scope < 2 ∨ 5 < scope then c.illegal i
    else if cr.spec ∧ 3 ≤ scope then .spec
    else if c.acks ≠ 0 then .hold
    else match c.fence with
      | none =>
        let id := s.fresh
        let s := s.send c cr.core 0 .unit 0 (.seqInc (seqWordOf cr.core scope)) [] false
        .held (s.onCohort c.key fun c => { c with fence := some id })
      | some 0 =>
        match acquireHalf c s scope with
        | .done s => .done (s.onCohort c.key fun c => { c with fence := none })
        | r => r
      | some _ => .hold

/-- ackwait. -/
def ackwait (i : Info) (s : State) : Out := issue i s fun c s => if c.acks ≠ 0 then .hold else .done s

/-- LDG (R239): Load from global memory. -/
def execLdg (t a : Nat) (u : Bool) (size ord scope g : Nat) (off : Option (BitVec 32)) (s : State) : Out :=
  load { infoLd 25 true t a u size ord scope g off with long := true } .g t a u size ord scope off s

/-- STG (R240): Store to global memory. -/
def execStg (t a : Nat) (u : Bool) (size ord scope g : Nat) (off : Option (BitVec 32)) (s : State) : Out :=
  store (infoSt 26 true t a u size ord scope g off) .g t a u size ord off s

/-- LDS (R239): Load from scratchpad. -/
def execLds (t a : Nat) (u : Bool) (size ord scope g : Nat) (off : Option (BitVec 32)) (s : State) : Out :=
  load { infoLd 27 false t a u size ord scope g off with long := true } .s t a u size ord scope off s

/-- STS (R240): Store to scratchpad. -/
def execSts (t a : Nat) (u : Bool) (size ord scope g : Nat) (off : Option (BitVec 32)) (s : State) : Out :=
  store (infoSt 28 false t a u size ord scope g off) .s t a u size ord off s

/-- LDC (R239): Load through the cluster window. -/
def execLdc (t a : Nat) (u : Bool) (size ord scope g : Nat) (off : Option (BitVec 32)) (s : State) : Out :=
  load { infoLd 29 false t a u size ord scope g off with long := true } .c t a u size ord scope off s

/-- STC (R240): Store through the cluster window. -/
def execStc (t a : Nat) (u : Bool) (size ord scope g : Nat) (off : Option (BitVec 32)) (s : State) : Out :=
  store (infoSt 30 false t a u size ord scope g off) .c t a u size ord off s

/-- LDX (R239): Load from chip scratchpad. -/
def execLdx (t a : Nat) (u : Bool) (size ord scope g : Nat) (off : Option (BitVec 32)) (s : State) : Out :=
  load { infoLd 31 false t a u size ord scope g off with long := true } .x t a u size ord scope off s

/-- STX (R240): Store to chip scratchpad. -/
def execStx (t a : Nat) (u : Bool) (size ord scope g : Nat) (off : Option (BitVec 32)) (s : State) : Out :=
  store (infoSt 32 false t a u size ord scope g off) .x t a u size ord off s

/-- LDP (R239): Load from private memory. -/
def execLdp (t a : Nat) (u : Bool) (size ord scope g : Nat) (off : Option (BitVec 32)) (s : State) : Out :=
  load { infoLd 33 false t a u size ord scope g off with long := true } .p t a u size ord scope off s

/-- STP (R240): Store to private memory, dirtying the L1 line. -/
def execStp (t a : Nat) (u : Bool) (size ord scope g : Nat) (off : Option (BitVec 32)) (s : State) : Out :=
  store (infoSt 34 false t a u size ord scope g off) .p t a u size ord off s

/-- ATG (R248): Atomic or reduction on global memory at the home slice. -/
def execAtg (t a : Nat) (u : Bool) (aop : Nat) (w : Bool) (ord scope : Nat) (rt : Bool) (off : Option (BitVec 32)) (s : State) : Out :=
  atomic { infoAt 35 true t a u aop w ord scope rt off with long := rt } .g t a u aop w ord scope rt off s

/-- ATS (R248): Atomic or reduction on scratchpad. -/
def execAts (t a : Nat) (u : Bool) (aop : Nat) (w : Bool) (ord scope : Nat) (rt : Bool) (off : Option (BitVec 32)) (s : State) : Out :=
  atomic { infoAt 36 false t a u aop w ord scope rt off with long := rt } .s t a u aop w ord scope rt off s

/-- ATC (R248): Atomic or reduction through the cluster window. -/
def execAtc (t a : Nat) (u : Bool) (aop : Nat) (w : Bool) (ord scope : Nat) (rt : Bool) (off : Option (BitVec 32)) (s : State) : Out :=
  atomic { infoAt 37 false t a u aop w ord scope rt off with long := rt } .c t a u aop w ord scope rt off s

/-- ATX (R248): Atomic or reduction on chip scratchpad. -/
def execAtx (t a : Nat) (u : Bool) (aop : Nat) (w : Bool) (ord scope : Nat) (rt : Bool) (off : Option (BitVec 32)) (s : State) : Out :=
  atomic { infoAt 38 false t a u aop w ord scope rt off with long := rt } .x t a u aop w ord scope rt off s

/-- FENCE_ACQ (R249): Acquire fence: later loads wait for earlier loads; wide scopes invalidate. -/
def execFenceAcq (sc : Nat) (s : State) : Out :=
  fenceAcq (infoFence 39 0 sc) sc s

/-- FENCE_REL (R249): Release fence: later writes wait for the ack counter to reach zero. -/
def execFenceRel (sc : Nat) (s : State) : Out :=
  fenceRel (infoFence 39 1 sc) sc s

/-- FENCE_AR (R249): Release then acquire fence. -/
def execFenceAr (sc : Nat) (s : State) : Out :=
  fenceAr (infoFence 39 2 sc) sc s

/-- FENCE_SC (R249): Sequentially consistent fence through the scope's sequence word. -/
def execFenceSc (sc : Nat) (s : State) : Out :=
  fenceSc (infoFenceSc 39 3 sc) sc s

/-- ACKWAIT (R249): Hold issue until the ack counter is zero. -/
def execAckwait (s : State) : Out :=
  ackwait (infoNone 39 4) s

end Sys2Proof.Machine
end

