-- ==== Sys2Proof/Machine/Rings.lean ====
section
/-!
DEFINITION. Sys2Proof/Machine/Rings.lean: memory rings (14 R310-R312), and fault records on their way to a queue (09 R197).
-/

namespace Sys2Proof.Machine

/-! ### Ring blocks (14 R310) -/

/-- A field of a ring block. -/
def State.ringDepth (s : State) (pa : Nat) : Nat := s.gmem.nat pa 4
def State.ringHead (s : State) (pa : Nat) : Nat := s.gmem.nat (pa + 16) 8
def State.ringTail (s : State) (pa : Nat) : Nat := s.gmem.nat (pa + 24) 8

/-- Elements that a ring holds. -/
def State.ringFill (s : State) (pa : Nat) : Nat := (s.ringTail pa + 2 ^ 64 - s.ringHead pa) % 2 ^ 64

/-- A malformed ring, its block in the page of `size` bytes at `page`. -/
def State.ringBad (s : State) (pa page size : Nat) : Bool :=
  let d := s.ringDepth pa
  d == 0 || s.gmem.nat (pa + 4) 4 != 0 || s.gmem.nat (pa + 12) 4 != 0 || s.gmem.nat (pa + 32) 32 != 0 ||
  decide (d < s.ringFill pa) || decide (page + size < pa + 64 + 8 * d)

/-- Address of the slot of a sequence number. -/
def State.ringSlot (s : State) (pa n : Nat) : Nat := pa + 64 + 8 * (n % s.ringDepth pa)

/-- One element enqueued. -/
def State.ringPush (s : State) (pa x : Nat) : State :=
  let t := s.ringTail pa
  (s.writeNat .glob (s.ringSlot pa t) 8 x).writeNat .glob (pa + 24) 8 (t + 1)

/-- The oldest element, and the ring without it. -/
def State.ringPop (s : State) (pa : Nat) : Nat × State :=
  let h := s.ringHead pa
  (s.gmem.nat (s.ringSlot pa h) 8, s.writeNat .glob (pa + 16) 8 (h + 1))

/-- The slot that an operation reaches, none when it fails: on a malformed ring, a full or an empty one. -/
def State.ringReach (s : State) (push : Bool) (pa page size : Nat) : Option Nat :=
  if s.ringBad pa page size then none
  else if push then if s.ringFill pa = s.ringDepth pa then none else some (s.ringSlot pa (s.ringTail pa))
  else if s.ringFill pa = 0 then none else some (s.ringSlot pa (s.ringHead pa))

/-- The first poisoned word that an operation meets: of the block, or of the slot that it reaches. -/
def State.ringPoison (s : State) (push : Bool) (pa page size : Nat) : Option Nat :=
  if s.poisoned .glob pa 64 then some (s.poisonAddr .glob pa 64)
  else (s.ringReach push pa page size).bind fun a => if s.poisoned .glob a 8 then some a else none

/-- renq or rdeq at H (14 R311): the new state, the status, and the value dequeued. -/
def State.ringOp (s : State) (push : Bool) (pa page size : Nat) (x : Nat) : State × Bool × Nat :=
  match s.ringReach push pa page size with
  | none => (s, false, 0)
  | some _ =>
    if push then (s.ringPush pa x, true, 0)
    else
      let r := s.ringPop pa
      (r.2, true, r.1)

/-- The reports of an operation's writes that a slice watch strikes: of the slot, and of TAIL or HEAD (09 R205). -/
def State.ringReports (s : State) (push : Bool) (pa page size ipc : Nat) : List Report :=
  match s.ringReach push pa page size with
  | none => []
  | some a =>
    let own := fun (x : Nat) => s.slReport false ((upto 8).map (x + ·)) ipc
    if push then own a ++ own (pa + 24) else own (pa + 16)

/-! ### Posts of 32-byte records (14 R312) -/

/-- DROPPED increases by 1, saturating. -/
def State.ringDrop (s : State) (pa : Nat) : State :=
  if s.tierOk pa 64 then ((s.slPost false ((upto 4).map (pa + 8 + ·))).meet (s.sites .glob (pa + 8) 4)).writeNat .glob (pa + 8) 4 (min (s.gmem.nat (pa + 8) 4 + 1) (2 ^ 32 - 1)) else s

/-- The posts without the one at place `n`. -/
def State.unpost (s : State) (n : Nat) : State := { s with posts := s.posts.take n ++ s.posts.drop (n + 1) }

/-- FAULT_RECORD_POST: post number `n` of those under way reaches its ring block, or is tried again. Held posts stand last in the list,
in the order of their arrival. -/
def faultRecordPost (n : Nat) (s : State) : State :=
  match s.posts[n]? with
  | none => s
  | some p =>
    let pa := p.ring
    if !(s.tierOk pa 64) || s.ringBad pa (pa / 65536 * 65536) 65536 then (s.unpost n).ringDrop pa
    else
      let s := s.meet (s.sites .glob pa 64)
      -- posts that arrived before it are held: all that are, or of the held ones those before it
      let before := if p.held then s.posts.take n else s.posts
      let waits := before.any (fun q => q.held && q.ring == pa) || decide (s.ringDepth pa < s.ringFill pa + 4)
      if waits then
        if p.held then s
        else if 64 ≤ (s.posts.filter fun q => q.held && s.slice q.ring == s.slice pa).length then
          (s.unpost n).ringDrop pa
        else { s with posts := (s.unpost n).posts ++ [{ p with held := true }] }
      else
        let as := (upto 4).flatMap fun k => (upto 8).map fun j => s.ringSlot pa (s.ringTail pa + k) + j
        let s := (s.slPost false as).slPost false ((upto 8).map (pa + 24 + ·))
        p.words.foldl (fun s x => s.ringPush pa x) (s.unpost n)

/-- FAULT_RECORD_POST (R312): The fault unit posts a 32-byte record into the job fault queue, held or dropped if full. -/
def execFaultRecordPost (n : Nat) (s : State) : Out :=
  .next (faultRecordPost n s)

end Sys2Proof.Machine
end

