-- ==== Sys2Proof/Machine/MemEvents.lean ====
section
/-!
DEFINITION. Sys2Proof/Machine/MemEvents.lean: requests performed at their homes, acknowledgements and returns (11 R241-R248,
10 R230), and the other events of the memory system (10 R227, R233-R235; 21 R432).
-/

namespace Sys2Proof.Machine

/-! ### A request at its home -/

/-- Every packet that a release waits for is performed and acknowledged (11 R243). -/
def State.needMet (s : State) (p : Packet) : Bool :=
  s.landed p.need

/-- The packet leaves the fabric. -/
def State.unsend (s : State) (id : Nat) : State := { s with fabric := s.fabric.filter fun p => p.id != id }

/-- The acknowledgement of a packet. -/
def State.ackPacket (s : State) (p : Packet) (reports : List Report) : State :=
  { s with acks := s.acks ++ [{ id := p.id, cohort := p.cohort, op := p.op, counts := p.acked, reports := reports }] }

/-- A change of a join counter with saturation (16 R348). -/
def joinSum (n : Nat) (x : Int) : Nat := (satInt ((n : Int) + x) 0 (2 ^ 32 - 1)).toNat

/-- jinc at its counter: the crew's own, that of its continuation, or that of a live launch of the job (16 R348, 15 R323). -/
def State.joinAdd (s : State) (crew sel : Nat) (x : Int) : State :=
  match s.crew crew with
  | none => s
  | some cr =>
    if sel = 0 then
      match cr.cont with
      | some h => s.onLaunch h fun l => { l with join := joinSum l.join x }
      | none => s.onCrew crew fun cr => { cr with join := joinSum cr.join x }
    else
      match s.launch sel with
      | some l => if l.lrec.job = s.jobOf cr then s.onLaunch sel fun l => { l with join := joinSum l.join x } else s
      | none => s

/-- Is a write of a core to a line on its way to its home? -/
def State.writeSent (s : State) (core line : Nat) : Bool :=
  s.fabric.any fun q => q.core == core && decide (q.space = .glob) && q.addr / 128 == line && match q.kind with
    | .store _ | .atom .. | .red .. => true
    | _ => false

/-- A load performed at its home: bytes returned, and an L1 line filled, unless the core has a write to the line under way, which has
invalidated it (11 R239, 10 R218; 12 R267). -/
def State.performLoad (s : State) (p : Packet) (tid reg n : Nat) (known : List (Nat × Byte)) (fill : Bool) (priv : Nat) :
    State :=
  let sp := s.homeSpace p
  let s := s.meet (s.sites sp p.addr n)
  let bs := overlay (s.readBytes sp p.addr n) known
  let po := (upto n).any fun j => !(known.any fun k => k.1 == j) && s.poisoned sp (p.addr + j) 1
  let s := s.onCohort p.cohort fun c => c.onOp p.op fun o =>
    { o with res := o.res ++ regWrites tid reg n (leNat bs) po, left := o.left - 1 }
  if fill && !(s.writeSent p.core (p.addr / 128)) && !(s.poisoned .glob (p.addr / 128 * 128) 128) then s.l1Fill p.core (p.addr / 128) priv else s

/-- A ring's kick word is touched by a write from outside the cores. -/
def Ring.touch (r : Ring) (a n : Nat) : Ring := { r with kicked := r.kicked || decide (a < r.region + 8 ∧ r.region < a + n) }

/-- A write of an RDMA engine or of the management core is performed at its home; its source has no cohort (16 R340). -/
def State.foreignWrite (s : State) (bytes : List (Nat × Byte)) : State :=
  let s := (s.writeBytes .glob bytes).slPost false (bytes.map (·.1))
  { s with rings := s.rings.map fun r => bytes.foldl (fun r b => r.touch b.1 1) r }

/-- POISON that a ring operation first meets at its home: the threads of its issue that are still there take it, with the issuing word
as %tpc and the word's address as %tinfo (14 R311, 10 R234; notes/assumptions/36.md). -/
def State.ringFault (s : State) (p : Packet) (tids : List Nat) (info : Nat) : State :=
  let lanes := tids.map fun t => (⟨t, 12, 0, info, 0⟩ : LCause)
  let who := fun (t : Thread) => tids.contains t.tid && decide (t.st ≠ .exited)
  if (s.cohort p.cohort).any fun c => c.threads.any who then s.takeFault p.cohort who p.ipc p.ipc lanes else s

/-- The threads whose status predicate an operation is to write. -/
def Op.statusTids (o : Op) : List Nat := o.res.filterMap fun w => match w with
  | .p t _ _ => some t
  | _ => none

/-- A request performed (11 R239-R250). -/
def State.perform (s : State) (p : Packet) : State :=
  let sp := s.homeSpace p
  let glob := decide (p.space = .glob)
  match p.kind with
  | .load tid reg n known fill priv => s.performLoad p tid reg n known fill priv
  | .store bytes =>
    if p.cohort = 0 && glob then (s.foreignWrite bytes).ackPacket p []
    else
      let rep := if glob then s.slReport false (bytes.map (·.1)) p.ipc else []
      (s.writeBytes sp bytes).ackPacket p rep
  | .atom aop n lanes ret =>
    let s := s.meet (s.sites sp p.addr n)
    let rep := if glob then s.slReport true ((upto n).map (p.addr + ·)) p.ipc else []
    if s.poisoned sp p.addr n then
      let bad := match ret with
        | some reg => lanes.flatMap fun l => regWrites l.1 reg n 0 true
        | none => []
      (s.onCohort p.cohort fun c => c.onOp p.op fun o => { o with res := o.res ++ bad }).ackPacket p rep
    else
      let r := s.doAtom sp p.addr aop n lanes ret
      (r.1.onCohort p.cohort fun c => c.onOp p.op fun o => { o with res := o.res ++ r.2 }).ackPacket p rep
  | .red aop n x =>
    let s := s.meet (s.sites sp p.addr n)
    let rep := if glob then s.slReport true ((upto n).map (p.addr + ·)) p.ipc else []
    (if s.poisoned sp p.addr n then s else (s.doAtom sp p.addr aop n [(0, x, 0)] none).1).ackPacket p rep
  | .ring push x page va pS dst =>
    let slot := (s.ringReach push p.addr page.1 page.2).map fun a => s.sites .glob a 8
    let s := s.meet (s.sites .glob p.addr 64 ++ slot.getD [])
    let tids := (((s.cohort p.cohort).bind fun c => c.op p.op).map Op.statusTids).getD []
    match s.ringPoison push p.addr page.1 page.2 with
    | some a =>
      ((s.onCohort p.cohort fun c => c.onOp p.op fun o => { o with res := [], acq := 0 }).ringFault p tids
        (va + (a - p.addr) / 8 * 8)).ackPacket p []
    | none =>
      let rep := s.ringReports push p.addr page.1 page.2 p.ipc
      let r := s.ringOp push p.addr page.1 page.2 x.toNat
      let got : List RegWrite := if !push && r.2.1 then [.s dst (BitVec.ofNat 64 r.2.2)] else []
      (r.1.onCohort p.cohort fun c => c.onOp p.op fun o =>
        { o with res := (tids.map fun t => RegWrite.p t pS r.2.1) ++ got, acq := if r.2.1 && !push then 4 else 0 }).ackPacket p rep
  | .seqInc w =>
    let s := if w = 41 then
        match s.cohort p.cohort with
        | some c => s.onCrew c.crew fun cr => { cr with seqWord := (cr.seqWord + 1) % 2 ^ 64 }
        | none => s
      else { s with seqWords := Tab.put 0 s.seqWords w ((Tab.read 0 s.seqWords w + 1) % 2 ^ 64) }
    s.ackPacket p []
  | .joinAdd sel x =>
    match s.cohort p.cohort with
    | some c => (s.joinAdd c.crew sel x).ackPacket p []
    | none => s

/-- HOME_REQUEST: packet `n` reaches its home; a stale domain or generation is NACKed, and so is a request to a domain in the change
state (10 R230). -/
def homeRequest (n : Nat) (s : State) : State :=
  match s.fabric.find? fun p => p.id == n with
  | none => s
  | some p =>
    if p.nacked || !(s.needMet p) then s
    else if p.space = .glob ∧ (s.domOf p.addr ≠ p.dom ∨ Tab.read 0 s.gens p.dom ≠ p.gen ∨ s.changing.contains p.dom = true) then
      { s.countPm p.core 0 9 1 with
          fabric := mapIf (fun q => q.id == n) (fun q => { q with nacked := true }) s.fabric }
    else (s.unsend n).perform p

/-- REQUEST_REPLAY: a NACKed packet leaves again under the present copy of the domain table: at once where that copy is newer, else with
the resume notice of the change (10 R230). -/
def requestReplay (n : Nat) (s : State) : State :=
  match s.fabric.find? fun p => p.id == n && p.nacked with
  | none => s
  | some p =>
    let d := s.domOf p.addr
    if d = p.dom ∧ Tab.read 0 s.gens d = p.gen ∧ s.changing.contains d = true then s
    else { s with replays := (s.replays + 1) % 2 ^ 64, fabric := mapIf (fun q => q.id == n) (fun q =>
        { q with nacked := false, dom := d, gen := Tab.read 0 s.gens d }) s.fabric }

/-! ### Acknowledgements and returns; they reach a saved context as they would the live one (13 R284) -/

/-- A report arrives at a cohort; an ORPHAN record when it has no non-exited thread (09 R202). -/
def State.reportTo (s : State) (k crew : Nat) (r : Report) : State :=
  match s.cohort k with
  | some c =>
    if c.live = [] then s.orphan (s.crewOf c) c.sub c.place r r.ipc
    else s.onCohort k fun c => { c with reports := mergeReport c.reports r }
  | none =>
    match s.crew crew with
    | some cr => s.orphan cr 0 0 r r.ipc
    | none => s

/-- ACKNOWLEDGEMENT of packet `n`: the counter falls, its reports arrive with it (11 R241, 09 R205). -/
def acknowledgement (n : Nat) (s : State) : State :=
  match s.acks.find? fun a => a.id == n with
  | none => s
  | some a =>
      let crew := ((s.cohort a.cohort).map (·.crew)).getD 0
      let s := { s with acks := s.acks.filter fun x => x.id != n }
      let s := a.reports.foldl (fun s r => s.reportTo a.cohort crew r) s
      s.onCohort a.cohort fun c =>
        let c : Cohort := { c with
          unacked := if a.counts then c.unacked.filter (fun u => u.1 != n) else c.unacked,
          fence := if c.fence = some n then some 0 else c.fence }
        if a.op = 0 then c else c.onOp a.op fun o => { o with left := o.left - 1 }

/-- LOAD_DATA_RETURN: every value of a load has returned: registers written, then the invalidation of an acquire (11 R239,
R243). -/
def loadDataReturn (k op : Nat) (s : State) : State :=
  match (s.cohort k).bind fun c => (c.op op).map fun o => (c, o) with
  | none => s
  | some (c, o) =>
    if !o.load || o.left != 0 then s
    else
      let s := if 3 ≤ o.acq then s.flash (s.crewOf c).core else s
      (s.rewrite (o.res.flatMap (RegWrite.sites k))).onCohort k fun c => (c.applyWrites o.res).onOp op fun o =>
        { o with load := false, res := [], acq := 0, regsV := [], regsS := [], regsP := [] }

/-- LONG_LATENCY_COMPLETION: an operation with nothing left to come completes: its flags fall (02 R35). -/
def longLatencyCompletion (k op : Nat) (s : State) : State :=
  match (s.cohort k).bind fun c => c.op op with
  | none => s
  | some o =>
    if o.load || o.left != 0 then s
    else (s.rewrite (o.res.flatMap (RegWrite.sites k))).onCohort k fun c => c.completeOp op

/-- IMPRECISE_REPORT_ARRIVAL: report number `n` of those under way arrives. -/
def reportArrival (n : Nat) (s : State) : State :=
  match s.repIn[n]? with
  | none => s
  | some r =>
    ({ s with repIn := s.repIn.take n ++ s.repIn.drop (n + 1) } : State).reportTo r.cohort r.crew r.report

/-! ### Other events -/

/-- The walk of a page as a requester of its sector's walker. -/
def walkKey (core asid page : Nat) : Requester × Nat := (.walker, sectorOf core + 64 * (asid + 65536 * page))

/-- TRANSLATION_WALK: a walk for a page ends. One under way among the 32 that its sector's walker runs serves every requester that
joined it; else one of a unit of the core, of a job of it, begins and ends with its access (10 R227). The walker's reads of table entries
whose domain changes are NACKed, and the walk goes on later (10 R230). -/
def translationWalk (core asid : Nat) (va : Nat) (s : State) : State :=
  match s.walks.find? fun k => sectorOf k.core == sectorOf core && k.asid == asid && decide (k.vpage ≤ va ∧ va < k.vpage + k.size) with
  | some k =>
    if (s.walking (sectorOf core)).contains (asid, k.vpage) then
      s.atHomes 640 (walkKey core asid k.vpage) k.ptes fun s => s.endWalk (sectorOf core) (asid, k.vpage)
    else s
  | none => match s.crews.find? fun cr => cr.core == core && cr.jd.asid == asid with
    | some cr => s.atHomes 640 (walkKey core asid (va / 65536 * 65536)) (s.pteReads core cr.jd [va]) fun s => s.touchTlb core cr.jd va
    | none => s

/-- The words that patrol scrubbing reads: not dirty lines of L1, and of registers and tiles those in the shadow store (10 R235, 13
R283). -/
def State.scrubs (s : State) : Site → Bool
  | .vreg k _ _ | .sreg k _ => match s.cohort k with
    | some c => (s.crewOf c).shadow
    | none => false
  | .tile u _ => decide (640 ≤ u / 64)
  | .priv _ _ => false
  | _ => true

/-- PATROL_SCRUB: the scrubber reads the word of latent error number `n` (10 R233, R235). -/
def patrolScrub (n : Nat) (s : State) : State :=
  match s.latent[n]? with
  | some e => if s.scrubs e.1 then s.meet [e.1] else s
  | none => s

/-- DRAM_REFRESH of a channel changes no value (21 R432). -/
def dramRefresh (_channel : Nat) (s : State) : State := s

/-- Does every non-exited thread of a crew wait (13 R286, condition 1)? One outside the handler of its cohort's trap mode is parked (09
R195). -/
def State.allWait (s : State) (k : Nat) : Bool :=
  let ts := (s.cohortsOf k).flatMap fun c => c.live.map fun t => (c, t)
  !ts.isEmpty && !(s.bins.any fun e => e.2.held && e.2.crew == k) && ts.all fun e => match e.2.st with
    | .waiting _ => !e.1.tmode || e.2.inH
    | _ => false

/-- ARITHMETIC_CLOCK_CYCLE: %cyc of a core counts one clk (03 R79), and so do the counters of event 1 (20 R411) and the spin
counts of its crews (13 R286). -/
def clockCycle (core : Nat) (s : State) : State :=
  let s := (s.onCore core fun k => { k with cyc := k.cyc + 1 }).countPm core 0 1 1
  let spin := fun (cr : Crew) => { cr with waitClk := if s.allWait cr.key then cr.waitClk + 1 else 0 }
  { s with crews := mapIf (fun cr => cr.core == core && !cr.shadow && cr.out.isNone) spin s.crews }

/-- LOAD_DATA_RETURN (R239): Load data arrives and is written to the destination registers. -/
def execLoadDataReturn (cohort op : Nat) (s : State) : Out :=
  .next (loadDataReturn cohort op s)

/-- LONG_LATENCY_COMPLETION (R35): A long-latency operation completes and its flag counts fall. -/
def execLongLatencyCompletion (cohort op : Nat) (s : State) : Out :=
  .next (longLatencyCompletion cohort op s)

/-- ACKNOWLEDGEMENT (R241): An acknowledgement arrives and the cohort's ack counter falls. -/
def execAcknowledgement (n : Nat) (s : State) : Out :=
  .next (acknowledgement n s)

/-- HOME_REQUEST (R221): A request packet is performed at its home in the coherence order. -/
def execHomeRequest (n : Nat) (s : State) : Out :=
  .next (homeRequest n s)

/-- REQUEST_REPLAY (R230): A requester replays a NACKed request under its current domain copy. -/
def execRequestReplay (n : Nat) (s : State) : Out :=
  .next (requestReplay n s)

/-- TRANSLATION_WALK (R226): A page-table walk completes, filling TLBs or failing. -/
def execTranslationWalk (core asid : Nat) (va : BitVec 64) (s : State) : Out :=
  .next (translationWalk core asid va.toNat s)

/-- IMPRECISE_REPORT_ARRIVAL (R202): An imprecise report reaches its cohort and is queued or merged. -/
def execImpreciseReportArrival (n : Nat) (s : State) : Out :=
  .next (reportArrival n s)

/-- PATROL_SCRUB (R235): The scrubber reads a protected word, correcting or poisoning it. -/
def execPatrolScrub (n : Nat) (s : State) : Out :=
  .next (patrolScrub n s)

/-- DRAM_REFRESH (R432): A DRAM refresh takes a channel between bursts. -/
def execDramRefresh (channel : Nat) (s : State) : Out :=
  .next (dramRefresh channel s)

/-- ARITHMETIC_CLOCK_CYCLE (R19): One cycle of a core's arithmetic clock passes: %cyc increments, and PMC event 1 counts. -/
def execArithmeticClockCycle (core : Nat) (s : State) : Out :=
  .next (clockCycle core s)

end Sys2Proof.Machine
end

