-- ==== Sys2Proof/Machine/Cache.lean ====
section
/-!
DEFINITION. Sys2Proof/Machine/Cache.lean: cache instructions (11 R251, R252) and ranges of virtual addresses as an engine
reads them (10 R223).
-/

namespace Sys2Proof.Machine

/-! ### Ranges of virtual addresses -/

/-- A range cut at 64 KiB borders: start and length of each part. -/
def vaParts (va n : Nat) : List (Nat × Nat) :=
  (upto (ceilDiv (va % 65536 + n) 65536)).map fun k =>
    let lo := max va ((va / 65536 + k) * 65536)
    (lo, min (va + n) ((va / 65536 + k + 1) * 65536) - lo)

/-- The physical parts of a range, or the first failure: its code and address. -/
def State.mapRange (s : State) (core : Nat) (jd : JobDesc) (va n : Nat) (k : Acc) : Except (Nat × Nat) (List (Nat × Nat)) :=
  (vaParts va n).mapM fun p => match s.translate core jd p.1 k with
    | .ok pa => .ok (pa, p.2)
    | .error e => .error (e, p.1)

/-- Bytes of a range of virtual addresses, each with its poison. -/
def State.readVa (s : State) (core : Nat) (jd : JobDesc) (va n : Nat) (k : Acc := .read) :
    Except (Nat × Nat) (List (Byte × Bool)) :=
  match s.mapRange core jd va n k with
  | .error e => .error e
  | .ok ps => .ok (ps.flatMap fun p =>
      (upto p.2).map fun j => (s.gmem.byte (p.1 + j), s.poisoned .glob (p.1 + j) 1))

/-- The physical parts of the mapped pages of a range, whatever their rights (11 R252). -/
def State.mappedParts (s : State) (core : Nat) (jd : JobDesc) (va n : Nat) : List (Nat × Nat) :=
  (vaParts va n).filterMap fun p =>
    if 2 ^ 57 ≤ p.1 then none else (s.leafOf core jd p.1).map fun l => (l.ppage + p.1 % l.size, p.2)

/-- Do `n` bytes at `a` meet one of the parts? -/
def meets (ps : List (Nat × Nat)) (a n : Nat) : Bool := ps.any fun p => decide (p.1 < a + n ∧ a < p.1 + p.2)

/-- Home addresses of a range as an engine reaches it: one in each 64 bytes, while some domain changes (10 R230). -/
def State.vaHomes (s : State) (core : Nat) (jd : JobDesc) (va n : Nat) (k : Acc := .read) : List Nat :=
  if s.changing = [] then []
  else match s.mapRange core jd va n k with
    | .error _ => []
    | .ok ps => ps.flatMap fun p => (upto (p.2 / 64 + 2)).map fun j => min (p.1 + 64 * j) (p.1 + p.2 - 1)

/-- The protected words of a range. -/
def State.vaSites (s : State) (core : Nat) (jd : JobDesc) (va n : Nat) (k : Acc := .read) : List Site :=
  if s.latent = [] then []
  else match s.mapRange core jd va n k with
    | .error _ => []
    | .ok ps => ps.flatMap fun p => s.sites .glob p.1 p.2

/-- An engine reads a range: it meets the errors of its words (10 R233, 20 R409). -/
def State.meetVa (s : State) (core : Nat) (jd : JobDesc) (va n : Nat) (k : Acc := .read) : State :=
  s.meet (s.vaSites core jd va n k)

/-- The pages of a range. -/
def pagesVa (va n : Nat) : List Nat := (vaParts va n).map fun p => p.1 / 65536 * 65536

/-! ### Bricks (10 R219, 18 R386) -/

/-- A brick of 2,000 bytes enters the brick cache of a core, which holds 128. -/
def State.brickFill (s : State) (core pa : Nat) (bs : List Byte) : State :=
  let rest := s.bricks.filter fun b => !(b.core == core && b.addr == pa)
  let mine := rest.filter fun b => b.core == core
  let rest := if mine.length < 128 then rest else match mine with
    | [] => rest
    | o :: _ => rest.filter fun b => decide (b ≠ o)
  { s with bricks := rest ++ [⟨core, pa, bs⟩] }

/-! ### The instructions -/

/-- A request of a cohort at its word that reaches these pages and homes: it holds for a ninth outstanding miss (10 R227), and while it
is NACKed (10 R230). -/
def State.reaches (s : State) (c : Cohort) (cr : Crew) (who : Requester) (pages pas : List Nat) (work : State → Res) : Res :=
  if s.missHeld cr.core cr.jd pages then .held (s.startWalks cr.core cr.jd pages)
  else if s.mustReplay pas then .held (s.nack cr.core (who, c.key))
  else work (s.replayed (who, c.key))

/-- An instruction that is complete once performed. -/
def State.cacheDone (s : State) (i : Info) (c : Cohort) : Res := .done (s.quickOp c.key i.len { id := 0 })

/-- The 128-byte line of a virtual address is requested for the operation that begins: it fills L1 where `fill` says so, and lands in no
register. -/
def State.lineRequest (s : State) (i : Info) (c : Cohort) (cr : Crew) (va pa : Nat) (fill : Bool) : State :=
  let r := (s.useTlb cr.core cr.jd [va / 65536 * 65536]).startOp c.key i.len { id := 0, left := 1 }
  r.1.send c cr.core r.2 .glob (pa / 128 * 128) (.load 0 63 128 [] fill 0) [] false

/-- pf and pf2: a request for the line, of pf only where L1 does not hold it; a prefetch whose translation fails is dropped, and poison
is not installed (10 R218, R234). That the line comes into its slice, no read can tell. -/
def prefetchRun (i : Info) (a : Nat) (l1 : Bool) (s : State) : Out :=
  issue i s fun c s =>
    let cr := s.crewOf c
    let va := (c.sr a).toNat
    match s.translate cr.core cr.jd va .read with
    | .error _ => s.cacheDone i c
    | .ok pa =>
      if l1 && (s.l1Line cr.core (pa / 128) 0).isSome then (s.useTlb cr.core cr.jd [va / 65536 * 65536]).cacheDone i c
      else if s.missHeld cr.core cr.jd [va / 65536 * 65536] then .held (s.startWalks cr.core cr.jd [va / 65536 * 65536])
      else .done (s.lineRequest i c cr va pa l1)

/-- Physical parts of the range of wbr and invr; PHYS = 1 takes the 41 physical bits of sA. -/
def State.cacheRange (s : State) (c : Cohort) (cr : Crew) (a b : Nat) (phys : Bool) : List (Nat × Nat) :=
  let n := (c.sr b).toNat
  if n = 0 then [] else if phys then [((c.sr a).toNat % 2 ^ 41, n)] else s.mappedParts cr.core cr.jd (c.sr a).toNat n

/-- Dirty L2 lines of a range are clean in their tiers. -/
def State.l2Back (s : State) (ps : List (Nat × Nat)) : State :=
  { s with l2dirty := Tab.only (fun l => !(meets ps (l * 128) 128)) s.l2dirty }

/-- Addresses of the dirty lines of L2 in a range. -/
def State.l2Homes (s : State) (ps : List (Nat × Nat)) : List Nat :=
  (s.l2dirty.map fun e => e.1 * 128).filter fun a => meets ps a 128

/-- wbr (11 R251). -/
def writeBack (i : Info) (a b : Nat) (phys : Bool) (s : State) : Out :=
  issue i s fun c s =>
    if phys && !(s.privileged c) then c.all 3 0 ((i.words.headD 0).toNat)
    else
      let cr := s.crewOf c
      let ps := s.cacheRange c cr a b phys
      let mine := (s.crews.filter fun x => x.core == cr.core && !x.shadow).map (·.key)
      let old := mine.flatMap fun k => s.privHomes k fun l => meets ps (l * 128) 128
      s.reaches c cr .writeBack [] (old ++ s.l2Homes ps) fun s =>
        ((mine.foldl (fun s k => s.privOut k fun l => meets ps (l * 128) 128) s).l2Back ps).cacheDone i c

/-- invr (11 R251, R252). -/
def invalidate (i : Info) (a b : Nat) (l2 phys : Bool) (s : State) : Out :=
  issue i s fun c s =>
    if phys && !(s.privileged c) then c.all 3 0 ((i.words.headD 0).toNat)
    else
      let cr := s.crewOf c
      let ps := s.cacheRange c cr a b phys
      s.reaches c cr .writeBack [] (if l2 then s.l2Homes ps else []) fun s =>
        let s : State := { s with
          l1 := s.l1.filter (fun l => !(l.core == cr.core && l.priv == 0 && meets ps (l.line * 128) 128)),
          bricks := s.bricks.filter fun x => !(x.core == cr.core && meets ps x.addr 2000) }
        (if l2 then s.l2Back ps else s).cacheDone i c

/-- icpf: a text line of the kernel comes into the instruction cache (11 R251, R252). -/
def codePrefetch (i : Info) (a : Nat) (s : State) : Out :=
  issue i s fun c s =>
    let cr := s.crewOf c
    let va := (c.sr a).toNat
    if cr.hdr.text ≤ va ∧ va < cr.hdr.text + cr.hdr.tlen then
      s.reaches c cr .fetch (s.fetchPages cr (va / 64)) (s.fetchHomes cr (va / 64)) fun s =>
        match s.ifill cr (va / 64) with
        | .ok s => s.cacheDone i c
        | .error _ => s.cacheDone i c
    else s.cacheDone i c

/-- bpf: the brick at sA comes into the brick cache. -/
def brickPrefetch (i : Info) (a : Nat) (s : State) : Out :=
  issue i s fun c s =>
    let cr := s.crewOf c
    let va := (c.sr a).toNat
    match s.readVa cr.core cr.jd va 2000, s.translate cr.core cr.jd va .read with
    | .ok bs, .ok pa =>
      s.reaches c cr .ray (pagesVa va 2000) (s.vaHomes cr.core cr.jd va 2000) fun s =>
        let s := (s.useTlb cr.core cr.jd (pagesVa va 2000)).meetVa cr.core cr.jd va 2000
        (if bs.any (·.2) then s else s.brickFill cr.core pa (bs.map (·.1))).cacheDone i c
    | _, _ => s.cacheDone i c

/-- PF (R251): Prefetch a global line into L2 and L1. -/
def execPf (a : Nat) (s : State) : Out :=
  prefetchRun { infoE1 40 0 a with long := true } a true s

/-- PF2 (R251): Prefetch a global line into its L2 slice. -/
def execPf2 (a : Nat) (s : State) : Out :=
  prefetchRun { infoE1 40 1 a with long := true } a false s

/-- WBR (R251): Write back dirty lines of a range. -/
def execWbr (a b : Nat) (phys : Bool) (s : State) : Out :=
  writeBack { infoWbr 40 2 a b phys with long := true } a b phys s

/-- INVR (R251): Invalidate clean copies of a range, optionally in L2. -/
def execInvr (a b : Nat) (l2 phys : Bool) (s : State) : Out :=
  invalidate { infoInvr 40 3 a b l2 phys with long := true } a b l2 phys s

/-- ICPF (R251): Prefetch a text line and its clause-map bits. -/
def execIcpf (a : Nat) (s : State) : Out :=
  codePrefetch { infoE1 40 4 a with long := true } a s

/-- BPF (R251): Prefetch a brick into the brick cache. -/
def execBpf (a : Nat) (s : State) : Out :=
  brickPrefetch { infoE1 40 5 a with long := true } a s

end Sys2Proof.Machine
end

