-- ==== Sys2Proof/Machine/Copy.lean ====
section
/-!
DEFINITION. Sys2Proof/Machine/Copy.lean: the copy engine: copies as they issue, their granules, batches, copy completion
rings and waitc (11 R253-R263, 09 R198, R204; 14 R313, R314; 16 R336).
-/

namespace Sys2Proof.Machine

/-! ### Tensor layout records (16 R336) -/

/-- Bits of an element by format code; 0 for a code that no tensor has. -/
def elemBits (fmt : Nat) : Nat :=
  if fmt = 1 ∨ fmt = 7 then 4 else if fmt = 2 ∨ fmt = 3 ∨ fmt = 6 then 8 else if fmt = 4 ∨ fmt = 5 then 16
  else if fmt = 8 then 32 else 0

/-- The record of 64 bytes as a number; none when a reserved bit is set. Dimensions at N or above have extent and box 1. -/
def trecOf (x : Nat) : Option TRec :=
  let n := bitsOf x 57 3
  let dim := fun (d v : Nat) => if d < n then v else 1
  if bitsOf x 506 6 ≠ 0 then none
  else some
    { base := bitsOf x 0 57, n := n, fmt := bitsOf x 60 4, scale := bitsOf x 64 57, bands := bitsOf x 128 57,
      ext := (upto 5).map fun d => dim d (bitsOf x (192 + 32 * d) 32),
      str := 0 :: (upto 4).map (fun d => bitsOf x (352 + 32 * d) 32),
      box := [bitsOf x 121 7 + 1, dim 1 (bitsOf x 185 7 + 1), dim 2 (bitsOf x 480 8), dim 3 (bitsOf x 488 8),
              dim 4 (bitsOf x 496 8)],
      swz := bitsOf x 504 2 }

/-- Does the record give a box size of 0 in any field? -/
def zeroBox (x : Nat) : Bool := bitsOf x 480 8 == 0 || bitsOf x 488 8 == 0 || bitsOf x 496 8 == 0

/-- Bytes of a box row, its pitch P (11 R260). -/
def TRec.pitch (t : TRec) : Nat := t.box.getD 0 1 * elemBits t.fmt / 8

/-- Rows of the box. -/
def TRec.rows (t : TRec) : Nat := (t.box.drop 1).foldl (· * ·) 1

/-- The refusals of tld and tst (11 R260, R261). -/
def TRec.boxOk (t : TRec) : Bool :=
  decide (1 ≤ t.n ∧ t.n ≤ 5) && elemBits t.fmt != 0 && t.box.getD 0 1 * elemBits t.fmt % 128 == 0 && t.box.all (· != 0) &&
  decide (t.swz ≤ 1) && t.base % 16 == 0 && (t.swz == 0 || t.pitch % 128 == 0)

/-- swz of 11 R261. -/
def swizzle (mode x r : Nat) : Nat :=
  if mode = 0 then x else x - x % 128 + 16 * ((x % 128 / 16) ^^^ (r % 8)) + x % 16

/-- Coordinates of an element, dimensions at N or above at 0. -/
def TRec.coords (t : TRec) (c : List Int) : List Int := (upto 5).map fun d => if d < t.n then c.getD d 0 else 0

/-- Is an element inside the tensor? -/
def TRec.inside (t : TRec) (c : List Int) : Bool :=
  (upto 5).all fun d => decide (0 ≤ c.getD d 0 ∧ c.getD d 0 < (t.ext.getD d 1 : Nat))

/-- Address of an element in half-bytes. -/
def TRec.addr4 (t : TRec) (c : List Int) : Nat :=
  2 * t.base + (c.getD 0 0).toNat * (elemBits t.fmt / 4) +
    ((upto 4).map fun d => 32 * t.str.getD (d + 1) 0 * (c.getD (d + 1) 0).toNat).sum

/-- The position in the box of the elements at byte `x` of the unswizzled box: coordinates from the copy's own. -/
def TRec.at_ (t : TRec) (c : List Int) (x i : Nat) : List Int :=
  let r := x / t.pitch
  let k := fun (d : Nat) => t.box.getD d 1
  let o := [x % t.pitch * 8 / elemBits t.fmt + i, r % k 1, r / k 1 % k 2, r / k 1 / k 2 % k 3, r / k 1 / k 2 / k 3]
  (List.zip (t.coords c) o).map fun e => e.1 + (e.2 : Nat)

/-- The parts of a tensor that byte `x` of the box stands for: address of the byte, mask of its bits there, and the shift
of those bits in the box byte; empty outside the tensor. -/
def TRec.bitsAt (t : TRec) (c : List Int) (x : Nat) : List (Nat × Nat × Nat × Nat) :=
  if elemBits t.fmt = 4 then
    [0, 1].filterMap fun i =>
      let e := t.at_ c x i
      if t.inside e then some (t.addr4 e / 2, 15, 4 * (t.addr4 e % 2), 4 * i) else none
  else
    let e := t.at_ c x 0
    if t.inside e then some (t.addr4 e / 2 + x % t.pitch % (elemBits t.fmt / 8), 255, 0, 0) |>.toList else []

/-- Does the copy follow a tensor layout record? -/
def CopyKind.tensor : CopyKind → Bool
  | .tld | .tst | .tslot _ => true
  | _ => false

/-! ### Engine accesses -/

/-- The first failure of the engine's translations of some bytes. -/
def State.engFail (s : State) (cr : Crew) (vas : List Nat) (k : Acc) : Option (Nat × Nat) :=
  vas.findSome? fun va => match s.translate cr.core cr.jd va k with
    | .error e => some (e, va)
    | .ok _ => none

/-- A byte of global memory as the engine reads it, after the check of its translation. -/
def State.engByte (s : State) (cr : Crew) (va : Nat) : Byte × Bool :=
  match s.translate cr.core cr.jd va .read with
  | .ok pa => (s.gmem.byte pa, s.poisoned .glob pa 1)
  | .error _ => (0, false)

/-- A byte put together from the parts of a tensor that it stands for, in the form of `bitsAt`, with their poison. -/
def State.gatherByte (s : State) (cr : Crew) (ps : List (Nat × Nat × Nat × Nat)) : Byte × Bool :=
  let bs := ps.map fun p => (s.engByte cr p.1, p.2)
  (BitVec.ofNat 8 ((bs.map fun p => p.1.1.toNat / 2 ^ p.2.2.1 % (p.2.1 + 1) * 2 ^ p.2.2.2).sum), bs.any fun p => p.1.2)

/-- A report of the copy engine leaves for its cohort (09 R201). -/
def State.copyReport (s : State) (cohort crew code detail entry ipc : Nat) : State :=
  { s with repIn := s.repIn ++ [({ cohort := cohort, crew := crew, report :=
      { code := code, detail := detail, entry := entry, eng := 0, unit := 0, ipc := ipc } } : RepIn)] }

/-- A copy has nothing left to do: its range frees and its operation may complete. -/
def State.copyDone (s : State) (x : Copy) : State :=
  ({ s with copies := mapIf (fun y => y.id == x.id) (fun y => { y with done := true, granules := [] }) s.copies }).onCohort
    x.cohort fun c => c.onOp x.op fun o => { o with left := 0 }

/-- A batch ends: no further bytes are written, and COPY_FAULT follows (11 R256). -/
def State.endBatch (s : State) (b ipc detail : Nat) : State :=
  match s.batches.find? fun x => x.id == b && !x.ended with
  | none => s
  | some x =>
    let s : State :=
      { s with batches := mapIf (fun y => y.id == b) (fun y => { y with ended := true, paused := none }) s.batches }
    let s := (s.copies.filter fun y => y.batch == b && !y.done).foldl (fun s y => s.copyDone y) s
    s.copyReport x.cohort x.crew 0x11 detail 0 ipc

/-- A failed translation: XLATE pauses the batch with a record of KIND 4, PROT ends it (09 R198, 11 R256), and so does a poisoned
table entry, with the DETAIL of a rejected translation (notes/assumptions/83.md). -/
def State.copyFail (s : State) (x : Copy) (cr : Crew) (e : Nat × Nat) (k : Acc) : State :=
  if e.1 = 6 then s.endBatch x.batch x.ipc 2
  else if s.walkPoison cr.jd.root e.2 then s.endBatch x.batch x.ipc 1
  else
    let place := ((s.cohort x.cohort).map fun c => (c.sub, c.place)).getD (0, 0)
    let seq := (s.core cr.core).seq
    let s := s.postRecord cr place.1 place.2 4 5 k.detail e.2 x.ipc
    { s with batches := mapIf (fun y => y.id == x.batch) (fun y =>
      { y with paused := some (⟨seq, place.1, place.2⟩, x.ipc) }) s.batches }

/-- Poisoned source data: COPY_FAULT with DETAIL 3 once per batch (10 R234). -/
def State.copyPoison (s : State) (x : Copy) : State :=
  match s.batches.find? fun b => b.id == x.batch with
  | some b =>
    if b.poisonReported then s
    else ({ s with batches := mapIf (fun y => y.id == b.id) (fun y => { y with poisonReported := true }) s.batches }
      ).copyReport x.cohort x.crew 0x11 3 0 x.ipc
  | none => s

/-- The engine writes bytes of a space: value and poison of each; protected bytes of a crew's allocation are left. -/
def State.engWrite (s : State) (sp : Space) (bs : List (Nat × Byte × Bool)) : State :=
  let s := s.writeBytes sp (bs.map fun b => (b.1, b.2.1))
  (bs.filter fun b => b.2.2).foldl (fun s b => s.markPoison sp b.1 1) s

/-- Bytes written to a crew's allocation by offset. -/
def State.engSpad (s : State) (cr : Crew) (bs : List (Nat × Byte × Bool)) : State :=
  s.engWrite (if cr.shadow then .shad cr.core else .spad cr.core)
    ((bs.filter fun b => decide (b.1 < cr.ssize) && !(s.protects cr b.1)).map fun b => (cr.sbase + b.1, b.2))

/-- Words of global memory that the granules of a copy have together written whole, none of their bytes poisoned, are poisoned no
longer (10 R234); `bs`: address, mask and poison of the bytes of this granule. -/
def State.partWords (s : State) (x : Copy) (bs : List (Nat × Nat × Bool)) : State :=
  if s.gPoison = [] ∧ s.latent = [] then s
  else
    let bad := (bs.filter (·.2.2)).map (·.1)
    let had := (x.parts.filter fun e => !(bad.contains e.1)) ++ (bs.filter fun b => !b.2.2).map fun b => (b.1, b.2.1)
    let whole := fun (w : Nat) => (upto 8).all fun j =>
      (had.filter fun e => e.1 == 8 * w + j).foldl (fun m e => m ||| e.2) 0 == 255
    let ws := (distinct (bs.map (·.1 / 8))).filter whole
    { s with gPoison := unpoison 8 s.gPoison (ws.flatMap fun w => (upto 8).map (8 * w + ·)), latent := s.clearErrors .glob ws,
             copies := mapIf (fun y => y.id == x.id) (fun y => { y with parts := had.filter fun e => !(ws.contains (e.1 / 8)) })
               s.copies }

/-- Bytes written to global memory: value with mask, old bits kept; L1 copies of the core drop, watches are told. -/
def State.engGlobal (s : State) (x : Copy) (cr : Crew) (bs : List (Nat × Nat × Nat × Bool)) : State :=
  let at_ := bs.filterMap fun b => match s.translate cr.core cr.jd b.1 .write with
    | .ok pa => some (pa, b.2)
    | .error _ => none
  let pas := at_.map (·.1)
  let merged := at_.map fun b =>
    let old := if b.2.1 = 255 then 0 else (s.gmem.byte b.1).toNat
    (b.1, BitVec.ofNat 8 (old - (old &&& b.2.1) + b.2.2.1), b.2.2.2)
  let rep := s.slReport false pas x.ipc
  let hit := leastD 4 ((bs.filterMap fun b => s.watchHit cr.core cr.jd.asid .write true b.1 1).map (·.1))
  let s := (s.engWrite .glob merged).partWords x (at_.map fun b => (b.1, b.2.1, b.2.2.2))
  let s := s.l1Drop cr.core (distinct (pas.map (· / 128)))
  let s : State := { s with repIn := s.repIn ++ rep.map fun r => ({ cohort := x.cohort, crew := x.crew, report := r } : RepIn) }
  if hit = 4 then s
  else ({ s with copies := mapIf (fun y => y.id == x.id) (fun y => { y with pausedW := some false }) s.copies }).copyReport
    x.cohort x.crew 0x12 2 hit x.ipc

/-- Bytes of a crew's allocation by offset, with their poison. -/
def State.spadByte (s : State) (cr : Crew) (off : Nat) : Byte × Bool :=
  let sp := if cr.shadow then Space.shad cr.core else .spad cr.core
  ((s.readBytes sp (cr.sbase + off) 1).headD 0, s.poisoned sp (cr.sbase + off) 1)

/-! ### Granules (11 R255) -/

/-- Bytes of a plain copy's granule `g`: offsets in the copy. -/
def granOf (len g : Nat) : List Nat := (upto (min 256 (len - 256 * g))).map (256 * g + ·)

/-- A granule of a plain copy; a window's target crew is the one placed at the granule's moment (notes/assumptions/104.md). -/
def State.plainGran (s : State) (x : Copy) (cr : Crew) (g : Nat) : State :=
  let os := granOf x.len g
  let fromG := x.kind == .g2s
  let toG := x.kind == .s2g
  let bad := if fromG then s.engFail cr (os.map (x.src + ·)) .read else if toG then s.engFail cr (os.map (x.dst + ·)) .write
    else none
  match bad with
  | some e => s.copyFail x cr e (if fromG then .read else .write)
  | none =>
    let win := fun (a : Nat) => (s.windowTarget cr a).map fun t => (t, a % 2 ^ 28)
    let read := fun (o : Nat) =>
      if fromG then s.engByte cr (x.src + o)
      else if x.kind == .c2s then match win x.src with
        | some (t, a) => s.spadByte t (a + o)
        | none => (0, false)
      else s.spadByte cr (x.src + o)
    let bs := os.map fun o => (o, read o)
    let s := if bs.any (·.2.2) then s.copyPoison x else s
    let s := s.countPm cr.core 0 12 1
    if toG then s.engGlobal x cr (bs.map fun b => (x.dst + b.1, 255, b.2.1.toNat, b.2.2))
    else if x.kind == .s2c then
      match win x.dst with
      | some (t, a) => s.engSpad t (bs.map fun b => (a + b.1, b.2))
      | none => s
    else s.engSpad cr (bs.map fun b => (x.dst + b.1, b.2))

/-- Writes of bits of bytes (address, mask, value, poison), one for each byte: a later one goes over an earlier one. -/
def mergeBits (bs : List (Nat × Nat × Nat × Bool)) : List (Nat × Nat × Nat × Bool) :=
  (distinct (bs.map (·.1))).map fun a => (bs.filter fun b => b.1 == a).foldl (fun r b =>
    (a, r.2.1 ||| b.2.1, r.2.2.1 - (r.2.2.1 &&& b.2.1) + b.2.2.1, (b.2.1 != 255 && r.2.2.2) || b.2.2.2)) (a, 0, 0, false)

/-- A granule of a tensor copy: 256 bytes of the unswizzled box. -/
def State.boxGran (s : State) (x : Copy) (cr : Crew) (t : TRec) (g : Nat) : State :=
  let xs := granOf (t.pitch * t.rows) g
  let off := fun (y : Nat) => swizzle t.swz y (y / t.pitch)
  if x.kind == .tld then
    match s.engFail cr (xs.flatMap fun y => (t.bitsAt x.coord y).map (·.1)) .read with
    | some e => s.copyFail x cr e .read
    | none =>
      let bs := xs.map fun y => (x.dst + off y, s.gatherByte cr (t.bitsAt x.coord y))
      let s := if bs.any (·.2.2) then s.copyPoison x else s
      (s.countPm cr.core 0 12 1).engSpad cr bs
  else
    match s.engFail cr (xs.flatMap fun y => (t.bitsAt x.coord y).map (·.1)) .write with
    | some e => s.copyFail x cr e .write
    | none =>
      let bs := xs.flatMap fun y =>
        let b := s.spadByte cr (x.src + off y)
        (t.bitsAt x.coord y).map fun p =>
          (p.1, p.2.1 * 2 ^ p.2.2.1, b.1.toNat / 2 ^ p.2.2.2 % (p.2.1 + 1) * 2 ^ p.2.2.1, b.2)
      let s := if bs.any (·.2.2.2) then s.copyPoison x else s
      (s.countPm cr.core 0 12 1).engGlobal x cr (mergeBits bs)

/-- Key of an operand slot or tile. -/
def unitIx (core sub n : Nat) : Nat := (core * 4 + sub) * 16 + n

/-- The bytes that a tslot granule reads: virtual addresses of DATA byte `j` of row `i`, in the form of `bitsAt`. -/
def TRec.slotBits (t : TRec) (c : List Int) (i j : Nat) : List (Nat × Nat × Nat × Nat) :=
  let at_ := fun (k : Nat) => (List.zip (t.coords c) (upto 5)).map fun e =>
    if e.2 = 0 then e.1 + ((j * 8 / elemBits t.fmt + k : Nat) : Int) else if e.2 = 1 then e.1 + (i : Nat) else e.1
  if elemBits t.fmt = 4 then
    [0, 1].filterMap fun k =>
      if t.inside (at_ k) then some (t.addr4 (at_ k) / 2, 15, 4 * (t.addr4 (at_ k) % 2), 4 * k) else none
  else if t.inside (at_ 0) then [(t.addr4 (at_ 0) / 2 + j % (elemBits t.fmt / 8), 255, 0, 0)] else []

/-- Rows across the higher dimensions: c2 + e2 (c3 + e3 c4), none outside the tensor (11 R262). -/
def TRec.high (t : TRec) (c : List Int) : Option Nat :=
  let c := t.coords c
  let e := fun (d : Nat) => t.ext.getD d 1
  let k := fun (d : Nat) => (c.getD d 0).toNat
  if (upto 3).all fun d => decide (0 ≤ c.getD (d + 2) 0 ∧ c.getD (d + 2) 0 < (e (d + 2) : Nat)) then
    some (k 2 + e 2 * (k 3 + e 3 * k 4)) else none

/-- Address of SIDE byte `q` of row `i`; none outside the tensor. -/
def TRec.sideAt (t : TRec) (c : List Int) (i q : Nat) : Option Nat :=
  let r := c.getD 1 0 + (i : Nat)
  let o := c.getD 0 0 / 8 + (q : Nat)
  match t.high c with
  | some h =>
    if 0 ≤ r ∧ r < (t.ext.getD 1 1 : Nat) ∧ 0 ≤ o ∧ o < (ceilDiv (t.ext.getD 0 1) 8 : Nat) then
      some (t.scale + (r.toNat + t.ext.getD 1 1 * h) * ceilDiv (t.ext.getD 0 1) 8 + o.toNat) else none
  | none => none

/-- Address of BAND; none outside the tensor. -/
def TRec.bandAt (t : TRec) (c : List Int) : Option Nat :=
  let r := c.getD 1 0
  match t.high c with
  | some h =>
    if 0 ≤ r ∧ r < (t.ext.getD 1 1 : Nat) then
      some (t.bands + 2 * (r.toNat / 64 + ceilDiv (t.ext.getD 1 1) 64 * h)) else none
  | none => none

/-- The virtual addresses that a granule reaches: of its bytes, and of the record that a tensor copy still has to read. -/
def Copy.granVas (x : Copy) (g : Nat) : List Nat :=
  match x.kind, x.trec with
  | .g2s, _ => (granOf x.len g).map (x.src + ·)
  | .s2g, _ => (granOf x.len g).map (x.dst + ·)
  | .s2s, _ | .s2c, _ | .c2s, _ => []
  | .tst, none => (upto 64).map (x.dst + ·)
  | _, none => (upto 64).map (x.src + ·)
  | .tslot sc, some t =>
    if g = 32 then (t.bandAt x.coord).toList.flatMap fun a => [a, a + 1]
    else ((upto 256).flatMap fun j => (t.slotBits x.coord g j).map (·.1)) ++
      if sc then (upto 64).filterMap fun q => t.sideAt x.coord g q else []
  | _, some t => (granOf (t.pitch * t.rows) g).flatMap fun y => (t.bitsAt x.coord y).map (·.1)

/-- The words of a scratchpad that a granule reads. -/
def State.granSpad (s : State) (x : Copy) (cr : Crew) (g : Nat) : List Site :=
  let words := fun (cr : Crew) (os : List Nat) => (distinct (os.map fun o => (s.crewKey cr + o) / 4)).map Site.spad
  match x.kind, x.trec with
  | .s2g, _ | .s2s, _ | .s2c, _ => words cr ((granOf x.len g).map (x.src + ·))
  | .c2s, _ => match s.windowTarget cr x.src with
    | some t => words t ((granOf x.len g).map (x.src % 2 ^ 28 + ·))
    | none => []
  | .tst, some t => words cr ((granOf (t.pitch * t.rows) g).map fun y => x.src + swizzle t.swz y (y / t.pitch))
  | _, _ => []

/-- The engine reads the words of a granule and meets their errors (10 R233). -/
def State.meetGran (s : State) (x : Copy) (cr : Crew) (g : Nat) : State :=
  if s.latent = [] then s
  else
    let writes := x.kind == .s2g || (x.kind == .tst && x.trec.isSome)
    let vas := if writes then [] else x.granVas g
    s.meet (s.granSpad x cr g ++ vas.flatMap fun va => match s.translate cr.core cr.jd va .read with
      | .ok pa => s.sites .glob pa 1
      | .error _ => [])

/-- Bytes of a slot replaced, with their poison: 0-8191 DATA, 8192-10239 SIDE, 10240 BAND. -/
def Slot.setData (z : Slot) (bs : List (Nat × Byte × Bool)) : Slot :=
  { z with data := Tab.putAll 0 z.data (bs.map fun b => (b.1, b.2.1)),
           poison := Tab.putAll false z.poison (bs.map fun b => (b.1, b.2.2)) }
def Slot.setSide (z : Slot) (bs : List (Nat × Byte × Bool)) : Slot :=
  { z with side := Tab.putAll 0x80 z.side (bs.map fun b => (b.1, b.2.1)),
           poison := Tab.putAll false z.poison (bs.map fun b => (8192 + b.1, b.2.2)) }
def Slot.setBand (z : Slot) (x : Nat) (po : Bool) : Slot :=
  { z with band := x, poison := Tab.put false z.poison 10240 po }

/-- A granule of a tslot: row `g` of DATA and SIDE, or BAND for 32; held while an earlier MTX operation of the cohort is to
read the slot (08 R174). A slot that another crew has claimed since an orel keeps its contents (R166); one that a long-wait swap has
saved takes them in the crew's image (13 R287). -/
def State.slotGran (s : State) (x : Copy) (cr : Crew) (c : Cohort) (t : TRec) (sc : Bool) (g : Nat) : State :=
  let ix := unitIx cr.core c.sub x.slot
  let reads := fun (m : MtxOp) => decide (m.op < x.op) && match m.kind with
    | .mma _ a b _ => a == x.slot || b == x.slot
    | .mmaz _ a b _ => a == x.slot || b == x.slot
    | _ => false
  let saved := if cr.out.isSome then cr.savedSlots.find? fun e => e.1 == ix else none
  let z := (saved.map (·.2)).getD (Tab.read {} s.slots ix)
  let drop := fun (s : State) => { s with
    copies := mapIf (fun y => y.id == x.id) (fun y => { y with granules := y.granules.filter (· != g) }) s.copies }
  let put := fun (s : State) (z' : Slot) =>
    let s := s.countPm cr.core c.sub 12 1
    let words := if g = 32 then [1280] else (upto 32).map (32 * g + ·) ++
      if sc then (upto 8).map (1024 + 8 * g + ·) else []
    drop (if z.lastCrew ≠ x.crew then s
      else if saved.isSome then s.onCrew cr.key fun cr =>
        { cr with savedSlots := mapIf (fun e => e.1 == ix) (fun e => (e.1, z')) cr.savedSlots }
      else { s.rewrite (words.map (.slot ix)) with slots := Tab.put {} s.slots ix z' })
  let held := c.stream.any reads
  let s := if held then s else s.meetGran x cr g
  if held then s
  else if g = 32 then
    match t.bandAt x.coord with
    | none => put s (z.setBand 0x3F80 false)
    | some a =>
      match s.engFail cr [a, a + 1] .read with
      | some e => s.copyFail x cr e .read
      | none =>
        let l := s.engByte cr a
        let h := s.engByte cr (a + 1)
        let s := if l.2 || h.2 then s.copyPoison x else s
        put s (z.setBand (l.1.toNat + 256 * h.1.toNat) (l.2 || h.2))
  else
    let d := (upto 256).map fun j => (j, t.slotBits x.coord g j)
    let q := if sc then (upto 64).map fun q => (q, t.sideAt x.coord g q) else []
    match s.engFail cr (d.flatMap (fun e => e.2.map (·.1)) ++ q.filterMap (·.2)) .read with
    | some e => s.copyFail x cr e .read
    | none =>
      let db := d.map fun e => (256 * g + e.1, s.gatherByte cr e.2)
      let qb := q.map fun e => (64 * g + e.1, match e.2 with
        | some a => s.engByte cr a
        | none => (0x80, false))
      let s := if db.any (·.2.2) || qb.any (·.2.2) then s.copyPoison x else s
      put s ((z.setData db).setSide qb)

/-- Are the records of a core's earlier tensor copies read, or their batches paused or their context swapped out? The engine reads
records at issue order (11 R260). -/
def State.recordTurn (s : State) (x : Copy) : Bool :=
  !(s.copies.any fun y => y.core == x.core && decide (y.id < x.id) && !y.done && y.kind.tensor && y.trec.isNone &&
    !(s.batches.any fun b => b.id == y.batch && b.paused.isSome) && !((s.crew y.crew).any (·.shadow)))

/-- The engine reads and checks a tensor layout record (11 R260, R262; 16 R336): the granules follow from it, and the range of a
tld. A tslot's record is refused as any other's (notes/assumptions/105.md). -/
def State.readTrec (s : State) (x : Copy) (cr : Crew) : State :=
  let rec_ := if x.kind == .tst then x.dst else x.src
  let refuse := s.endBatch x.batch x.ipc 4
  if rec_ % 64 ≠ 0 then refuse
  else match s.readVa cr.core cr.jd rec_ 64 with
  | .error e => s.copyFail x cr e .read
  | .ok bs =>
    let w := leNat (bs.map (·.1))
    match trecOf w with
    | none => refuse
    | some t =>
      let isSlot := match x.kind with
        | .tslot _ => true
        | _ => false
      let sc := x.kind == .tslot true
      let base := if x.kind == .tst then x.src else x.dst
      let ok := !(bs.any (·.2)) && !(zeroBox w) &&
        (if isSlot then decide (2 ≤ t.n ∧ t.n ≤ 5 ∧ 1 ≤ t.fmt ∧ t.fmt ≤ 7 ∧ t.base % 16 = 0 ∧ t.swz ≤ 1) &&
           (!sc || (t.scale != 0 && t.bands != 0))
         else t.boxOk && decide (base + t.pitch * t.rows ≤ cr.ssize))
      if !ok then refuse
      else
        let gs := if isSlot then (if sc then upto 33 else upto 32) else upto (ceilDiv (t.pitch * t.rows) 256)
        let len := if x.kind == .tld then t.pitch * t.rows else x.len
        { s with
          copies := mapIf (fun y => y.id == x.id) (fun y => { y with trec := some t, granules := gs, len := len }) s.copies }

/-- A copy ends with its last granule, unless a watch has paused it (09 R204). -/
def State.copyEnd (s : State) (id : Nat) : State :=
  match s.copies.find? fun y => y.id == id with
  | none => s
  | some x => if x.done || x.granules != [] || x.pausedW.isSome then s else s.copyDone x

/-- A granule is done: the copy's list shrinks, and the copy ends with its last. -/
def State.granDone (s : State) (id g : Nat) : State :=
  match s.copies.find? fun y => y.id == id with
  | none => s
  | some x =>
    let paused := (s.batches.find? fun b => b.id == x.batch).any fun b => b.paused.isSome
    if x.done || paused then s
    else
      let rest := x.granules.filter (· != g)
      ({ s with copies := mapIf (fun y => y.id == id) (fun y => { y with granules := rest }) s.copies } : State).copyEnd id

/-- The global addresses that a granule reaches. -/
def State.granHomes (s : State) (x : Copy) (cr : Crew) (g : Nat) : List Nat :=
  (x.granVas g).filterMap fun va => match s.translate cr.core cr.jd va .read, s.translate cr.core cr.jd va .write with
    | .ok pa, _ | _, .ok pa => some pa
    | _, _ => none

/-- COPY_GRANULE: one granule of a copy, unless its batch pauses, a watch paused it, its core is halted or a release before it is
not performed (09 R198, R204; 12 R275; 13 R281); a tensor copy's first one is the reading of its record. One that a watch paused
after its last granule ends here when it resumes. -/
def copyGranule (id g : Nat) (s : State) : State :=
  match s.copies.find? fun y => y.id == id && !y.done with
  | none => s
  | some x =>
    match s.crew x.crew, s.cohort x.cohort, s.batches.find? fun b => b.id == x.batch with
    | some cr, some c, some b =>
      if b.paused.isSome || x.pausedW.isSome || cr.shadow || s.engineHolds cr.core || !(s.opMay c x.op) then s
      else s.atHomes cr.core (.copy, id) (if s.changing = [] then [] else s.granHomes x cr g) fun s =>
        match x.kind.tensor, x.trec with
        | true, none => if s.recordTurn x then (s.meetGran x cr g).readTrec x cr else s
        | true, some t =>
          if !(x.granules.contains g) then s.copyEnd id
          else match x.kind with
            | .tslot sc => (s.slotGran x cr c t sc g).copyEnd id
            | _ => ((s.meetGran x cr g).boxGran x cr t g).granDone id g
        | false, _ => if x.granules.contains g then ((s.meetGran x cr g).plainGran x cr g).granDone id g else s.copyEnd id
    | _, _, _ => s

/-! ### Batches (11 R257-R259) -/

/-- The batches of a cohort, each counted until it retires. -/
def State.batchesOf (s : State) (k : Nat) : List Batch := s.batches.filter fun b => b.cohort == k

/-- The open batch closes. -/
def State.closeBatch (s : State) (k : Nat) (ring : Option Nat := none) (ipc : Nat := 0) : State :=
  match (s.cohort k).bind (·.openBatch) with
  | none => s
  | some b =>
    let s := s.onCohort k fun c => { c with openBatch := none }
    { s with batches := mapIf (fun x => x.id == b) (fun x => { x with closed := true, ring := ring.or x.ring, ipc := ipc })
                     s.batches }

/-- A new open batch of a cohort; its id is the second answer. -/
def State.openBatch (s : State) (c : Cohort) : State × Nat :=
  let id := s.fresh
  (({ s with fresh := id + 1,
             batches := s.batches ++ [({ id := id, cohort := c.key, crew := c.crew } : Batch)] } : State).onCohort c.key
    fun c => { c with openBatch := some id }, id)

/-- Retired batches leave the counter in the order they opened (01 R29). -/
def retireBatches (k : Nat) : Nat → State → State
  | 0, s => s
  | fuel + 1, s =>
    match s.batchesOf k with
    | b :: _ =>
      if b.done then
        retireBatches k fuel { s with batches := s.batches.filter (fun x => x.id != b.id),
                                      copies := s.copies.filter fun x => x.batch != b.id }
      else s
    | [] => s

/-- Every copy of a closed batch is done. -/
def State.batchReady (s : State) (b : Batch) : Bool :=
  b.closed && !b.done && s.copies.all fun x => x.batch != b.id || x.done

/-- COPY_BATCH_COMPLETE (11 R257): a batch bound to a ring is complete only after its advance. -/
def copyBatchComplete (n : Nat) (s : State) : State :=
  match s.batches.find? fun b => b.id == n with
  | none => s
  | some b =>
    if s.batchReady b && (b.ring.isNone || b.advanced) then
      retireBatches b.cohort 64
        { s with batches := mapIf (fun x => x.id == n) (fun x => { x with done := true }) s.batches }
    else s

/-- A copy completion ring: WSEQ, RSEQ, NSLOT, SLOTSZ and whether it is malformed (14 R313). -/
structure CRing where
  wseq : Nat
  rseq : Nat
  nslot : Nat
  slotsz : Nat
  bad : Bool
  deriving DecidableEq, Repr

/-- Filled slots of a ring object's sequence numbers. -/
def CRing.fill (r : CRing) : Nat := (r.wseq + 2 ^ 32 - r.rseq) % 2 ^ 32

/-- The ring object at a crew offset. -/
def State.cring (s : State) (cr : Crew) (off : Nat) : CRing :=
  let x := s.crewNat cr off 16
  let r : CRing := { wseq := bitsOf x 0 32, rseq := bitsOf x 32 32, nslot := bitsOf x 64 16, slotsz := bitsOf x 80 32,
                     bad := false }
  { r with bad := r.nslot == 0 || bitsOf x 112 16 != 0 || decide (r.nslot < r.fill) }

/-- COPY_RING_ADVANCE (11 R259, 14 R313): held while the ring is full. -/
def copyRingAdvance (n : Nat) (s : State) : State :=
  match s.batches.find? fun b => b.id == n && !b.advanced with
  | none => s
  | some b =>
    match b.ring, s.crew b.crew with
    | some off, some cr =>
      let adv := fun (s : State) =>
        { s with batches := mapIf (fun x => x.id == n) (fun x => { x with advanced := true }) s.batches }
      if !(s.batchReady b) then s
      else if cr.torn then adv s
      else
        let r := s.cring cr off
        if r.bad then (adv (s.meetCrew cr off 16)).copyReport b.cohort b.crew 0x11 4 0 b.ipc
        else if r.fill = r.nslot then s
        else adv ((s.meetCrew cr off 16).crewSet cr off 4 (r.wseq + 1))
    | _, _ => s

/-! ### Issue -/

/-- %tinfo of a per-cohort operand fault (09 R193): the operand's value, SUB and field. -/
def opInfo (x : Dword) (sub field : Nat) : Nat := x.toNat % 2 ^ 48 * 65536 + sub * 256 + field

/-- Ranges of the core's range scoreboard (11 R263). -/
def State.ranges (s : State) (core : Nat) : Nat :=
  (s.copies.filter fun x => !x.done && x.core == core && decide (0 < x.len) &&
    (x.kind == .g2s || x.kind == .s2s || x.kind == .c2s || x.kind == .tld)).length

/-- A copy enters the open batch, or a new one (11 R257); its interlocks; a copy of nothing, and one of a batch that has ended
(R256), is done at once. -/
def startCopy (i : Info) (c : Cohort) (cr : Crew) (s : State) (x : Copy) : Res :=
  let joins := (c.openBatch.bind fun b => s.batches.find? fun y => y.id == b).any fun b => decide (b.count < 64)
  let range := decide (0 < x.len) && (x.kind == .g2s || x.kind == .s2s || x.kind == .c2s || x.kind == .tld)
  if c.acquiring || (!joins && decide (63 ≤ (s.batchesOf c.key).length)) || (range && decide (32 ≤ s.ranges cr.core)) then
    .hold
  else
    let r := s.startOp c.key i.len { id := 0, left := 1 }
    let s := if joins then r.1 else r.1.closeBatch c.key
    let b := match c.openBatch with
      | some b => if joins then (s, b) else s.openBatch c
      | none => s.openBatch c
    let s : State := { b.1 with batches := mapIf (fun y => y.id == b.2) (fun y => { y with count := y.count + 1 }) b.1.batches }
    let x : Copy :=
      { x with id := s.fresh, cohort := c.key, crew := cr.key, core := cr.core, op := r.2, batch := b.2, ipc := c.pc,
               granules := if x.kind.tensor then x.granules else upto (ceilDiv x.len 256) }
    let ended := s.batches.any fun y => y.id == b.2 && y.ended
    let s : State := { s with fresh := s.fresh + 1, copies := s.copies ++ [x] }
    .done (if ended || (!x.kind.tensor && x.len == 0) then s.copyDone x else s)

/-- A side of a plain copy. -/
inductive Side where
  | glob | spad | win
  deriving DecidableEq, Repr

/-- Does a side of a copy leave its memory (11 R254)? -/
def State.sideBad (s : State) (cr : Crew) (k : Side) (x : Dword) (n : Nat) : Bool :=
  match k with
  | .glob => false
  | .spad => decide (x.toInt < 0 ∨ (cr.ssize : Int) < x.toInt + n)
  | .win => match s.windowTarget cr (x.toNat % 2 ^ 32) with
    | some t => decide (t.ssize < x.toNat % 2 ^ 28 + n)
    | none => true

/-- A copy of nothing to any kind of side keeps its operand; others keep the address that the engine uses. -/
def sideAddr (k : Side) (x : Dword) : Nat :=
  match k with
  | .win => x.toNat % 2 ^ 32
  | _ => x.toNat

/-- cpg2s, cps2g, cps2s, cps2c, cpc2s (11 R254). -/
def plainCopy (i : Info) (kind : CopyKind) (sub : Nat) (kd ka : Side) (d a b : Nat) (s : State) : Out :=
  issue i s fun c s =>
    let cr := s.crewOf c
    let n := (c.sr b).toNat
    let vals := [c.sr d, c.sr a, c.sr b]
    let mis := (upto 3).find? fun k => (vals.getD k 0).toNat % 4 != 0
    let out := kind == .s2c || (n != 0 && kind == .s2g && !(s.inWritten cr (c.sr d).toNat n))
    if cr.spec && out then .spec
    else match (if n = 0 then none else mis) with
      | some k => c.all 4 0 (opInfo (vals.getD k 0) sub k)
      | none =>
        if 2 ^ 24 < n then c.all 7 0 (opInfo (c.sr b) sub 2)
        else if n ≠ 0 ∧ s.sideBad cr kd (c.sr d) n then c.all 7 0 (opInfo (c.sr d) sub 0)
        else if n ≠ 0 ∧ s.sideBad cr ka (c.sr a) n then c.all 7 0 (opInfo (c.sr a) sub 1)
        else startCopy i c cr s { id := 0, cohort := 0, crew := 0, core := 0, op := 0, batch := 0, kind := kind,
                                  dst := sideAddr kd (c.sr d), src := sideAddr ka (c.sr a), len := n }

/-- The coordinates c0-c4 of sB, sB+1, sB+2 (11 R253). -/
def Cohort.coords (c : Cohort) (b : Nat) : List Int :=
  (upto 5).map fun k => sextNat 32 ((c.sr (b + k / 2)).toNat / 2 ^ (32 * (k % 2)))

/-- The record as it stands at issue, when the engine would take it: for the range of a tld and for the tst of a speculative
crew, which parks unless all that it writes is known to lie in written buffers (notes/assumptions/84.md). -/
def State.peekTrec (s : State) (cr : Crew) (va : Nat) : Option TRec :=
  match s.readVa cr.core cr.jd va 64 with
  | .ok bs =>
    let w := leNat (bs.map (·.1))
    (trecOf w).bind fun t => if va % 64 == 0 && !(bs.any (·.2)) && !(zeroBox w) && t.boxOk then some t else none
  | .error _ => none

/-- tld and tst (11 R260). While its record cannot be read, the range of a tld is the rest of the allocation (R263). -/
def tensorCopy (i : Info) (store : Bool) (d a b : Nat) (s : State) : Out :=
  issue i s fun c s =>
    let cr := s.crewOf c
    let co := c.coords b
    let t := s.peekTrec cr (if store then c.sr d else c.sr a).toNat
    let inside := fun (t : TRec) => decide ((c.sr a).toNat + t.pitch * t.rows ≤ cr.ssize) &&
      (upto (t.pitch * t.rows)).all fun y => (t.bitsAt co y).all fun p => s.inWritten cr p.1 1
    let x : Copy := { id := 0, cohort := 0, crew := 0, core := 0, op := 0, batch := 0, kind := if store then .tst else .tld,
                      dst := (c.sr d).toNat, src := (c.sr a).toNat, len := 0, coord := co }
    if store then
      if !cr.spec then startCopy i c cr s x
      else match t with
        | some t =>
          if inside t then startCopy i c cr s { x with trec := some t, granules := upto (ceilDiv (t.pitch * t.rows) 256) }
          else .spec
        | none => .spec
    else startCopy i c cr s { x with len := match t with
      | some t => t.pitch * t.rows
      | none => cr.ssize - (c.sr d).toNat }

/-- tslot (11 R262). -/
def tensorSlot (i : Info) (n a b : Nat) (sc : Bool) (s : State) : Out :=
  issue i s fun c s =>
    let cr := s.crewOf c
    let co := c.coords b
    if (Tab.read {} s.slots (unitIx cr.core c.sub n)).owner ≠ c.key then c.all 14 0 (n + 7 * 256)
    else if co.getD 1 0 % 32 ≠ 0 ∨ co.getD 0 0 % 8 ≠ 0 then c.all 4 0 (opInfo (c.sr b) 7 2)
    else startCopy i c cr s { id := 0, cohort := 0, crew := 0, core := 0, op := 0, batch := 0, kind := .tslot sc, dst := 0,
                              src := (c.sr a).toNat, len := 0, coord := co, slot := n }

/-- cpclose (11 R257). -/
def copyClose (i : Info) (s : State) : Out := issue i s fun c s => .done (s.closeBatch c.key)

/-- Outstanding operations of a class of waitc (11 R258). -/
def State.outstanding (s : State) (c : Cohort) (cls : Nat) : Nat :=
  if cls = 0 then (s.batchesOf c.key).length
  else c.count (if cls = 1 then .mtx else if cls = 2 then .gath else .coll)

/-- waitc (11 R258); it closes the open batch. -/
def waitCount (i : Info) (n cls : Nat) (s : State) : Out :=
  issue i s fun c s =>
    let s := s.closeBatch c.key
    if s.outstanding c cls ≤ n then .done (s.quickOp c.key i.len { id := 0 }) else .wait s (.counter cls n)

/-- An offset of a 16-byte object of the crew: the fault of ALIGN or RANGE, or none. -/
def objFault (c : Cohort) (cr : Crew) (x : Dword) (sub field : Nat) : Option Res :=
  if x.toNat % 16 ≠ 0 then some (c.all 4 0 (opInfo x sub field))
  else if x.toInt < 0 ∨ (cr.ssize : Int) < x.toInt + 16 then some (c.all 7 0 (opInfo x sub field))
  else none

/-- cpring (11 R259). -/
def copyRing (i : Info) (a : Nat) (s : State) : Out :=
  issue i s fun c s =>
    match objFault c (s.crewOf c) (c.sr a) 10 1 with
    | some r => r
    | none =>
      if c.openBatch.isNone && decide (63 ≤ (s.batchesOf c.key).length) then .hold
      else
        let s := if c.openBatch.isNone then (s.openBatch c).1 else s
        .done (s.closeBatch c.key (some (c.sr a).toNat) c.pc)

/-- CPG2S (R254): Copy from global to scratchpad. -/
def execCpg2s (d a b : Nat) (s : State) : Out :=
  plainCopy { infoCp 41 0 d a b with long := true } .g2s 0 .spad .glob d a b s

/-- CPS2G (R254): Copy from scratchpad to global. -/
def execCps2g (d a b : Nat) (s : State) : Out :=
  plainCopy { infoCp 41 1 d a b with long := true } .s2g 1 .glob .spad d a b s

/-- CPS2S (R254): Copy within scratchpad. -/
def execCps2s (d a b : Nat) (s : State) : Out :=
  plainCopy { infoCp 41 2 d a b with long := true } .s2s 2 .spad .spad d a b s

/-- CPS2C (R254): Copy from scratchpad into the cluster window. -/
def execCps2c (d a b : Nat) (s : State) : Out :=
  plainCopy { infoCp 41 3 d a b with long := true } .s2c 3 .win .spad d a b s

/-- CPC2S (R254): Copy from the cluster window to scratchpad. -/
def execCpc2s (d a b : Nat) (s : State) : Out :=
  plainCopy { infoCp 41 4 d a b with long := true } .c2s 4 .spad .win d a b s

/-- TLD (R260): Copy a tensor box from global to scratchpad. -/
def execTld (d a b : Nat) (s : State) : Out :=
  tensorCopy { infoTcp 41 5 d a b with long := true } false d a b s

/-- TST (R260): Copy a tensor box from scratchpad to global. -/
def execTst (d a b : Nat) (s : State) : Out :=
  tensorCopy { infoTcp 41 6 d a b with long := true } true d a b s

/-- TSLOT (R262): Fill an operand slot from a tensor view, optionally with scales. -/
def execTslot (n a b : Nat) (sc : Bool) (s : State) : Out :=
  tensorSlot { infoTslot 41 7 n a b sc with long := true } n a b sc s

/-- CPCLOSE (R257): Close the open copy batch. -/
def execCpclose (s : State) : Out :=
  copyClose (infoENone 41 8) s

/-- WAITC (R258): Wait until an outstanding-operation counter is at most N. -/
def execWaitc (n cls : Nat) (s : State) : Out :=
  waitCount { infoWaitc 41 9 n cls with long := true } n cls s

/-- CPRING (R259): Close the batch and bind it to a copy completion ring. -/
def execCpring (a : Nat) (s : State) : Out :=
  copyRing (infoE1 41 10 a) a s

/-- COPY_GRANULE (R255): The copy engine reads and writes one 256-byte granule. -/
def execCopyGranule (copy granule : Nat) (s : State) : Out :=
  .next (copyGranule copy granule s)

/-- COPY_BATCH_COMPLETE (R257): A closed batch completes and retires into the copy counter. -/
def execCopyBatchComplete (batch : Nat) (s : State) : Out :=
  .next (copyBatchComplete batch s)

/-- COPY_RING_ADVANCE (R259): The copy engine advances a bound ring's write slot, waiting if full. -/
def execCopyRingAdvance (batch : Nat) (s : State) : Out :=
  .next (copyRingAdvance batch s)

end Sys2Proof.Machine
end

