-- ==== Sys2Proof/Machine/Queues.lean ====
section
/-!
DEFINITION. Sys2Proof/Machine/Queues.lean: the QUE group (14 R296-R315): scratchpad queues, channels, memory rings, copy
completion rings; and jinc (16 R348).
-/

namespace Sys2Proof.Machine

/-! ### Scratchpad queues (14 R299-R305) -/

/-- A queue's control word. -/
structure QWord where
  base : Nat
  depth : Nat
  elem : Nat
  head : Nat
  count : Nat
  allow : Nat
  deriving DecidableEq, Repr

/-- Offset of a declared queue's control word. -/
def Crew.qoff (cr : Crew) (q : Nat) : Option Nat :=
  if bit cr.hdr.qmask q then (cr.hdr.qtab[q]?).map (·.off) else none

/-- The control word at an offset. -/
def State.qword (s : State) (cr : Crew) (off : Nat) : QWord :=
  let x := s.crewNat cr off 16
  { base := bitsOf x 0 32, depth := bitsOf x 32 16, elem := bitsOf x 48 9, head := bitsOf x 64 16, count := bitsOf x 80 16,
    allow := bitsOf x 96 32 }

/-- HEAD, COUNT and ALLOW written back. -/
def State.setQ (s : State) (cr : Crew) (off : Nat) (w : QWord) : State :=
  s.crewSet cr (off + 8) 8 (w.head + w.count * 2 ^ 16 + w.allow * 2 ^ 32)

/-- Offset of element `i` counted from the oldest. -/
def QWord.elemAt (w : QWord) (i : Nat) : Nat := w.base + (w.head + i) % w.depth * w.elem

/-- Bytes of the crew's allocation with their poison. -/
def State.crewRead (s : State) (cr : Crew) (off n : Nat) : List (Byte × Bool) := (upto n).map fun j => s.spadByte cr (off + j)

/-- Bytes written at an offset, control words left (14 R301). -/
def State.crewWrite (s : State) (cr : Crew) (off : Nat) (bs : List (Byte × Bool)) : State :=
  s.engSpad cr ((List.zip (upto bs.length) bs).map fun e => (off + e.1, e.2))

/-- The reason that a push or a pop fails: 0 for none. -/
def QWord.refuses (w : QWord) (push : Bool) : Nat :=
  if push then (if w.count = w.depth then 1 else if w.allow = 0 then 2 else 0) else if w.count = 0 then 1 else 0

/-- The indivisible step of a push or a pop that succeeds (14 R302, R303). -/
def State.qMove (s : State) (cr : Crew) (off : Nat) (push : Bool) (a : Nat) : State :=
  let w := s.qword cr off
  let s := s.meetCrew cr (if push then a else w.elemAt 0) w.elem
  if push then
    (s.crewWrite cr (w.elemAt w.count) (s.crewRead cr a w.elem)).setQ cr off
      { w with count := w.count + 1, allow := w.allow - 1 }
  else
    (s.crewWrite cr a (s.crewRead cr (w.elemAt 0) w.elem)).setQ cr off
      { w with head := (w.head + 1) % w.depth, count := w.count - 1 }

/-- The waiters of one side of a queue, oldest first. -/
def Crew.qwaiters (cr : Crew) (q : Nat) (push : Bool) : List QWaiter := cr.qwait.filter fun w => w.q == q && w.push == push

/-- Is there a waiter of the queue's side? -/
def Crew.queued (cr : Crew) (q : Nat) (push : Bool) : Bool := !(cr.qwaiters q push).isEmpty

/-- Can a waiter of the queue be served now? It is, before another operation reaches the queue (14 R304). -/
def State.retryDue (s : State) (cr : Crew) (q off : Nat) : Bool :=
  [true, false].any fun push => cr.queued q push && (s.qword cr off).refuses push == 0

/-- The status of a status form in every active thread, and its reason (14 R298). -/
def Cohort.statusRes (c : Cohort) (pS d : Nat) (ok : Bool) (r : Nat) : List RegWrite :=
  (c.actives.map fun t => RegWrite.p t.tid pS ok) ++ [.s d (BitVec.ofNat 64 r)]

/-- The operation of a status form. -/
def statusOp (c : Cohort) (pS d : Nat) (ok : Bool) (r left : Nat) : Op :=
  { id := 0, regsS := dst d, regsP := if pS = 7 then [] else [pS], res := c.statusRes pS d ok r, left := left }

/-- qpush and qpop (14 R302, R303). -/
def queueMove (i : Info) (push : Bool) (q a : Nat) (s : State) : Out :=
  issue i s fun c s =>
    let cr := s.crewOf c
    let sub := if push then 0 else 1
    if !c.guard i.g then .done s
    else match cr.qoff q with
    | none => c.qid q sub
    | some off =>
      let x := c.sr a
      let w := s.qword cr off
      if x.toNat % 4 ≠ 0 then c.all 4 0 (opInfo x sub 1)
      else if x.toInt < 0 ∨ (cr.ssize : Int) < x.toInt + w.elem then c.all 7 0 (opInfo x sub 1)
      else if (push && c.acks != 0) || c.acquiring || s.ownPending c cr.core || s.retryDue cr q off then .hold
      else if cr.queued q push || w.refuses push != 0 then
        let e : QWaiter := { cohort := c.key, tids := c.actives.map (·.tid), q := q, push := push, off := x.toNat }
        .wait (s.onCrew cr.key fun cr => { cr with qwait := cr.qwait ++ [e] }) (.queue q push)
      else .done ((s.qMove cr off push x.toNat).quickOp c.key i.len { id := 0 })

/-- qpushn and qpopn (14 R302, R303). -/
def queueTry (i : Info) (push : Bool) (d q a pS : Nat) (s : State) : Out :=
  issue i s fun c s =>
    let cr := s.crewOf c
    let sub := if push then 2 else 3
    match cr.qoff q with
    | none => c.qid q sub
    | some off =>
      let x := c.sr a
      let w := s.qword cr off
      let r := w.refuses push
      if x.toNat % 4 ≠ 0 then c.all 4 0 (opInfo x sub 1)
      else if x.toInt < 0 ∨ (cr.ssize : Int) < x.toInt + w.elem then c.all 7 0 (opInfo x sub 1)
      else if (push && c.acks != 0) || c.acquiring || s.ownPending c cr.core || s.retryDue cr q off then .hold
      else
        let s := if r = 0 then s.qMove cr off push x.toNat else s.meetCrew cr off 16
        .done (s.quickOp c.key i.len (statusOp c pS d (r == 0) r 0))

/-- QUEUE_WAITER_RETRY: the oldest waiter of a queue's side is tried again (14 R304); served, the threads of its part go on. -/
def queueRetry (k q : Nat) (push : Bool) (s : State) : State :=
  match s.crew k with
  | none => s
  | some cr =>
    match (cr.qwaiters q push).head?, cr.qoff q with
    | some w, some off =>
      if (s.qword cr off).refuses push ≠ 0 ∨ cr.shadow ∨ cr.out.isSome then s
      else
        let s := s.qMove cr off push w.off
        let s := s.onCrew k fun cr => { cr with qwait := cr.qwait.erase w }
        s.onCohort w.cohort fun c =>
          (c.mapT (fun t => w.tids.contains t.tid && decide (t.st = .waiting (.queue q push))) fun t =>
            { t with st := .eligible, pc := t.pc + 4 }).settle
    | _, _ => s

/-- qallow (14 R305). -/
def queueAllow (i : Info) (q a : Nat) (s : State) : Out :=
  issue i s fun c s =>
    let cr := s.crewOf c
    if !c.guard i.g then .done s
    else match cr.qoff q with
    | none => c.qid q 4
    | some off =>
      let w := s.qword cr off
      if s.retryDue cr q off then .hold
      else .done (s.setQ cr off { w with allow := (satInt ((w.allow : Int) + (c.sr a).toInt) 0 (2 ^ 32 - 1)).toNat })

/-- qlen (14 R305). -/
def queueLen (i : Info) (d q : Nat) (s : State) : Out :=
  issue i s fun c s =>
    let cr := s.crewOf c
    if !c.guard i.g then .done s
    else match cr.qoff q with
    | none => c.qid q 5
    | some off =>
      let w := s.qword cr off
      .done ((s.meetCrew cr off 16).onCohort c.key fun c => c.setS d (BitVec.ofNat 64 (w.count + w.allow * 2 ^ 32)))

/-! ### Channels (14 R306-R309) -/

/-- A declared channel of the crew's launch. -/
def State.chan (s : State) (cr : Crew) (n : Nat) : Option Chan := (s.launch cr.launch).bind fun l => l.chans[n]?

/-- The channel word as a number, and a field of it replaced. -/
def State.chWord (s : State) (cr : Crew) (ch : Chan) : Nat := s.crewNat cr ch.ro 16
def State.chRseq (s : State) (cr : Crew) (ch : Chan) : Nat := bitsOf (s.chWord cr ch) 64 16
def State.chSseq (s : State) (cr : Crew) (ch : Chan) : Nat := bitsOf (s.chWord cr ch) 80 16
def State.chCrseq (s : State) (cr : Crew) (ch : Chan) : Nat := bitsOf (s.chWord cr ch) 112 16

/-- Is slot `k` of the receiver full? -/
def State.chFull (s : State) (cr : Crew) (ch : Chan) (k : Nat) : Bool := bit (s.chWord cr ch) k

/-- Standing of a peer of a channel: outside the launch or retired, not placed, or placed. -/
inductive Peer where
  | gone | unplaced | placed
  deriving DecidableEq, Repr

/-- The peer crew index `n` of a launch (14 R307). -/
def State.peer (s : State) (cr : Crew) (n : Int) : Peer :=
  match s.launch cr.launch with
  | none => .gone
  | some l =>
    if n < l.lrec.lo ∨ (l.lrec.hi : Int) ≤ n ∨ l.retired.contains n.toNat then .gone
    else if s.crews.any fun x => x.launch == cr.launch && x.index == n.toNat then .placed else .unplaced

/-- The crew of a launch with an index; one that is being torn down only where no other is placed. -/
def State.crewAt (s : State) (launch index : Nat) : Option Crew :=
  (s.crews.find? fun x => x.launch == launch && x.index == index && !x.torn).or
    (s.crews.find? fun x => x.launch == launch && x.index == index)

/-- The checks of a channel operation on its offset. -/
def chanFault (c : Cohort) (cr : Crew) (ch : Chan) (x : Dword) (sub : Nat) : Option Res :=
  if x.toNat % 16 ≠ 0 then some (c.all 4 0 (opInfo x sub 1))
  else if x.toInt < 0 ∨ (cr.ssize : Int) < x.toInt + ch.ss then some (c.all 7 0 (opInfo x sub 1))
  else none

/-- chsend and chsendn (14 R307); `st` is the status form's destination and predicate. -/
def chanSend (i : Info) (n a : Nat) (st : Option (Nat × Nat)) (s : State) : Out :=
  issue i s fun c s =>
    let cr := s.crewOf c
    let sub := if st.isSome then 8 else 6
    if st.isNone && !c.guard i.g then .done s
    else if cr.spec then .spec
    else match s.chan cr n with
    | none => c.qid n sub
    | some ch =>
      let dest := (cr.index : Int) + ch.delta
      let p := s.peer cr dest
      let credit := decide ((s.chSseq cr ch + 2 ^ 16 - s.chCrseq cr ch) % 2 ^ 16 < ch.sc)
      if p = .gone then c.qid n sub
      else match chanFault c cr ch (c.sr a) sub with
      | some r => r
      | none =>
        if c.acquiring then .hold
        else if p = .unplaced ∨ !credit then
          match st with
          | none => .wait s (.chSend n)
          | some (d, pS) =>
            .done (s.quickOp c.key i.len (statusOp c pS d false (if p = .unplaced then 2 else 1) 0))
        else if c.acks ≠ 0 then .hold
        else
          let op : Op := match st with
            | none => { id := 0, left := 1 }
            | some (d, pS) => statusOp c pS d true 0 1
          let seq := s.chSseq cr ch
          let s := s.meetCrew cr (c.sr a).toNat ch.ss
          let (s, id) := s.startOp c.key i.len op
          let m : Msg := { launch := cr.launch, dest := dest.toNat, chan := n, seq := seq,
                           data := s.crewBytes cr (c.sr a).toNat ch.ss, cohort := c.key, op := id }
          .done (({ s with msgs := s.msgs ++ [m] } : State).crewSet cr (ch.ro + 10) 2 (seq + 1))

/-- CHANNEL_DELIVERY of message number `n`: held while the peer migrates; lost with a peer that is gone (14 R307, R309). -/
def channelDelivery (n : Nat) (s : State) : State :=
  match s.msgs[n]? with
  | none => s
  | some m =>
    let s' : State := { s with msgs := s.msgs.take n ++ s.msgs.drop (n + 1) }
    let fin := fun (s : State) => s.onCohort m.cohort fun c => c.onOp m.op fun o => { o with left := 0 }
    match s.crewAt m.launch m.dest, (s.launch m.launch).bind fun l => l.chans[m.chan]? with
    | some cr, some ch =>
      if cr.migrating then s
      else
        let k := m.seq % ch.sc
        let w := s.crewNat cr ch.ro 8
        fin ((s'.crewPut cr (ch.ro + 16 + k * ch.ss) m.data).crewSet cr ch.ro 8 (if bit w k then w else w + 2 ^ k))
    | _, _ => fin s'

/-- chrecv and chrecvn (14 R308). -/
def chanRecv (i : Info) (n a : Nat) (st : Option (Nat × Nat)) (s : State) : Out :=
  issue i s fun c s =>
    let cr := s.crewOf c
    let sub := if st.isSome then 9 else 7
    if st.isNone && !c.guard i.g then .done s
    else if cr.spec then .spec
    else match s.chan cr n with
    | none => c.qid n sub
    | some ch =>
      let src := (cr.index : Int) - ch.delta
      let p := s.peer cr src
      if p = .gone ∧ s.crewNat cr ch.ro 8 = 0 then c.qid n sub
      else match chanFault c cr ch (c.sr a) sub with
      | some r => r
      | none =>
        let q := s.chRseq cr ch
        let k := q % ch.sc
        if c.acquiring || s.ownPending c cr.core then .hold
        else if !(s.chFull cr ch k) then
          match st with
          | none => .wait s (.chRecv n)
          | some (d, pS) =>
            .done (s.quickOp c.key i.len (statusOp c pS d false (if p = .unplaced then 2 else 1) 0))
        else
          let w := s.crewNat cr ch.ro 8
          let s := s.meetCrew cr (ch.ro + 16 + k * ch.ss) ch.ss
          let s := s.crewWrite cr (c.sr a).toNat (s.crewRead cr (ch.ro + 16 + k * ch.ss) ch.ss)
          let s := (s.crewSet cr ch.ro 8 (w - 2 ^ k)).crewSet cr (ch.ro + 8) 2 (q + 1)
          let s : State := { s with credits := s.credits ++
            (if src < 0 then [] else
              [({ launch := cr.launch, dest := src.toNat, chan := n, value := (q + 1) % 2 ^ 16 } : Credit)]) }
          .done ((s.flash cr.core).quickOp c.key i.len (match st with
            | none => { id := 0 }
            | some (d, pS) => statusOp c pS d true 0 0))

/-- CREDIT_PACKET number `n` reaches its sender; an older credit is ignored (14 R308, R309). -/
def creditPacket (n : Nat) (s : State) : State :=
  match s.credits[n]? with
  | none => s
  | some m =>
    let s' : State := { s with credits := s.credits.take n ++ s.credits.drop (n + 1) }
    match s.crewAt m.launch m.dest, (s.launch m.launch).bind fun l => l.chans[m.chan]? with
    | some cr, some ch =>
      if cr.migrating then s
      else if (m.value + 2 ^ 16 - s.chCrseq cr ch) % 2 ^ 16 < 2 ^ 15 then s'.crewSet cr (ch.ro + 14) 2 m.value
      else s'
    | _, _ => s'

/-! ### Memory rings (14 R310, R311) -/

/-- The page of a ring block and its physical address, with both R and W required. -/
def State.ringPage (s : State) (cr : Crew) (va : Nat) : Except Nat (Nat × Nat × Nat) :=
  match s.translate cr.core cr.jd va .read, s.translate cr.core cr.jd va .atomic with
  | .ok pa, .ok _ => match s.leafOf cr.core cr.jd va with
    | some l => .ok (pa, l.ppage, l.size)
    | none => .error 5
  | .error e, _ => .error e
  | _, .error e => .error e

/-- renq and rdeq as they issue; renq has waited for the cohort's stores when it looks for poison. -/
def ringIssue (i : Info) (push : Bool) (d a pS : Nat) (s : State) : Out :=
  issue i s fun c s =>
    let cr := s.crewOf c
    let x := c.sr a
    if cr.spec then .spec
    else if x.toNat % 64 ≠ 0 then c.all 4 0 (opInfo x (if push then 10 else 11) 1)
    else match s.ringPage cr x.toNat with
    | .error e => c.all e 3 x.toNat
    | .ok (pa, page, size) =>
      if (push && c.acks != 0) || c.acquiring || decide (4095 ≤ c.acks) then .hold
      else match s.ringPoison push pa page size with
      | some a => c.all 12 0 (x.toNat + (a - pa) / 8 * 8)
      | none =>
      let pages := [x.toNat / 65536 * 65536]
      if s.missHeld cr.core cr.jd pages then .held (s.startWalks cr.core cr.jd pages)
      else
        let s := s.useTlb cr.core cr.jd pages
        let (s, id) := s.startOp c.key i.len
          { id := 0, load := !push, regsS := if push then [] else dst d, regsP := if pS = 7 then [] else [pS],
            res := c.actives.map (fun t => .p t.tid pS false), left := 1, acq := if push then 0 else 4 }
        .done (s.send c cr.core id .glob pa (.ring push (c.sr d) (page, size) x.toNat pS d) [] true)

/-! ### Copy completion rings (14 R314) -/

/-- rawait and rrel. -/
def ringObject (i : Info) (sub a : Nat) (s : State) (f : Cohort → Crew → CRing → State → Res) : Out :=
  issue i s fun c s =>
    let cr := s.crewOf c
    if !c.guard i.g then .done s
    else match objFault c cr (c.sr a) sub 1 with
    | some r => r
    | none =>
      let r := s.cring cr (c.sr a).toNat
      if r.bad then c.qid 0 sub else f c cr r s

/-- rawait: waits for a filled slot and gives its offset. -/
def rawait (i : Info) (d a : Nat) (s : State) : Out :=
  ringObject i 12 a s fun c cr r s =>
    if s.ownPending c cr.core then .hold
    else if r.fill = 0 then .wait s (.ring (c.sr a).toNat)
    else .done ((s.meetCrew cr (c.sr a).toNat 16).quickOp c.key i.len
      { id := 0, regsS := dst d, res := [.s d (BitVec.ofNat 64 (r.rseq % r.nslot * r.slotsz))] })

/-- rrel: releases a slot. -/
def rrel (i : Info) (a : Nat) (s : State) : Out :=
  ringObject i 13 a s fun c cr r s =>
    if s.ownPending c cr.core then .hold
    else
      let s := s.meetCrew cr (c.sr a).toNat 16
      let s := if r.fill = 0 then s else s.crewSet cr ((c.sr a).toNat + 4) 4 (r.rseq + 1)
      .done (s.quickOp c.key i.len { id := 0 })

/-! ### jinc (16 R348) -/

/-- jinc sends its packet once the ack counter is 0. -/
def jinc (i : Info) (a : Nat) (s : State) : Out :=
  issue i s fun c s =>
    let cr := s.crewOf c
    if !c.guard i.g then .done s
    else if cr.spec then .spec
    else if c.acks ≠ 0 then .hold
    else
      let x := (c.sr a).toNat
      .done (s.send c cr.core 0 .unit 0 (.joinAdd (x / 2 ^ 16) (sextNat 16 x)) [] true)

/-- QPUSH (R302): Append an element to a scratchpad queue, waiting if full or no allowance. -/
def execQpush (n a g : Nat) (s : State) : Out :=
  queueMove { infoQa 43 0 1 n a g with long := true } true n a s

/-- QPOP (R303): Remove the oldest queue element, waiting if empty. -/
def execQpop (n a g : Nat) (s : State) : Out :=
  queueMove { infoQa 43 1 1 n a g with long := true } false n a s

/-- QPUSHN (R302): Non-waiting queue append with status. -/
def execQpushn (d n a g : Nat) (s : State) : Out :=
  queueTry { infoQda 43 2 0 d n a g with long := true, g := 7, ps := [g] } true d n a g s

/-- QPOPN (R303): Non-waiting queue pop with status. -/
def execQpopn (d n a g : Nat) (s : State) : Out :=
  queueTry { infoQda 43 3 0 d n a g with long := true, g := 7, ps := [g] } false d n a g s

/-- QALLOW (R305): Add a signed amount to the queue's send allowance. -/
def execQallow (n a g : Nat) (s : State) : Out :=
  queueAllow (infoQa 43 4 0 n a g) n a s

/-- QLEN (R305): Read queue COUNT and ALLOW. -/
def execQlen (d n g : Nat) (s : State) : Out :=
  queueLen (infoQlen 43 5 0 d n g) d n s

/-- CHSEND (R307): Send a message on a channel, waiting for peer and credit. -/
def execChsend (n a g : Nat) (s : State) : Out :=
  chanSend { infoCha 43 6 1 n a g with long := true } n a none s

/-- CHRECV (R308): Receive the next channel message, waiting for it. -/
def execChrecv (n a g : Nat) (s : State) : Out :=
  chanRecv { infoCha 43 7 1 n a g with long := true } n a none s

/-- CHSENDN (R307): Non-waiting channel send with status. -/
def execChsendn (d n a g : Nat) (s : State) : Out :=
  chanSend { infoChda 43 8 0 d n a g with long := true, g := 7, ps := [g] } n a (some (d, g)) s

/-- CHRECVN (R308): Non-waiting channel receive with status. -/
def execChrecvn (d n a g : Nat) (s : State) : Out :=
  chanRecv { infoChda 43 9 0 d n a g with long := true, g := 7, ps := [g] } n a (some (d, g)) s

/-- RENQ (R311): Enqueue a value into a memory ring at its home slice. -/
def execRenq (d a g : Nat) (s : State) : Out :=
  ringIssue { infoRenq 43 10 0 d a g with long := true, g := 7, ps := [g] } true d a g s

/-- RDEQ (R311): Dequeue a value from a memory ring at its home slice. -/
def execRdeq (d a g : Nat) (s : State) : Out :=
  ringIssue { infoRdeq 43 11 0 d a g with long := true, g := 7, ps := [g] } false d a g s

/-- RAWAIT (R314): Wait for a filled copy completion ring slot. -/
def execRawait (d a g : Nat) (s : State) : Out :=
  rawait { infoRdeq 43 12 1 d a g with long := true } d a s

/-- RREL (R314): Release a copy completion ring slot. -/
def execRrel (a g : Nat) (s : State) : Out :=
  rrel { infoRrel 43 13 0 a g with long := true } a s

/-- JINC (R348): Add to a join counter. -/
def execJinc (a g : Nat) (s : State) : Out :=
  jinc (infoRrel 44 4 0 a g) a s

/-- QUEUE_WAITER_RETRY (R304): A waiting qpush or qpop is retried when its queue's control word changes. -/
def execQueueWaiterRetry (crew q : Nat) (push : Bool) (s : State) : Out :=
  .next (queueRetry crew q push s)

/-- CHANNEL_DELIVERY (R307): A message is written into the peer's slot and its FULLMAP bit set. -/
def execChannelDelivery (n : Nat) (s : State) : Out :=
  .next (channelDelivery n s)

/-- CREDIT_PACKET (R308): A receiver's credit reaches the sender and updates CRSEQ. -/
def execCreditPacket (n : Nat) (s : State) : Out :=
  .next (creditPacket n s)

end Sys2Proof.Machine
end

