-- ==== Sys2Proof/Machine/Matrix.lean ====
section
/-!
DEFINITION. Sys2Proof/Machine/Matrix.lean: the matrix group MTX (08) with its arithmetic (04 R91-R93, R98-R102), the streams
that its operations form (08 R173), and matrix-start admission (21 R430).
-/

namespace Sys2Proof.Machine

/-! ### Operands and one element (04 R98-R102) -/

/-- The value of an operand element by format code (16 R333). -/
def elemVal (fmt x : Nat) : FVal :=
  let int := fun (n : Nat) => let v := sextNat n x
    FVal.fin (decide (v < 0)) v.natAbs 0
  if fmt = 1 then e2m1.val x else if fmt = 2 then e4m3.val x else if fmt = 3 then e5m2.val x
  else if fmt = 4 then bf16.val x else if fmt = 5 then fp16.val x else if fmt = 6 then int 8 else int 4

/-- Element `k` of DATA row `r` (08 R164). -/
def Slot.elem (z : Slot) (fmt r k : Nat) : FVal :=
  let b := elemBits fmt
  let byte := fun (j : Nat) => (Tab.read 0 z.data (256 * r + j)).toNat
  elemVal fmt (if b = 4 then byte (k / 2) / 2 ^ (4 * (k % 2)) % 16 else if b = 8 then byte k
    else byte (2 * k) + 256 * byte (2 * k + 1))

/-- Block scale of element `k` of row `r`. -/
def Slot.scale (z : Slot) (r k : Nat) : X := e3m5 (Tab.read 0x80 z.side (64 * r + k / 8)).toNat

/-- One term: the element values and the scales. -/
structure Term where
  a : FVal
  b : FVal
  sc : X
  deriving DecidableEq, Repr

/-- The factors of a term that may be special, and whether any factor is zero. -/
def Term.zero (t : Term) (bands : List FVal) : Bool := t.a.isZero || t.b.isZero || t.sc.n == 0 || bands.any (·.isZero)
def Term.inf (t : Term) (bands : List FVal) : Bool := t.a.isInf || t.b.isInf || bands.any (·.isInf)
def Term.nan (t : Term) (bands : List FVal) : Bool :=
  t.a.isNan || t.b.isNan || bands.any (·.isNan) || (t.inf bands && t.zero bands)
/-- Sign of a term. -/
def Term.neg (t : Term) (bands : List FVal) : Bool := (t.a :: t.b :: bands).foldl (fun s v => s != v.negQ) false
/-- p(k), exact, before the band scales. -/
def Term.p (t : Term) : X := (t.a.x.mul t.b.x).mul t.sc

/-- Truncation toward zero to a multiple of 2^k. -/
def X.truncTo (x : X) (k : Int) : X :=
  let q := (X.mk x.n.natAbs (x.e - k) x.d).floor
  ⟨if x.n < 0 then -q else q, k, 1⟩

/-- The sum of the terms: exact, or in the 96-bit window of 16-bit operands (04 R99, R100). -/
def termSum (window : Bool) (ts : List Term) : X :=
  let ps := (ts.map (·.p)).filter fun p => p.n != 0
  if window then
    match ps with
    | [] => X.ofInt 0
    | p :: r =>
      let e := r.foldl (fun m q => if m < q.log2 then q.log2 else m) p.log2
      X.sum (ps.map fun q => q.truncTo (e - 87))
  else X.sum ps

/-- Sticky bits of %mstat (03 R83). -/
def mSat : BitVec 3 := 1
def mOf : BitVec 3 := 2
def mIv : BitVec 3 := 4

/-- An FP32-accumulated element (04 R99-R101). -/
def floatElem (window : Bool) (ts : List Term) (bands : List FVal) (c : Nat) : Nat × BitVec 3 :=
  let cv := fp32.val c
  let infs := (ts.filter fun t => t.inf bands).map (·.neg bands) ++ (if cv.isInf then [cv.negQ] else [])
  if ts.any (·.nan bands) || cv.isNan || (infs.contains true && infs.contains false) then (fp32.nan, mIv)
  else match infs with
    | n :: _ => ((fp32.infRes n).1, 0)
    | [] =>
      let t := bands.foldl (fun x b => x.mul b.x) (termSum window ts)
      let sum := cv.x.add t
      if sum.n = 0 then ((fp32.zeroRes (cv.negQ && ts.all fun t => t.zero bands && t.neg bands)).1, 0)
      else
        let r := fp32.round .ne sum
        (r.1, if (fp32.val r.1).isInf then mOf else 0)

/-- An INT32-accumulated element (04 R99). -/
def intElem (ts : List Term) (c : Nat) : Nat × BitVec 3 :=
  let v := sextNat 32 c + (ts.map fun t => t.p.floor).sum
  let w := satInt v (-2147483648) 2147483647
  ((BitVec.ofInt 32 w).toNat, if w = v then 0 else mSat)

/-- Element (i, j) of a product (08 R178). -/
def mmaElem (fs : Nat) (za zb : Slot) (i j c : Nat) : Nat × BitVec 3 :=
  let fa := bitsOf fs 12 4
  let fb := bitsOf fs 8 4
  let scaled := bit fs 5
  let one := X.ofInt 1
  let ts := (upto (2048 / elemBits fa)).map fun k =>
    ({ a := za.elem fa i k, b := zb.elem fb j k, sc := if scaled then (za.scale i k).mul (zb.scale j k) else one } : Term)
  let bands := if bit fs 4 then [bf16.val za.band, bf16.val zb.band] else []
  if bitsOf fs 6 2 = 1 then intElem ts c else floatElem (elemBits fa == 16) ts bands c

/-- Does a product of format slot value `fs` read byte `j` of a slot that holds operand format `fmt`: DATA whole; of each SIDE row
the bytes of its K elements where it is scaled; BAND where it is banded (08 R178, 04 R92)? -/
def slotReads (fs fmt j : Nat) : Bool :=
  if j < 8192 then true
  else if j < 10240 then bit fs 5 && decide ((j - 8192) % 64 < 256 / elemBits fmt)
  else bit fs 4

/-- Is a byte that row `r` of a product reads poisoned (08 R187)? -/
def Slot.rowBad (z : Slot) (fs fmt r : Nat) : Bool :=
  z.poison.any fun e => slotReads fs fmt e.1 &&
    (if e.1 < 8192 then e.1 / 256 == r else if e.1 < 10240 then (e.1 - 8192) / 64 == r else true)

/-- A table of numbered values without those equal to `d`. -/
def tabOf {α : Type} [DecidableEq α] (d : α) (l : List α) : Tab α :=
  (List.zip (upto l.length) l).filter fun e => decide (e.2 ≠ d)

/-- The tile that a product leaves, and its sticky bits. -/
def mmaTile (fs : Nat) (za zb : Slot) (old : Option Tile) (owner : Nat) : Tile × BitVec 3 :=
  let rs := (upto 1024).map fun n =>
    let c := match old with
      | some t => (Tab.read 0 t.words n).toNat
      | none => 0
    let po := za.rowBad fs (bitsOf fs 12 4) (n / 32) || zb.rowBad fs (bitsOf fs 8 4) (n % 32) || match old with
      | some t => Tab.read false t.poison n
      | none => false
    (mmaElem fs za zb (n / 32) (n % 32) c, po)
  ({ words := tabOf 0 (rs.map fun r => BitVec.ofNat 32 r.1.1), owner := owner, poison := tabOf false (rs.map (·.2)) },
   rs.foldl (fun m r => m ||| r.1.2) 0)

/-- One word rescaled (08 R183). An exact zero has the sign of the factors' signs together, an integer 0 counting as positive, where
the spec is silent (notes/assumptions/79.md). -/
def scaleWord (mode w f : Nat) : Nat × BitVec 3 :=
  let wv := if mode = 1 then (let v := sextNat 32 w
    FVal.fin (decide (v < 0)) v.natAbs 0) else fp32.val w
  let fv := fp32.val f
  let bad := wv.isNan || fv.isNan || (wv.isInf && fv.isZero) || (wv.isZero && fv.isInf)
  let neg := wv.negQ != fv.negQ
  if mode = 2 then
    if bad then (0, mSat)
    else
      let v := if wv.isInf || fv.isInf then (if neg then -(2 ^ 40) else 2 ^ 40) else (wv.x.mul fv.x).toInt (some .ne)
      let r := satInt v (-2147483648) 2147483647
      ((BitVec.ofInt 32 r).toNat, if r = v then 0 else mSat)
  else if bad then (fp32.nan, mIv)
  else if wv.isInf || fv.isInf then ((fp32.infRes neg).1, 0)
  else if wv.isZero || fv.isZero then ((fp32.zeroRes neg).1, 0)
  else
    let r := fp32.round .ne (wv.x.mul fv.x)
    (r.1, if (fp32.val r.1).isInf then mOf else 0)

/-! ### Slots, tiles and names -/

/-- A slot and a tile of a cohort's sub-core. -/
def State.slot (s : State) (core sub n : Nat) : Slot := Tab.read {} s.slots (unitIx core sub n)
def State.setSlot (s : State) (core sub n : Nat) (z : Slot) : State :=
  { s with slots := Tab.put {} s.slots (unitIx core sub n) z }
def State.tile (s : State) (core sub n : Nat) : Tile := Tab.read {} s.tiles (unitIx core sub n)
def State.setTile (s : State) (core sub n : Nat) (t : Tile) : State :=
  { s with tiles := Tab.put {} s.tiles (unitIx core sub n) t }

/-- Bytes `js` of a slot, or words `ws` of a tile, are written: the protected words of 8 bytes among them lose their errors. -/
def State.slotWritten (s : State) (core sub n : Nat) (js : List Nat) : State :=
  s.rewrite ((distinct (js.map (· / 8))).filterMap fun w =>
    if w = 1280 ∨ (upto 8).all fun j => js.contains (8 * w + j) then some (.slot (unitIx core sub n) w) else none)
def State.tileWritten (s : State) (core sub n : Nat) (ws : List Nat) : State :=
  s.rewrite ((distinct (ws.map (· / 2))).filterMap fun w =>
    if ws.contains (2 * w) && ws.contains (2 * w + 1) then some (.tile (unitIx core sub n) w) else none)

/-- A tile written whole. -/
def State.newTile (s : State) (core sub n : Nat) (t : Tile) : State :=
  (s.rewrite ((upto 512).map (.tile (unitIx core sub n)))).setTile core sub n t

/-- The tile bound to a name. -/
def Cohort.tileOf (c : Cohort) (n : Nat) : Option Nat :=
  match Tab.read 0 c.acc n with
  | 0 => none
  | t + 1 => some t

/-- Is the name bound, as the operations of the stream leave it (08 R169, R173)? -/
def Cohort.bound (c : Cohort) (n : Nat) : Bool :=
  c.stream.foldl (fun b m => match m.kind with
    | .mmaz a _ _ _ | .accz a | .accld a _ _ | .accwr a _ => if a = n then true else b
    | .accst a _ _ _ keep => if a = n && !keep then false else b
    | _ => b) (c.tileOf n).isSome

/-- Does the cohort own the slot, as the operations of the stream leave it (08 R167, R173)? -/
def State.owns (s : State) (c : Cohort) (n : Nat) : Bool :=
  c.stream.foldl (fun b m => match m.kind with
    | .oclaim a => if a = n then true else b
    | .orel a => if a = n then false else b
    | _ => b) ((s.slot (s.crewOf c).core c.sub n).owner == c.key)

/-! ### Issue and signing (08 R171, R176) -/

/-- Does the thread belong to the signature when the active threads sign? -/
def signsWith (cv : Nat) (t : Thread) : Bool := decide (t.st ≠ .exited) && (t.act || t.cv.getLsbD cv)

/-- The active threads sign and become signed at the word. -/
def Cohort.signMtx (c : Cohort) (cv : Nat) : Cohort :=
  let here := BitVec.ofNat 64 c.pc
  let d := c.mapT (·.act) fun t => { t with st := .signed cv, act := false, cv := t.cv ||| (1#7 <<< cv) }
  if (d.sig cv).isSome then d else { d with sigs := d.sigs ++ [⟨cv, here, false⟩] }

/-- A complete signature: its threads issue together and their bits clear. -/
def Cohort.gather (c : Cohort) (cv : Nat) : Cohort :=
  { c with sigs := c.sigs.filter (fun g => g.cv != cv), threads := c.threads.map fun t =>
      if signsWith cv t then { t with st := .eligible, act := true, cv := t.cv &&& ~~~ (1#7 <<< cv) } else t }

/-- The operation joins the stream; its op is long-latency and counts in the matrix counter (08 R171, R172). -/
def State.joinStream (s : State) (c : Cohort) (i : Info) (kind : MtxKind) : State :=
  let r := s.startOp c.key i.len { id := 0, left := 1, cls := .mtx, regsV := i.vd }
  r.1.onCohort c.key fun c => { c with stream := c.stream ++ [{ op := r.2, kind := kind }] }

/-! ### What an operation reads (08 R178-R187) -/

/-- The slots that it reads, each with the bytes. -/
def MtxKind.slotsRead : MtxKind → List (Nat × (Nat → Bool))
  | .mma _ a b fs | .mmaz _ a b fs => [(a, slotReads fs (bitsOf fs 12 4)), (b, slotReads fs (bitsOf fs 8 4))]
  | _ => []

/-- The name whose tile it reads, with the words. -/
def MtxKind.tileRead : MtxKind → Option (Nat × (Nat → Bool))
  | .mma n .. | .accst n .. | .accscl n .. => some (n, fun _ => true)
  | .accrd n _ ix => some (n, fun k => ix.any fun e => e.2 == k)
  | _ => none

/-- The scratchpad rows that it reads: base, stride, rows, bytes of a row. -/
def MtxKind.rowsRead : MtxKind → Option (Nat × Nat × Nat × Nat)
  | .accld _ a d => some (a, d, 32, 128)
  | .oload _ part a d => some (a, d, if part = 2 then 1 else 32, if part = 0 then 256 else if part = 1 then 64 else 2)
  | _ => none

/-- Does it write byte `j` of slot `n`? A claim clears the slot of another crew. -/
def MtxKind.putsSlot (k : MtxKind) (clears : Bool) (n j : Nat) : Bool :=
  match k with
  | .oclaim a => a == n && clears
  | .oload a part _ _ => a == n && part == (if j < 8192 then 0 else if j < 10240 then 1 else 2)
  | _ => false

/-- Does it write word `w` of the tile of name `n`, or leave the name without that tile? -/
def MtxKind.putsTile (k : MtxKind) (n w : Nat) : Bool :=
  match k with
  | .mma a .. | .mmaz a .. | .accz a | .accld a .. | .accscl a .. => a == n
  | .accst a _ _ _ keep => a == n && !keep
  | .accwr a vals => a == n && vals.any fun e => e.2.1 == w
  | _ => false

/-- Does the operation read byte `j` of slot `n` as it stands, with no operation of `before` writing it first? -/
def State.readsSlot (s : State) (c : Cohort) (before : List MtxOp) (k : MtxKind) (n j : Nat) : Bool :=
  (k.slotsRead.any fun e => e.1 == n && e.2 j) &&
  !(before.any fun m => m.kind.putsSlot (decide ((Tab.read {} s.slots (unitIx (s.crewOf c).core c.sub n)).lastCrew ≠ c.crew)) n j)

/-- And word `w` of the tile? -/
def Cohort.readsTile (before : List MtxOp) (k : MtxKind) (w : Nat) : Bool :=
  k.tileRead.any fun e => e.2 w && !(before.any fun m => m.kind.putsTile e.1 w)

/-- The tile of the name that it reads. -/
def MtxKind.tileIx (k : MtxKind) (c : Cohort) : Option Nat := k.tileRead.bind fun e => c.tileOf e.1

/-- POISON of scratchpad words that a transfer reads (10 R234): of those marked poisoned as it issues; an error that no read has met is
found when the operation reads the word, and poisons what it produces (08 R187). -/
def State.rowsPoison (s : State) (cr : Crew) (a d rows bytes : Nat) : Option Nat :=
  if s.sPoison = [] then none
  else
    let b := s.spadBase cr.core + cr.sbase
    let os := (upto rows).flatMap fun r => (upto bytes).map (a + r * d + ·)
    (os.find? fun o => Tab.read false s.sPoison ((b + o) / 4)).map fun o => (b + o) / 4 * 4 - b

/-- %tinfo of the poison that an operation reads, in slots, the tile or scratchpad, after the operations `before` it (08 R187, 09
R193). -/
def State.mtxPoison (s : State) (c : Cohort) (before : List MtxOp) (k : MtxKind) : Option Nat :=
  let core := (s.crewOf c).core
  let slotBad := fun (e : Nat × (Nat → Bool)) => (s.slot core c.sub e.1).poison.any fun p => s.readsSlot c before k e.1 p.1
  let tileBad := fun (t : Nat) => (s.tile core c.sub t).poison.any fun p => Cohort.readsTile before k p.1
  ((k.slotsRead.find? slotBad).map fun e => 2 ^ 63 + 3 * 256 + e.1).or
    ((((k.tileIx c).filter tileBad).map fun t => 2 ^ 63 + 2 * 256 + t).or
      (k.rowsRead.bind fun r => s.rowsPoison (s.crewOf c) r.1 r.2.1 r.2.2.1 r.2.2.2))

/-- The errors of the words that an operation reads are met (10 R233). -/
def State.mtxMeet (s : State) (c : Cohort) (before : List MtxOp) (k : MtxKind) : State :=
  let cr := s.crewOf c
  let hit := fun (x : Site) => match x with
    | .slot u w => k.slotsRead.any fun e => unitIx cr.core c.sub e.1 == u && s.readsSlot c before k e.1 (8 * w)
    | .tile u w => (k.tileIx c).any (fun t => unitIx cr.core c.sub t == u) &&
        (Cohort.readsTile before k (2 * w) || Cohort.readsTile before k (2 * w + 1))
    | .spad _ => k.rowsRead.any fun r =>
        (upto r.2.2.1).any fun i => (s.sites (.spad cr.core) (cr.sbase + r.1 + i * r.2.1) r.2.2.2).contains x
    | _ => false
  s.meet ((s.latent.map (·.1)).filter hit)

/-- Is a protected word a scalar register? -/
def Site.isScalar : Site → Bool
  | .sreg _ _ => true
  | _ => false

/-- THE ISSUE of an MTX operation: signing or CV = 7, and for the threads that issue together the hold of a full matrix counter
(20 R409), its checks in order, poison in what it reads, and its place in the stream. An uncorrectable error of a scalar register is found as it
issues; one of a vector register poisons the element that takes the word (08 R187). -/
def mtx (i : Info) (sub cv : Nat) (s : State) (check : Cohort → State → Option (Nat × Nat))
    (kind : Cohort → State → MtxKind) : Out :=
  issue i s fun c s =>
    let go := fun (s : State) (signed : Bool) =>
      let c' := (s.cohort c.key).getD c
      if 63 ≤ c'.count .mtx then Res.hold
      else match check c' s with
      | some (code, info) => .faultIn s (c'.actives.map fun t => ⟨t.tid, code, 0, info, 0⟩)
      | none =>
        let s := s.meet ((c'.regSites i).filter Site.isScalar)
        let c' := (s.cohort c.key).getD c'
        let bad := match s.mtxPoison c' c'.stream (kind c' s) with
          | some info => c'.actives.map fun t => ⟨t.tid, 12, 0, info, 0⟩
          | none => []
        match c'.badRegs i ++ bad with
        | l :: ls => .faultIn s (l :: ls)
        | [] =>
          let s := s.meet (c'.regSites i)
          let c' := (s.cohort c.key).getD c'
          let s := s.joinStream c' i (kind c' s)
          if signed then
            .moved (s.onCohort c.key fun c => c.mapT (·.act) fun t =>
              { t with act := false, pc := BitVec.ofNat 64 (t.pc.toNat + 4 * i.len) }) (endRun := false)
          else .done s
    if cv = 7 then
      if c.live.length ≠ c.actives.length then c.conv 7 sub 42 else go s false
    else if (c.sig cv).any fun g => g.pc != BitVec.ofNat 64 c.pc then c.conv cv sub 42
    else if c.live.all (signsWith cv) then go (s.onCohort c.key fun c => c.gather cv) true
    else .done (s.onCohort c.key fun c => c.signMtx cv)

/-- SLOT of a slot or of a name (08 R167, R169). -/
def slotFault (n sub : Nat) : Option (Nat × Nat) := some (14, n + sub * 256)

/-- mma and mmaz (08 R178). -/
def mma (i : Info) (z : Bool) (n sa sb fs cv : Nat) (s : State) : Out :=
  let sub := if z then 1 else 0
  let slotOf : Cohort → State → Nat := fun c s =>
    match s.launch (s.crewOf c).launch with
    | some l => l.lrec.fs.getD fs 0
    | none => 0
  mtx i sub cv s (fun c s =>
    if slotOf c s = 0 then some (16, fs + sub * 256)
    else if !(s.owns c sa) then slotFault sa sub
    else if !(s.owns c sb) then slotFault sb sub
    else if !z && !(c.bound n) then slotFault (16 + n) sub
    else none)
    fun c s => if z then .mmaz n sa sb (slotOf c s) else .mma n sa sb (slotOf c s)

/-- accz (08 R179). -/
def accz (i : Info) (n cv : Nat) (s : State) : Out := mtx i 2 cv s (fun _ _ => none) fun _ _ => .accz n

/-- Base of a matrix transfer: sA as signed plus the immediate (08 R180). -/
def xbase (c : Cohort) (xa : Nat) (imm : BitVec 20) : Int := (c.sr xa).toInt + imm.toInt
/-- Its stride. -/
def xstride (c : Cohort) (xb : Nat) : Nat := (c.sr xb).toNat % 2 ^ 32

/-- ALIGN, then RANGE, of a transfer of rows (08 R180, R186; 09 R193). -/
def rowsFault (c : Cohort) (cr : Crew) (sub xa xb : Nat) (imm : BitVec 20) (rows bytes al : Nat) : Option (Nat × Nat) :=
  let a := xbase c xa imm
  let d := if rows = 1 then 0 else xstride c xb
  let info := fun (x : Int) (f : Nat) => opInfo (BitVec.ofInt 64 x) sub f
  if a % (al : Int) ≠ 0 then some (4, info a 1)
  else if d % al ≠ 0 then some (4, info d 2)
  else if a < 0 ∨ (cr.ssize : Int) < a + ((rows - 1) * d + bytes : Nat) then some (7, info a 1)
  else none

/-- accst (08 R180). -/
def accst (i : Info) (n out : Nat) (keep : Bool) (cv xa xb : Nat) (imm : BitVec 20) (s : State) : Out :=
  mtx i 3 cv s (fun c s =>
    if !(c.bound n) then slotFault (16 + n) 3
    else rowsFault c (s.crewOf c) 3 xa xb imm 32 (if out = 0 then 128 else 64) 4)
    fun c _ => .accst n (xbase c xa imm).toNat (xstride c xb) out keep

/-- accld (08 R181). -/
def accld (i : Info) (n cv xa xb : Nat) (imm : BitVec 20) (s : State) : Out :=
  mtx i 4 cv s (fun c s => rowsFault c (s.crewOf c) 4 xa xb imm 32 128 4)
    fun c _ => .accld n (xbase c xa imm).toNat (xstride c xb)

/-- The element index of each lane that holds a non-exited thread (08 R182). -/
def Cohort.elemIx (c : Cohort) (xa : Nat) (imm : BitVec 20) : List (Thread × Nat) :=
  c.live.map fun t => (t, ((xbase c xa imm + (t.lane : Nat)) % 1024).toNat)

/-- accrd (08 R182). -/
def accrd (i : Info) (n r cv xa : Nat) (imm : BitVec 20) (s : State) : Out :=
  mtx i 5 cv s (fun c _ => if !(c.bound n) then slotFault (16 + n) 5 else none)
    fun c _ => .accrd n r ((c.elemIx xa imm).map fun e => (e.1.tid, e.2))

/-- accwr (08 R182). -/
def accwr (i : Info) (n r cv xa : Nat) (imm : BitVec 20) (s : State) : Out :=
  mtx i 6 cv s (fun _ _ => none)
    fun c _ => .accwr n ((c.elemIx xa imm).map fun e => (e.1.tid, e.2, e.1.vr r, Tab.read false e.1.vPoison r))

/-- oclaim (08 R184). -/
def oclaim (i : Info) (n cv : Nat) (s : State) : Out := mtx i 7 cv s (fun _ _ => none) fun _ _ => .oclaim n

/-- orel (08 R185). -/
def orel (i : Info) (n cv : Nat) (s : State) : Out :=
  mtx i 8 cv s (fun c s => if s.owns c n then none else slotFault n 8) fun _ _ => .orel n

/-- oload of a part: 0 DATA, 1 SIDE, 2 BAND (08 R186). -/
def oload (i : Info) (part n cv xa xb : Nat) (imm : BitVec 20) (s : State) : Out :=
  let rows := if part = 2 then 1 else 32
  let bytes := if part = 0 then 256 else if part = 1 then 64 else 2
  mtx i 9 cv s (fun c s =>
    if !(s.owns c n) then slotFault n 9
    else rowsFault c (s.crewOf c) 9 xa xb imm rows bytes (if part = 2 then 2 else 4))
    fun c _ => .oload n part (xbase c xa imm).toNat (xstride c xb)

/-- accscl (08 R183). -/
def accscl (i : Info) (mode n cv xa : Nat) (s : State) : Out :=
  mtx i 10 cv s (fun c _ => if !(c.bound n) then slotFault (16 + n) 10 else none)
    fun c _ => .accscl n mode ((c.sr xa).truncate 32)

/-! ### The stream (08 R173) -/

/-- Change the head of a cohort's stream. -/
def Cohort.onHead (c : Cohort) (f : MtxOp → MtxOp) : Cohort :=
  match c.stream with
  | [] => c
  | m :: r => { c with stream := f m :: r }

/-- The name for which an operation takes a fresh tile (08 R169). -/
def MtxOp.binds (m : MtxOp) (c : Cohort) : Option Nat :=
  match m.kind with
  | .mmaz n _ _ _ | .accz n | .accld n _ _ => some n
  | .accwr n _ => if (c.tileOf n).isNone then some n else none
  | _ => none

/-- Are the releases that were pending at the issue of a stream's head performed (12 R275)? -/
def State.opMayHead (s : State) (c : Cohort) : Bool := c.stream.head?.all fun m => s.opMay c m.op

/-- No operation of a saved context starts, nor one on a core that halts (08 R188, 13 R281). -/
def State.mtxHolds (s : State) (c : Cohort) : Bool := (s.crewOf c).shadow || s.engineHolds (s.crewOf c).core

/-- TILE_BIND: the head of a stream takes a free tile; an old tile of the name is freed (08 R169, R170). -/
def tileBind (k : Nat) (s : State) : State :=
  match s.cohort k with
  | none => s
  | some c =>
    let core := (s.crewOf c).core
    match if s.mtxHolds c then none else c.stream.head? with
    | none => s
    | some m =>
      match m.binds c, m.tile, (upto 16).find? fun t => (s.tile core c.sub t).owner == 0 with
      | some n, none, some t =>
        let s := match c.tileOf n with
          | some o => s.newTile core c.sub o {}
          | none => s
        (s.newTile core c.sub t { owner := k }).onCohort k fun c =>
          { c.onHead fun m => { m with tile := some t } with acc := Tab.put 0 c.acc n (t + 1) }
      | _, _, _ => s

/-- SLOT_CLAIM: the head claims its slot once it is free; another crew's contents are cleared (08 R166, R184). -/
def slotClaim (k : Nat) (s : State) : State :=
  match s.cohort k with
  | none => s
  | some c =>
    let core := (s.crewOf c).core
    match (if s.mtxHolds c then none else c.stream.head?.map (·.kind) : Option MtxKind) with
    | some (.oclaim n) =>
      let z := s.slot core c.sub n
      if z.owner ≠ 0 ∧ z.owner ≠ k then s
      else
        let s := if z.lastCrew = c.crew then s else s.slotWritten core c.sub n (upto 10242)
        let z : Slot := if z.lastCrew = c.crew then { z with owner := k } else { owner := k, lastCrew := c.crew }
        (s.setSlot core c.sub n z).onCohort k fun c => c.onHead fun m => { m with claimed := true }
    | _ => s

/-- Is an admitted product under way on the sub-core's array? -/
def State.arrayRuns (s : State) (core sub : Nat) : Bool :=
  s.cohorts.any fun c => c.sub == sub && (s.crewOf c).core == core && c.stream.any (·.admitted)

/-- Starts onto idle arrays that a window admits: 8, and 4 while the module is warm or worse (21 R430, R431). -/
def State.admitLimit (s : State) : Nat := if s.thermal = .normal then 8 else 4

/-- Does the head of a stream, a product with its tile, wait for its start alone, on an array that has ended the one before? -/
def State.startReady (s : State) (c : Cohort) : Bool :=
  !(s.arrayRuns (s.crewOf c).core c.sub) && !(s.mtxHolds c) && s.opMayHead c &&
  match c.stream.head? with
  | some m => match m.kind with
    | .mma .. => !m.admitted
    | .mmaz .. => !m.admitted && m.tile.isSome
    | _ => false
  | none => false

/-- The names, and behind 8 the slots, whose earlier contents an operation uses; a chain start takes a fresh tile (08 R169). -/
def MtxKind.uses : MtxKind → List Nat
  | .mma n a b _ => [n, 8 + a, 8 + b]
  | .mmaz _ a b _ => [8 + a, 8 + b]
  | .accz n | .accst n .. | .accld n .. | .accrd n .. | .accwr n _ | .accscl n .. => [n]
  | .oclaim n | .orel n | .oload n .. => [8 + n]

/-- Is it a product? -/
def MtxKind.isProduct : MtxKind → Bool
  | .mma .. | .mmaz .. => true
  | _ => false

/-- Does a stream's next product wait for nothing but the array: no operation before it touches its tile or slots, which may run at the
same time (08 R173), and a tile for it is bound or free? Its start continues the array's work (21 R430; notes/assumptions/31.md). -/
def State.continues (s : State) (c : Cohort) : Bool :=
  match c.stream.find? fun m => m.kind.isProduct && !m.admitted with
  | none => false
  | some m =>
    let before := c.stream.takeWhile fun x => decide (x.op ≠ m.op)
    !(s.mtxHolds c) && s.opMay c m.op && !(before.any fun x => x.kind.uses.any m.kind.uses.contains) &&
      ((m.binds c).isNone || m.tile.isSome || ((upto 16).any fun t => (s.tile (s.crewOf c).core c.sub t).owner == 0))

/-- Arrays with no product under way, and none that waits only for the one before, are idle (21 R430). -/
def State.coolArrays (s : State) (p : Nat → Bool) : State :=
  { s with busy := Tab.only (fun k => !(p k) || s.arrayRuns (k / 4) (k % 4) ||
      s.cohorts.any fun c => subIx (s.crewOf c).core c.sub == k && s.continues c) s.busy }

/-- The heads of a sector that wait for their start, have not been turned away in an earlier window and lie on idle arrays, in the
order of admission: ascending cluster, core and sub-core (21 R430). -/
def State.newStarts (s : State) (sec : Nat) : List Nat :=
  let at_ := fun (c : Cohort) => subIx (s.crewOf c).core c.sub
  (sortBy at_ (s.cohorts.filter fun c => sectorOf (s.crewOf c).core == sec && s.startReady c &&
    !(Tab.read false s.busy (at_ c)) && !(s.admWait.any fun e => e.2 == c.key))).map (·.key)

/-- MATRIX_START_ADMISSION: the head, a product with its tile, starts: continuing on a busy array, or among the starts of
its sector's window, older waits first (21 R430, 08 R10). -/
def matrixAdmission (k : Nat) (s : State) : State :=
  match s.cohort k with
  | none => s
  | some c =>
    let core := (s.crewOf c).core
    let sec := sectorOf core
    let start := fun (s : State) =>
      { (s.countPm core c.sub 5 1).onCohort k (fun c => c.onHead fun m => { m with admitted := true }) with
          busy := Tab.put false s.busy (subIx core c.sub) true,
          admWait := s.admWait.filter fun e => e.2 != k }
    if !(s.startReady c) then s
    else if Tab.read false s.busy (subIx core c.sub) then start s
    else
      let older := ((s.admWait.find? fun e => e.1 == sec && (s.cohort e.2).any s.startReady).map (·.2))
      if Tab.read 0 s.admitted sec < s.admitLimit ∧ older.or (s.newStarts sec).head? = some k then
        start { s with admitted := Tab.put 0 s.admitted sec (Tab.read 0 s.admitted sec + 1) }
      else if (s.newStarts sec).head? = some k ∧ s.admitLimit ≤ Tab.read 0 s.admitted sec then
        { s with admWait := s.admWait ++ [(sec, k)] }
      else s

/-- ADMISSION_WINDOW: a sector's next window begins; arrays with no product under way are idle. -/
def admissionWindow (sec : Nat) (s : State) : State :=
  { s with admitted := Tab.put 0 s.admitted sec 0, busy := (s.coolArrays fun k => sectorOf (k / 4) == sec).busy }

/-- Is the head ready to complete? -/
def MtxOp.ready (m : MtxOp) (c : Cohort) : Bool :=
  match m.kind with
  | .mma .. | .mmaz .. => m.admitted
  | .oclaim _ => m.claimed
  | _ => (m.binds c).isNone || m.tile.isSome

/-- Rows of a tile as bytes with poison (08 R180). -/
def Tile.rowBytes (t : Tile) (out i : Nat) : List (Byte × Bool) :=
  (upto 32).flatMap fun j =>
    let w := (Tab.read 0 t.words (32 * i + j)).toNat
    let po := Tab.read false t.poison (32 * i + j)
    let bs := if out = 0 then leBytes 4 w else leBytes 2 ((cvtFloat fp32 (if out = 1 then bf16 else fp16) w).1)
    bs.map fun b => (b, po)

/-- The effect of an operation (08 R178-R186). -/
def State.mtxEffect (s : State) (c : Cohort) (m : MtxOp) : State :=
  let s := s.mtxMeet c [] m.kind
  let cr := s.crewOf c
  let core := cr.core
  let t := (c.tileOf (match m.kind with
    | .mma n .. | .mmaz n .. | .accz n | .accst n .. | .accld n .. | .accrd n .. | .accwr n _ | .accscl n .. => n
    | _ => 8)).getD 16
  match m.kind with
  | .mma _ a b fs =>
    let r := mmaTile fs (s.slot core c.sub a) (s.slot core c.sub b) (some (s.tile core c.sub t)) c.key
    (s.newTile core c.sub t r.1).onCohort c.key fun c => c.addM r.2
  | .mmaz _ a b fs =>
    let r := mmaTile fs (s.slot core c.sub a) (s.slot core c.sub b) none c.key
    (s.newTile core c.sub t r.1).onCohort c.key fun c => c.addM r.2
  | .accz _ => s.newTile core c.sub t { owner := c.key }
  | .accst n a d out keep =>
    let z := s.tile core c.sub t
    let s := (upto 32).foldl (fun s i => s.crewWrite cr (a + i * d) (z.rowBytes out i)) s
    if keep then s
    else (s.newTile core c.sub t {}).onCohort c.key fun c => { c with acc := Tab.put 0 c.acc n 0 }
  | .accld _ a d =>
    let ws := (upto 1024).map fun k =>
      let bs := s.crewRead cr (a + k / 32 * d + 4 * (k % 32)) 4
      (BitVec.ofNat 32 (leNat (bs.map (·.1))), bs.any (·.2))
    s.newTile core c.sub t { words := tabOf 0 (ws.map (·.1)), owner := c.key, poison := tabOf false (ws.map (·.2)) }
  | .accrd _ reg ix =>
    let z := s.tile core c.sub t
    let rs := ix.map fun e => RegWrite.v e.1 reg (Tab.read 0 z.words e.2) (Tab.read false z.poison e.2)
    s.onCohort c.key fun c => c.onOp m.op fun o => { o with res := rs }
  | .accwr _ vals =>
    let z := s.tile core c.sub t
    (s.tileWritten core c.sub t (vals.map (·.2.1))).setTile core c.sub t
      { z with words := Tab.putAll 0 z.words (vals.map fun e => (e.2.1, e.2.2.1)),
               poison := Tab.putAll false z.poison (vals.map fun e => (e.2.1, e.2.2.2)) }
  | .oclaim _ => s
  | .orel n => s.setSlot core c.sub n { s.slot core c.sub n with owner := 0 }
  | .oload n part a d =>
    let z := s.slot core c.sub n
    let rows := fun (w : Nat) => (upto 32).flatMap fun r =>
      (List.zip (upto w) (s.crewRead cr (a + r * d) w)).map fun e => (w * r + e.1, e.2)
    let put := fun (lo k : Nat) => (s.slotWritten core c.sub n ((upto k).map (lo + ·))).setSlot core c.sub n
    if part = 0 then put 0 8192 (z.setData (rows 256))
    else if part = 1 then put 8192 2048 (z.setSide (rows 64))
    else
      let bs := s.crewRead cr a 2
      put 10240 2 (z.setBand (leNat (bs.map (·.1))) (bs.any (·.2)))
  | .accscl _ mode f =>
    let z := s.tile core c.sub t
    let rs := (upto 1024).map fun k => scaleWord mode (Tab.read 0 z.words k).toNat f.toNat
    (s.newTile core c.sub t { z with words := tabOf 0 (rs.map fun r => BitVec.ofNat 32 r.1) }).onCohort c.key fun c =>
      c.addM (rs.foldl (fun m r => m ||| r.2) 0)

/-- MTX_COMPLETION: the head of a stream completes (08 R172, R173); a torn-down cohort's product still does, its result
discarded with its tile (08 R190). -/
def mtxCompletion (k : Nat) (s : State) : State :=
  match s.cohort k with
  | none => s
  | some c =>
    match c.stream with
    | [] => s
    | m :: rest =>
      if !(m.ready c) || (!m.admitted && s.mtxHolds c) || !(s.opMayHead c) then s
      else
        let s := (s.mtxEffect c m).onCohort k fun c => ({ c with stream := rest } : Cohort).completeOp m.op
        if m.admitted then s.coolArrays (· == subIx (s.crewOf c).core c.sub) else s

/-- MMA (R178): Accumulate one 32x32 product into a bound tile. -/
def execMma (n sa sb fs cv : Nat) (s : State) : Out :=
  mma { infoMma 0 n sa sb fs cv with long := true, late := true } false n sa sb fs cv s

/-- MMAZ (R178): Start a chain: bind a fresh tile and write one product. -/
def execMmaz (n sa sb fs cv : Nat) (s : State) : Out :=
  mma { infoMma 1 n sa sb fs cv with long := true, late := true } true n sa sb fs cv s

/-- ACCZ (R179): Bind a tile and zero it. -/
def execAccz (n cv : Nat) (s : State) : Out :=
  accz { infoAccz 2 n cv with long := true, late := true } n cv s

/-- ACCST (R180): Store a tile's rows to scratchpad, optionally converting and unbinding. -/
def execAccst (n out : Nat) (keep : Bool) (cv xa xb : Nat) (imm : BitVec 20) (s : State) : Out :=
  accst { infoAccst 3 n out keep cv xa xb imm with long := true, late := true } n out keep cv xa xb imm s

/-- ACCLD (R181): Bind a tile and load it from scratchpad. -/
def execAccld (n cv xa xb : Nat) (imm : BitVec 20) (s : State) : Out :=
  accld { infoAccld 4 n cv xa xb imm with long := true, late := true } n cv xa xb imm s

/-- ACCRD (R182): Read tile words into a vector register. -/
def execAccrd (n r cv xa : Nat) (imm : BitVec 20) (s : State) : Out :=
  accrd { infoAccrd 5 n r cv xa imm with long := true, late := true } n r cv xa imm s

/-- ACCWR (R182): Write tile words from a vector register. -/
def execAccwr (n r cv xa : Nat) (imm : BitVec 20) (s : State) : Out :=
  accwr { infoAccwr 6 n r cv xa imm with long := true, late := true } n r cv xa imm s

/-- OCLAIM (R184): Claim an operand slot, clearing it for a new crew. -/
def execOclaim (n cv : Nat) (s : State) : Out :=
  oclaim { infoOclaim 7 n cv with long := true, late := true } n cv s

/-- OREL (R185): Release an operand slot. -/
def execOrel (n cv : Nat) (s : State) : Out :=
  orel { infoOclaim 8 n cv with long := true, late := true } n cv s

/-- OLOAD_DATA (R186): Load slot DATA from scratchpad. -/
def execOloadData (n cv xa xb : Nat) (imm : BitVec 20) (s : State) : Out :=
  oload { infoOload 9 8 n cv xa xb imm with long := true, late := true } 0 n cv xa xb imm s

/-- OLOAD_SIDE (R186): Load slot SIDE scales from scratchpad. -/
def execOloadSide (n cv xa xb : Nat) (imm : BitVec 20) (s : State) : Out :=
  oload { infoOload 9 10 n cv xa xb imm with long := true, late := true } 1 n cv xa xb imm s

/-- OLOAD_BAND (R186): Load slot BAND scale from scratchpad. -/
def execOloadBand (n cv xa : Nat) (imm : BitVec 20) (s : State) : Out :=
  oload { infoOband 9 n cv xa imm with long := true, late := true } 2 n cv xa 63 imm s

/-- ACCSCL_F32 (R183): Rescale an FP32 tile in place. -/
def execAccsclF32 (n cv xa : Nat) (s : State) : Out :=
  accscl { infoAccscl 10 8 n cv xa with long := true, late := true } 0 n cv xa s

/-- ACCSCL_I2F (R183): Rescale an INT32 tile into FP32. -/
def execAccsclI2f (n cv xa : Nat) (s : State) : Out :=
  accscl { infoAccscl 10 9 n cv xa with long := true, late := true } 1 n cv xa s

/-- ACCSCL_F2I (R183): Rescale an FP32 tile into saturated INT32. -/
def execAccsclF2i (n cv xa : Nat) (s : State) : Out :=
  accscl { infoAccscl 10 10 n cv xa with long := true, late := true } 2 n cv xa s

/-- MTX_COMPLETION (R172): A matrix operation completes and retires in issue order. -/
def execMtxCompletion (cohort : Nat) (s : State) : Out :=
  .next (mtxCompletion cohort s)

/-- TILE_BIND (R170): A binding waiting for a free tile proceeds when a tile frees. -/
def execTileBind (cohort : Nat) (s : State) : Out :=
  .next (tileBind cohort s)

/-- SLOT_CLAIM (R184): A waiting oclaim obtains the slot when its owner releases it. -/
def execSlotClaim (cohort : Nat) (s : State) : Out :=
  .next (slotClaim cohort s)

/-- MATRIX_START_ADMISSION (R430): A start onto an idle array is admitted within the sector's window limit. -/
def execMatrixStartAdmission (cohort : Nat) (s : State) : Out :=
  .next (matrixAdmission cohort s)

/-- ADMISSION_WINDOW (R430): A new 64-clk sector window opens and waiting starts are offered again. -/
def execAdmissionWindow (sector : Nat) (s : State) : Out :=
  .next (admissionWindow sector s)

end Sys2Proof.Machine
end

