-- ==== Sys2Proof/Machine/Opal.lean ====
section
/-!
DEFINITION. Sys2Proof/Machine/Opal.lean: tile buffers and speculation (17): descriptors, eligibility, prediction, publication,
verdicts, commit and squash, and the OPAL instructions.
-/

namespace Sys2Proof.Machine

/-! ### Job descriptors (16 R342) -/

/-- The descriptor at a physical address. -/
def State.jobAt (s : State) (pa part : Nat) (active : Bool) : JobDesc :=
  let x := s.gmem.nat pa 64
  { part := part, active := active, asid := bitsOf x 0 16, job := bitsOf x 16 16, root := bitsOf x 64 64,
    cxbase := bitsOf x 128 64, cxsize := bitsOf x 192 64, fq := bitsOf x 256 64, img := bitsOf x 320 64,
    imgsz := bitsOf x 384 64 }

/-- Is there a job descriptor at an address: inside its tier, no reserved bit set (16 R342, 00 R4)? -/
def State.jobOk (s : State) (pa : Nat) : Bool :=
  pa != 0 && s.tierOk pa 64 && s.gmem.nat (pa + 4) 4 == 0 && s.gmem.nat (pa + 56) 8 == 0

/-- The context of a job: the descriptor that a PJOB item names, read now. -/
def State.jobCtx (s : State) (job : Nat) : Option JobDesc :=
  (upto 16).findSome? fun i =>
    let pa := Tab.read 0 s.pjob i
    let d := s.jobAt pa (i / 2) (i % 2 == 0)
    if s.jobOk pa ∧ d.job = job then some d else none

/-! ### Descriptors of tile buffers (17 R349) -/

/-- A descriptor as read. -/
structure Tb where
  base : Nat
  pred : Nat
  hist : Nat
  hcx : Bool
  size : Nat
  efmt : Nat
  mode : Nat
  minc : Nat
  dlim : Nat
  atol : Nat
  rtol : Nat
  state : Nat
  specv : Bool
  conf : Nat
  lastv : Nat
  hcnt : Nat
  ver : Nat
  commits : Nat
  squashes : Nat
  maxerr : Nat
  refs : Nat
  /-- Malformed (17 R350), or not readable. -/
  bad : Bool
  deriving DecidableEq, Repr

/-- Physical address of a buffer's descriptor. -/
def JobDesc.tbAddr (jd : JobDesc) (n : Nat) : Nat := jd.img + 64 * n

/-- The fields of the 512 bits of a descriptor. -/
def tbOf (x : Nat) (clean : Bool) : Tb :=
  { base := bitsOf x 0 57, pred := bitsOf x 64 57, hist := bitsOf x 128 57, hcx := bit x 185, size := bitsOf x 192 13,
    efmt := bitsOf x 205 2, mode := bitsOf x 207 2, minc := bitsOf x 209 3, dlim := min (bitsOf x 212 2) 2,
    atol := bitsOf x 256 32, rtol := bitsOf x 288 32, state := bitsOf x 320 2, specv := bit x 322, conf := bitsOf x 323 3,
    lastv := bitsOf x 326 2, hcnt := bitsOf x 328 2, ver := bitsOf x 352 32, commits := bitsOf x 384 32,
    squashes := bitsOf x 416 32, maxerr := bitsOf x 448 32, refs := bitsOf x 480 16,
    bad := !clean || bitsOf x 57 7 != 0 || bitsOf x 121 7 != 0 || bitsOf x 186 6 != 0 || bitsOf x 214 42 != 0 ||
      bitsOf x 330 22 != 0 || bitsOf x 496 16 != 0 || bitsOf x 320 2 == 3 || bitsOf x 192 13 == 0 ||
      decide (4096 < bitsOf x 192 13) }

/-- The descriptor of buffer `n` of a job. -/
def State.tb (s : State) (jd : JobDesc) (n : Nat) : Tb :=
  let pa := jd.tbAddr n
  tbOf (s.gmem.nat pa 64) (s.tierOk pa 64 && !(s.poisoned .glob pa 64))

/-- A field of a descriptor written at its home: `k` bits from bit `lo`. -/
def State.tbSet (s : State) (jd : JobDesc) (n lo k v : Nat) : State :=
  let pa := jd.tbAddr n + lo / 8
  let w := ceilDiv (lo % 8 + k) 8
  let old := s.gmem.nat pa w
  let new := old % 2 ^ (lo % 8) + v % 2 ^ k * 2 ^ (lo % 8) + old / 2 ^ (lo % 8 + k) * 2 ^ (lo % 8 + k)
  if s.tierOk (jd.tbAddr n) 64 then ((s.slPost false ((upto w).map (pa + ·))).meet (s.sites .glob (jd.tbAddr n) 64)).writeNat .glob pa w new
  else s

/-- Fields that the hardware writes. -/
def State.tbState (s : State) (jd : JobDesc) (n v : Nat) : State := s.tbSet jd n 320 2 v
def State.tbSpecv (s : State) (jd : JobDesc) (n : Nat) (v : Bool) : State := s.tbSet jd n 322 1 v.toNat
def State.tbHcnt (s : State) (jd : JobDesc) (n v : Nat) : State := s.tbSet jd n 328 2 v
def State.tbVer (s : State) (jd : JobDesc) (n v : Nat) : State := s.tbSet jd n 352 32 v
def State.tbRefs (s : State) (jd : JobDesc) (n v : Nat) : State := s.tbSet jd n 480 16 v

/-- What the home of a descriptor records beside it. -/
def State.tbHome (s : State) (job n : Nat) : TbHome :=
  (s.tbHomes.find? fun h => h.job == job && h.tb == n).getD { job := job, tb := n }
def State.onHome (s : State) (job n : Nat) (f : TbHome → TbHome) : State :=
  { s with tbHomes := f (s.tbHome job n) :: s.tbHomes.filter fun h => !(h.job == job && h.tb == n) }

/-- A compare or a history copy of the buffer is under way: its state has not changed yet (17 R353). -/
def State.tbBusy (s : State) (job n : Nat) : Bool := (s.compares ++ s.history).any fun c => c.job == job && c.tb == n

/-- Producer and depth of a version published speculatively; a SPECV bit with no producer recorded counts 0 (17 R356). -/
def State.tbProducer (s : State) (job : Nat) (n : Nat) (t : Tb) : Option (Nat × Nat) :=
  if t.specv then (s.tbHome job n).producer else none

/-- The number that stands for the units of the sector of a descriptor's home (`sectorOf`). -/
def State.tbUnit (s : State) (jd : JobDesc) (n : Nat) : Nat := 640 + s.slice (jd.tbAddr n) / 32

/-! ### Tiles in memory (17 R349) -/

/-- The physical parts of a tile at `a`, with the right that an access needs: in the carve-out region for HCX. -/
def State.tileParts (s : State) (u : Nat) (jd : JobDesc) (cx : Bool) (a n : Nat) (k : Acc) :
    Option (List (Space × Nat × Nat)) :=
  if cx then
    if a + n ≤ jd.cxsize ∧ jd.cxbase + a + n ≤ s.carve * 2 ^ 24 then some [(.chip, jd.cxbase + a, n)] else none
  else match s.mapRange u jd a n k with
    | .ok ps => some (ps.map fun p => (.glob, p.1, p.2))
    | .error _ => none

/-- The bytes of parts with their poison. -/
def State.partBytes (s : State) (ps : List (Space × Nat × Nat)) : List (Byte × Bool) :=
  ps.flatMap fun p => (List.zip (upto p.2.2) (s.readBytes p.1 p.2.1 p.2.2)).map fun e =>
    (e.2, s.poisoned p.1 (p.2.1 + e.1) 1)

/-- The words of parts are read, and their errors met (10 R233). -/
def State.meetParts (s : State) (ps : List (Space × Nat × Nat)) : State :=
  if s.latent = [] then s else s.meet (ps.flatMap fun p => s.sites p.1 p.2.1 p.2.2)

/-- The homes of parts in global memory, while some domain changes (10 R230). -/
def State.partHomes (s : State) (ps : List (Space × Nat × Nat)) : List Nat :=
  if s.changing = [] then []
  else (ps.filter fun p => decide (p.1 = .glob)).flatMap fun p =>
    (upto (p.2.2 / 64 + 2)).map fun j => min (p.2.1 + 64 * j) (p.2.1 + p.2.2 - 1)

/-- Bytes written to parts; slice watches are told (09 R205). -/
def State.partWrite (s : State) : List (Space × Nat × Nat) → List (Byte × Bool) → State
  | [], _ => s
  | (sp, a, n) :: ps, bs =>
    let s := if sp = .glob then s.slPost false ((upto n).map (a + ·)) else s
    let s := s.engWrite sp ((List.zip (upto n) (bs.take n)).map fun e => (a + e.1, e.2))
    s.partWrite ps (bs.drop n)

/-- Parts of a history slot. -/
def State.histParts (s : State) (u : Nat) (jd : JobDesc) (t : Tb) (ver : Nat) (k : Acc) :
    Option (List (Space × Nat × Nat)) :=
  s.tileParts u jd t.hcx (t.hist + ver % 3 * (256 * t.size)) (256 * t.size) k

/-- Element format of a buffer, and its bytes. -/
def efmtOf (n : Nat) : Fmt := if n = 0 then fp32 else if n = 1 then bf16 else fp16
def efmtBytes (n : Nat) : Nat := if n = 0 then 4 else 2

/-- The codes of a byte string cut into elements, each with its poison. -/
def codesOf (w : Nat) (bs : List (Byte × Bool)) : List (Nat × Bool) :=
  (upto (bs.length / w)).map fun i =>
    let e := (bs.drop (w * i)).take w
    (leNat (e.map (·.1)), e.any (·.2))

/-! ### Prediction (17 R351, R354) -/

/-- Finite and not negative; −0 counts as not negative. -/
def tolOk (c : Nat) : Bool := let v := fp32.val c; v.isFin && (!v.negQ || v.isZero)

/-- Is prediction from the buffer possible at all (17 R351)? -/
def Tb.predictable (t : Tb) : Bool :=
  t.mode != 0 && t.efmt != 3 && t.pred != 0 && t.dlim != 0 && tolOk t.atol && tolOk t.rtol

/-- Factors of v1, v2, v3. -/
def modeTerms (mode : Nat) : List Int := if mode = 2 then [2, -1] else [3, -3, 1]

/-- One extrapolated element: exact, rounded to FP32 and then to the format; specials as in 04 R101. -/
def extrapolate (f : Fmt) (ts : List (Int × Nat)) : Nat :=
  let vs := ts.map fun e => (e.1, f.val e.2)
  if vs.any (·.2.isNan) then f.nan
  else match distinct ((vs.filter (·.2.isInf)).map fun e => e.2.negQ != decide (e.1 < 0)) with
    | [] =>
      let x := X.sum (vs.map fun e => (X.ofInt e.1).mul e.2.x)
      let r := if x.n = 0 then
          (if vs.all (·.2.isZero) && Config.predictedZeroNeg (ts.map (·.2)) then fp32.sign else 0)
        else (fp32.round .ne x).1
      if f = fp32 then r else (cvtFloat fp32 f r).1
    | [neg] => (f.infRes neg).1
    | _ => f.nan

/-- The bytes of PRED from the versions v1, v2, v3. -/
def predictBytes (t : Tb) (vs : List (List (Byte × Bool))) : List (Byte × Bool) :=
  if t.mode = 1 then vs.headD []
  else
    let w := efmtBytes t.efmt
    let cols := vs.map (codesOf w)
    (upto (256 * t.size / w)).flatMap fun i =>
      let es := cols.map fun c => c.getD i (0, false)
      let x := extrapolate (efmtOf t.efmt) (List.zip (modeTerms t.mode) (es.map (·.1)))
      (leBytes w x).map fun b => (b, es.any (·.2))

/-- The parts that a prediction reads and writes, when all of them translate with their rights (17 R355). -/
def State.predictParts (s : State) (jd : JobDesc) (n : Nat) (t : Tb) :
    Option (List (List (Space × Nat × Nat)) × List (Space × Nat × Nat)) :=
  let u := s.tbUnit jd n
  match (upto t.mode).mapM fun k => s.histParts u jd t (t.ver + 3 - k) .read,
    s.tileParts u jd false t.pred (256 * t.size) .write with
  | some hs, some p => some (hs, p)
  | _, _ => none

/-- The prediction engine writes PRED whole, and the buffer is PREDICTED (17 R353, R354). -/
def State.predict (s : State) (jd : JobDesc) (n : Nat) : State :=
  let t := s.tb jd n
  match s.predictParts jd n t with
  | none => s
  | some (hs, p) =>
    let s := s.meetParts hs.flatten
    let s := s.partWrite p (predictBytes t (hs.map s.partBytes))
    (s.onHome jd.job n fun h => { h with starters := [], predFmt := t.efmt, predSize := t.size }).tbState jd n 2

/-! ### Eligibility (17 R352, R355, R356) -/

/-- How a launch would read a buffer. -/
inductive TbRead where
  | real
  | pred
  | chain (producer depth : Nat)
  deriving DecidableEq, Repr

def TbRead.depth : TbRead → Nat
  | .real => 0
  | .pred => 1
  | .chain _ d => d + 1

/-- Is a recorded writer speculative? -/
def State.tbWriterSpec (s : State) (job n : Nat) : Bool :=
  match (s.tbHome job n).writer with
  | some w => (s.launch w).any (·.spec)
  | none => false

/-- The way in which a launch may read a buffer now. -/
def State.tbReadAs (s : State) (jd : JobDesc) (l : Launch) (n : Nat) : Option TbRead :=
  let t := s.tb jd n
  if t.bad || s.tbBusy jd.job n then none
  else if t.state = 1 then
    match s.tbProducer jd.job n t with
    | none => some .real
    | some (h, d) => if l.lrec.spec && (s.launch h).any (·.spec) then some (.chain h d) else none
  else if l.lrec.spec && t.predictable && decide (t.mode ≤ t.hcnt) && decide (t.minc ≤ t.conf) &&
      !(s.tbWriterSpec jd.job n) && (s.predictParts jd n t).isSome then some .pred
  else none

/-- May a launch of depth `d` write the buffer now? -/
def State.tbWriteOk (s : State) (jd : JobDesc) (l : Launch) (d n : Nat) : Bool :=
  let t := s.tb jd n
  let w := (s.tbHome jd.job n).writer
  !t.bad && !(s.tbBusy jd.job n) && (w.isNone || w == some l.handle) && (t.state == 0 || (t.state == 2 && d == 0))

/-- Depth and readings of a launch whose buffers all accept it. -/
def State.tbPlan (s : State) (jd : JobDesc) (l : Launch) : Option (Nat × List (Nat × TbRead)) :=
  match (l.binds.filter (!·.2)).mapM fun b => (s.tbReadAs jd l b.1).map fun r => (b.1, r) with
  | none => none
  | some rs =>
    let d := (rs.map (·.2.depth)).foldl max 0
    let limited := rs.all fun e => decide (e.2.depth = 0 ∨ d ≤ (s.tb jd e.1).dlim)
    if decide (d ≤ 2) && limited && (l.binds.filter (·.2)).all (fun b => s.tbWriteOk jd l d b.1) then some (d, rs)
    else none

/-- One buffer that a launch begins to read: its reference, the prediction, and the record of starters. -/
def State.tbBeginRead (s : State) (jd : JobDesc) (l : Launch) (e : Nat × TbRead) : State :=
  let s := if l.refs.contains e.1 then s else s.tbRefs jd e.1 ((s.tb jd e.1).refs + 1)
  if e.2 = .pred then
    let s := if (s.tb jd e.1).state = 0 then s.predict jd e.1 else s
    s.onHome jd.job e.1 fun h => { h with starters := h.starters ++ [l.handle] }
  else s

/-- The first placement of a launch: references, predictions, writer records, depth and awaited resolutions. -/
def State.tbBegin (s : State) (jd : JobDesc) (l : Launch) (d : Nat) (rs : List (Nat × TbRead)) : State :=
  let s := rs.foldl (fun s e => s.tbBeginRead jd l e) s
  let s := (l.binds.filter (·.2)).foldl (fun s b => s.onHome jd.job b.1 fun h => { h with writer := some l.handle }) s
  let waits := rs.filterMap fun e => match e.2 with
    | .real => none
    | .pred => some (Await.verdict e.1)
    | .chain h _ => some (Await.producer h e.1)
  let order := s.fresh
  ({ s with fresh := order + 1 } : State).onLaunch l.handle fun l =>
    { l with placed := order, depth := d, spec := d != 0, awaits := waits,
             preds := (rs.filter fun e => decide (e.2 = .pred)).map (·.1), refs := rs.map (·.1) }

/-! ### History copies and verdicts (17 R353, R360) -/

/-- The state with BASE copied to the history slot of the present version, when every address translates. -/
def State.histCopy (s : State) (jd : JobDesc) (n : Nat) : Option State :=
  let t := s.tb jd n
  let u := s.tbUnit jd n
  match s.tileParts u jd false t.base (256 * t.size) .read, s.histParts u jd t t.ver .write with
  | some b, some h => some (((s.meetParts b).partWrite h (s.partBytes b)).tbHcnt jd n (min (t.hcnt + 1) 3))
  | _, _ => none

/-- The history copy, or HCNT := 0 where it is not made. -/
def State.histStep (s : State) (jd : JobDesc) (n : Nat) : State := (s.histCopy jd n).getD (s.tbHcnt jd n 0)

/-- The readers of a SPECV version are told that it has resolved COMMIT (17 R361). -/
def State.tellReaders (s : State) (h n : Nat) : State :=
  let told := s.launches.flatMap fun l => (l.awaits.filter fun a => decide (a = .producer h n)).map fun a =>
    ({ launch := l.handle, what := a, commit := true } : Resol)
  { s with resols := s.resols ++ told }

/-- HISTORY_COPY_COMPLETE on a buffer: the publication of an EMPTY one, or the commit of a SPECV version, whose readers are then
told: their releases find it with SPECV 0 (17 R353). -/
def State.histEnd (s : State) (c : Compare) : State :=
  let s : State := { s with history := s.history.filter fun x => decide (x ≠ c) }
  let told := fun (s : State) => match (s.tbHome c.job c.tb).producer with
    | some p => (s.onHome c.job c.tb fun h => { h with producer := none }).tellReaders p.1 c.tb
    | none => s
  match s.jobCtx c.job with
  | none => told s
  | some jd =>
    let t := s.tb jd c.tb
    if t.state = 0 then
      (((s.tbVer jd c.tb (t.ver + 1)).histStep jd c.tb).tbSpecv jd c.tb false).tbState jd c.tb 1
    else if t.state = 1 then told ((s.histStep jd c.tb).tbSpecv jd c.tb false)
    else s

/-- One pair of elements: does it pass, and its error as an FP32 code (17 R360). -/
def compareElem (f : Fmt) (atol rtol : Nat) (r p : Nat × Bool) : Bool × Nat :=
  let a := f.val r.1
  let b := f.val p.1
  if r.2 || p.2 || a.isNan || b.isNan then (false, 0)
  else if a.isInf || b.isInf then (a.isInf && b.isInf && a.negQ == b.negQ, 0)
  else
    let d := (a.x.sub b.x).abs
    (d.le ((fp32.val atol).x.add ((fp32.val rtol).x.mul a.x.abs)), if d.n = 0 then 0 else (fp32.round .up d).1)

/-- A verdict's fields (17 R360). -/
def State.tbVerdict (s : State) (jd : JobDesc) (n : Nat) (t : Tb) (commit : Bool) (err : Nat) : State :=
  let s := s.tbSet jd n 323 3 (if commit then min (t.conf + 1) 7 else 0)
  let s := s.tbSet jd n 326 2 (t.lastv % 2 * 2 + commit.toNat)
  let s := if commit then s.tbSet jd n 384 32 (min (t.commits + 1) (2 ^ 32 - 1))
    else s.tbSet jd n 416 32 (min (t.squashes + 1) (2 ^ 32 - 1))
  s.tbSet jd n 448 32 (fp32.minMaxNm true t.maxerr err).1

/-- The launches that started on a prediction are told its verdict. -/
def State.tellStarters (s : State) (job n : Nat) (commit : Bool) : State :=
  let ls := (s.tbHome job n).starters
  let s : State := { s with resols := s.resols ++ ls.map fun h => ({ launch := h, what := .verdict n, commit := commit } : Resol) }
  s.onHome job n fun h => { h with starters := [] }

/-- The parts of BASE and PRED that a compare reads, when all of them and the history slot translate (17 R360). -/
def State.compareParts (s : State) (jd : JobDesc) (n : Nat) : Option (List (Space × Nat × Nat) × List (Space × Nat × Nat)) :=
  let t := s.tb jd n
  let u := s.tbUnit jd n
  let len := 256 * (s.tbHome jd.job n).predSize
  match s.tileParts u jd false t.base len .read, s.tileParts u jd false t.pred len .read,
      s.histParts u jd t ((t.ver + 1) % 2 ^ 32) .write with
  | some b, some p, some _ => some (b, p)
  | _, _, _ => none

/-- VERDICT on a buffer: the compare, the statistics, the new version with its history, the packets (17 R353, R360). -/
def State.verdictEnd (s : State) (c : Compare) : State :=
  let s : State := { s with compares := s.compares.filter fun x => decide (x ≠ c) }
  match s.jobCtx c.job with
  | none => s
  | some jd =>
    let t := s.tb jd c.tb
    let h := s.tbHome c.job c.tb
    if t.state ≠ 2 then s
    else
      let ps := s.compareParts jd c.tb
      let w := efmtBytes h.predFmt
      let ok := ps.map fun e => (List.zip (codesOf w (s.partBytes e.1)) (codesOf w (s.partBytes e.2))).map
        fun (e : (Nat × Bool) × Nat × Bool) => compareElem (efmtOf h.predFmt) t.atol t.rtol e.1 e.2
      let s := match ps with
        | some e => s.meetParts (e.1 ++ e.2)
        | none => s
      let s := s.tbVer jd c.tb (t.ver + 1)
      let (s, commit) := match ok with
        | some es =>
          let commit := es.all Prod.fst
          ((s.tbVerdict jd c.tb t commit ((es.map Prod.snd).foldl max 0)).histStep jd c.tb, commit)
        | none => ((s.tbVerdict jd c.tb t false 0).tbHcnt jd c.tb 0, false)
      ((s.tbSpecv jd c.tb false).tbState jd c.tb 1).tellStarters c.job c.tb commit

/-- VERDICT of compare number `n`: the engine's requests to homes that change their domain are NACKed (10 R230). -/
def verdict (n : Nat) (s : State) : State :=
  match s.compares[n]? with
  | none => s
  | some c =>
    let ps := ((s.jobCtx c.job).bind fun jd => s.compareParts jd c.tb).getD ([], [])
    s.atHomes 640 (.compare, c.job * 65536 + c.tb) (s.partHomes (ps.1 ++ ps.2)) fun s => s.verdictEnd c

/-- HISTORY_COPY_COMPLETE of copy number `n`. -/
def historyCopy (n : Nat) (s : State) : State :=
  match s.history[n]? with
  | none => s
  | some c =>
    let ps := (s.jobCtx c.job).bind fun jd =>
      let t := s.tb jd c.tb
      s.tileParts (s.tbUnit jd c.tb) jd false t.base (256 * t.size) .read
    s.atHomes 640 (.history, c.job * 65536 + c.tb) (s.partHomes (ps.getD [])) fun s => s.histEnd c

/-- The operations on a descriptor are performed one at a time: those under way end before the next (17 R349). -/
def State.tbSettle (s : State) (job n : Nat) : State :=
  let c : Compare := { job := job, tb := n }
  let s := if s.compares.contains c then s.verdictEnd c else s
  if s.history.contains c then s.histEnd c else s

/-! ### Publication and release (17 R352, R353) -/

/-- Crews of a launch that count as having done something with a buffer: those that did, and those that have retired. -/
def State.tbCrews (s : State) (l : Launch) (did : Crew → Bool) : Nat :=
  l.retired.length + (s.crews.filter fun cr => cr.launch == l.handle && !cr.squashed && !(l.retired.contains cr.index) && did cr).length

/-- The version is published once every crew of its writer has published or retired. -/
def State.tbPublish (s : State) (h n : Nat) : State :=
  match s.launch h with
  | none => s
  | some l =>
    match s.jobCtx l.lrec.job with
    | none => s
    | some jd =>
      if (s.tbHome jd.job n).writer ≠ some h ∨
          s.tbCrews l (fun cr => cr.pubs.contains n) < l.lrec.hi - l.lrec.lo then s
      else
        let s := s.tbSettle jd.job n
        let s := s.onHome jd.job n fun x => { x with writer := none }
        let t := s.tb jd n
        let c : Compare := { job := jd.job, tb := n }
        if t.state = 2 then { s with compares := s.compares ++ [c] }
        else if t.state ≠ 0 then s
        else if l.spec then
          (((s.tbVer jd n (t.ver + 1)).tbSpecv jd n true).tbState jd n 1).onHome jd.job n fun x =>
            { x with producer := some (h, l.depth) }
        else { s with history := s.history ++ [c] }

/-- A reference drops: REFS falls, and a FULL version that is not speculative empties with its last one. -/
def State.tbDrop (s : State) (jd : JobDesc) (h n : Nat) : State :=
  let s := s.tbSettle jd.job n
  let t := s.tb jd n
  let s := (s.tbRefs jd n (t.refs - 1)).onLaunch h fun l => { l with refs := l.refs.filter (· != n) }
  if t.refs = 1 ∧ t.state = 1 ∧ (s.tbProducer jd.job n t).isNone then s.tbState jd n 0 else s

/-- A launch's reference drops once every crew has released or retired. -/
def State.tbRelease (s : State) (h n : Nat) : State :=
  match s.launch h with
  | none => s
  | some l =>
    match s.jobCtx l.lrec.job with
    | none => s
    | some jd =>
      if l.refs.contains n && decide (l.lrec.hi - l.lrec.lo ≤ s.tbCrews l fun cr => cr.rels.contains n) then
        s.tbDrop jd h n
      else s

/-- The buffers of a launch are looked at again when a crew of it has retired. -/
def State.tbRetired (s : State) (h : Nat) : State :=
  match s.launch h with
  | none => s
  | some l => l.binds.foldl (fun s b => if b.2 then s.tbPublish h b.1 else s.tbRelease h b.1) s

/-! ### Resolution (17 R361-R363) -/

/-- SPECV versions of a launch whose crews have all committed take their history copies and become committed. -/
def State.resolveVersions (s : State) (h : Nat) : State :=
  if s.crews.any fun cr => cr.launch == h && cr.committing then s
  else
    let vs := s.tbHomes.filter fun x => x.producer.any fun p => p.1 == h
    { s with history := s.history ++ vs.map fun x => ({ job := x.job, tb := x.tb } : Compare) }

/-- The entry of the store is freed when the last crew has been placed, of a speculative launch once it has resolved
(15 R319, 17 R364). -/
def State.entryEnd (s : State) (h : Nat) : State :=
  s.onLaunch h fun l => { l with inStore := l.inStore && (!l.tasks.isEmpty || l.spec) }

/-- A launch resolves COMMIT: its crews begin to commit, and its SPECV versions resolve once they have. -/
def State.resolveCommit (s : State) (h : Nat) : State :=
  let s := (s.onLaunch h fun l => { l with spec := false, awaits := [] }).entryEnd h
  let s : State := { s with
    crews := mapIf (fun cr => cr.launch == h && !cr.torn) (fun cr => { cr with committing := true }) s.crews }
  s.resolveVersions h

/-- The squashed launches: `set` closed under reading a SPECV version of a member. -/
def squashSet (ls : List Launch) : Nat → List Nat → List Nat
  | 0, set => set
  | fuel + 1, set =>
    let more := (ls.filter fun l => !(set.contains l.handle) && l.awaits.any fun a => match a with
      | .producer p _ => set.contains p
      | .verdict _ => false).map (·.handle)
    if more = [] then set else squashSet ls fuel (set ++ more)

/-- Step 1: the crews of a member are torn down and count for nothing. -/
def State.squashTear (s : State) (h : Nat) : State :=
  let mine := (s.crews.filter fun cr => cr.launch == h && !cr.torn).map (·.key)
  let s := mine.foldl (fun s k => s.tearCrew k true) s
  { s with resols := s.resols.filter (fun r => r.launch != h),
           cores := s.cores.map (fun e => if e.2.task.any fun t => t.1 == h then (e.1, { e.2 with task := none }) else e),
           tbHomes := s.tbHomes.map fun x => { x with starters := x.starters.filter (· != h) } }

/-- Step 2: the SPECV versions of a member roll back. -/
def State.rollBack (s : State) (h : Nat) : State :=
  (s.tbHomes.filter fun x => x.producer.any fun p => p.1 == h).foldl (fun s x =>
    match s.jobCtx x.job with
    | none => s
    | some jd =>
      let t := s.tb jd x.tb
      (((s.tbVer jd x.tb (t.ver + 2 ^ 32 - 1)).tbSpecv jd x.tb false).tbState jd x.tb 0).onHome x.job x.tb fun y =>
        { y with producer := none }) s

/-- Step 3: writer records go, and the references on buffers that are EMPTY once what is under way on them has ended. -/
def State.squashRefs (s : State) (h : Nat) : State :=
  match s.launch h with
  | none => s
  | some l =>
    let s : State := { s with tbHomes := s.tbHomes.map fun x => if x.writer = some h then { x with writer := none } else x }
    match s.jobCtx l.lrec.job with
    | none => s
    | some jd => l.refs.foldl (fun s n =>
        let s := s.tbSettle jd.job n
        if (s.tb jd n).state = 0 then s.tbDrop jd h n else s) s

/-- Step 4: the entry takes back its whole interval, for placements after the crews `gone` of the squash have retired. -/
def Launch.restart (gone : List Nat) (l : Launch) : Launch :=
  { l with after := gone, tasks := [(l.lrec.lo, l.lrec.hi)], left := l.lrec.hi - l.lrec.lo, placed := 0, depth := 0, spec := false, awaits := [],
           preds := [], retired := [] }

/-- A launch resolves SQUASH, with every launch that consumed its versions, latest placed first (17 R363). -/
def State.squash (s : State) (h : Nat) : State :=
  let set := squashSet s.launches s.launches.length [h]
  let order := (sortBy (·.placed) (s.launches.filter fun l => set.contains l.handle)).reverse.map (·.handle)
  let s := order.foldl (fun s k => s.squashTear k) s
  let s := order.foldl (fun s k => s.rollBack k) s
  let s := order.foldl (fun s k => s.squashRefs k) s
  let gone := (s.crews.filter fun cr => cr.squashed && set.contains cr.launch).map (·.key)
  order.foldl (fun s k => s.onLaunch k (Launch.restart gone)) s

/-- A launch's context is the shadow one: its resolution waits (13 R284). -/
def State.inShadow (s : State) (h : Nat) : Bool := s.crews.any fun cr => cr.launch == h && cr.shadow

/-- RESOLUTION_ARRIVAL: resolution number `n` of those on their way reaches its launch. -/
def resolutionArrival (n : Nat) (s : State) : State :=
  match s.resols[n]? with
  | none => s
  | some r =>
    if s.inShadow r.launch then s
    else
      let s : State := { s with resols := s.resols.take n ++ s.resols.drop (n + 1) }
      match s.launch r.launch with
      | none => s
      | some l =>
        if !l.spec || !(l.awaits.contains r.what) then s
        else if !r.commit then s.squash r.launch
        else
          let rest := l.awaits.filter fun a => decide (a ≠ r.what)
          let s := s.onLaunch r.launch fun l => { l with awaits := rest }
          if rest = [] then s.resolveCommit r.launch else s

/-! ### The commit of a crew (17 R362, R464) -/

/-- The threads that a cohort would deliver a report to at its boundary: the eligible ones at the lowest PC, else the
waiting ones at the lowest PC (05 R114, 09 R200). -/
def Cohort.boundarySet (c : Cohort) : List Nat :=
  let el := c.threads.filter c.elig
  let wt := c.threads.filter fun t => match t.st with
    | .waiting _ => true
    | _ => false
  let ts := if el = [] then wt else el
  let low := leastD 0 (ts.map (·.pc.toNat))
  (ts.filter fun t => t.pc.toNat == low).map (·.tid)

/-- XLATE or PROT of a dropped entry, delivered at the boundary where the cohort stopped; while all its threads are parked it stays
pending (notes/assumptions/93.md). -/
def State.drainDeliver (s : State) (k : Nat) : State :=
  match s.cohort k with
  | none => s
  | some c =>
    match c.drainFault with
    | none => s
    | some (code, va) =>
      let set := c.boundarySet
      let s := s.onCohort k fun c => { c with drainFault := if set = [] then c.drainFault else none }
      let who := fun (t : Thread) => set.contains t.tid
      let pc := ((c.threads.find? who).map (·.pc.toNat)).getD 0
      let cr := s.crewOf c
      if set = [] then s
      else if c.tmode || s.trapRefused cr then
        s.killCrew c who { code := code, detail := 2, info := BitVec.ofNat 64 va, pc := BitVec.ofNat 64 pc, sub := c.sub,
                           place := c.place }
      else
        (s.endWaits k set).onCohort k fun c =>
          c.deliverAll who pc code 2 (set.map fun t => ⟨t, code, 2, va, 0⟩) cr.hdr.trappc

/-- One entry of the effect buffer is sent as a store, parks its cohort's drain, or is dropped. -/
def State.drainEntry (s : State) (k : Nat) (e : Effect) : State :=
  let rest := fun (s : State) => s.onCrew k fun cr => { cr with effects := cr.effects.filter fun x => x.pos != e.pos }
  match s.crew k, s.cohort e.cohort with
  | some cr, some c =>
    if c.drainPark.isSome || decide (4095 ≤ c.acks) then s
    else match s.translate cr.core cr.jd e.va .write with
      | .ok pa =>
        let s := s.send c cr.core 0 .glob pa (.store (atAddr pa e.data)) [] true
        rest (s.l1Drop cr.core [pa / 128])
      | .error code =>
        if code = 5 then
          let seq := (s.core cr.core).seq
          (s.postRecord cr c.sub c.place 1 5 2 e.va 0).onCohort c.key fun c => 
            { c with drainPark := some (⟨seq, c.sub, c.place⟩, e.pos) }
        else rest (s.onCohort c.key fun c => { c with drainFault := c.drainFault.or (some (code, e.va)) })
  | _, _ => rest s

/-- Step 5: speculation ends; parked threads issue again, dropped entries are delivered, a held kill is carried out. -/
def State.commitEnd (s : State) (cr : Crew) : State :=
  let s := s.onCrew cr.key fun x => { x with spec := false, committing := false, heldKill := none }
  let s := s.resolveVersions cr.launch
  let keys := (s.cohortsOf cr.key).map (·.key)
  let s := keys.foldl (fun s k => s.onCohort k fun c =>
    (c.mapT (fun t => decide (t.st = .parked .spec)) fun t => { t with st := .eligible }).settle) s
  match cr.heldKill with
  | some r => s.killNow cr.key r
  | none => keys.foldl (fun s k => s.drainDeliver k) s

/-- COMMIT: a crew of a launch that resolved COMMIT, all its cohorts at a boundary, drains its effect buffer; the cohorts go on once
its stores are acknowledged, so that every later release covers them (17 R362; notes/assumptions/81.md). -/
def commit (k : Nat) (s : State) : State :=
  match s.crew k with
  | none => s
  | some cr =>
    if !cr.committing || cr.shadow || (s.cohortsOf k).any (fun c => c.clause.isSome) then s
    else
      let s := cr.effects.foldl (fun s e => s.drainEntry k e) s
      match s.crew k with
      | some cr => if cr.effects = [] ∧ (s.cohortsOf k).all (fun c => c.acks == 0) then s.commitEnd cr else s
      | none => s

/-! ### Instructions (17 R365-R369) -/

/-- The binding of a buffer in the crew's launch. -/
def State.tbBind (s : State) (cr : Crew) (n : Nat) : Option Bool :=
  (s.launch cr.launch).bind fun l => (l.binds.find? fun b => b.1 == n).map (·.2)

/-- tbpub: the crew's publication, once, after the ack counter is 0 (17 R366). -/
def tbpub (i : Info) (n : Nat) (s : State) : Out :=
  issue i s fun c s =>
    let cr := s.crewOf c
    if !c.guard i.g then .done s
    else if s.tbBind cr n ≠ some true then c.qid n 0
    else if c.acks ≠ 0 then .hold
    else
      let s := if cr.pubs.contains n then s
        else (s.onCrew cr.key fun cr => { cr with pubs := cr.pubs ++ [n] }).tbPublish cr.launch n
      .done (s.quickOp c.key i.len { id := 0 })

/-- tbrel: the crew's release of a buffer that it reads (17 R367). -/
def tbrel (i : Info) (n : Nat) (s : State) : Out :=
  issue i s fun c s =>
    let cr := s.crewOf c
    if !c.guard i.g then .done s
    else if cr.spec then .spec
    else if s.tbBind cr n ≠ some false then c.qid n 1
    else
      let s := (s.onCrew cr.key fun cr => { cr with rels := if cr.rels.contains n then cr.rels else cr.rels ++ [n] }).tbRelease
        cr.launch n
      .done (s.quickOp c.key i.len { id := 0 })

/-- tbstat: STATE, SPECV, CONF and the address that the crew reads (17 R368). -/
def tbstat (i : Info) (d n pS : Nat) (s : State) : Out :=
  issue i s fun c s =>
    let cr := s.crewOf c
    if s.tbBind cr n = none then c.qid n 2
    else
      let t := s.tb cr.jd n
      let specv := (s.tbProducer cr.jd.job n t).isSome
      let pred := cr.views.contains n
      let v := (if pred then t.pred else t.base) / 256 * 256 + t.conf * 8 + specv.toNat * 4 + t.state
      .done (s.quickOp c.key i.len (statusOp c pS d (!pred && !specv) v 0))

/-- spchk: %spec, the launch's depth, and the resolutions it awaits (17 R369). -/
def spchk (i : Info) (d pS : Nat) (s : State) : Out :=
  issue i s fun c s =>
    let cr := s.crewOf c
    let l := s.launch cr.launch
    let depth := (l.map (·.depth)).getD 0
    let n := (l.map (·.awaits.length)).getD 0
    .done (s.quickOp c.key i.len (statusOp c pS d (!cr.spec) (cr.spec.toNat + depth * 2 + n * 256) 0))

/-- spbar: the cohort parks until the launch resolves (17 R369). -/
def spbar (i : Info) (s : State) : Out :=
  issue i s fun c s =>
    if c.guard i.g && (s.crewOf c).spec then .spec else .done (if c.guard i.g then s.quickOp c.key i.len { id := 0 } else s)

/-- TBPUB (R366): Record the crew's publication of a written tile buffer. -/
def execTbpub (n g : Nat) (s : State) : Out :=
  tbpub { infoTb 45 0 0 n g with long := true } n s

/-- TBREL (R367): Record the crew's release of a read tile buffer. -/
def execTbrel (n g : Nat) (s : State) : Out :=
  tbrel { infoTb 45 1 0 n g with long := true } n s

/-- TBSTAT (R368): Read a tile buffer's state and the crew's view address. -/
def execTbstat (d n g : Nat) (s : State) : Out :=
  tbstat { infoTbstat 45 2 0 d n g with long := true, g := 7, ps := [g] } d n g s

/-- SPCHK (R369): Read speculation status and depth. -/
def execSpchk (d g : Nat) (s : State) : Out :=
  spchk { infoSpchk 45 3 0 d g with long := true, g := 7, ps := [g] } d g s

/-- SPBAR (R369): Wait until the launch resolves its speculation. -/
def execSpbar (g : Nat) (s : State) : Out :=
  spbar { infoSpbar 45 4 1 g with long := true } s

/-- VERDICT (R360): The compare engine finishes and gives COMMIT or SQUASH, updating the descriptor. -/
def execVerdict (n : Nat) (s : State) : Out :=
  .next (Sys2Proof.Machine.verdict n s)

/-- RESOLUTION_ARRIVAL (R361): A verdict or producer resolution reaches a speculative launch. -/
def execResolutionArrival (n : Nat) (s : State) : Out :=
  .next (resolutionArrival n s)

/-- COMMIT (R362): A crew stops at a boundary, drains its effect buffer and leaves speculation. -/
def execCommit (crew : Nat) (s : State) : Out :=
  .next (Sys2Proof.Machine.commit crew s)

/-- HISTORY_COPY_COMPLETE (R353): The compare engine finishes the history copy of a publication made without a compare, and the buffer becomes FULL, with HCNT updated or set to 0 on a fault. -/
def execHistoryCopyComplete (n : Nat) (s : State) : Out :=
  .next (historyCopy n s)

end Sys2Proof.Machine
end

