-- ==== Sys2Proof/Machine/Launch.lean ====
section
/-!
DEFINITION. Sys2Proof/Machine/Launch.lean: launch records and kernel headers (16 R330-R335), the pending-launch store
(15 R319), spawn, done and cancel (15 R321-R325), retirement and completion (03 R76, 20 R410).
-/

namespace Sys2Proof.Machine

/-! ### Kernel headers (16 R334, R335) -/

/-- A number read by the dispatcher at a virtual address of a job, through sector 0; none when it cannot be read. -/
def State.dispRead (s : State) (jd : JobDesc) (va n : Nat) : Option Nat :=
  match s.readVa 640 jd va n with
  | .ok bs => if bs.any (·.2) then none else some (leNat (bs.map (·.1)))
  | .error _ => none

/-- Role `k` of the header's bits. -/
def roleOf (x k : Nat) : RoleDecl :=
  let b := 576 + 64 * k
  { entry := bitsOf x b 32, threads := bitsOf x (b + 32) 16, v := bitsOf x (b + 48) 8, s := bitsOf x (b + 56) 8 }

/-- The limits of a role, and of the roles together (02 R63, 03 R74). -/
def rolesOk (rs : List RoleDecl) : Bool :=
  decide (1 ≤ rs.length ∧ rs.length ≤ 4) &&
  rs.all (fun r => decide (1 ≤ r.threads ∧ r.threads ≤ 1024 ∧ r.v ≤ 63 ∧ r.s ≤ 63)) &&
  decide ((rs.map fun r => 64 * ceilDiv r.threads 64).sum ≤ 1024)

/-- The limits of a declared queue (14 R299). -/
def QDecl.ok (q : QDecl) (h : Nat) : Bool :=
  decide (1 ≤ q.depth) && q.elem % 4 == 0 && decide (4 ≤ q.elem ∧ q.elem ≤ 256) && q.off % 16 == 0 && decide (q.off + 16 ≤ h)

/-- The rules of a header whose 1,280 bits are `x`. -/
def headerOk (x : Nat) (h : Header) : Bool :=
  h.priv % 4 == 0 && decide (h.priv ≤ 65532) && h.h % 16 == 0 && decide (1 ≤ h.wreq ∧ h.wreq ≤ 64) && rolesOk h.roles &&
  h.bcnt.all (fun n => decide (n ≤ 1024)) &&
  (if h.bcnt.any (· != 0) then decide ((h.boff : Int) = (h.h : Int) - 128) else h.boff == 0xFFFFFFFF) &&
  bitsOf x 396 20 == 0 && bitsOf x 1088 192 == 0 &&
  (upto 64).all fun n => !(bit h.qmask n) || (h.qtab.getD n ⟨0, 0, 0⟩).ok h.h

/-- The kernel header at an address, with its queue table: none when it is unreadable or breaks a rule. Bits 31:25 of a queue entry
are not looked at (notes/assumptions/80.md). -/
def State.readHeader (s : State) (jd : JobDesc) (va : Nat) : Option Header :=
  if va % 32 ≠ 0 then none
  else match s.dispRead jd va 160 with
  | none => none
  | some x =>
    let mask := bitsOf x 448 64
    let entry := fun (n : Nat) => if bit mask n then s.dispRead jd (bitsOf x 512 64 + 8 * n) 8 else some 0
    match (upto 64).mapM entry with
    | none => none
    | some qs =>
      let h : Header :=
        { text := bitsOf x 0 64, tlen := bitsOf x 64 32, priv := bitsOf x 96 32, cmap := bitsOf x 128 64,
          trappc := bitsOf x 192 64, spt := bitsOf x 256 64, spn := bitsOf x 320 32, h := bitsOf x 352 32,
          wreq := bitsOf x 384 8, roles := (upto (bitsOf x 392 3)).map (roleOf x), system := bit x 395,
          boff := bitsOf x 416 32, qmask := mask,
          qtab := qs.map fun q => { depth := bitsOf q 0 16, elem := bitsOf q 16 9, off := bitsOf q 32 32 },
          bcnt := (upto 16).map fun n => bitsOf x (832 + 16 * n) 16 }
      if headerOk x h then some h else none

/-- Bytes of the storages of the queues below `n` (14 R299). -/
def Header.queueBytes (h : Header) (n : Nat) : Nat :=
  ((upto n).map fun q => if bit h.qmask q then (h.qtab.getD q ⟨0, 0, 0⟩).depth * (h.qtab.getD q ⟨0, 0, 0⟩).elem else 0).sum

/-- Size of a crew's allocation (10 R209). -/
def Header.allocSize (h : Header) (spec : Bool) : Nat := h.h + h.queueBytes 64 + if spec then 32768 else 0

/-! ### Launch records (16 R330-R333) -/

/-- The fields of a record's 1,024 bits. -/
def lrecOf (x : Nat) : LRec :=
  { khdr := bitsOf x 0 64, arg := bitsOf x 64 64, lo := bitsOf x 128 32, hi := bitsOf x 160 32, grain := bitsOf x 192 32,
    prio := bitsOf x 224 2, cosched := bit x 226, spec := bit x 227, spin := bitsOf x 232 8,
    fs := (upto 8).map (fun k => bitsOf x (256 + 16 * k) 16), job := bitsOf x 384 16, phase := bitsOf x 400 16,
    graph := bitsOf x 416 16, priv := bitsOf x 448 64, cont := bitsOf x 512 64 }

/-- Width class of a format code: 4, 8 or 16 bits; 0 for a reserved code. -/
def fsWidth (f : Nat) : Nat := if f = 1 ∨ f = 7 then 4 else if f = 2 ∨ f = 3 ∨ f = 6 then 8 else if f = 4 ∨ f = 5 then 16 else 0

/-- A valid format slot (16 R333, 04 R98). -/
def fsOk (x : Nat) : Bool :=
  let a := bitsOf x 12 4
  let b := bitsOf x 8 4
  let acc := bitsOf x 6 2
  x == 0 || (fsWidth a != 0 && fsWidth a == fsWidth b && decide (acc ≤ 1) && bitsOf x 0 4 == 0 &&
    (acc == 0 || ((a == 6 || a == 7) && (b == 6 || b == 7) && bitsOf x 4 2 == 0)))

/-- A channel entry, when it keeps the rules of 14 R306. -/
def chanOf (x h : Nat) : Option Chan :=
  let c : Chan := { ro := bitsOf x 0 32, delta := sextNat 32 (bitsOf x 32 32), ss := bitsOf x 64 16, sc := bitsOf x 80 8 }
  if c.ro % 16 = 0 ∧ c.ro + 16 + c.sc * c.ss ≤ h ∧ 1 ≤ c.sc ∧ c.sc ≤ 64 ∧ c.ss % 16 = 0 ∧ 16 ≤ c.ss ∧ c.ss ≤ 4096 ∧ c.delta ≠ 0 ∧
      bitsOf x 88 40 = 0 then some c else none

/-- A binding entry: number, and whether it is written. -/
def bindOf (x : Nat) : Option (Nat × Bool) := if bitsOf x 9 23 = 0 then some (bitsOf x 0 8, bit x 8) else none

/-- Cores of a partition. -/
def State.partCores (s : State) (p : Nat) : List Nat :=
  (upto 640).filter fun k => bit (Tab.read 0 s.part p) (k / 16)

/-- The check of a record (15 R320, 16 R332); `job` is the spawning crew's job. -/
def State.checkRecord (s : State) (x : Nat) (job : Option Nat) : Option (LRec × List Chan × List (Nat × Bool)) :=
  let r := lrecOf x
  let nch := bitsOf x 240 6
  let ntb := bitsOf x 246 5
  match s.jobCtx r.job with
  | none => none
  | some jd =>
    if bitsOf x 228 4 ≠ 0 ∨ bitsOf x 251 5 ≠ 0 ∨ bitsOf x 432 16 ≠ 0 ∨ bitsOf x 704 320 ≠ 0 ∨ r.hi ≤ r.lo ∨ r.grain = 0 ∨
        32 < nch ∨ 16 < ntb ∨ r.priv % 256 ≠ 0 ∨ !(r.fs.all fsOk) ∨ job.any (fun j => j != r.job) ∨
        (r.cosched ∧ (s.partCores jd.part).length * 16 < r.hi - r.lo) then none
    else match s.readHeader jd r.khdr with
    | none => none
    | some h =>
      match (upto nch).mapM (fun i => (s.dispRead jd (bitsOf x 576 64 + 16 * i) 16).bind fun e => chanOf e h.h),
        (upto ntb).mapM (fun i => (s.dispRead jd (bitsOf x 640 64 + 4 * i) 4).bind bindOf) with
      | some chs, some bs => if (distinct (bs.map (·.1))).length = bs.length then some (r, chs, bs) else none
      | _, _ => none

/-! ### The store (15 R319) -/

/-- Entries in use, and whether a request may take one at once. -/
def State.storeUsed (s : State) : Nat := (s.launches.filter (·.inStore)).length
def State.storeFree (s : State) : Bool := decide (s.storeUsed < 4096)

/-- A group counter changed; `level` 0 graph, 1 phase, 2 job (20 R410). -/
def State.groupAdd (s : State) (level job id : Nat) (x : Int) : State :=
  let hit := fun (g : GroupCnt) => g.level == level && g.job == job && (level == 2 || g.id == id)
  if s.groups.any hit then { s with groups := mapIf hit (fun g => { g with count := ((g.count : Int) + x).toNat }) s.groups }
  else { s with groups := s.groups ++ [{ level := level, job := job, id := id, count := x.toNat }] }

/-- The three counters of a launch. -/
def State.groupsAdd (s : State) (r : LRec) (x : Int) : State :=
  ((s.groupAdd 0 r.job r.graph x).groupAdd 1 r.job r.phase x).groupAdd 2 r.job 0 x

/-- A checked record takes an entry; the handle is the second answer. -/
def State.accept (s : State) (e : LRec × List Chan × List (Nat × Bool)) (host : Option (Nat × Nat)) (parent : Parent)
    (system : Bool) (join : Nat) : State × Nat :=
  let h := s.nextHandle
  let l : Launch :=
    { handle := h, lrec := e.1, chans := e.2.1, binds := e.2.2, age := s.nextAge, join := join, tasks := [(e.1.lo, e.1.hi)],
      left := e.1.hi - e.1.lo, host := host, parent := parent, system := system }
  (({ s with nextHandle := h % (2 ^ 48 - 1) + 1, nextAge := s.nextAge + 1, launches := s.launches ++ [l] } : State).groupsAdd
    e.1 1, h)

/-! ### Completion (20 R410) -/

/-- Of `n` records on their way to the completion ring, those that do not fit as C stands. -/
def Ring.unfit (r : Ring) (n : Nat) : Nat := n - (r.nc - (r.p + 2 ^ 32 - r.c) % 2 ^ 32)

/-- A record joins those that wait for a ring. One that would make 257 that do not fit stops the ring, and a SUBMIT_TORN record
follows it; a ring that is restarted with as many waiting goes on until they fit again (21 R423; notes/assumptions/85.md). -/
def Ring.postAs (r : Ring) (tag status num : Nat) : Ring :=
  let full := r.full && decide (256 < r.unfit r.waiting.length)
  let w := r.waiting ++ [(tag, status, num)]
  if !r.stopped && !full && decide (256 < r.unfit w.length) then
    { r with waiting := w ++ [(r.next, 2, r.n)], stopped := true, full := true, torn := min (r.torn + 1) (2 ^ 32 - 1), kicks := [],
             target := none }
  else { r with waiting := w, full := full }

/-- A record of the ring itself. -/
def Ring.post (r : Ring) (tag status : Nat) : Ring := r.postAs tag status r.n

/-- A record for the host: TAG and STATUS to the completion ring of a submission ring (15 R318). -/
def State.hostRecord (s : State) (ring tag status : Nat) : State :=
  { s with rings := mapIf (fun r => r.n == ring) (fun r => r.post tag status) s.rings }

/-- A refusal goes to the host record of a launch that the host created (15 R323, 16 R330). -/
def State.refusal (s : State) (host : Option (Nat × Nat)) : State :=
  match host with
  | some (ring, tag) => s.hostRecord ring tag 3
  | none => s

/-- The CONT record of a completed launch is checked, and takes an entry or waits for one (16 R330). -/
def State.contRun (s : State) (job addr : Nat) (system : Bool) (host : Option (Nat × Nat)) : State :=
  let x := if addr % 128 ≠ 0 then none else (s.jobCtx job).bind fun jd => s.dispRead jd addr 128
  let s := ((s.jobCtx job).map fun jd => s.meetVa 640 jd addr 128).getD s
  match x.bind fun x => s.checkRecord x (some job) with
  | none => s.refusal host
  | some e => (s.accept e none .none system 0).1

/-- A launch completes: host record, parent's join counter, group counters, references, continuation (20 R410, 15 R323). -/
def State.launchDone (s : State) (h : Nat) : State :=
  match s.launch h with
  | none => s
  | some l =>
    let s := match s.jobCtx l.lrec.job with
      | some jd => l.refs.foldl (fun (s : State) n => s.tbDrop jd h n) s
      | none => s
    let system := l.system && ((s.jobCtx l.lrec.job).bind fun jd => s.readHeader jd l.lrec.khdr).any Header.system
    let s : State := { s with launches := s.launches.filter (fun x => x.handle != h) }
    let s := match l.host with
      | some (ring, tag) => s.hostRecord ring tag (if l.cancelled then 1 else 0)
      | none => s
    let s := match l.parent with
      | .none => s
      | .crew k => s.onCrew k fun cr => { cr with join := cr.join - 1 }
      | .launch p => s.onLaunch p fun x => { x with join := x.join - 1 }
    let s := s.groupsAdd l.lrec (-1)
    if l.cancelled || l.lrec.cont == 0 then s
    else if s.storeFree && s.storeWait.isEmpty then s.contRun l.lrec.job l.lrec.cont system l.host
    else { s with storeWait := s.storeWait ++ [.cont l.lrec.job l.lrec.cont system l.host] }

/-- A crew of a launch has retired: counters, buffers, and the completion of the launch. -/
def State.crewGone (s : State) (cr : Crew) : State :=
  match s.launch cr.launch with
  | none => s
  | some l =>
    if cr.squashed && !l.torn then s
    else
      let s := s.onLaunch l.handle fun l => { l with left := l.left - 1, retired := l.retired ++ [cr.index] }
      let s := if l.torn then s else s.tbRetired l.handle
      if l.left ≤ 1 then s.launchDone l.handle else s

/-! ### Frames of the image area (13 R288) -/

/-- The frames of a job's image area. -/
def JobDesc.frames (jd : JobDesc) : Nat := if jd.imgsz < 86016 then 0 else min ((jd.imgsz - 20480) / 65536) 32768

/-- Is a frame marked in use? -/
def State.frameUsed (s : State) (jd : JobDesc) (f : Nat) : Bool := bit (s.gmem.byte (jd.img + 16384 + f / 8)).toNat (f % 8)

/-- The lowest run of free frames that holds `bytes`: its first frame and length. -/
def State.freeRun (s : State) (jd : JobDesc) (bytes : Nat) : Option (Nat × Nat) :=
  let n := ceilDiv bytes 65536
  ((upto (jd.frames + 1 - n)).find? fun f => (upto n).all fun k => !(s.frameUsed jd (f + k))).map fun f => (f, n)

/-- A run is marked in use, or free, in the frame map; slice watches are told (09 R205). -/
def State.markRun (s : State) (jd : JobDesc) (run : Nat × Nat) (used : Bool) : State :=
  (upto run.2).foldl (fun (s : State) k =>
    let f := run.1 + k
    let a := jd.img + 16384 + f / 8
    let s := s.meet (s.sites .glob a 1)
    let b := (s.gmem.byte a).toNat
    let x := if bit b (f % 8) = used then b else if used then b + 2 ^ (f % 8) else b - 2 ^ (f % 8)
    (s.slPost false [a]).writeBytes .glob [(a, BitVec.ofNat 8 x)]) s

/-- A crew's runs are freed. -/
def State.freeFrames (s : State) (cr : Crew) : State :=
  (cr.out.toList ++ cr.frames.toList).foldl (fun s r => s.markRun cr.jd r false) s

/-- A crew retires: its private lines drop, its bins and frames free (10 R217, 07 R163, 13 R288). -/
def State.crewRetire (s : State) (k : Nat) : State :=
  match s.crew k with
  | none => s
  | some cr =>
    let s := s.freeFrames cr
    ({ s with crews := s.crews.filter (fun x => x.key != k), l1 := s.l1.filter (fun l => l.priv != k),
              bins := s.bins.filter fun e => e.2.crew != k } : State).crewGone cr

/-- The tiles and slots of a cohort are freed; LASTCREW stays (08 R190). -/
def State.freeUnits (s : State) (k : Nat) : State :=
  { s with tiles := s.tiles.map (fun e => if e.2.owner = k then (e.1, { e.2 with owner := 0 }) else e),
           slots := s.slots.map fun e => if e.2.owner = k then (e.1, { e.2 with owner := 0 }) else e }

/-- May a cohort retire: no thread left, every operation it issued complete (03 R76)? -/
def State.mayRetire (s : State) (c : Cohort) (cr : Crew) : Bool :=
  let copies := fun (b : Batch) => s.copies.all fun x => x.batch != b.id || x.done
  c.live.isEmpty && c.clause.isNone && c.ops.isEmpty && c.unacked.isEmpty && c.stream.isEmpty && c.outst.isEmpty &&
  c.xpark.isNone && c.emul.isNone && c.drainPark.isNone && !(cr.effects.any fun e => e.cohort == c.key) &&
  (s.batchesOf c.key).all (fun b => cr.torn || b.done || (!b.closed && copies b)) &&
  !(s.fabric.any fun p => p.cohort == c.key) && !(s.acks.any fun a => a.cohort == c.key) && (cr.torn || !cr.shadow)

/-- Has the crew a binned thread (07 R159)? -/
def State.crewBinned (s : State) (cr : Crew) : Bool := !cr.torn && s.bins.any fun e => e.2.held && e.2.crew == cr.key

/-- May the crew retire with its last cohort: no thread binned (07 R159), its launch resolved (17 R357, 20 R410)? -/
def State.crewMay (s : State) (cr : Crew) : Bool := !(s.crewBinned cr) && (cr.torn || (!cr.spec && !cr.committing))

/-- COHORT_RETIRE: pending reports become ORPHAN records, tiles and slots are freed; the last cohort takes its crew along, unless the
crew has threads in bins (07 R159). A crew that is torn down when no cohort of it is left retires by its own key. -/
def cohortRetire (k : Nat) (s : State) : State :=
  match s.cohort k with
  | none => match s.crew k with
    | some cr => if (s.cohortsOf k).isEmpty && s.crewMay cr then s.crewRetire k else s
    | none => s
  | some c =>
    let cr := s.crewOf c
    let last := decide ((s.cohortsOf c.crew).length ≤ 1) && !(s.crewBinned cr)
    if !(s.mayRetire c cr) || (last && !(s.crewMay cr)) then s
    else
      let s := c.reports.foldl (fun s r => s.orphan cr c.sub c.place r r.ipc) s
      let gone := (s.batchesOf k).map (·.id)
      let tids := c.threads.map (·.tid)
      let s := s.onCrew c.crew fun cr => { cr with rays := cr.rays.filter fun r => !(tids.contains r.tid) }
      let s : State := { s.freeUnits k with
        cohorts := s.cohorts.filter (fun x => x.key != k), running := s.running.filter (fun e => e.2 != k),
        batches := s.batches.filter (fun b => b.cohort != k), copies := s.copies.filter fun x => !(gone.contains x.batch) }
      if last then s.crewRetire c.crew else s

/-! ### Cancel (15 R324, R325; 17 R364) -/

/-- Buffers that a cancelled launch of depth 0 writes: no writer; a PREDICTED one empties and its starters squash. -/
def State.tbCancelWrites (s : State) (l : Launch) : State :=
  match s.jobCtx l.lrec.job with
  | none => s
  | some jd => (l.binds.filter (·.2)).foldl (fun s b =>
      if (s.tbHome jd.job b.1).writer ≠ some l.handle then s
      else
        let s := (s.tbSettle jd.job b.1).onHome jd.job b.1 fun x => { x with writer := none }
        if (s.tb jd b.1).state = 2 then (s.tbState jd b.1 0).tellStarters jd.job b.1 false else s) s

/-- A launch is torn down: no crew of it is placed any more, every crew of it retires (15 R324). -/
def State.tearLaunch (s : State) (h : Nat) : State :=
  match s.launch h with
  | none => s
  | some l0 =>
    if l0.torn then s
    else
      let s := s.markCancelled h
      let s := if l0.spec then s.squash h else s.tbCancelWrites l0
      let s := s.onLaunch h fun l => { l with tasks := [], inStore := false, torn := true }
      let mine := s.crews.filter fun cr => cr.launch == h
      let s := (mine.filter (!·.torn)).foldl (fun s cr => s.tearCrew cr.key false) s
      let s : State := { s with
        cores := s.cores.map fun e => if e.2.task.any fun t => t.1 == h then (e.1, { e.2 with task := none }) else e }
      let s := s.resolveVersions h
      let s := match s.jobCtx l0.lrec.job with
        | some jd => if l0.spec then (((s.launch h).map Launch.refs).getD []).foldl (fun (s : State) n => s.tbDrop jd h n) s else s
        | none => s
      let s := s.onLaunch h fun l => { l with left := mine.length, spec := false, awaits := [] }
      if mine = [] then s.launchDone h else s

/-- The live launches of a job that an instance selects; `id` is its graph, phase or handle. -/
def State.instance_ (s : State) (level job id : Nat) : List Nat :=
  (s.launches.filter fun l => l.lrec.job == job && (match level with
    | 2 => l.lrec.graph == id
    | 3 => l.lrec.phase == id
    | 4 => true
    | 5 => l.handle == id
    | _ => false)).map (·.handle)

/-- cancel: a teardown at a level (15 R324). -/
def cancelRun (i : Info) (a : Nat) (s : State) : Out :=
  issue i s fun c s =>
    let cr := s.crewOf c
    if !c.guard i.g then .done s
    else if cr.spec then .spec
    else
      let x := (c.sr a).toNat
      let job := s.jobOf cr
      let l := s.launch cr.launch
      let level := x % 8
      let ids := if level = 1 then [cr.launch] else
        s.instance_ level job (if level = 2 then (l.map (·.lrec.graph)).getD 0 else
          if level = 3 then (l.map (·.lrec.phase)).getD 0 else x / 2 ^ 16)
      let s := if level = 0 then (s.markCancelled cr.launch).tearCrew cr.key false
        else ids.foldl (fun s h => s.tearLaunch h) s
      if (s.crew cr.key).all (·.torn) then .moved s else .done (s.quickOp c.key i.len { id := 0 })

/-- A CANCEL packet of the host: the teardown at a level of the ring's job (15 R325). -/
def State.hostCancel (s : State) (job ring operand tag : Nat) : State :=
  let level := operand % 8
  let ids := if level = 1 then (s.launches.filter fun l => l.lrec.job == job && l.host == some (ring, tag)).map (·.handle)
    else s.instance_ level job (if level = 5 then operand / 2 ^ 16 else bitsOf operand 16 16)
  ids.foldl (fun s h => s.tearLaunch h) s

/-! ### spawn, spawnw, done (15 R321-R323) -/

/-- What the reading of a record ends in. -/
inductive RecRead where
  | res (r : Res)
  | bits (x : Nat)

/-- The checks and the reading of the record at a register; `wait` where the ack counter must be 0 (15 R321, R322). -/
def State.recordAt (s : State) (c : Cohort) (a sub : Nat) (wait : Bool) : RecRead :=
  let cr := s.crewOf c
  let x := c.sr a
  if x.toNat % 128 ≠ 0 then .res (c.all 4 0 (opInfo x sub 1))
  else if (wait && c.acks != 0) || c.acquiring then .res .hold
  else match s.readVa cr.core cr.jd x.toNat 128 with
    | .error e => .res (c.all e.1 1 e.2)
    | .ok bs =>
      if s.mustReplay (s.vaHomes cr.core cr.jd x.toNat 128) then .res (.held (s.nack cr.core (.copy, c.key)))
      else match (List.zip (upto 128) bs).find? fun e => e.2.2 with
      | some e => .res (c.all 12 0 ((x.toNat + e.1) / 8 * 8))
      | none => .bits (leNat (bs.map (·.1)))

/-- The record is read: its words' errors are met, and a request that was NACKed is replayed (10 R230, R233). -/
def State.recordRead (s : State) (c : Cohort) (a : Nat) : State :=
  let cr := s.crewOf c
  (s.replayed (.copy, c.key)).meetVa cr.core cr.jd (c.sr a).toNat 128

/-- The crew's join counter rises for a child. -/
def State.childOf (s : State) (k : Nat) : State := s.onCrew k fun cr => { cr with join := min (cr.join + 1) (2 ^ 32 - 1) }

/-- spawn. -/
def spawnRun (i : Info) (d a pS : Nat) (s : State) : Out :=
  issue i s fun c s =>
    let cr := s.crewOf c
    if cr.spec then .spec
    else match s.recordAt c a 5 true with
      | .res r => r
      | .bits x =>
        let s := s.recordRead c a
        match s.checkRecord x (some (s.jobOf cr)) with
        | none => .done (s.quickOp c.key i.len (statusOp c pS d false 3 0))
        | some e =>
          if !s.storeFree || !s.storeWait.isEmpty then .done (s.quickOp c.key i.len (statusOp c pS d false 1 0))
          else
            let r := s.accept e none (.crew cr.key) (s.privileged c) 0
            .done ((r.1.childOf cr.key).quickOp c.key i.len (statusOp c pS d true (r.2 * 65536) 0))

/-- Is `x` the request `r`: for spawnw and done, of a thread of the same cohort that issues it again? -/
def StoreReq.same (r x : StoreReq) : Bool :=
  match r, x with
  | .spawnw k ts, .spawnw _ _ => x.ofThreads k ts
  | .done k ts, .done _ _ => x.ofThreads k ts
  | _, _ => decide (x = r)

/-- The threads of a request with those of another for the same. -/
def StoreReq.join (r x : StoreReq) : StoreReq :=
  match r, x with
  | .spawnw _ ts, .spawnw k us => .spawnw k (distinct (us ++ ts))
  | .done _ ts, .done k us => .done k (distinct (us ++ ts))
  | _, _ => x

/-- A request of the store is withdrawn. -/
def State.unrequest (s : State) (r : StoreReq) : State := { s with storeWait := s.storeWait.filter fun x => !(r.same x) }

/-- Can a request be served: not while its threads are parked by trap mode or their context is the saved one (09 R195, 13 R284;
notes/assumptions/106.md)? -/
def State.mayServe (s : State) (r : StoreReq) : Bool :=
  match r with
  | .spawnw k ts | .done k ts => (s.cohort k).any fun c =>
      !(s.crewOf c).shadow && c.threads.any fun t => ts.contains t.tid && (!c.tmode || t.inH)
  | _ => true

/-- May a request take an entry now: one is free, and no other request that can be served is before it (15 R319)? -/
def State.mayTake (s : State) (r : StoreReq) : Bool := s.storeFree && ((s.storeWait.find? s.mayServe).map r.same).getD true

/-- A request joins the queue of the store once: its threads stand at the place of the oldest of them. -/
def State.request (s : State) (r : StoreReq) : State :=
  match s.storeWait.find? r.same with
  | none => { s with storeWait := s.storeWait ++ [r] }
  | some x => { s with storeWait := mapIf (fun y => decide (y = x)) (fun _ => r.join x) s.storeWait }

/-- spawnw: it waits for a free entry. -/
def spawnwRun (i : Info) (d a : Nat) (s : State) : Out :=
  issue i s fun c s =>
    let cr := s.crewOf c
    if !c.guard i.g then .done s
    else if cr.spec then .spec
    else match s.recordAt c a 6 true with
      | .res r => r
      | .bits x =>
        let s := s.recordRead c a
        let req := StoreReq.spawnw c.key (c.actives.map (·.tid))
        let fin := fun (s : State) (v : Nat) =>
          Res.done ((s.unrequest req).quickOp c.key i.len { id := 0, regsS := dst d, res := [.s d (BitVec.ofNat 64 v)] })
        match s.checkRecord x (some (s.jobOf cr)) with
        | none => fin s 3
        | some e =>
          if !(s.mayTake req) then .wait (s.request req) .spawn
          else
            let r := s.accept e none (.crew cr.key) (s.privileged c) 0
            fin (r.1.childOf cr.key) (r.2 * 65536)

/-- The first done of a crew with a continuation: the join counter and the children move to it (15 R323). -/
def State.moveJoin (s : State) (k h : Nat) : State :=
  match s.crew k with
  | none => s
  | some cr =>
    let s := s.onLaunch h fun l => { l with join := cr.join }
    let s := s.onCrew k fun cr => { cr with join := 0, cont := some h, doneUsed := true }
    { s with launches := mapIf (fun l => decide (l.parent = .crew k)) (fun l => { l with parent := .launch h }) s.launches }

/-- Has a done of the crew taken effect, or does one of another cohort hold for an entry, having come first (15 R323)? -/
def State.doneTaken (s : State) (cr : Crew) (k : Nat) : Bool :=
  cr.doneUsed || s.storeWait.any fun r => match r with
    | .done j _ => j != k && (s.cohort j).any fun c => c.crew == cr.key
    | _ => false

/-- done: the crew's spawning closes; it holds while the store is full; a later done is ignored. -/
def doneRun (i : Info) (a : Nat) (s : State) : Out :=
  issue i s fun c s =>
    let cr := s.crewOf c
    let fin := fun (s : State) => Res.done (s.quickOp c.key i.len { id := 0 })
    let close := fun (s : State) => s.onCrew cr.key fun cr => { cr with doneUsed := true }
    if !c.guard i.g then .done s
    else if cr.spec then .spec
    else if c.sr a = 0 then fin (if s.doneTaken cr c.key then s else close s)
    else match s.recordAt c a 7 false with
      | .res r => r
      | .bits x =>
        let s := s.recordRead c a
        if s.doneTaken cr c.key then fin s
        else
          let req := StoreReq.done c.key (c.actives.map (·.tid))
          match s.checkRecord x (some (s.jobOf cr)) with
          | none => fin ((close (s.unrequest req)).refusal ((s.launch cr.launch).bind (·.host)))
          | some e =>
            if !(s.mayTake req) then .held (s.request req)
            else
              let r := s.accept e none .none (s.privileged c) 0
              fin ((r.1.unrequest req).moveJoin cr.key r.2)

/-- SPAWN (R322): Create a launch in the pending-launch store, with status. -/
def execSpawn (d a g : Nat) (s : State) : Out :=
  spawnRun { infoRdeq 44 5 0 d a g with long := true, g := 7, ps := [g] } d a g s

/-- SPAWNW (R322): Create a launch, waiting for a free store entry. -/
def execSpawnw (d a g : Nat) (s : State) : Out :=
  spawnwRun { infoRdeq 44 6 1 d a g with long := true } d a s

/-- DONE (R323): Close the crew's spawning, optionally with a continuation. -/
def execDoneCrew (a g : Nat) (s : State) : Out :=
  doneRun { infoRrel 44 7 0 a g with long := true } a s

/-- CANCEL (R324): Tear down a crew, launch, graph, phase or job. -/
def execCancel (a g : Nat) (s : State) : Out :=
  cancelRun { infoRrel 44 8 0 a g with long := true } a s

/-- COHORT_RETIRE (R76): A cohort with no thread retires once its operations complete. -/
def execCohortRetire (cohort : Nat) (s : State) : Out :=
  .next (cohortRetire cohort s)

end Sys2Proof.Machine
end

