-- ==== Sys2Proof/Machine/Place.lean ====
section
/-!
DEFINITION. Sys2Proof/Machine/Place.lean: eligibility, tasks and placement (15 R326, R327), the width grant and re-slicing
(01 R22, R23; 07 R141-R143), and entries of the pending-launch store that are freed (15 R319).
-/

namespace Sys2Proof.Machine

/-! ### Waits (02 R33, R34) -/

/-- Is the wait of a thread of a cohort satisfied now? Queue waiters are served by the queue unit, a wreq by its gathering. -/
def State.satisfied (s : State) (c : Cohort) (tid : Nat) (w : Wait) : Bool :=
  let cr := s.crewOf c
  match w with
  | .counter cls n => decide (s.outstanding c cls ≤ n)
  | .flag n => c.flag n == 0
  | .barrier b ph => (s.bar cr b).phase != ph
  | .barsync b ph => (s.bar cr b).phase != ph
  | .ring off => (s.cring cr off).fill != 0
  | .queue _ _ => false
  | .chSend n =>
    match s.chan cr n with
    | none => true
    | some ch =>
      let p := s.peer cr ((cr.index : Int) + ch.delta)
      p == .gone || (p == .placed && decide ((s.chSseq cr ch + 2 ^ 16 - s.chCrseq cr ch) % 2 ^ 16 < ch.sc))
  | .chRecv n =>
    match s.chan cr n with
    | none => true
    | some ch =>
      s.chFull cr ch (s.chRseq cr ch % ch.sc) ||
        (s.peer cr ((cr.index : Int) - ch.delta) == .gone && s.crewNat cr ch.ro 8 == 0)
  | .spawn => s.mayTake (.spawnw c.key [tid])
  | .wreq _ _ _ => false

/-! ### The width grant (01 R22, R23) -/

/-- The cohorts of a header at width `g`: %cid, role, first thread, threads. -/
def slicesOf (h : Header) (g : Nat) : List (Nat × Nat × Nat × Nat) :=
  (List.zip (upto h.roles.length) h.roles).flatMap fun e =>
    (upto (ceilDiv e.2.threads g)).map fun j => (h.cbase e.1 g + j, e.1, g * j, min g (e.2.threads - g * j))

/-- Can the crew's cohorts (%cid and role) at width `g` sit on the core, `mine` being cohorts that it frees first? -/
def State.fits (s : State) (core b g : Nat) (h : Header) (cs : List (Nat × Nat)) (mine : Nat) : Bool :=
  (upto 4).all fun sub =>
    let here := cs.filter fun c => (b + c.1) % 4 == sub
    let held := (s.residents core sub).filter fun c => c.crew == mine
    let bytes := (here.map fun c => g * (h.roles.getD c.2 ⟨0, 0, 0, 0⟩).v * 4).sum
    let freed := (held.map fun c => (s.crewOf c).cohortBytes c.role).sum
    here.isEmpty ||
      (decide (2 ≤ s.octets core sub) && (g == 16 || s.octets core sub == 4) &&
       decide ((s.residents core sub).length - held.length + here.length ≤ 16) && decide (bytes ≤ s.freeRegs core sub + freed))

/-- A request as it counts: 16 to 64. -/
def reqOf (n : Nat) : Nat := min 64 (max 16 n)

/-- The grant: the widest of 64, 32 and 16 within the request that fits. -/
def State.grant (s : State) (core b req : Nat) (h : Header) (cs : Nat → List (Nat × Nat)) (mine : Nat) : Option Nat :=
  [64, 32, 16].find? fun g => decide (g ≤ reqOf req) && s.fits core b g h (cs g) mine

/-! ### Gathering at a wreq (05 R126, 07 R142, R143) -/

/-- The wait of a thread at a wreq. -/
def Thread.atWreq (t : Thread) : Option (Nat × Nat × Nat) :=
  match t.st with
  | .waiting (.wreq d r n) => some (d, r, n)
  | _ => none

/-- Its cohort's wait at a wreq, when all its threads wait there. -/
def Cohort.atWreq (c : Cohort) : Option (Nat × Nat × Nat) :=
  if c.live.all fun t => t.atWreq.isSome then (c.live.head?).bind (·.atWreq) else none

/-- A new cohort of a re-slice: the crew's threads of its slice, scalars and status from the old cohort of the lowest. Threads of a
cohort that has retired are no longer there: their places hold none (notes/assumptions/76.md). -/
def sliceCohort (cr : Crew) (old : List Cohort) (g key : Nat) (e : Nat × Nat × Nat × Nat) : Option Cohort :=
  let (cid, role, t0, n) := e
  let lo := cr.hdr.tbase role + t0
  let all := old.flatMap fun c => c.threads.map fun t => (c, t)
  let mine := sortBy (fun e => e.2.tid) (all.filter fun e => decide (lo ≤ e.2.tid ∧ e.2.tid < lo + n))
  match mine with
  | [] => none
  | (c0, _) :: _ =>
    if mine.all fun e => decide (e.2.st = .exited) then none
    else
      let ts := mine.map fun e => { e.2 with lane := e.2.tid % g, act := false }
      let c : Cohort :=
        { key := key, crew := cr.key, cid := cid, role := role, sub := (cr.base + cid) % 4, port := cid / 4 % 2, place := 0,
          threads := ts, s := c0.s, sPoison := c0.sPoison, fpst := c0.fpst, mstat := c0.mstat }
      some c

/-- The new cohorts of a re-slice, with keys from `key`. -/
def sliceAll (cr : Crew) (old : List Cohort) (g : Nat) : Nat → List (Nat × Nat × Nat × Nat) → List Cohort
  | _, [] => []
  | key, e :: es =>
    match sliceCohort cr old g key e with
    | some c => c :: sliceAll cr old g (key + 1) es
    | none => sliceAll cr old g key es

/-- The gathering of a crew at its wreqs (05 R126): the request, and the width granted when all of them wait and one fits; what the
crew itself holds counts as free (07 R142). -/
def State.wreqWidth (s : State) (cr : Crew) : Option (Nat × Nat) :=
  let old := s.cohortsOf cr.key
  let cs := old.filter fun c => !c.live.isEmpty
  if cs = [] ∨ (cs.any fun c => c.atWreq.isNone) ∨ (s.bins.any fun e => e.2.held && e.2.crew == cr.key) then none
  else
    let req := reqOf (leastD 64 (cs.filterMap fun c => c.atWreq.map (·.2.1)))
    let want := fun (g : Nat) => (sliceAll { cr with gw := g } old g 0 (slicesOf cr.hdr g)).map fun c => (c.cid, c.role)
    (s.grant cr.core cr.base req cr.hdr want cr.key).map fun g => (req, g)

/-- Nothing of the crew is outstanding (03 R77). -/
def State.crewQuiet (s : State) (k : Nat) : Bool :=
  (s.cohortsOf k).all fun c => c.flags == [] && c.outst == [] && c.unacked == [] && (s.batchesOf c.key).isEmpty &&
    c.ops.isEmpty && c.threads.all fun t => t.cv == 0

/-- Does a cohort of the crew hold an accumulator name or an operand slot? -/
def State.crewHolds (s : State) (k : Nat) : Bool :=
  (s.cohortsOf k).any fun c => c.acc != [] || s.slots.any fun e => e.2.owner == c.key

/-- Is a drain of the crew's held stores under way, or a fault of it still to be delivered? A re-slice waits for both (17 R464). -/
def State.draining (s : State) (k : Nat) : Bool :=
  (s.crew k).any (·.committing) || (s.cohortsOf k).any fun c => c.drainPark.isSome || c.drainFault.isSome

/-- Would the wreqs of the crew be satisfied: granted as they stand, refused, or granted with another G once nothing is outstanding
(03 R77)? -/
def State.wreqMay (s : State) (cr : Crew) : Bool :=
  (s.wreqWidth cr).any fun r => r.2 == cr.gw || s.crewHolds cr.key || (s.crewQuiet cr.key && !(s.draining cr.key))

/-- Is a crew that was swapped out ready to return (13 R289)? -/
def State.readyBack (s : State) (cr : Crew) : Bool :=
  cr.out.isSome && ((s.cohortsOf cr.key).any fun c => c.threads.any fun t => match t.st with
    | .waiting (.queue q push) => (cr.qwaiters q push).any (fun w => w.cohort == c.key && w.tids.contains t.tid) &&
        (match cr.qoff q with
         | some off => (s.qword cr off).refuses push == 0
         | none => true)
    | .waiting (.wreq _ _ _) => s.wreqMay cr
    | .waiting w => s.satisfied c t.tid w
    | .eligible => true
    | _ => false)

/-! ### Seats of a core -/

/-- The sub-core with the most free register bytes, the lowest on a tie. -/
def State.baseSub (s : State) (core : Nat) : Nat :=
  (upto 4).foldl (fun b k => if s.freeRegs core b < s.freeRegs core k then k else b) 0

/-- Cohorts get the free places of their sub-cores in %cid order. -/
def seatPlaces (used : Nat → List Nat) : List Cohort → List Cohort
  | [] => []
  | c :: cs =>
    let p := ((upto 16).find? fun p => !((used c.sub).contains p)).getD 15
    { c with place := p } :: seatPlaces (fun k => if k = c.sub then p :: used k else used k) cs

/-- Cohort places in use on a sub-core, those of the crew `mine` left out. -/
def State.usedPlaces (s : State) (core mine sub : Nat) : List Nat :=
  ((s.residents core sub).filter fun c => c.crew != mine).map (·.place)

/-! ### Placement of one crew (15 R327, 10 R209, R210, R220) -/

/-- A base for `n` bytes of a core's bank: the lowest multiple of 256 that no resident allocation meets. -/
def State.spadFit (s : State) (core n : Nat) : Option Nat :=
  let used := (s.crews.filter fun cr => cr.core == core && !cr.shadow).map fun cr => (cr.sbase, cr.ssize)
  let starts := sortBy id (0 :: used.map fun u => ceilDiv (u.1 + u.2) 256 * 256)
  starts.find? fun b => decide (b + n ≤ 8388608) && used.all fun u => decide (b + n ≤ u.1 ∨ u.1 + u.2 ≤ b)

/-- The lowest free crew slot of a core. -/
def State.freeSlot (s : State) (core : Nat) : Option Nat :=
  let used := (s.crews.filter fun cr => cr.core == core && !cr.shadow).map (·.slot)
  (upto 16).find? fun k => !(used.contains k)

/-- Is a core of the partition halting or swapping (01 R24)? -/
def State.partHalting (s : State) (p : Nat) : Bool :=
  s.heatOut.contains p || s.cores.any fun e => e.2.phase != .running && bit (Tab.read 0 s.part p) (e.1 / 16)

/-- The seat of a crew: slot, scratchpad base, base sub-core, grant. -/
structure Seat where
  slot : Nat
  sbase : Nat
  base : Nat
  g : Nat
  deriving DecidableEq, Repr

/-- A seat for a crew of a header on a core, now (15 R327). -/
def State.seat (s : State) (jd : JobDesc) (core : Nat) (h : Header) (size req : Nat) : Option Seat :=
  let k := s.core core
  if !k.released || !bit (Tab.read 0 s.part jd.part) (core / 16) || !jd.active || s.partHalting jd.part then none
  else match s.freeSlot core, s.spadFit core size with
  | some slot, some sb =>
    let b := s.baseSub core
    (s.grant core b req h (fun g => (slicesOf h g).map fun e => (e.1, e.2.1)) 0).map fun g =>
      { slot := slot, sbase := sb, base := b, g := g }
  | _, _ => none

/-- The scratchpad of a crew cleared, with its queue control words and barrier words (10 R210, 14 R300, 16 R345). -/
def State.initSpad (s : State) (cr : Crew) : State :=
  let lo := s.spadBase cr.core + cr.sbase
  let s : State := { s with
    latent := s.latent.filter (fun e => !(spadSite lo cr.ssize e.1)),
    smem := Tab.only (fun a => !(decide (lo ≤ a ∧ a < lo + cr.ssize))) s.smem,
    sPoison := Tab.only (fun a => !(decide (lo ≤ 4 * a ∧ 4 * a < lo + cr.ssize))) s.sPoison }
  let s := (upto 64).foldl (fun s q =>
    if bit cr.hdr.qmask q then
      let d := cr.hdr.qtab.getD q ⟨0, 0, 0⟩
      s.crewSet cr d.off 16 (cr.hdr.h + cr.hdr.queueBytes q + d.depth * 2 ^ 32 + d.elem * 2 ^ 48 + 0xFFFFFFFF * 2 ^ 96)
    else s) s
  if cr.hasBars then (upto 16).foldl (fun s n => s.crewSet cr (cr.hdr.boff + 8 * n) 8 (cr.hdr.bcnt.getD n 0)) s else s

/-- The text of a code object of which no crew is resident leaves the instruction cache (10 R220). -/
def State.freshText (s : State) (core job : Nat) (h : Header) : State :=
  if s.crews.any fun cr => cr.core == core && cr.jd.job == job && cr.hdr.text == h.text && cr.hdr.tlen == h.tlen then s
  else { s with icache := s.icache.filter fun l => !(l.core == core && l.job == job &&
    decide (h.text / 64 ≤ l.line ∧ l.line * 64 < h.text + h.tlen)) }

/-- The cohorts of a crew at its start (03 R72, R74, R75; 01 R22); keys from `key`. -/
def startCohorts (cr : Crew) (arg key : Nat) : List Cohort :=
  let sl := slicesOf cr.hdr cr.gw
  (List.zip (upto sl.length) sl).map fun e =>
    let (cid, role, t0, n) := e.2
    let r := cr.role role
    { key := key + e.1, crew := cr.key, cid := cid, role := role, sub := (cr.base + cid) % 4, port := cid / 4 % 2, place := 0,
      s := Tab.put 0 [] 0 (BitVec.ofNat 64 arg),
      threads := (upto n).map fun k =>
        { tid := cr.hdr.tbase role + t0 + k, lane := k, pc := BitVec.ofNat 64 (cr.hdr.text + r.entry) } }

/-- A crew of a launch is placed in its seat. -/
def State.putCrew (s : State) (l : Launch) (jd : JobDesc) (core index : Nat) (h : Header) (z : Seat) : State :=
  let reads := l.binds.any fun b => !b.2
  let key := s.fresh
  let cr : Crew :=
    { key := key, launch := l.handle, index := index, core := core, base := z.base, slot := z.slot, sbase := z.sbase,
      ssize := h.allocSize l.lrec.spec, hdr := h, jd := jd, gw := z.g, lastGrant := z.g, lastReq := reqOf h.wreq, spec := l.spec,
      views := if l.spec then l.preds else [] }
  let cs := seatPlaces (s.usedPlaces core 0) (startCohorts cr l.lrec.arg (key + 1))
  let first := !(s.crews.any fun x => x.launch == l.handle && x.core == core && !x.torn)
  let s := (s.freshText core jd.job h).meetVa 640 jd l.lrec.khdr 160
  let s := if reads && first then s.flash core else s
  ({ s with fresh := key + 1 + cs.length, crews := s.crews ++ [cr], cohorts := s.cohorts ++ cs } : State).initSpad cr

/-! ### Eligibility and tasks (15 R326) -/

/-- The first placement of a launch takes its buffers; a launch already placed keeps them; none when not eligible: with children to
join, a malformed descriptor (17 R350), or crews of its squash that have not retired (17 R363). -/
def State.placeHead (s : State) (h : Nat) : Option State :=
  match s.launch h with
  | none => none
  | some l =>
    match s.jobCtx l.lrec.job with
    | none => none
    | some jd =>
      if l.join ≠ 0 ∨ !jd.active ∨ (l.binds.any fun b => (s.tb jd b.1).bad) ∨ (s.crews.any fun cr => l.after.contains cr.key) then none
      else if l.placed ≠ 0 then some s
      else (s.tbPlan jd l).map fun p => s.tbBegin jd l p.1 p.2

/-- A crew that is ready to return goes ahead of new crews of its own or lower priority (13 R289). -/
def State.returnsFirst (s : State) (core prio : Nat) : Bool :=
  s.crews.any fun cr => cr.core == core && !cr.shadow && s.readyBack cr &&
    decide (((s.launch cr.launch).map (·.lrec.prio)).getD 3 ≤ prio)

/-- One crew of a launch placed on a core, or none; a crew that is ready to return there goes ahead of it (13 R289). -/
def State.placeOne (s : State) (h core index : Nat) : Option State :=
  match s.placeHead h with
  | none => none
  | some s =>
    match s.launch h with
    | none => none
    | some l =>
      if s.returnsFirst core l.lrec.prio then none
      else match s.jobCtx l.lrec.job with
      | none => none
      | some jd =>
        match s.readHeader jd l.lrec.khdr with
        | none => none
        | some hd => (s.seat jd core hd (hd.allocSize l.lrec.spec) hd.wreq).map fun z => s.putCrew l jd core index hd z

/-- Crews of a COSCHED launch placed on the first of the cores where each fits, all of them or none (15 R327). -/
def State.placeAll (h : Nat) (cores : List Nat) : List Nat → State → Option State
  | [], s => some s
  | i :: is, s =>
    match cores.findSome? fun k => s.placeOne h k i with
    | none => none
    | some s => State.placeAll h cores is s

/-- The unplaced interval `t` replaced by others. -/
def Launch.retask (l : Launch) (t : Nat × Nat) (new : List (Nat × Nat)) : Launch :=
  { l with tasks := l.tasks.flatMap fun x => if x = t then new else [x] }

/-- A core's own task. -/
def State.setTask (s : State) (core : Nat) (t : Option (Nat × Nat × Nat)) : State := s.onCore core fun k => { k with task := t }

/-- The holder of an interval keeps what is left of it. -/
def State.shrinkHolder (s : State) (h : Nat) (t : Nat × Nat) (rest : Option (Nat × Nat)) : State :=
  { s with cores := s.cores.map fun e =>
      if e.2.task = some (h, t) then (e.1, { e.2 with task := rest.map fun r => (h, r) }) else e }

/-- A core takes a launch's oldest task, or its upper part (15 R326). -/
def State.takeTask (s : State) (core : Nat) (l : Launch) : State :=
  match l.tasks with
  | [] => s
  | (a, b) :: _ =>
    let n := b - a
    if n ≤ l.lrec.grain then (s.shrinkHolder l.handle (a, b) none).setTask core (some (l.handle, a, b))
    else
      let m := max (n / 2) l.lrec.grain
      let s := s.shrinkHolder l.handle (a, b) (some (a, b - m))
      let s := s.onLaunch l.handle fun l =>
        { l.retask (a, b) [(a, b - m)] with tasks := (l.retask (a, b) [(a, b - m)]).tasks ++ [(b - m, b)] }
      s.setTask core (some (l.handle, b - m, b))

/-- IDLE_CORE_REQUEST: an idle core gets the task of the eligible launch of highest priority, the oldest among equals, that
fits it; a COSCHED launch is placed whole (15 R326, R327). -/
def idleRequest (core : Nat) (s : State) : State :=
  let want := sortBy (fun l => l.lrec.prio * 2 ^ 64 + l.age) (s.launches.filter fun l => !l.tasks.isEmpty)
  let try_ := fun (l : Launch) =>
    if l.lrec.cosched then
      let cores := s.partCores (((s.jobCtx l.lrec.job).map (·.part)).getD 8)
      if cores.contains core ∧ l.placed = 0 then
        (State.placeAll l.handle cores ((upto (l.lrec.hi - l.lrec.lo)).map (l.lrec.lo + ·)) s).map fun s =>
          (s.onLaunch l.handle fun l => { l with tasks := [] }).entryEnd l.handle
      else none
    else match l.tasks with
      | [] => none
      | (a, _) :: _ => (s.placeOne l.handle core a).map fun _ => s.takeTask core l
  if (s.core core).task.isSome then s else (want.findSome? try_).getD s

/-- CREW_PLACEMENT: a core places the lowest crew index of its own task. -/
def crewPlacement (core : Nat) (s : State) : State :=
  match (s.core core).task with
  | none => s
  | some (h, a, b) =>
    match s.launch h with
    | none => s.setTask core none
    | some l =>
      if !(l.tasks.contains (a, b)) then s.setTask core none
      else match s.placeOne h core a with
        | none => s
        | some s =>
          let rest := if a + 1 < b then [(a + 1, b)] else []
          ((s.onLaunch h fun l => l.retask (a, b) rest).entryEnd h).setTask core (rest.head?.map fun r => (h, r))

/-- STORE_ENTRY_GRANT: a freed entry goes to the oldest request: a spawnw issues again, a CONT record is accepted; a done and a
front-end packet take it when they try again (15 R319). -/
def storeEntryGrant (s : State) : State :=
  if !s.storeFree then s
  else match s.storeWait.find? s.mayServe with
    | some (.spawnw k ts) => s.onCohort k fun c =>
        (c.mapT (fun t => decide (t.st = .waiting .spawn) && ts.contains t.tid) fun t => { t with st := .eligible }).settle
    | some (.cont job addr sys host) => (s.unrequest (.cont job addr sys host)).contRun job addr sys host
    | _ => s

/-! ### wreq (05 R126, 03 R77, 07 R143) -/

/-- The crew's cohorts continue after their wreq with the grant in sD. -/
def Cohort.afterWreq (c : Cohort) (g : Nat) : Cohort :=
  match c.atWreq with
  | none => c
  | some (d, _, n) =>
    (c.setS d (BitVec.ofNat 64 g)).mapT (fun t => t.atWreq.isSome) fun t =>
      { t with st := .eligible, pc := BitVec.ofNat 64 n }

/-- The cohort that takes over an old one's reports: that of its lowest non-exited thread (07 R143). -/
def heirOf (new : List Cohort) (c : Cohort) : Option Nat :=
  let low := leastD 0 (c.live.map (·.tid))
  if c.live = [] then none else (new.find? fun n => n.threads.any fun t => t.tid == low).map (·.key)

/-- The registers of cohorts are read whole. -/
def State.meetRegs (s : State) (keys : List Nat) : State :=
  s.meet ((s.latent.map (·.1)).filter fun x => match x with
    | .vreg k _ _ | .sreg k _ => keys.contains k
    | _ => false)

/-- A change of G: the crew's threads move to new cohorts by %tid; pending reports pass old cohort by old cohort
(notes/assumptions/77.md), and held stores of a speculative crew to the heir of their cohort. The registers that move are read, and
their errors met (10 R233). -/
def State.reslice (s : State) (cr : Crew) (g : Nat) : State :=
  let s := s.meetRegs ((s.cohortsOf cr.key).map (·.key))
  let old := s.cohortsOf cr.key
  let new := seatPlaces (s.usedPlaces cr.core cr.key) (sliceAll { cr with gw := g } old g s.fresh (slicesOf cr.hdr g))
  let s := (old.filter fun c => c.live.isEmpty).foldl (fun s c =>
    c.reports.foldl (fun s r => s.orphan cr c.sub c.place r r.ipc) s) s
  let keys := old.map (·.key)
  let heir := fun (k : Nat) => ((old.find? fun c => c.key == k).bind (heirOf new)).getD k
  let given := new.map fun n =>
    { n with reports := (old.filter fun c => heirOf new c == some n.key).foldl (fun l c => c.reports.foldl mergeReport l) [] }
  let s := s.onCrew cr.key fun cr => { cr with effects := cr.effects.map fun e =>
    { e with cohort := if keys.contains (heir e.cohort) then ((new.head?.map (·.key)).getD 0) else heir e.cohort } }
  { s with
    fresh := s.fresh + new.length, cohorts := s.cohorts.filter (fun c => c.crew != cr.key) ++ given,
    repIn := s.repIn.map (fun r => { r with cohort := heir r.cohort }),
    running := s.running.filter fun e => !(keys.contains e.2) }

/-- WREQ_GRANT: every cohort of the crew waits at a wreq: the grant, and the re-slice when it changes (05 R126). Each old cohort takes
the grant in the sD of its own wreq before the scalars move, so that of cohorts which merge the one of the lowest %tid gives its sD
(notes/assumptions/92.md). -/
def wreqGrant (k : Nat) (s : State) : State :=
  match s.crew k with
  | none => s
  | some cr =>
    let cs := (s.cohortsOf k).filter fun c => !c.live.isEmpty
    if cr.torn ∨ cr.shadow ∨ cr.out.isSome then s
    else match s.wreqWidth cr with
      | none => s
      | some (req, g) =>
        let done := fun (s : State) => s.onCrew k fun cr => { cr with gw := g, lastGrant := g, lastReq := req }
        let pass := fun (s : State) => { s.rewrite (cs.filterMap fun c => c.atWreq.map fun e => .sreg c.key e.1) with cohorts := mapIf (fun c => c.crew == k) (·.afterWreq g) s.cohorts }
        if g = cr.gw then
          done { pass s with cohorts := mapIf (fun c => c.crew == k) Cohort.settle (pass s).cohorts }
        else if s.crewHolds k then
          cs.foldl (fun s c =>
            let pc := ((c.live.head?).map (·.pc.toNat)).getD 0
            s.takeFault c.key (fun t => decide (t.st ≠ .exited)) pc pc (c.live.map fun t => ⟨t.tid, 14, 0, 0xFF + 11 * 256, 0⟩)) s
        else if !(s.crewQuiet k) || s.draining k then s
        else
          let s := done ((pass s).reslice cr g)
          { s with cohorts := mapIf (fun c => c.crew == k) Cohort.settle s.cohorts }

/-- WREQ_GRANT (R126): All cohorts wait at wreq, the grant is computed and the crew re-slices. -/
def execWreqGrant (crew : Nat) (s : State) : Out :=
  .next (wreqGrant crew s)

/-- STORE_ENTRY_GRANT (R319): A freed store entry goes to the oldest waiting request. -/
def execStoreEntryGrant (s : State) : Out :=
  .next (storeEntryGrant s)

/-- IDLE_CORE_REQUEST (R326): An idle core asks for work and takes the upper half of a task. -/
def execIdleCoreRequest (core : Nat) (s : State) : Out :=
  .next (idleRequest core s)

/-- CREW_PLACEMENT (R327): The dispatcher places a crew on a core, clearing its allocation. -/
def execCrewPlacement (core : Nat) (s : State) : Out :=
  .next (crewPlacement core s)

end Sys2Proof.Machine
end

