-- ==== Sys2Proof/Machine/Context.lean ====
section
/-!
DEFINITION. Sys2Proof/Machine/Context.lean: halt and swap of a partition (13 R280-R285), the long-wait swap-out (R286-R289)
and migration (R290-R295).
-/

namespace Sys2Proof.Machine

/-! ### Halt and swap -/

/-- The cores of a partition that have left reset. -/
def State.liveCores (s : State) (p : Nat) : List Nat := (s.partCores p).filter fun k => (s.core k).released

/-- The partition of a core, 8 for none. -/
def State.partOf (s : State) (core : Nat) : Nat := ((upto 8).find? fun p => bit (Tab.read 0 s.part p) (core / 16)).getD 8

/-- A swap exchanges the PJOB items of a partition (16 R342). -/
def State.swapJobs (s : State) (p : Nat) : State :=
  { s with pjob := Tab.putAll 0 s.pjob [(2 * p, Tab.read 0 s.pjob (2 * p + 1)), (2 * p + 1, Tab.read 0 s.pjob (2 * p))] }

/-- The halt of a swap begins on the cores of a partition; with no core that has left reset the contexts exchange at once. -/
def State.beginSwap (s : State) (p : Nat) : State :=
  if s.liveCores p = [] then s.swapJobs p
  else (s.liveCores p).foldl (fun s k => s.onCore k fun x => { x with phase := .halting }) s

/-- Swaps of the hot condition begin once their partition is not halting, and those that bring its context back once no core of it
still swaps (21 R431). -/
def State.heatStart (s : State) : State :=
  let back := fun (p : Nat) => s.heatOut.contains p
  let go := s.heatSwaps.filter fun p =>
    if back p then (s.liveCores p).all fun k => (s.core k).phase != .halting && (s.core k).phase != .halted
    else !(s.partHalting p)
  let out := s.heatOut.filter (fun p => !(go.contains p)) ++ go.filter fun p => !(back p)
  go.foldl (fun s p => s.beginSwap p) { s with heatSwaps := s.heatSwaps.filter (fun p => !(go.contains p)), heatOut := out }

/-- The hot condition begins or ends: the partitions `ps` are to be swapped. -/
def State.heatWant (s : State) (ps : List Nat) : State := ({ s with heatSwaps := ps } : State).heatStart

/-- halt: the swap of a partition, for which the cohort holds (13 R285). -/
def haltRun (i : Info) (d a : Nat) (s : State) : Out :=
  issue i s fun c s =>
    let p := (c.sr a).toNat % 8
    let set := fun (s : State) (x : Dword) =>
      Res.done (s.onCohort c.key fun c => ({ c with haltP := none } : Cohort).setS d x)
    if !s.privileged c then c.all 3 0 ((i.words.headD 0).toNat)
    else match c.haltP with
      | some q => if s.partHalting q then .hold else set s 0
      | none =>
        if Tab.read 0 s.part p % 2 ^ 40 = 0 then set s 1
        else if s.partHalting p then set s 2
        else if s.partOf (s.crewOf c).core = p then set s 3
        else if s.liveCores p = [] then set (s.swapJobs p) 0
        else
          let s := s.beginSwap p
          .held (s.onCohort c.key fun c => { c with haltP := some p })

/-- Has a core finished its halt: every clause, the products under way, every emulation park (13 R281, R282)? -/
def State.haltReady (s : State) (core : Nat) : Bool :=
  !((upto 8).any fun p => (s.cohort (Tab.read 0 s.running (core * 8 + p))).any fun c => c.clause.isSome) &&
  !((upto 4).any fun k => s.arrayRuns core k) &&
  (upto 4).all fun k => (s.residents core k).all fun c => c.emul.isNone

/-- CORE_HALTED: a core reports halted; with the last report the contexts of the partition exchange (13 R281). -/
def coreHalted (core : Nat) (s : State) : State :=
  if (s.core core).phase ≠ .halting ∨ !(s.haltReady core) then s
  else
    let s := s.onCore core fun k => { k with phase := .halted }
    let p := s.partOf core
    if (s.liveCores p).any fun k => (s.core k).phase == .halting then s else s.swapJobs p

/-- Two blocks of `n` keys, `off` apart, exchanged. -/
def Tab.exchange {α : Type} [DecidableEq α] (d : α) (lo n off : Nat) (t : Tab α) : Tab α :=
  let key := fun (k : Nat) =>
    if lo ≤ k ∧ k < lo + n then k + off else if lo + off ≤ k ∧ k < lo + off + n then k - off else k
  Tab.putAll d [] (t.map fun e => (key e.1, e.2))

/-- All dirty private lines of a crew are written back, and its private lines leave L1 (10 R217). -/
def State.privAll (s : State) (k : Nat) : State :=
  let s := s.privOut k fun _ => true
  { s with l1 := s.l1.filter fun l => l.priv != k }

/-- The first of these crews whose private lines the change state of a domain keeps from their homes (10 R230). -/
def State.privStuck (s : State) (ks : List Nat) : Option Nat := ks.find? fun k => s.mustReplay (s.privHomes k fun _ => true)

/-- Work that begins with the write-back of these crews' private lines: while one is NACKed it waits. -/
def State.withPriv (s : State) (core : Nat) (ks : List Nat) (work : State → State) : State :=
  match s.privStuck ks with
  | some k => s.nack core (.writeBack, k)
  | none =>
    let s := ks.foldl (fun s k => s.replayed (.writeBack, k)) s
    work (ks.foldl (fun s k => s.privAll k) s)

/-- A crew changes between the active and the shadow context; an incoming one has its job descriptor read (16 R342). -/
def State.turn (s : State) (cr : Crew) : Crew :=
  if cr.shadow then { cr with shadow := false, waitClk := 0, jd := (s.jobCtx (s.jobOf cr)).getD cr.jd }
  else { cr with shadow := true, waitClk := 0 }

/-- Words of the registers, tiles and slots that a swap of a core reads: those of both contexts (13 R283). -/
def State.swapSites (s : State) (core : Nat) : List Site :=
  (s.latent.map (·.1)).filter fun x => match x with
    | .slot u _ | .tile u _ => u / 64 == core || u / 64 == core + 640
    | .vreg k _ _ | .sreg k _ => (s.cohort k).any fun c => (s.crewOf c).core == core
    | _ => false

/-- SWAP: once every core of the partition has reported, a core saves, flips its banks and resumes (13 R281-R283), but for a swap of
the hot condition, after which it holds (21 R431). -/
def swapCore (core : Nat) (s : State) : State :=
  if (s.core core).phase ≠ .halted ∨ (s.liveCores (s.partOf core)).any (fun k => (s.core k).phase == .halting) then s
  else
    let out := (s.crews.filter fun cr => cr.core == core && !cr.shadow).map (·.key)
    s.withPriv core out fun s =>
    let s := s.meet (s.swapSites core)
    let here := fun (n : Nat) => decide (core * 8 ≤ n ∧ n < core * 8 + 8)
    let hot := s.heatOut.contains (s.partOf core)
    let s : State := { s with
      crews := mapIf (fun cr => cr.core == core) (fun cr => s.turn cr) s.crews,
      cohorts := mapIf (fun c => out.contains c.crew) (fun c => { c with run := 0, chain := false }) s.cohorts,
      slots := Tab.exchange {} (core * 64) 64 40960 s.slots, tiles := Tab.exchange {} (core * 64) 64 40960 s.tiles,
      bins := Tab.exchange {} (core * 32) 32 20480 s.bins, running := Tab.only (fun n => !(here n)) s.running,
      frozen := Tab.only (fun n => !(here n)) s.frozen }
    (s.onCore core fun k => { k with bank := 1 - k.bank, task := none, phase := if hot then .held else .running }).heatStart

/-! ### Long-wait swap-out (13 R286-R289) -/

/-- The bound accumulator names of a crew's cohorts: cohort, sub-core, name, tile. -/
def State.boundTiles (s : State) (k : Nat) : List (Nat × Nat × Nat × Nat) :=
  (s.cohortsOf k).flatMap fun c => c.acc.map fun e => (c.key, c.sub, e.1, e.2 - 1)

/-- The slots that a crew's cohorts have claimed, by key. -/
def State.claimedSlots (s : State) (k : Nat) : List (Nat × Slot) :=
  let keys := (s.cohortsOf k).map (·.key)
  s.slots.filter fun e => keys.contains e.2.owner

/-- Size of a swap-out image (13 R288). -/
def State.imageBytes (s : State) (cr : Crew) : Nat :=
  8192 + ((s.cohortsOf cr.key).map fun c => cr.gw * (4 * (cr.role c.role).v + 48) + 768).sum +
    4096 * (s.boundTiles cr.key).length + 10256 * (s.claimedSlots cr.key).length + 256 * cr.rays.length

/-- Does R286 hold for a crew: it has waited for its threshold, and no load, returning atomic, MTX, FIELD or gather operation
of it is outstanding? -/
def State.spinsOut (s : State) (cr : Crew) : Bool :=
  let spin := ((s.launch cr.launch).map (·.lrec.spin)).getD 0
  spin != 0 && decide (spin * 1024 ≤ cr.waitClk) && s.allWait cr.key && cr.out.isNone && !cr.shadow && !cr.torn &&
  (s.core cr.core).phase == .running &&
  (s.cohortsOf cr.key).all fun c => c.ops.all fun o => !o.load && o.regsV.isEmpty && o.cls != .mtx && o.cls != .gath

/-- Words of the registers, tiles and slots that go into a crew's image. -/
def State.imageSites (s : State) (cr : Crew) : List Site :=
  let tiles := (s.boundTiles cr.key).map fun e => unitIx cr.core e.2.1 e.2.2.2
  (s.latent.map (·.1)).filter fun x => match x with
    | .slot u _ => (s.claimedSlots cr.key).any fun e => e.1 == u
    | .tile u _ => tiles.contains u
    | .vreg k _ _ | .sreg k _ => (s.cohort k).any fun c => c.crew == cr.key
    | _ => false

/-- LONG_WAIT_SWAP_OUT: the crew's register bytes, places, tiles and slots are freed; its allocation, slot and wake record stay
(13 R287). -/
def longWaitSwapOut (k : Nat) (s : State) : State :=
  match s.crew k with
  | none => s
  | some cr =>
    match if s.spinsOut cr then s.freeRun cr.jd (s.imageBytes cr) else none with
    | none => s
    | some run =>
      let s := s.meet (s.imageSites cr)
      let ts := s.boundTiles k
      let zs := s.claimedSlots k
      let keep := ts.map fun e => (e.1, e.2.2.1, s.tile cr.core e.2.1 e.2.2.2)
      let keys := (s.cohortsOf k).map (·.key)
      let s := s.markRun cr.jd run true
      let s := s.onCrew k fun cr => { cr with out := some run, savedTiles := keep, savedSlots := zs }
      { s with
        tiles := Tab.putAll {} s.tiles (ts.map fun e => (unitIx cr.core e.2.1 e.2.2.2, {})),
        slots := Tab.putAll {} s.slots (zs.map fun e => (e.1, { e.2 with owner := 0 })),
        running := s.running.filter fun e => !(keys.contains e.2) }

/-- Can a swapped-out crew sit on its core again: register bytes, places, tiles and its slots (13 R289, 01 R23)? -/
def State.sitsBack (s : State) (cr : Crew) : Bool :=
  cr.savedSlots.all (fun e => (Tab.read {} s.slots e.1).owner == 0) &&
  (upto 4).all fun sub =>
    let here := (s.cohortsOf cr.key).filter fun c => c.sub == sub
    let tiles := (cr.savedTiles.filter fun e => here.any fun c => c.key == e.1).length
    let free := ((upto 16).filter fun t => (s.tile cr.core sub t).owner == 0).length
    decide ((s.residents cr.core sub).length + here.length ≤ 16 ∧ tiles ≤ free) &&
      decide ((here.map fun c => cr.cohortBytes c.role).sum ≤ s.freeRegs cr.core sub)

/-- Saved tiles take free tiles again. -/
def State.bindBack (s : State) (core : Nat) : List (Nat × Nat × Tile) → State
  | [] => s
  | (k, n, t) :: l =>
    match s.cohort k with
    | none => s.bindBack core l
    | some c =>
      match (upto 16).find? fun x => (s.tile core c.sub x).owner == 0 with
      | none => s.bindBack core l
      | some x => ((s.setTile core c.sub x t).onCohort k fun c => { c with acc := Tab.put 0 c.acc n (x + 1) }).bindBack core l

/-- CREW_RETURN: a crew that is ready returns to its core (13 R289). -/
def crewReturn (k : Nat) (s : State) : State :=
  match s.crew k with
  | none => s
  | some cr =>
    match cr.out with
    | none => s
    | some run =>
      if !(s.readyBack cr) || cr.shadow || cr.torn || s.partHalting (s.partOf cr.core) || !(s.sitsBack cr) then s
      else
        let cs := seatPlaces (s.usedPlaces cr.core k) (sortBy (·.cid) (s.cohortsOf k))
        let back := fun (x : Site) => match x with
          | .slot u _ => cr.savedSlots.any fun e => e.1 == u
          | _ => false
        let s : State := { s with
          cohorts := s.cohorts.map (fun c => (cs.find? fun x => x.key == c.key).getD c),
          slots := Tab.putAll {} s.slots cr.savedSlots, latent := s.latent.filter fun e => !(back e.1) }
        (((s.markRun cr.jd run false).bindBack cr.core cr.savedTiles).onCrew k fun cr =>
          { cr with out := none, waitClk := 0, savedTiles := [], savedSlots := [] })

/-! ### Safe points (13 R290) -/

/-- An entry of the safe-point table, as addresses. -/
structure SafePt where
  label : Nat
  save : Nat
  restore : Nat
  deriving DecidableEq, Repr

/-- The safe-point table of a crew's kernel; an entry with a nonzero reserved field gives no safe point (00 R4). -/
def State.safePts (s : State) (cr : Crew) : List SafePt :=
  (upto cr.hdr.spn).filterMap fun n => (s.dispRead cr.jd (cr.hdr.spt + 16 * n) 16).bind fun x =>
    if bitsOf x 96 32 ≠ 0 then none
    else some { label := cr.hdr.text + bitsOf x 0 32, save := cr.hdr.text + bitsOf x 32 32,
                restore := cr.hdr.text + bitsOf x 64 32 }

/-- Is a waiting instruction one of those at which a thread stands at a safe point? -/
def Wait.safe : Wait → Bool
  | .barrier .. | .barsync .. | .queue .. | .wreq .. | .spawn => true
  | _ => false

/-- The instructions of the clause at a header. -/
def State.clauseSize (s : State) (cr : Crew) (h : Nat) : Nat :=
  match s.textWord cr h with
  | .error _ => 0
  | .ok w =>
    let ws := (upto (hCount w)).map fun k => match s.textWord cr (h + 4 * (k + 1)) with
      | .ok x => x
      | .error _ => 0
    (instrsOf ws.length 1 ws).length

/-- The safe point at which a thread stands: none while a copy batch of the crew is paused by a fault (13 R290, R294). -/
def State.standsAt (s : State) (cr : Crew) (pts : List SafePt) (t : Thread) : Option SafePt :=
  if s.batches.any fun b => b.crew == cr.key && b.paused.isSome then none
  else match t.st with
  | .waiting w => if w.safe then
      pts.find? fun e => e.label + 4 == t.pc.toNat && s.clauseSize cr e.label == 1 else none
  | .parked .safePoint | .held | .signed _ | .yielded _ => pts.find? fun e => e.label == t.pc.toNat
  | _ => none

/-! ### Migration (13 R291-R293) -/

/-- Threads parked at safe points go on; each issues the clause of its LABEL before it parks again. -/
def State.unparkSafe (s : State) (k : Nat) : State :=
  let go := fun (c : Cohort) =>
    (c.mapT (fun t => decide (t.st = .parked .safePoint)) fun t => { t with st := .eligible, skipLabel := some t.pc.toNat }).settle
  { s with cohorts := mapIf (fun c => c.crew == k) go s.cohorts }

/-- MIGRATION_REQUEST: the dispatcher or system software asks for a crew to migrate to a core of its partition. -/
def migrationRequest (k core : Nat) (s : State) : State :=
  match s.crew k with
  | none => s
  | some cr =>
    if cr.torn || cr.migrating || s.partOf core != cr.jd.part || !(s.core core).released then s
    else
      let fresh := fun (c : Cohort) => { c with threads := c.threads.map fun t => { t with skipLabel := none } }
      ({ s with cohorts := mapIf (fun c => c.crew == k && cr.mig == .none) fresh s.cohorts } : State).onCrew k fun cr =>
        { cr with mig := .requested core }

/-- MIGRATION_WITHDRAW: before the save step, the parked threads are released. -/
def migrationWithdraw (k : Nat) (s : State) : State :=
  match ((s.crew k).map Crew.mig : Option Mig) with
  | some (.requested _) => (s.unparkSafe k).onCrew k fun cr => { cr with mig := .none }
  | _ => s

/-- Size of a migration record (13 R288). -/
def Crew.recordBytes (cr : Crew) : Nat := 4096 + 32 * cr.hdr.span + 512 * cr.hdr.roles.length

/-- A thread begins its save. -/
def Thread.toSave (t : Thread) (p : SafePt) : Thread :=
  let waits := match t.st with
    | .waiting _ => true
    | _ => false
  { t with st := .eligible, pc := BitVec.ofNat 64 p.save, label := some p.label, waited := waits, cv := 0 }

/-- The save step begins: every thread at the SAVE of its safe point, in a run of frames taken for the record. -/
def State.beginSave (s : State) (cr : Crew) (core : Nat) (pts : List SafePt) (run : Nat × Nat) : State :=
  let save := fun (c : Cohort) => (({ c with sigs := [] } : Cohort).mapT (fun t => decide (t.st ≠ .exited)) fun t =>
    match s.standsAt cr pts t with
    | some p => t.toSave p
    | none => t).settle
  let s := s.markRun cr.jd run true
  let mine := (s.cohortsOf cr.key).map (·.key)
  let stays := fun (r : StoreReq) => match r with
    | .spawnw c _ | .done c _ => !(mine.contains c)
    | _ => true
  ({ s with cohorts := mapIf (fun c => c.crew == cr.key) save s.cohorts, storeWait := s.storeWait.filter stays } : State).onCrew
    cr.key fun cr => { cr with mig := .saving core, frames := some run, qwait := [] }

/-- SAVE_STEP: the judgement of R291, once no thread but those parked is eligible, those that 09 R195 parks among them: the save step,
a release of the parked threads, or neither yet. A crew that is swapped out is judged when it has returned
(notes/assumptions/46.md). -/
def saveStep (k : Nat) (s : State) : State :=
  match s.crew k with
  | none => s
  | some cr =>
    match cr.mig with
    | .requested core =>
      let cs := s.cohortsOf k
      let live := cs.flatMap (·.live)
      if cr.shadow || cr.torn || cr.spec || cr.out.isSome || live.isEmpty || cs.any (fun c => c.live.any c.elig) then s
      else
        let pts := s.safePts cr
        if s.bins.any fun e => e.2.held && e.2.crew == k then (s.flushCrew k).unparkSafe k
        else if live.any (fun t => (s.standsAt cr pts t).isNone) || cs.any (·.tmode) || s.crewHolds k || !cr.rays.isEmpty then
          s.unparkSafe k
        else if cs.any fun c => c.flags != [] || c.outst != [] || c.unacked != [] || !(s.batchesOf c.key).isEmpty then s
        else match s.freeRun cr.jd cr.recordBytes with
          | some run => s.beginSave cr core pts run
          | none => s
    | _ => s

/-- Have all threads of a crew saved, with nothing of theirs under way? -/
def State.savedAll (s : State) (k : Nat) : Bool :=
  let cs := s.cohortsOf k
  cs.any (fun c => !c.live.isEmpty) && cs.all fun c => c.live.all (fun t => decide (t.st = .saved)) && c.clause.isNone &&
    c.ops.isEmpty && c.unacked.isEmpty && c.stream.isEmpty && c.outst.isEmpty && (s.batchesOf c.key).isEmpty &&
    !(s.fabric.any fun p => p.cohort == c.key)

/-- A crew's allocation is copied whole to a base key. -/
def State.copySpad (s : State) (lo dst n : Nat) : State :=
  let at_ := fun (a : Nat) => decide (lo ≤ a ∧ a < lo + n)
  let bs := (s.smem.filter fun e => at_ e.1).map fun e => (e.1 - lo + dst, e.2)
  let s := s.meet ((s.latent.map (·.1)).filter (spadSite lo n))
  let po := (s.sPoison.filter fun e => at_ (4 * e.1)).map fun e => (e.1 - lo / 4 + dst / 4, e.2)
  { s with latent := s.latent.filter (fun e => !(spadSite dst n e.1)), smem := Tab.putAll 0 (Tab.only (fun a => !(decide (dst ≤ a ∧ a < dst + n))) s.smem) bs,
           sPoison := Tab.putAll false (Tab.only (fun a => !(decide (dst ≤ 4 * a ∧ 4 * a < dst + n))) s.sPoison) po }

/-- MIGRATION_RECORD: the record is written, private lines are written back, and the allocation is copied to the new core, where
a crew slot and bytes are free; the old core frees what the crew held, suspended rays of its save routines too (13 R292, 18
R395). -/
def migrationRecord (k : Nat) (s : State) : State :=
  match s.crew k with
  | none => s
  | some cr =>
    match cr.mig with
    | .saving core =>
      if cr.shadow || cr.torn || cr.out.isSome || !(s.savedAll k) || s.crewHolds k || s.partHalting (s.partOf core) then s
      else match s.freeSlot core, s.spadFit core cr.ssize with
        | some slot, some sb =>
          let keys := (s.cohortsOf k).map (·.key)
          s.withPriv cr.core [k] fun s =>
          let s := (s.meet (keys.flatMap fun c => (upto 63).map (.sreg c))).copySpad (s.crewKey cr) (spadKey core (s.core core).bank sb) cr.ssize
          let s := s.onCrew k fun cr => { cr with core := core, slot := slot, sbase := sb, mig := .moving core, rays := [] }
          { s with running := s.running.filter fun e => !(keys.contains e.2) }
        | _, _ => s
    | _ => s

/-- A thread restored: predicates, MR and counted arrivals from the record, PC at the RESTORE of its entry; its other registers are
reset (13 R293). An exited thread stays exited. -/
def Thread.restored (t : Thread) (pts : List SafePt) : Thread :=
  let pc := BitVec.ofNat 64 (((pts.find? fun e => t.label == some e.label).map (·.restore)).getD 0)
  { tid := t.tid, lane := t.lane, mr := t.mr, p := t.p, arrived := t.arrived, st := if t.st = .saved then .eligible else t.st,
    pc := if t.st = .saved then pc else t.pc }

/-- A cohort of a restored crew: scalars of its role's old cohort with the lowest %cid, status of all old cohorts. -/
def Cohort.restored (c : Cohort) (cr : Crew) (old : List Cohort) (pts : List SafePt) : Cohort :=
  let mine := sortBy (·.cid) (old.filter fun x => x.role == c.role)
  let n := (cr.role c.role).s
  let src := mine.headD c
  { c with
    s := Tab.only (fun k => decide (k < n)) src.s, sPoison := Tab.only (fun k => decide (k < n)) src.sPoison,
    fpst := old.foldl (fun m x => m ||| x.fpst) 0, mstat := old.foldl (fun m x => m ||| x.mstat) 0,
    threads := c.threads.map fun t => t.restored pts }

/-- RESTORE_STEP: the crew gets its grant on the new core, whose clean lines drop, so that it observes its earlier writes (12 R276),
and restores itself from its record (13 R293). -/
def restoreStep (k core : Nat) (s : State) : State :=
  match s.crew k with
  | none => s
  | some cr =>
    if cr.mig ≠ .moving core ∨ cr.shadow ∨ cr.torn ∨ s.partHalting (s.partOf core) then s
    else
      let old := s.cohortsOf k
      let b := s.baseSub core
      let cut := fun (g key : Nat) => sliceAll { cr with gw := g, base := b } old g key (slicesOf cr.hdr g)
      match s.grant core b cr.lastReq cr.hdr (fun g => (cut g 0).map fun c => (c.cid, c.role)) k with
      | none => s
      | some g =>
        let pts := s.safePts cr
        let new := seatPlaces (s.usedPlaces core k) ((cut g s.fresh).map fun c => c.restored cr old pts)
        let given := new.map fun n =>
          { n with reports := (old.filter fun c => heirOf new c == some n.key).foldl (fun l c => c.reports.foldl mergeReport l) [] }
        let heir := fun (x : Nat) => ((old.find? fun c => c.key == x).bind (heirOf new)).getD x
        let others := s.crews.filter fun x => x.key != k
        let s : State := { s with icache := (({ s with crews := others } : State).freshText core cr.jd.job cr.hdr).icache }
        let s := s.flash core
        let s : State := { s with
          fresh := s.fresh + new.length, cohorts := s.cohorts.filter (fun c => c.crew != k) ++ given,
          repIn := s.repIn.map fun r => { r with cohort := heir r.cohort } }
        let s := match cr.frames with
          | some run => s.markRun cr.jd run false
          | none => s
        let s := s.onCrew k fun cr =>
          { cr with gw := g, base := b, lastGrant := 0, mig := .none, frames := none, waitClk := 0 }
        { s with cohorts := mapIf (fun c => c.crew == k) Cohort.settle s.cohorts }

/-- HALT (R285): Swap a partition's active and shadow contexts. -/
def execHalt (d a : Nat) (s : State) : Out :=
  haltRun (infoSysda 4 d a) d a s

/-- CORE_HALTED (R281): A core of a swapping partition finishes its halt and reports halted. -/
def execCoreHalted (core : Nat) (s : State) : Out :=
  .next (coreHalted core s)

/-- SWAP (R281): After the last report the core saves, flips banks and resumes the incoming context. -/
def execSwap (core : Nat) (s : State) : Out :=
  .next (swapCore core s)

/-- LONG_WAIT_SWAP_OUT (R286): The spin threshold expires and the waiting crew's registers move to the image area. -/
def execLongWaitSwapOut (crew : Nat) (s : State) : Out :=
  .next (longWaitSwapOut crew s)

/-- CREW_RETURN (R289): A swapped-out crew whose wait is satisfied returns to its core. -/
def execCrewReturn (crew : Nat) (s : State) : Out :=
  .next (crewReturn crew s)

/-- MIGRATION_REQUEST (R291): A migration is requested and threads park at safe points. -/
def execMigrationRequest (crew core : Nat) (s : State) : Out :=
  .next (migrationRequest crew core s)

/-- MIGRATION_WITHDRAW (R291): A request is withdrawn before the save step and parked threads are released. -/
def execMigrationWithdraw (crew : Nat) (s : State) : Out :=
  .next (migrationWithdraw crew s)

/-- SAVE_STEP (R292): All conditions hold and every thread runs its SAVE routine. -/
def execSaveStep (crew : Nat) (s : State) : Out :=
  .next (saveStep crew s)

/-- MIGRATION_RECORD (R292): Every thread is saved; the record is written and the allocation copied. -/
def execMigrationRecord (crew : Nat) (s : State) : Out :=
  .next (migrationRecord crew s)

/-- RESTORE_STEP (R293): The crew is placed on its new core and threads run their RESTORE routines. -/
def execRestoreStep (crew core : Nat) (s : State) : Out :=
  .next (restoreStep crew core s)

end Sys2Proof.Machine
end

