-- ==== Sys2Proof/Machine/System.lean ====
section
/-!
DEFINITION. Sys2Proof/Machine/System.lean: configuration registers (16 R337-R343, 20 R411), replies to parks (09 R198), the
carve-out (10 R215), tlbinv (10 R228) and slsync (10 R231).
-/

namespace Sys2Proof.Machine

/-! ### Configuration registers (16 R337, R338; 20 R411) -/

/-- May crd and cwr name an index? -/
def crdLegal (idx : Nat) : Bool := decide (idx ≤ 20) && idx != 1
def cwrLegal (idx : Nat) : Bool := decide (1 ≤ idx ∧ idx ≤ 16) && idx != 13

/-- Is a register per core? -/
def cfgPerCore (idx : Nat) : Bool := [0, 1, 2, 3, 15, 16, 17].contains idx

/-- Number of ITEM values of a register; 1 for none. -/
def cfgItems (idx : Nat) : Nat :=
  if idx = 2 ∨ idx = 3 then 4 else if idx = 4 ∨ idx = 5 then 16 else if idx = 7 ∨ idx = 8 then 8 else if idx = 9 then 64
  else if idx = 11 ∨ idx = 13 ∨ idx = 15 ∨ idx = 16 then 8 else if idx = 12 then 16 else if idx = 14 then 512
  else if idx = 18 then 128 else if idx = 20 then 64 else 1

/-- CORE and ITEM of a selector, when in range. -/
def cfgSel (idx : Nat) (sel : Dword) : Option (Nat × Nat) :=
  let core := sel.toNat % 1024
  let item := bitsOf sel.toNat 16 9
  if (cfgPerCore idx ∧ 640 ≤ core) ∨ cfgItems idx ≤ item ∨ (idx = 9 ∧ item % 8 = 7) then none else some (core, item)

/-- The bits of a register that are not reserved (16 R339, R341; 20 R411; 00 R4). -/
def cfgMask (idx : Nat) : Nat :=
  if idx = 2 then 0x01FFFFFFFFFFFFF0 else if idx = 3 then 0x8000FFFF001FFFFF else if idx = 4 then 0x1FFFFFFFFF0
  else if idx = 5 then 0x800000000006FFFF else if idx = 7 then 0x01FFFFFF01FFFFFF else if idx = 9 then 0x1FFFFFFFFFF
  else if idx = 11 then 0xFFFFFFFFFF else if idx = 15 then 0x803FF0FF else 0xFFFFFFFFFFFFFFFF

/-- The value of a register. -/
def State.cfg (s : State) (idx core item : Nat) : Nat :=
  let k := s.core core
  let dom := Tab.read {} s.domsNew item
  if idx = 0 then k.octmap else if idx = 2 then Tab.read 0 k.watchA item else if idx = 3 then Tab.read 0 k.watchC item
  else if idx = 4 then Tab.read 0 s.swatchA item else if idx = 5 then Tab.read 0 s.swatchC item
  else if idx = 6 then s.swring else if idx = 7 then dom.base + dom.last * 2 ^ 32
  else if idx = 8 then dom.k + dom.s0 * 2 ^ 8 + Tab.read 0 s.gens item * 2 ^ 16
  else if idx = 9 then Tab.read 0 (Tab.read {} s.domsNew (item / 8)).masks (item % 8)
  else if idx = 10 then s.carve else if idx = 11 then Tab.read 0 s.part item else if idx = 12 then Tab.read 0 s.pjob item
  else if idx = 14 then Tab.read 0 s.emul item else if idx = 15 then Tab.read 0 k.pmsel item
  else if idx = 16 then Tab.read 0 k.pmcnt item else if idx = 17 then k.ecc else if idx = 18 then Tab.read 0 s.slEcc item
  else if idx = 19 then s.replays
  else if idx = 20 then ((s.rings.find? fun r => r.n == item).map (·.torn)).getD 0 else 0

/-- A change of a pending domain (16 R341). -/
def State.onDomNew (s : State) (d : Nat) (f : Dom → Dom) : State :=
  { s with domsNew := Tab.put {} s.domsNew d (f (Tab.read {} s.domsNew d)) }

/-- A change of the carve-out (10 R215): the L2 lines of the ways that it takes are written back, so that every slice keeps what its
other ways hold (notes/assumptions/13.md), and the carve-out bytes of the ways between the two counts are 0. -/
def State.carveSet (s : State) (w : Nat) : State :=
  let lo := min s.carve w * 2 ^ 24
  let hi := max s.carve w * 2 ^ 24
  let zeroed := fun (x : Site) => match x with
    | .chip k => decide (lo ≤ 8 * k ∧ 8 * k < hi)
    | _ => false
  { s with carve := w, l2dirty := s.l2Keep (12 - max s.carve w) (upto 128) [] s.l2dirty,
           cmem := Tab.only (fun a => !(decide (lo ≤ a ∧ a < hi))) s.cmem,
           cPoison := Tab.only (fun a => !(decide (lo ≤ 8 * a ∧ 8 * a < hi))) s.cPoison,
           latent := s.latent.filter fun e => !(zeroed e.1) }

/-- Are crews of a partition placed (16 R342)? -/
def State.partPlaced (s : State) (p : Nat) : Bool := s.crews.any fun cr => !cr.shadow && s.partOf cr.core == p

/-- A write of PART (16 R342). -/
def State.partSet (s : State) (p x : Nat) : State :=
  if ((upto 8).any fun q => q != p && (Tab.read 0 s.part q &&& x) != 0) || (x != Tab.read 0 s.part p && s.partPlaced p) then s
  else { s with part := Tab.put 0 s.part p x }

/-- A write of PJOB (16 R342). -/
def State.pjobSet (s : State) (n x : Nat) : State :=
  let id := fun (pa : Nat) => bitsOf (s.gmem.nat pa 64) 16 16
  let same := fun (m : Nat) =>
    let pa := Tab.read 0 s.pjob m
    m != n && pa != 0 && id pa == id x
  if (x != 0 && (upto 16).any same) || (n % 2 == 0 && x != Tab.read 0 s.pjob n && s.partPlaced (n / 2)) then s
  else { s with pjob := Tab.put 0 s.pjob n x }

/-! ### FREPLY (09 R198; 17 R464) -/

/-- Every record of a park is answered: the word issues again, or XLATE is delivered. -/
def State.parkAnswered (s : State) (k : Nat) : State :=
  match (s.cohort k).bind fun c => c.xpark.map fun p => (c, p) with
  | none => s
  | some (c, p) =>
    if p.recs.any (·.answer.isNone) then s
    else if p.recs.any fun r => r.answer == some true then s.rejectPark c p
    else s.onCohort k fun c =>
      (({ c with xpark := none } : Cohort).mapT (fun t => decide (t.st = .parked .xlate)) fun t =>
        { t with st := .eligible }).settle

/-- A reply to the drain of an effect buffer: RESUME sends the entry again, REJECT drops it with XLATE. -/
def State.drainAnswered (s : State) (c : Cohort) (pos : Nat) (reject : Bool) : State :=
  let s := s.onCohort c.key fun c => { c with drainPark := none }
  if !reject then s
  else
    match (s.crewOf c).effects.find? fun e => e.pos == pos && e.cohort == c.key with
    | none => s
    | some e => (s.onCrew c.crew fun cr => { cr with effects := cr.effects.filter fun x => x.pos != pos }).onCohort c.key
        fun c => { c with drainFault := c.drainFault.or (some (5, e.va)) }

/-- A reply reaches the outstanding record that it names, of a park, a drain or a batch. -/
def State.freply (s : State) (core x : Nat) : State :=
  let place := x % 16
  let sub := bitsOf x 4 2
  let rej := bit x 8
  let seq := bitsOf x 32 32
  let at_ : RecAt := ⟨seq, sub, place⟩
  let on := fun (c : Cohort) => (s.crewOf c).core == core
  let here := fun (c : Cohort) => c.place == place && c.sub == sub && on c
  let open_ := fun (r : XRec) => r.seq == seq && r.answer.isNone
  match s.cohorts.find? fun c => here c && c.xpark.any fun p => p.recs.any open_ with
  | some c =>
    let s := s.onCohort c.key fun c => { c with xpark := c.xpark.map fun p =>
      { p with recs := mapIf open_ (fun r => { r with answer := some rej }) p.recs } }
    s.parkAnswered c.key
  | none =>
    match s.cohorts.find? fun c => on c && c.drainPark.any fun d => d.1 == at_ with
    | some c => s.drainAnswered c ((c.drainPark.map (·.2)).getD 0) rej
    | none =>
      match s.batches.find? fun b => b.paused.any (·.1 == at_) && (s.cohort b.cohort).any on with
      | none => s
      | some b =>
        if rej then s.endBatch b.id ((b.paused.map (·.2)).getD 0) 1
        else { s with batches := mapIf (fun y => y.id == b.id) (fun y => { y with paused := none }) s.batches }

/-! ### crd and cwr -/

/-- A write of a register. -/
def State.cfgSet (s : State) (idx core item x0 : Nat) : State :=
  let x := x0 &&& cfgMask idx
  if idx = 1 then s.freply core x
  else if idx = 2 then s.onCore core fun k => { k with watchA := Tab.put 0 k.watchA item x }
  else if idx = 3 then s.onCore core fun k => { k with watchC := Tab.put 0 k.watchC item x }
  else if idx = 4 then { s with swatchA := Tab.put 0 s.swatchA item x }
  else if idx = 5 then { s with swatchC := Tab.put 0 s.swatchC item x }
  else if idx = 6 then { s with swring := x }
  else if idx = 7 then s.onDomNew item fun d => { d with base := bitsOf x 0 25, last := bitsOf x 32 25 }
  else if idx = 8 then s.onDomNew item fun d => { d with k := bitsOf x 0 3, s0 := bitsOf x 8 7 }
  else if idx = 9 then s.onDomNew (item / 8) fun d => { d with masks := Tab.put 0 d.masks (item % 8) x }
  else if idx = 10 then (if x % 8 = 7 then s else s.carveSet (x % 8))
  else if idx = 11 then s.partSet item x
  else if idx = 12 then s.pjobSet item x
  else if idx = 14 then { s with emul := Tab.put 0 s.emul item x }
  else if idx = 15 then s.onCore core fun k => { k with pmsel := Tab.put 0 k.pmsel item x }
  else if idx = 16 then s.onCore core fun k => { k with pmcnt := Tab.put 0 k.pmcnt item x }
  else s

/-- crd (16 R337): all ones for a selector out of range. -/
def crd (i : Info) (d a idx : Nat) (s : State) : Out :=
  issue i s fun c s =>
    if !crdLegal idx then c.illegal i
    else if !s.privileged c then c.all 3 0 ((i.words.headD 0).toNat)
    else
      let x := match cfgSel idx (c.sr a) with
        | some (core, item) => BitVec.ofNat 64 (s.cfg idx core item)
        | none => BitVec.allOnes 64
      .done (s.onCohort c.key fun c => c.setS d x)

/-- cwr (16 R337): nothing for a selector out of range. -/
def cwr (i : Info) (d a idx : Nat) (s : State) : Out :=
  issue i s fun c s =>
    if !cwrLegal idx then c.illegal i
    else if !s.privileged c then c.all 3 0 ((i.words.headD 0).toNat)
    else match cfgSel idx (c.sr a) with
      | some (core, item) => .done (s.cfgSet idx core item (c.sr d).toNat)
      | none => .done s

/-! ### tlbinv (10 R228) -/

/-- Does a mode of tlbinv drop an entry? -/
def tlbDrops (mode : Nat) (x : Nat) (e : TlbE) : Bool :=
  let va := bitsOf x 16 41 * 65536
  mode == 2 || (e.asid == x % 65536 && (mode == 1 || decide (e.vpage ≤ va ∧ va < e.vpage + e.size)))

/-- Global packets under way of cohorts that used the ASID, all of them in mode 2; the accesses that a tlbinv waits for are
among them. -/
def State.tlbUsers (s : State) (mode x : Nat) : List Nat :=
  let mine := fun (c : Cohort) => mode == 2 || (s.crewOf c).jd.asid == x % 65536
  (s.fabric.filter fun p => p.space == .glob && (s.cohort p.cohort).any mine).map (·.id) ++
    (s.cohorts.filter mine).flatMap fun c => (c.unacked.filter fun u => u.2.any fun x => x % 4 == 0).map (·.1)

/-- Is a packet performed and acknowledged? -/
def State.packetOver (s : State) (id : Nat) : Bool :=
  !(s.fabric.any fun p => p.id == id) && !(s.acks.any fun a => a.id == id) && !(s.cohorts.any fun c => c.unacked.any fun u => u.1 == id)

/-- Entries that a mode names leave every TLB, and walks under way that match are not to be installed. -/
def State.tlbDrop (s : State) (mode x : Nat) : State :=
  { s with tlb := s.tlb.filter (fun e => !(tlbDrops mode x e)),
           walks := mapIf (fun k => tlbDrops mode x ⟨k.core, k.asid, k.vpage, k.size, k.ppage, k.r, k.w, k.x⟩)
             (fun k => { k with install := false }) s.walks }

/-- tlbinv: entries drop, walks under way that match are not to be installed, and the cohort holds for the accesses that used them. -/
def tlbinv (i : Info) (mode a : Nat) (s : State) : Out :=
  issue i s fun c s =>
    if !s.privileged c then c.all 3 0 ((i.words.headD 0).toNat)
    else
      let set := fun (s : State) (w : Option (List Nat)) => s.onCohort c.key fun c => { c with tlbWait := w }
      match c.tlbWait with
      | some ids => if ids.all s.packetOver then .done (set s none) else .hold
      | none =>
        let x := (c.sr a).toNat
        match s.tlbUsers mode x with
        | [] => .done (s.tlbDrop mode x)
        | ids => .held (set (s.tlbDrop mode x) (some ids))

/-! ### slsync (10 R231) -/

/-- Are the pending fields of a domain invalid? -/
def State.domInvalid (s : State) (d : Nat) : Bool :=
  let n := Tab.read {} s.domsNew d
  n.s0 % 2 ^ n.k != 0 || decide (128 < n.s0 + 2 ^ n.k) ||
    (upto d).any fun e =>
      let o := Tab.read {} s.doms e
      decide (n.base ≤ n.last ∧ o.base ≤ o.last ∧ n.base ≤ o.last ∧ o.base ≤ n.last)

/-- slsync: the slices enter the change state, for which the cohort holds; then the domain takes its pending fields, and sD counts the
dirty lines written back. One domain changes at a time. -/
def slsync (i : Info) (d a : Nat) (s : State) : Out :=
  issue i s fun c s =>
    if !s.privileged c then c.all 3 0 ((i.words.headD 0).toNat)
    else
      let n := (c.sr a).toNat % 8
      match c.sync with
      | some e =>
        let r := s.syncEnd e.1 e.2
        .done (r.1.onCohort c.key fun c => ({ c with sync := none } : Cohort).setS d (BitVec.ofNat 64 r.2))
      | none =>
        let new := Tab.read {} s.domsNew n
        if s.domInvalid n then .done (s.onCohort c.key fun c => c.setS d (BitVec.allOnes 64))
        else if s.changing ≠ [] then .hold
        else .held (({ s with changing := s.domAffected n new } : State).onCohort c.key fun c => { c with sync := some (n, new) })

/-- CRD (R337): Read a configuration register. -/
def execCrd (d a idx : Nat) (s : State) : Out :=
  crd (infoCrd 0 d a idx) d a idx s

/-- CWR (R337): Write a configuration register without behaviour of its own. -/
def execCwr (d a idx : Nat) (s : State) : Out :=
  cwr (infoCwr 1 d a idx) d a idx s

/-- FREPLY_RESUME (R198): Answer an XLATE record with RESUME; when all are answered the word re-issues. -/
def execFreplyResume (d a : Nat) (s : State) : Out :=
  cwr (infoCwri 1 1 d a) d a 1 s

/-- FREPLY_REJECT (R198): Answer an XLATE record with REJECT, delivering XLATE or ending a copy batch. -/
def execFreplyReject (d a : Nat) (s : State) : Out :=
  cwr (infoCwri 1 1 d a) d a 1 s

/-- CARVE (R215): Change the carve-out way count, writing back and clearing the changed ways. -/
def execCarve (d a : Nat) (s : State) : Out :=
  cwr (infoCwri 1 10 d a) d a 10 s

/-- PJOB (R342): Write a partition's job descriptor item, refused when it would conflict. -/
def execPjob (d a : Nat) (s : State) : Out :=
  cwr (infoCwri 1 12 d a) d a 12 s

/-- TLBINV_PAGE (R228): Invalidate one page's TLB entries in an ASID and hold until users drain. -/
def execTlbinvPage (a : Nat) (s : State) : Out :=
  tlbinv (infoTlbinv 2 0 a) 0 a s

/-- TLBINV_ASID (R228): Invalidate all TLB entries of an ASID. -/
def execTlbinvAsid (a : Nat) (s : State) : Out :=
  tlbinv (infoTlbinv 2 1 a) 1 a s

/-- TLBINV_ALL (R228): Invalidate every TLB entry. -/
def execTlbinvAll (a : Nat) (s : State) : Out :=
  tlbinv (infoTlbinv 2 2 a) 2 a s

/-- SLSYNC (R231): Apply an interleave domain's pending fields across the device. -/
def execSlsync (d a : Nat) (s : State) : Out :=
  slsync (infoSysda 3 d a) d a s

end Sys2Proof.Machine
end

