-- ==== Sys2Proof/Machine/Efc.lean ====
section
/-!
DEFINITION. Sys2Proof/Machine/Efc.lean: EFC arithmetic and codes (18 R374-R380), brick maps (R385-R387).
-/

namespace Sys2Proof.Machine

/-! ### Exact values with infinities (18 R376) -/

/-- An exact value or an infinity. -/
inductive EX where
  | fin (x : X)
  | inf (neg : Bool)
  deriving DecidableEq, Repr

/-- The value of an FP32 code that is no NaN. -/
def ex (c : Nat) : EX :=
  match fp32.val c with
  | .inf n => .inf n
  | v => .fin v.x

def ex0 : EX := .fin (X.ofInt 0)
def fpInf : Nat := 0x7F800000
def fpNegInf : Nat := 0xFF800000

def EX.neg : EX → EX
  | .fin x => .fin x.neg
  | .inf n => .inf (!n)
def EX.abs : EX → EX
  | .fin x => .fin x.abs
  | .inf _ => .inf false
def EX.isZero : EX → Bool
  | .fin x => x.n == 0
  | .inf _ => false
def EX.sgn : EX → Int
  | .fin x => x.sgn
  | .inf n => if n then -1 else 1
def EX.le : EX → EX → Bool
  | .inf true, _ => true
  | _, .inf false => true
  | .fin x, .fin y => x.le y
  | _, _ => false
def EX.lt (a b : EX) : Bool := !(b.le a)
def EX.min (a b : EX) : EX := if a.le b then a else b
def EX.max (a b : EX) : EX := if a.le b then b else a
/-- A sum; opposite infinities give the infinity of the sign `neg`. -/
def EX.add (neg : Bool) : EX → EX → EX
  | .fin x, .fin y => .fin (x.add y)
  | .inf m, .inf n => if m == n then .inf m else .inf neg
  | .inf m, _ => .inf m
  | _, .inf n => .inf n
/-- A sum in point mode: none for a NaN. -/
def EX.addP : EX → EX → Option EX
  | .inf m, .inf n => if m == n then some (.inf m) else none
  | a, b => some (a.add false b)
/-- A product in which 0 times an infinity counts as 0. -/
def EX.mul (a b : EX) : EX :=
  if a.isZero || b.isZero then ex0
  else match a, b with
  | .fin x, .fin y => .fin (x.mul y)
  | _, _ => .inf (decide (a.sgn ≠ b.sgn))
/-- A product in point mode. -/
def EX.mulP (a b : EX) : Option EX :=
  match a, b with
  | .inf _, b => if b.isZero then none else some (a.mul b)
  | a, .inf _ => if a.isZero then none else some (a.mul b)
  | _, _ => some (a.mul b)
/-- One rounding to an FP32 code. -/
def EX.rnd (r : Rnd) : EX → Nat
  | .fin x => (fp32.round r x).1
  | .inf n => if n then fpNegInf else fpInf
/-- The rounded square root of a value, of 0 for one below it. -/
def EX.sqrtR (r : Rnd) : EX → Nat
  | .fin x => if x.n ≤ 0 then 0 else (fp32.round r x.sqrt).1
  | .inf n => if n then 0 else fpInf

/-- Code operations: sign, magnitude, order with -0 below +0. -/
def cneg (c : Nat) : Nat := c ^^^ 2147483648
def cabs (c : Nat) : Nat := c % 2147483648
def cmin (a b : Nat) : Nat := if fp32.key a ≤ fp32.key b then a else b
def cmax (a b : Nat) : Nat := if fp32.key a ≤ fp32.key b then b else a
/-- Is a code finite? -/
def cfin (c : Nat) : Bool := (fp32.val c).isFin

/-- The smallest and greatest of a nonempty list. -/
def exMin : List EX → EX
  | [] => ex0
  | [x] => x
  | x :: xs => x.min (exMin xs)
def exMax : List EX → EX
  | [] => ex0
  | [x] => x
  | x :: xs => x.max (exMax xs)

/-! ### Intervals (18 R378, R380) -/

/-- ABS-bounds. -/
def absB (v : Nat × Nat) : Nat × Nat :=
  if (ex0).le (ex v.1) then v else if (ex v.2).le ex0 then (cneg v.2, cneg v.1) else (0, cmax (cneg v.1) v.2)

/-- Sum and difference of intervals. -/
def ivAdd (a b : Nat × Nat) : Nat × Nat :=
  (((ex a.1).add true (ex b.1)).rnd .dn, ((ex a.2).add false (ex b.2)).rnd .up)
def ivNeg (a : Nat × Nat) : Nat × Nat := (cneg a.2, cneg a.1)
def ivSub (a b : Nat × Nat) : Nat × Nat := ivAdd a (ivNeg b)
def ivMul (a b : Nat × Nat) : Nat × Nat :=
  let ps := [(ex a.1).mul (ex b.1), (ex a.1).mul (ex b.2), (ex a.2).mul (ex b.1), (ex a.2).mul (ex b.2)]
  ((exMin ps).rnd .dn, (exMax ps).rnd .up)
def ivSqr (a : Nat × Nat) : Nat × Nat :=
  let m := absB a
  (((ex m.1).mul (ex m.1)).rnd .dn, ((ex m.2).mul (ex m.2)).rnd .up)
def ivSqrt (a : Nat × Nat) : Nat × Nat := ((ex a.1).sqrtR .dn, (ex a.2).sqrtR .up)
def ivMin (a b : Nat × Nat) : Nat × Nat := (cmin a.1 b.1, cmin a.2 b.2)
def ivMax (a b : Nat × Nat) : Nat × Nat := (cmax a.1 b.1, cmax a.2 b.2)
/-- LEN2 and LEN3. -/
def ivLen (l : List (Nat × Nat)) : Nat × Nat :=
  let sq := fun (c : Nat) => (ex c).mul (ex c)
  let bs := l.map absB
  ((bs.foldl (fun (m : EX) b => m.add true (sq b.1)) ex0).sqrtR .dn,
   (bs.foldl (fun (m : EX) b => m.add false (sq b.2)) ex0).sqrtR .up)
/-- g^2/(4k), rounded. -/
def smoothTerm (r : Rnd) (g k : Nat) : Nat :=
  match ex g with
  | .inf _ => fpInf
  | .fin x => (fp32.round r ((x.mul x).div ((fp32.val k).x.mul (X.ofInt 4)))).1
/-- SMIN (18 R380). -/
def ivSmin (k : Nat) (a b : Nat × Nat) : Nat × Nat :=
  let dlo := (ex a.1).add true (ex b.2).neg
  let dhi := (ex a.2).add false (ex b.1).neg
  let least := if dlo.le ex0 && ex0.le dhi then ex0 else dlo.abs.min dhi.abs
  let g := fun (r q : Rnd) (d : EX) => ((EX.fin (fp32.val k).x).add true (ex (d.rnd r)).neg).rnd q
  let pos := fun (c : Nat) => if (ex c).le ex0 then 0 else c
  let gl := pos (g .dn .up least)
  let gh := pos (g .up .dn (dlo.abs.max dhi.abs))
  let m := ivMin a b
  (((ex m.1).add true (ex (smoothTerm .up gl k)).neg).rnd .dn, ((ex m.2).add false (ex (smoothTerm .dn gh k)).neg).rnd .up)

/-! ### Affine elements (18 R379) -/

/-- The interval of an element. -/
def EVal.iv_ : EVal → Nat × Nat
  | .pt c => (c, c)
  | .iv l h => (l, h)
  | .af c a e =>
    let r := (ex a).abs.add false (ex e)
    (((ex c).add true r.neg).rnd .dn, ((ex c).add false r).rnd .up)

/-- The widest element. -/
def afTop : EVal := .af 0 0 fpInf

/-- A linear operation's element from its exact centre, coefficient and error. -/
def afLin (c a e : EX) : EVal :=
  let c' := c.rnd .ne
  let a' := a.rnd .ne
  if !cfin c' || !cfin a' then afTop
  else .af c' a' (((e.add false ((c.add false (ex c').neg).abs)).add false ((a.add false (ex a').neg).abs)).rnd .up)

/-- The fold of an interval. -/
def afFold (v : Nat × Nat) : EVal :=
  match ex v.1, ex v.2 with
  | .fin l, .fin h =>
    let c := (fp32.round .ne (l.add h).half).1
    let x := (fp32.val c).x
    .af c 0 (((EX.fin (h.sub x)).max (.fin (x.sub l))).rnd .up)
  | _, _ => afTop

/-- Centre, coefficient and error as exact values. -/
def EVal.parts : EVal → EX × EX × EX
  | .af c a e => (ex c, ex a, ex e)
  | .pt c => (ex c, ex0, ex0)
  | .iv l _ => (ex l, ex0, ex0)

def afAdd (neg : Bool) (x y : EVal) : EVal :=
  let p := x.parts
  let q := y.parts
  let f := fun (v : EX) => if neg then v.neg else v
  afLin (p.1.add false (f q.1)) (p.2.1.add false (f q.2.1)) (p.2.2.add false q.2.2)
def afMul (x y : EVal) : EVal :=
  let (c1, a1, e1) := x.parts
  let (c2, a2, e2) := y.parts
  let s := fun (a b : EX) => EX.add false a b
  afLin (c1.mul c2) (s (c1.mul a2) (c2.mul a1))
    (s (s (s (a1.mul a2).abs ((s c1.abs a1.abs).mul e2)) ((s c2.abs a2.abs).mul e1)) (e1.mul e2))
def afNeg : EVal → EVal
  | .af c a e => .af (cneg c) (cneg a) e
  | v => v
def afAbs (v : EVal) : EVal :=
  let b := v.iv_
  if ex0.le (ex b.1) then v else if (ex b.2).le ex0 then afNeg v else afFold (absB b)
def afMin (x y : EVal) : EVal :=
  let p := x.iv_
  let q := y.iv_
  if (ex p.2).le (ex q.1) then x else if (ex q.2).lt (ex p.1) then y else afFold (ivMin p q)
def afMax (x y : EVal) : EVal :=
  let p := x.iv_
  let q := y.iv_
  if (ex q.2).le (ex p.1) then x else if (ex p.2).lt (ex q.1) then y else afFold (ivMax p q)
/-- h1 ≤ l2 - k, exactly. -/
def clear_ (k h1 l2 : Nat) : Bool := (ex h1).le ((ex l2).add true (ex k).neg)
def afSmin (k : Nat) (x y : EVal) : EVal :=
  let p := x.iv_
  let q := y.iv_
  if clear_ k p.2 q.1 then x else if clear_ k q.2 p.1 then y else afFold (ivSmin k p q)

/-! ### Point values -/

/-- A rounded sum and product of codes; none for a NaN. -/
def ptAdd (a b : Nat) : Option Nat := ((ex a).addP (ex b)).map (·.rnd .ne)
def ptMul (a b : Nat) : Option Nat := ((ex a).mulP (ex b)).map (·.rnd .ne)
def ptLen (l : List Nat) : Option Nat :=
  let sq := fun (c : Nat) => (ex c).mul (ex c)
  some ((l.foldl (fun (m : EX) c => m.add false (sq c)) ex0).sqrtR .ne)
def ptSmin (k a b : Nat) : Option Nat :=
  (ptAdd a (cneg b)).bind fun d =>
    (ptAdd k (cneg (cabs d))).bind fun g0 =>
      ptAdd (cmin a b) (cneg (smoothTerm .ne (if (ex g0).le ex0 then 0 else g0) k))

/-! ### Brick maps (18 R385-R387) -/

/-- A brick map record as read. -/
structure BMap where
  org : List X
  vox : X
  dim : List Nat
  index : Nat
  pool : Nat
  empty : Nat
  minv : Nat
  deriving DecidableEq, Repr

/-- A brick map record from its bits; none when malformed. -/
def bmapOf (x : Nat) : Option BMap :=
  let f := fun (k : Nat) => bitsOf x (32 * k) 32
  let dim := [bitsOf x 128 16, bitsOf x 144 16, bitsOf x 160 16]
  let vox := fp32.val (f 3)
  if !vox.isFin || vox.negQ || vox.isZero || !([f 0, f 1, f 2].all cfin) || dim.contains 0 || bitsOf x 176 16 != 0 ||
      bitsOf x 249 7 != 0 || bitsOf x 313 7 != 0 || bitsOf x 384 128 != 0 then none
  else some { org := [f 0, f 1, f 2].map fun c => (fp32.val c).x, vox := vox.x, dim := dim, index := bitsOf x 192 57,
              pool := bitsOf x 256 57, empty := f 10, minv := f 11 }

/-- Why an evaluation ends early: STATUS and the DETAIL of a report, 0 for none. -/
abbrev Bad := Nat × Nat

/-- Bricks read, to enter the brick cache: physical address and bytes. -/
abbrev Bricks := List (Nat × List Byte)

/-- What an evaluation has read: ranges of memory by virtual address, of the crew's scratchpad by offset, and bricks. -/
structure Reads where
  mem : List (Nat × Nat) := []
  own : List (Nat × Nat) := []
  bricks : Bricks := []

/-- An evaluation that reads memory and may end early. -/
abbrev Rd (α : Type) : Type := ExceptT Bad (StateM Reads) α

/-- Its outcome, with what it has read. -/
def Rd.out {α : Type} (m : Rd α) : Except Bad α × Reads := StateT.run (ExceptT.run m) {}

/-- An outcome that is known. -/
def Rd.of {α : Type} (x : Except Bad α) : Rd α := ExceptT.mk (pure x)

/-- It ends early. -/
def Rd.fail {α : Type} (b : Bad) : Rd α := Rd.of (.error b)

/-- An evaluation whose early end is looked at. -/
def Rd.attempt {α : Type} (m : Rd α) : Rd (Except Bad α) := ExceptT.mk (Except.ok <$> ExceptT.run m)

/-- A range of memory is read. -/
def Rd.note (va n : Nat) : Rd Unit := modify fun r => { r with mem := r.mem ++ [(va, n)] }

/-- A range of the crew's scratchpad is read. -/
def Rd.noteOwn (off n : Nat) : Rd Unit := modify fun r => { r with own := r.own ++ [(off, n)] }

/-- A brick is read. -/
def Rd.brick (b : Nat × List Byte) : Rd Unit := modify fun r => { r with bricks := r.bricks ++ [b] }

/-- An engine's read of the FIELD group: FAULT with a DETAIL, 4 for poisoned data (18 R386). -/
def State.fieldRead (s : State) (cr : Crew) (va n det : Nat) : Except Bad Nat :=
  match s.readVa cr.core cr.jd va n with
  | .error _ => .error (9, det)
  | .ok bs => if bs.any (·.2) then .error (9, 4) else .ok (leNat (bs.map (·.1)))

/-- Such a read in an evaluation. -/
def State.fieldGet (s : State) (cr : Crew) (va n det : Nat) : Rd Nat := do
  Rd.note va n
  Rd.of (s.fieldRead cr va n det)

/-- The bytes of a brick with their poison: the cached copy, or memory's; with its physical address. -/
def State.brickRaw (s : State) (cr : Crew) (va : Nat) : Rd (Nat × List (Byte × Bool)) :=
  match s.translate cr.core cr.jd va .read with
  | .error _ => Rd.fail (9, 3)
  | .ok pa =>
    match s.bricks.find? fun b => b.core == cr.core && b.addr == pa with
    | some b => pure (pa, b.data.map fun x => (x, false))
    | none => do
      Rd.note va 2000
      match s.readVa cr.core cr.jd va 2000 with
      | .error _ => Rd.fail (9, 3)
      | .ok bs => pure (pa, bs)

/-- The bytes of a brick of which none is poisoned. -/
def State.brickAt (s : State) (cr : Crew) (va : Nat) : Rd (Nat × List Byte) := do
  let r ← s.brickRaw cr va
  if r.2.any (·.2) then Rd.fail (9, 4) else pure (r.1, r.2.map (·.1))

/-- The number of a brick in its pool, none for an empty one. -/
def State.brickIx (s : State) (cr : Crew) (m : BMap) (b : List Nat) : Rd (Option Nat) := do
  let n := b.getD 0 0 + m.dim.getD 0 1 * (b.getD 1 0 + m.dim.getD 1 1 * b.getD 2 0)
  let x ← s.fieldGet cr (m.index + 4 * n) 4 3
  pure (if x = 0xFFFFFFFF then none else some x)

/-- The first byte of the sample at a local index, each coordinate from -1 to 8. -/
def sampleAt (l : List Int) : Nat :=
  let k := fun (n : Nat) => (l.getD n 0 + 1).toNat
  2 * (k 2 * 100 + k 1 * 10 + k 0)

/-- Its FP16 code. -/
def brickSample (bs : List Byte) (l : List Int) : Nat := leNat ((bs.drop (sampleAt l)).take 2)

/-- The samples that a blend at local coordinates reads, with their weights. -/
def corners (l : List X) : List (List Int × X) :=
  let c := l.map fun x => Min.min x.floor 7
  let f := (List.zip l c).map fun e => e.1.sub (X.ofInt e.2)
  (upto 8).map fun n =>
    ((upto 3).map fun k => c.getD k 0 + (if bit n k then 1 else 0),
     (upto 3).foldl (fun (w : X) k =>
      let x := f.getD k (X.ofInt 0)
      w.mul (if bit n k then x else (X.ofInt 1).sub x)) (X.ofInt 1))

/-- The trilinear blend of a brick at local coordinates, exact; none where a sample read is not finite. -/
def trilinear (bs : List Byte) (l : List X) : Option X :=
  let cs := (corners l).map fun e => (fp16.val (brickSample bs e.1), e.2)
  if cs.all fun e => e.1.isFin then some (X.sum (cs.map fun e => e.1.x.mul e.2)) else none

/-- Is a brick coordinate inside the map? -/
def BMap.has (m : BMap) (b : List Int) : Bool :=
  (upto 3).all fun k => decide (0 ≤ b.getD k 0 ∧ b.getD k 0 < (m.dim.getD k 0 : Nat))

/-- Map coordinates of a position. -/
def BMap.coord (m : BMap) (p : List X) : List X := (List.zip p m.org).map fun e => (e.1.sub e.2).div m.vox

/-- What a position finds: its brick, by a way of reading one, with the brick coordinates, or emptiness. -/
def State.brickFindBy {α : Type} (s : State) (cr : Crew) (m : BMap) (g : List X) (read : Nat → Rd (Nat × α)) :
    Rd (Option (Nat × α × List Int)) := do
  let b := g.map fun x => x.floor / 8
  if !(m.has b) then pure none
  else match ← s.brickIx cr m (b.map Int.toNat) with
    | none => pure none
    | some n => do
      let r ← read (m.pool + 2048 * n)
      pure (some (r.1, r.2, b))

/-- Local coordinates in a brick. -/
def localOf (g : List X) (b : List Int) : List X := (List.zip g b).map fun e => e.1.sub (X.ofInt (8 * e.2))

/-- A bound that a record gives as a NaN is open (notes/assumptions/14.md). -/
def openBound (c : Nat) : Nat :=
  if (fp32.val c).isNan then
    (let w := (Config.fieldOpen 0 c).toNat
     if (fp32.val w).isNan then fpNegInf else w)
  else c

/-- BRICK in point mode: the code, none for a NaN. -/
def State.brickPoint (s : State) (cr : Crew) (m : BMap) (p : List Nat) : Rd (Option Nat) := do
  let out := if (fp32.val m.empty).isNan then none else some m.empty
  if !(p.all cfin) then pure out
  else
    let g := m.coord (p.map fun c => (fp32.val c).x)
    match ← s.brickFindBy cr m g (s.brickAt cr) with
    | none => pure out
    | some (pa, bs, b) => do
      Rd.brick (pa, bs)
      pure ((trilinear bs (localOf g b)).map fun x => (fp32.round .ne x).1)

/-- The integers from `a` to `b`. -/
def ints (a b : Int) : List Int := (upto (b - a + 1).toNat).map fun (k : Nat) => a + (k : Int)

/-- All triples of three lists, the first varying fastest. -/
def triples (l : List (List Int)) : List (List Int) :=
  (l.getD 2 []).flatMap fun z => (l.getD 1 []).flatMap fun y => (l.getD 0 []).map fun x => [x, y, z]

/-- The hull of two intervals. -/
def hull (a b : Nat × Nat) : Nat × Nat := (cmin a.1 b.1, cmax a.2 b.2)

/-- The hull of the samples of brick `b` that a box covers; none where one is not finite. -/
def brickHull (bs : List Byte) (b : List Int) (lo hi : List Int) : Option (Nat × Nat) :=
  let axis := fun (k : Nat) =>
    let o := 8 * b.getD k 0
    ints (Max.max (lo.getD k 0) o - o) (Min.min (hi.getD k 0 + 1) (o + 8) - o)
  let cs := (triples ((upto 3).map axis)).map fun l => cvtFloat fp16 fp32 (brickSample bs l)
  if cs.all fun c => cfin c.1 then
    (match cs with
     | [] => some (fpInf, fpNegInf)
     | c :: r => some (r.foldl (fun m x => hull m (x.1, x.1)) (c.1, c.1)))
  else none

/-- The contribution of one covered brick. -/
def State.brickPart (s : State) (cr : Crew) (m : BMap) (lo hi b : List Int) : Rd (Nat × Nat) := do
  let gone := (openBound m.empty, fpInf)
  if !(m.has b) then pure gone
  else match ← s.brickIx cr m (b.map Int.toNat) with
    | none => pure gone
    | some n => do
      let r ← s.brickAt cr (m.pool + 2048 * n)
      Rd.brick r
      pure ((brickHull r.2 b lo hi).getD (fpNegInf, fpInf))

/-- BRICK over a box of positions: the hull of what the covered bricks contribute. -/
def State.brickBox (s : State) (cr : Crew) (m : BMap) (p : List (Nat × Nat)) : Rd (Nat × Nat) := do
  let wide := (openBound m.minv, fpInf)
  if !(p.all fun v => cfin v.1 && cfin v.2) then pure wide
  else
    let at_ := fun (f : Nat × Nat → Nat) => (m.coord (p.map fun v => (fp32.val (f v)).x)).map X.floor
    let lo := at_ Prod.fst
    let hi := at_ Prod.snd
    let span : List Nat := (List.zip lo hi).map fun e => (e.2 / 8 - e.1 / 8 + 1).toNat
    if 8 < span.foldl (· * ·) (1 : Nat) then pure wide
    else
      match ← (triples ((List.zip lo hi).map fun e => ints (e.1 / 8) (e.2 / 8))).mapM (s.brickPart cr m lo hi) with
      | [] => pure wide
      | v :: vs => pure (vs.foldl hull v)

/-! ### Programs (18 R377, R378) -/

/-- What the codes of one instance's program see: mode, program bytes, base position, its exact ends, and the tables. -/
structure Efc where
  mode : Nat
  code : List Nat
  base : List EVal
  ends : List (X × X)
  vtab : Nat
  xtab : Nat
  bmap : Nat
  nbmap : Nat

/-- The evaluation's place, stack (top first) and position. -/
structure EfcSt where
  pc : Nat := 0
  est : List EVal := []
  cur : List EVal

/-- Operand bytes, pops and pushes of a code. -/
def efcArity (op : Nat) : Option (Nat × Nat × Nat) :=
  if op = 1 ∨ op = 2 ∨ op = 3 then some (0, 0, 1)
  else if op = 4 then some (4, 0, 1)
  else if op = 5 ∨ op = 6 ∨ op = 7 ∨ op = 12 ∨ op = 13 ∨ op = 16 then some (0, 2, 1)
  else if op = 8 ∨ op = 9 ∨ op = 10 ∨ op = 11 then some (0, 1, 1)
  else if op = 14 then some (0, 1, 2) else if op = 15 then some (0, 2, 2)
  else if op = 17 then some (0, 3, 1) else if op = 18 then some (4, 2, 1)
  else if op = 19 ∨ op = 20 then some (1, 0, 0) else if op = 21 then some (0, 0, 0)
  else if op = 22 then some (12, 0, 1) else if op = 23 ∨ op = 24 ∨ op = 25 then some (2, 0, 1)
  else none

/-- One code's outcome, where the evaluation does not end early. -/
inductive EfcOut where
  | next (st : EfcSt)
  | value (v : EVal)
  | call (id : Nat) (st : EfcSt)

/-- Unary, binary and ternary codes on elements of the mode; `none` is a NaN in point mode. -/
def efcOp1 (op : Nat) (v : EVal) : Option EVal :=
  match v with
  | .pt a =>
    (if op = 8 then some (cneg a) else if op = 9 then some (cabs a) else if op = 10 then ptMul a a
     else some ((ex a).sqrtR .ne)).map .pt
  | .iv l h =>
    let r := if op = 8 then ivNeg (l, h) else if op = 9 then absB (l, h) else if op = 10 then ivSqr (l, h)
      else ivSqrt (l, h)
    some (.iv r.1 r.2)
  | .af .. =>
    some (if op = 8 then afNeg v else if op = 9 then afAbs v else if op = 10 then afMul v v else afFold (ivSqrt v.iv_))

def efcOp2 (op k : Nat) (a b : EVal) : Option EVal :=
  match a, b with
  | .pt x, .pt y =>
    (if op = 5 then ptAdd x y else if op = 6 then ptAdd x (cneg y) else if op = 7 then ptMul x y
     else if op = 12 then some (cmin x y) else if op = 13 then some (cmax x y) else if op = 16 then ptLen [x, y]
     else ptSmin k x y).map .pt
  | .iv .., .iv .. =>
    let p := a.iv_
    let q := b.iv_
    let r := if op = 5 then ivAdd p q else if op = 6 then ivSub p q else if op = 7 then ivMul p q
      else if op = 12 then ivMin p q else if op = 13 then ivMax p q else if op = 16 then ivLen [p, q] else ivSmin k p q
    some (.iv r.1 r.2)
  | _, _ =>
    some (if op = 5 then afAdd false a b else if op = 6 then afAdd true a b else if op = 7 then afMul a b
      else if op = 12 then afMin a b else if op = 13 then afMax a b else if op = 16 then afFold (ivLen [a.iv_, b.iv_])
      else afSmin k a b)

def efcLen3 (a b c : EVal) : Option EVal :=
  match a, b, c with
  | .pt x, .pt y, .pt z => (ptLen [x, y, z]).map .pt
  | .iv .., .iv .., .iv .. =>
    let r := ivLen [a.iv_, b.iv_, c.iv_]
    some (.iv r.1 r.2)
  | _, _, _ => some (afFold (ivLen [a.iv_, b.iv_, c.iv_]))

/-- A constant of the mode. -/
def efcConst (mode c : Nat) : EVal := if mode = 0 then .pt c else if mode = 1 then .iv c c else .af c 0 0

/-- BOXD at the current position. -/
def efcBox (mode : Nat) (cur : List EVal) (h : List Nat) : Option EVal :=
  let ps := List.zip cur h
  if mode = 0 then
    let xs := ps.map fun e => (ex e.1.iv_.1).abs.addP (ex (cneg e.2))
    if xs.any (·.isNone) then none else some (.pt ((exMax (xs.filterMap id)).rnd .ne))
  else if mode = 1 then
    let bs := ps.map fun e => ivSub (absB e.1.iv_) (e.2, e.2)
    match bs with
    | [] => none
    | b :: r =>
      let m := r.foldl ivMax b
      some (.iv m.1 m.2)
  else
    match ps.map fun e => afAdd true (afAbs e.1) (.af e.2 0 0) with
    | [] => none
    | b :: r => some (r.foldl afMax b)

/-- The FP32 codes of a table entry; BADSCENE when one is not finite. -/
def State.efcTable (s : State) (cr : Crew) (va n : Nat) : Rd (List X) := do
  let x ← s.fieldGet cr va (4 * n) 1
  let cs := (upto n).map fun k => bitsOf x (32 * k) 32
  if cs.all cfin then pure (cs.map fun c => (fp32.val c).x) else Rd.fail (10, 0)

/-- The position that TRANS sets. -/
def efcTrans (e : Efc) (v : List X) : List EVal :=
  (List.zip (List.zip e.base e.ends) v).map fun a =>
    let lo := (fp32.round .dn (a.1.2.1.sub a.2)).1
    if e.mode = 0 then .pt (fp32.round .ne (a.1.2.1.sub a.2)).1
    else if e.mode = 1 then .iv lo (fp32.round .up (a.1.2.2.sub a.2)).1
    else
      let p := a.1.1.parts
      afLin (p.1.add false (.fin a.2.neg)) p.2.1 p.2.2

/-- The position that XFORM sets. -/
def efcXform (e : Efc) (m : List X) : List EVal :=
  (upto 3).map fun i =>
    let at_ := fun (j : Nat) => m.getD (4 * i + j) (X.ofInt 0)
    let end_ := fun (j : Nat) => e.ends.getD j (X.ofInt 0, X.ofInt 0)
    let sum := fun (f : Nat → X) => (X.sum ((upto 3).map f)).add (at_ 3)
    if e.mode = 0 then .pt (fp32.round .ne (sum fun j => (at_ j).mul (end_ j).1)).1
    else if e.mode = 1 then
      .iv (fp32.round .dn (sum fun j => ((at_ j).mul (end_ j).1).min ((at_ j).mul (end_ j).2))).1
        (fp32.round .up (sum fun j => ((at_ j).mul (end_ j).1).max ((at_ j).mul (end_ j).2))).1
    else
      let p := fun (j : Nat) => (e.base.getD j (.af 0 0 0)).parts
      let tot := fun (f : Nat → EX) => (upto 3).foldl (fun (a : EX) j => a.add false (f j)) ex0
      afLin ((tot fun j => (EX.fin (at_ j)).mul (p j).1).add false (.fin (at_ 3))) (tot fun j => (EX.fin (at_ j)).mul (p j).2.1)
        (tot fun j => (EX.fin (at_ j)).abs.mul (p j).2.2)

/-- BRICK of record `id` at the current position. -/
def State.efcBrick (s : State) (cr : Crew) (e : Efc) (id : Nat) (cur : List EVal) : Rd EVal := do
  if e.nbmap ≤ id then Rd.fail (5, 0)
  else match bmapOf (← s.fieldGet cr (e.bmap + 64 * id) 64 3) with
    | none => Rd.fail (10, 0)
    | some m =>
      if e.mode = 0 then
        match ← s.brickPoint cr m (cur.map fun v => v.iv_.1) with
        | none => Rd.fail (8, 0)
        | some c => pure (.pt c)
      else do
        let v ← s.brickBox cr m (cur.map EVal.iv_)
        pure (if e.mode = 1 then .iv v.1 v.2 else afFold v)

/-- One code. -/
def State.efcStep (s : State) (cr : Crew) (e : Efc) (st : EfcSt) : Rd EfcOut :=
  match e.code[st.pc]? with
  | none => Rd.fail (5, 0)
  | some op =>
    if op = 0 then
      (match st.est with
       | [v] => pure (.value v)
       | _ => Rd.fail (6, 0))
    else match efcArity op with
    | none => Rd.fail (5, 0)
    | some (len, pops, pushes) =>
      let arg := (e.code.drop (st.pc + 1)).take len
      let word := fun (k : Nat) => ((upto 4).map fun j => arg.getD (4 * k + j) 0 * 256 ^ j).sum
      let fs := if op = 4 ∨ op = 18 then [word 0] else if op = 22 then [word 0, word 1, word 2] else []
      let k := fs.headD 0
      let id := arg.getD 0 0 + 256 * arg.getD 1 0
      if e.code.length < st.pc + 1 + len ∨ !(fs.all cfin) ∨ (op = 18 ∧ ((fp32.val k).negQ ∨ (fp32.val k).isZero)) then
        Rd.fail (5, 0)
      else if st.est.length < pops ∨ 16 < st.est.length - pops + pushes then Rd.fail (6, 0)
      else
        let st := { st with pc := st.pc + 1 + len }
        let go := fun (st : EfcSt) => (pure (.next st) : Rd EfcOut)
        let put := fun (v : Option EVal) (rest : List EVal) => match v with
          | some v => go { st with est := v :: rest }
          | none => Rd.fail (8, 0)
        if op ≤ 3 then put (some (st.cur.getD (op - 1) (.pt 0))) st.est
        else if op = 4 then put (some (efcConst e.mode k)) st.est
        else if op = 19 then do
          let v ← s.efcTable cr (e.vtab + 16 * arg.getD 0 0) 3
          go { st with cur := efcTrans e v }
        else if op = 20 then do
          let m ← s.efcTable cr (e.xtab + 48 * arg.getD 0 0) 12
          go { st with cur := efcXform e m }
        else if op = 21 then go { st with cur := e.base }
        else if op = 22 then put (efcBox e.mode st.cur fs) st.est
        else if op = 23 then do
          let v ← s.efcBrick cr e id st.cur
          go { st with est := v :: st.est }
        else if op = 24 ∨ op = 25 then pure (.call id st)
        else match op, st.est with
          | 14, v :: r => go { st with est := v :: v :: r }
          | 15, b :: a :: r => go { st with est := a :: b :: r }
          | 17, c :: b :: a :: r => put (efcLen3 a b c) r
          | _, b :: r =>
            if pops = 1 then put (efcOp1 op b) r
            else match r with
              | a :: r => put (efcOp2 op k a b) r
              | [] => Rd.fail (6, 0)
          | _, [] => Rd.fail (6, 0)

/-- A program from a place on: its value, or a callable. -/
def State.efcRun (s : State) (cr : Crew) (e : Efc) : Nat → EfcSt → Rd EfcOut
  | 0, _ => Rd.fail (5, 0)
  | fuel + 1, st => do
    match ← s.efcStep cr e st with
    | .next st => s.efcRun cr e fuel st
    | o => pure o


end Sys2Proof.Machine
end

