-- ==== Sys2Proof/Machine/Fields.lean ====
section
/-!
DEFINITION. Sys2Proof/Machine/Fields.lean: scenes, the march of a ray and its callables (18 R370-R375, R381-R384), fprep (R388,
R389, R393) and bfetch (R394).
-/

namespace Sys2Proof.Machine

/-! ### Scenes and instances (18 R370-R373) -/

/-- A scene descriptor's fields. -/
structure Scene where
  itab : Nat
  ninst : Nat
  eps : X
  lip : X
  bmap : Nat
  nbmap : Nat

/-- A descriptor from its bits; none when malformed. -/
def sceneOf (x : Nat) : Option Scene :=
  let lip := fp32.val (bitsOf x 96 32)
  let n := bitsOf x 64 16
  if bitsOf x 57 7 != 0 || bitsOf x 88 8 != 0 || bitsOf x 185 7 != 0 || bitsOf x 208 304 != 0 || n == 0 || decide (1024 < n) ||
      decide (40 < bitsOf x 80 8) || !lip.isFin || (lip.negQ && !lip.isZero) then none
  else some { itab := bitsOf x 0 57, ninst := n, eps := ⟨1, -(bitsOf x 80 8 : Nat), 1⟩, lip := lip.x, bmap := bitsOf x 128 57,
              nbmap := bitsOf x 192 16 }

/-- An instance record's fields: W row by row, BOX, program and tables. -/
structure Inst where
  w : List X
  box : List Nat
  prog : Nat
  plen : Nat
  vtab : Nat
  xtab : Nat

/-- An instance record from its bits; none when malformed. -/
def instOf (x : Nat) : Option Inst :=
  let f := fun (k : Nat) => bitsOf x (32 * k) 32
  let plen := bitsOf x 640 16
  if bitsOf x 633 7 != 0 || bitsOf x 656 48 != 0 || bitsOf x 761 7 != 0 || bitsOf x 825 199 != 0 || plen == 0 ||
      decide (4096 < plen) || !((upto 18).all fun k => cfin (f k)) then none
  else some { w := (upto 12).map fun k => (fp32.val (f k)).x, box := (upto 6).map fun k => f (12 + k),
              prog := bitsOf x 576 57, plen := plen, vtab := bitsOf x 704 57, xtab := bitsOf x 768 57 }

/-- P and Q of a ray under W: offset and direction of its exact local line (18 R372). -/
def lineOf (w : List X) (o d : List X) : List (X × X) :=
  (upto 3).map fun k =>
    let r := fun (j : Nat) => w.getD (4 * k + j) (X.ofInt 0)
    let dot := fun (v : List X) => X.sum ((upto 3).map fun j => (r j).mul (v.getD j (X.ofInt 0)))
    ((dot o).add (r 3), dot d)

/-- A point of a line. -/
def lineAt (pq : X × X) (t : X) : X := pq.1.add (t.mul pq.2)

/-- Base position and exact ends of a segment in a mode (18 R374). -/
def basePos (mode : Nat) (pq : X × X) (a b : X) : EVal × (X × X) :=
  let m := lineAt pq (a.add b).half
  let l := (lineAt pq a).min (lineAt pq b)
  let h := (lineAt pq a).max (lineAt pq b)
  if mode = 0 then (.pt (fp32.round .ne m).1, (m, m))
  else if mode = 1 then (.iv (fp32.round .dn l).1 (fp32.round .up h).1, (l, h))
  else (afLin (.fin m) (.fin ((b.sub a).half.mul pq.2)) ex0, (l, h))

/-- Does the box of an instance meet the world box of a segment (18 R373)? -/
def boxMeets (box : List Nat) (o d : List X) (a b : X) : Bool :=
  (upto 3).all fun k =>
    let p := (o.getD k (X.ofInt 0)).add (a.mul (d.getD k (X.ofInt 0)))
    let q := (o.getD k (X.ofInt 0)).add (b.mul (d.getD k (X.ofInt 0)))
    let lo := ex (fp32.round .dn (p.min q)).1
    let hi := ex (fp32.round .up (p.max q)).1
    (ex (box.getD k 0)).le hi && lo.le (ex (box.getD (3 + k) 0))

/-- What a ray's evaluation sees: its crew, mode, scene, the specialised program, and its exact inputs. -/
structure MEnv where
  cr : Crew
  mode : Nat
  scene : Scene
  /-- First instance and one past the last. -/
  first : Nat
  last : Nat
  /-- The specialised program's offset in scratchpad, and its bytes with poison. -/
  sp : Option (Nat × List (Byte × Bool))
  o : List X
  d : List X

/-- The outcome of a scene's evaluation that does not end early. -/
inductive SceneOut where
  | ok (st : MarchSt)
  | call (id : Nat) (st : MarchSt)

/-- The record of instance `i`, read when the ray first needs it. -/
def State.instRec (s : State) (cr : Crew) (itab i size det : Nat) (seen : List (Nat × Nat)) : Rd (Nat × List (Nat × Nat)) :=
  match seen.find? fun e => e.1 == i with
  | some e => pure (e.2, seen)
  | none => do
    let x ← s.fieldGet cr (itab + size * i) size det
    pure (x, seen ++ [(i, x)])

/-- The bytes of a program of `n` bytes. -/
def State.efcProg (s : State) (cr : Crew) (va n : Nat) : Rd (List Nat) := do
  let x ← s.fieldGet cr va n 2
  pure ((upto n).map fun k => x / 256 ^ k % 256)

/-- The program bytes of an instance. -/
def State.efcCode (s : State) (v : MEnv) (n : Inst) : Rd (List Nat) :=
  match v.sp with
  | some (o, bs) => do
    Rd.noteOwn (o + 8) bs.length
    if bs.any (·.2) then Rd.fail (9, 4) else pure (bs.map fun b => b.1.toNat)
  | none => s.efcProg v.cr n.prog n.plen

/-- An instance's value widened to the segment's interval (18 R375). -/
def segValue (v : MEnv) (a b : X) : EVal → Nat × Nat
  | .pt c =>
    let n2 := X.sum (v.d.map fun x => x.mul x)
    let w := v.scene.lip.mul (b.sub a).half
    let h := EX.sqrtR .up (.fin ((w.mul w).mul n2))
    (((ex c).add true (ex h).neg).rnd .dn, ((ex c).add false (ex h)).rnd .up)
  | e => e.iv_

/-- The instances from the present one on (18 R373); `reply` is the value of the node at which the ray stopped. -/
def State.sceneGo (s : State) (v : MEnv) : Nat → MarchSt → Option EVal → Rd SceneOut
  | 0, st, _ => pure (.ok st)
  | fuel + 1, st, reply =>
    if v.last ≤ st.i then pure (.ok st)
    else do
      let (x, insts) ← s.instRec v.cr v.scene.itab st.i 128 1 st.insts
      let st := { st with insts := insts }
      match instOf x with
      | none => Rd.fail (10, 0)
      | some n =>
        let a := (fp32.val st.a).x
        let b := (fp32.val st.b).x
        let skip := { st with i := st.i + 1 }
        if reply.isNone && !(boxMeets n.box v.o v.d a b) then s.sceneGo v fuel skip none
        else do
          let code ← s.efcCode v n
          let ps := (lineOf n.w v.o v.d).map fun pq => basePos v.mode pq a b
          let e : Efc :=
            { mode := v.mode, code := code, base := ps.map Prod.fst, ends := ps.map Prod.snd, vtab := n.vtab, xtab := n.xtab,
              bmap := v.scene.bmap, nbmap := v.scene.nbmap }
          let st0 : EfcSt := match reply with
            | some r => { pc := st.pc, est := r :: st.est, cur := st.cur }
            | none => { pc := 0, est := [], cur := ps.map Prod.fst }
          match ← s.efcRun v.cr e 4097 st0 with
          | .next _ => Rd.fail (5, 0)
          | .call id c => pure (.call id { st with pc := c.pc, est := c.est, cur := c.cur })
          | .value r =>
            let z := segValue v a b r
            let hit := if st.hit = 0xFFFFFFFF ∧ (ex z.1).le ex0 then st.i else st.hit
            s.sceneGo v fuel { skip with lo := cmin st.lo z.1, hi := cmin st.hi z.2, hit := hit } none

/-! ### The loop (18 R381) -/

/-- A ray's end: the four result words, the DETAIL of a report, and what its evaluation has read. -/
structure RayEnd where
  words : List Nat
  det : Nat := 0
  reads : Reads := {}
  /-- The state kept at a CALL. -/
  kept : Option MarchSt := none
  steps : Nat := 0

/-- The end of a ray with STATUS. -/
def rayWords (t inst status steps : Nat) : List Nat := [t, inst, status, steps]

/-- What follows the scene interval of a segment: the end, or the state of the next loop. -/
def afterScene (v : MEnv) (tmin : Nat) (st : MarchSt) : Except (List Nat) MarchSt :=
  let a := (fp32.val st.a).x
  let b := (fp32.val st.b).x
  if ex0.lt (ex st.lo) then .ok st
  else if (ex st.hi).lt ex0 then
    .error (rayWords st.a st.hit (if a.eq (fp32.val tmin).x then 2 else 1) st.steps)
  else
    let m := (fp32.round .ne (a.add (b.sub a).half)).1
    let mx := (fp32.val m).x
    if (b.sub a).le (v.scene.eps.mul ((X.ofInt 1).max a.abs)) || mx.eq a || mx.eq b then
      .error (rayWords st.a st.hit 1 st.steps)
    else if 24 < st.segs.length + 2 then .error (rayWords st.a 0xFFFFFFFF 11 st.steps)
    else .ok { st with segs := (st.a, m) :: (m, st.b) :: st.segs }

/-- The segments from here on; `reply` resumes the one under evaluation. -/
def State.marchGo (s : State) (v : MEnv) (tmin tmax : Nat) : Nat → MarchSt → Option EVal → Rd RayEnd
  | 0, st, _ => pure { words := rayWords tmax 0xFFFFFFFF 0 st.steps, steps := st.steps }
  | fuel + 1, st, reply =>
    let eval := fun (st : MarchSt) (reply : Option EVal) => (do
      match ← (s.sceneGo v (v.last + 1) st reply).attempt with
      | .error b => pure { words := rayWords st.a 0xFFFFFFFF b.1 st.steps, det := b.2, steps := st.steps }
      | .ok (.call id st) => pure { words := [st.a, st.i, 4 + id * 65536, st.b], kept := some st, steps := st.steps }
      | .ok (.ok st) =>
        match afterScene v tmin st with
        | .error w => pure { words := w, steps := st.steps }
        | .ok st => s.marchGo v tmin tmax fuel st none : Rd RayEnd)
    match reply with
    | some r => eval st (some r)
    | none =>
      match st.segs with
      | [] => pure { words := rayWords tmax 0xFFFFFFFF 0 st.steps, steps := st.steps }
      | (a, b) :: rest =>
        if st.steps = 4096 then pure { words := rayWords a 0xFFFFFFFF 3 st.steps, steps := st.steps }
        else
          eval { st with segs := rest, a := a, b := b, steps := st.steps + 1, i := v.first, lo := fpInf, hi := fpInf,
                         hit := 0xFFFFFFFF, pc := 0, est := [], cur := [] } none

/-- Is a ray's input bad (18 R381)? -/
def badRay (c : List Nat) : Bool :=
  c.any (fun x => (fp32.val x).isNan) || !((c.take 6).all cfin) || ((c.drop 3).take 3).all (fun x => (fp32.val x).isZero) ||
    !((c.drop 6).all cfin)

/-- The reply of marchr as an element of the mode; none when it is bad (18 R384). -/
def replyVal (mode : Nat) (r : Word × Word) : Option EVal :=
  let l := r.1.toNat
  let h := r.2.toNat
  if (fp32.val l).isNan then none
  else if mode = 0 then some (.pt l)
  else if (fp32.val h).isNan || (ex h).lt (ex l) then none
  else if mode = 1 then some (.iv l h) else some (afFold (l, h))

/-- The header of a specialised program in scratchpad: the instance, and the length of its code as far as the allocation goes (18 R391,
R393). -/
def State.spHeader (s : State) (cr : Crew) (off : Nat) : Nat × Nat :=
  (s.crewNat cr off 4, min (s.crewNat cr (off + 4) 4) (cr.ssize - off - 8))

/-- Its code. -/
def State.spCode (s : State) (cr : Crew) (off len : Nat) : List (Byte × Bool) := (upto len).map fun k => s.spadByte cr (off + 8 + k)

/-- Is the header poisoned? -/
def State.spBad (s : State) (cr : Crew) (off : Nat) : Bool := (upto 8).any fun k => (s.spadByte cr (off + k)).2

/-- What a marched ray sees of its scene; it reads the header of a specialised program once, before its loop. -/
def State.marchEnv (s : State) (cr : Crew) (r : Ray) (z : Scene) (sp : Option (Nat × Nat)) : MEnv :=
  let x := fun (k : Nat) => (fp32.val ((r.input.map (·.toNat)).getD k 0)).x
  { cr := cr, mode := r.mode, scene := z, first := (sp.map Prod.fst).getD 0, last := (sp.map fun e => e.1 + 1).getD z.ninst,
    sp := (r.spOff.bind fun o => sp.map fun e => (o, s.spCode cr o e.2)), o := [x 0, x 1, x 2], d := [x 3, x 4, x 5] }

/-- The evaluation's end with what it has read. -/
def RayEnd.ofRd (m : Rd RayEnd) : RayEnd :=
  let e := m.out
  match e.1 with
  | .ok r => { r with reads := e.2 }
  | .error b => { words := rayWords 0 0xFFFFFFFF b.1 0, det := b.2, reads := e.2 }

/-- A marched ray runs to its end or to a CALL: a resumed one from where it stopped (18 R384), another through the checks before the
loop of 18 R381, where a poisoned header is a read that failed. -/
def State.marchRay (s : State) (cr : Crew) (r : Ray) : RayEnd :=
  let c := r.input.map (·.toNat)
  let tmin := c.getD 6 0
  let tmax := c.getD 7 0
  match r.bad, sceneOf r.scene with
  | some b, _ => { words := rayWords tmin 0xFFFFFFFF b.1 0, det := b.2 }
  | none, none => { words := rayWords tmin 0xFFFFFFFF 10 0 }
  | none, some z =>
    match r.reply with
    | some w =>
      (match replyVal r.mode w with
       | none => { words := rayWords r.march.a 0xFFFFFFFF 8 r.march.steps, steps := r.march.steps }
       | some e => RayEnd.ofRd (s.marchGo (s.marchEnv cr r z r.march.sp) tmin tmax 4200 r.march (some e)))
    | none =>
      if r.spOff.any (s.spBad cr) then { words := rayWords tmin 0xFFFFFFFF 9 0, det := 4 }
      else if badRay c then { words := rayWords tmin 0xFFFFFFFF 7 0 }
      else if (ex tmax).lt (ex tmin) then { words := rayWords tmax 0xFFFFFFFF 0 0 }
      else
        let sp := r.spOff.map (s.spHeader cr)
        RayEnd.ofRd (s.marchGo (s.marchEnv cr r z sp) tmin tmax 4200 { segs := [(tmin, tmax)], sp := sp } none)

/-! ### Issue of the FIELD group (18 R390, R383, R391) -/

/-- Rays in the slots of a core's unit, of the active context. -/
def State.raySlots (s : State) (core : Nat) (u : RayUnit) : Nat :=
  ((s.crews.filter fun cr => cr.core == core && !cr.shadow).map fun cr => (cr.rays.filter fun r => decide (r.unit = u)).length).sum

/-- The ray of a thread in a unit. -/
def Crew.rayOf (cr : Crew) (u : RayUnit) (tid : Nat) : Option Ray := cr.rays.find? fun r => decide (r.unit = u) && r.tid == tid

/-- Rays start in the acting lanes: hold for rays in flight and for free slots; stopped rays drop; a ray per lane enters, and
the operation waits for them. -/
def State.startRays (s : State) (c : Cohort) (cr : Crew) (i : Info) (u : RayUnit) (d n : Nat) (ray : Thread → Nat → Ray) : Res :=
  let ts := c.actives
  let mine := fun (t : Thread) => cr.rayOf u t.tid
  let need := (ts.filter fun t => (mine t).isNone).length
  if ts.any (fun t => (mine t).any fun r => !r.stopped) then .hold
  else if 256 < s.raySlots cr.core u + need then .hold
  else
    let op : Op := { id := 0, cls := .gath, left := ts.length, regsV := grp d n }
    let z := s.startOp c.key i.len op
    let tids := ts.map (·.tid)
    .done (z.1.onCrew cr.key fun cr =>
      { cr with rays := cr.rays.filter (fun r => !(decide (r.unit = u) && tids.contains r.tid)) ++ ts.map fun t => ray t z.2 })

/-- The gather counter is full (20 R409). -/
def Cohort.gathFull (c : Cohort) : Bool := decide (63 ≤ c.count .gath)

/-- A word of the group holds: the counter is full, or a release before it is not performed. The model reads an operation's memory from
its issue on, and holds the word so that it reads what the release covers (12 R275; notes/assumptions/87.md). -/
def State.fieldHeld (s : State) (c : Cohort) : Bool := c.gathFull || !(s.landed (s.releaseNeeds c.key))

/-- Bricks read enter the brick cache of a core. -/
def State.fillBricks (s : State) (core : Nat) (l : Bricks) : State :=
  l.foldl (fun s b => if s.bricks.any fun x => x.core == core && x.addr == b.1 then s else s.brickFill core b.1 b.2) s

/-- What the reads of a unit do beside their values: their translations enter the TLBs, the errors of their words are met (10 R227, R233),
and bricks enter the brick cache. -/
def State.readDone (s : State) (cr : Crew) (r : Reads) : State :=
  let pages := distinct (r.mem.flatMap fun e => pagesVa e.1 e.2)
  let s := s.useTlb cr.core cr.jd pages
  let s := if s.latent = [] then s
    else r.own.foldl (fun s e => s.meetCrew cr e.1 e.2) (r.mem.foldl (fun s e => s.meetVa cr.core cr.jd e.1 e.2) s)
  s.fillBricks cr.core r.bricks

/-- The home addresses of reads. -/
def State.readHomes (s : State) (cr : Crew) (r : Reads) : List Nat := r.mem.flatMap fun e => s.vaHomes cr.core cr.jd e.1 e.2

/-- A word whose unit reads at issue holds while its misses find no slot or its requests are NACKed (10 R227, R230). -/
def State.reads (s : State) (c : Cohort) (cr : Crew) (r : Reads) (work : State → Res) : Res :=
  s.reaches c cr .ray (distinct (r.mem.flatMap fun e => pagesVa e.1 e.2)) (s.readHomes cr r) fun s => work (s.readDone cr r)

/-- The descriptor of a march or trace, read at issue. -/
def State.readScene (s : State) (cr : Crew) (va det : Nat) : Nat × Option Bad :=
  match s.fieldRead cr va 64 det with
  | .ok x => (x, none)
  | .error b => (0, some b)

/-- march (18 R391). -/
def march (i : Info) (d a b : Nat) (sp : Bool) (mode : Nat) (s : State) : Out :=
  issue i s fun c s =>
    let cr := s.crewOf c
    let x := c.sr b
    let o := c.sr (b + 1)
    if mode = 3 then c.illegal i
    else if x.toNat % 64 ≠ 0 then c.all 4 0 (opInfo x 0 2)
    else if sp && o.toNat % 8 != 0 then c.all 4 0 (opInfo o 0 2)
    else if sp && (decide (cr.ssize < o.toNat + 8) ||
        (!(s.spBad cr o.toNat) && decide (cr.ssize < o.toNat + 8 + s.crewNat cr (o.toNat + 4) 4))) then
      c.all 7 0 (opInfo o 0 2)
    else if s.fieldHeld c then .hold
    else
      let z := s.readScene cr x.toNat 1
      -- the descriptor first, then the header
      let bad := z.2.or (if sp && s.spBad cr o.toNat && (sceneOf z.1).isSome then some (9, 4) else none)
      s.reads c cr { mem := [(x.toNat, 64)], own := if sp then [(o.toNat, 8)] else [] } fun s => s.startRays c cr i .marcher d 4 fun t op =>
        { unit := .marcher, tid := t.tid, op := op, mode := mode, scene := z.1, bad := bad,
          spOff := if sp then some o.toNat else none, input := (upto 8).map (fun k => t.vr (a + k)), dest := d, ipc := c.pc }

/-- Stopped rays of the acting lanes go on with their replies; other lanes are left unchanged (18 R384, 19 R399). -/
def resume (i : Info) (u : RayUnit) (d n : Nat) (reply : Thread → Word × Word) (s : State) : Out :=
  issue i s fun c s =>
    let cr := s.crewOf c
    if s.fieldHeld c then .hold
    else
      let ts := c.actives.filter fun t => (cr.rayOf u t.tid).any (·.stopped)
      let z := s.startOp c.key i.len { id := 0, cls := .gath, left := ts.length, regsV := grp d n }
      let pc := c.pc
      let go := fun (r : Ray) => match ts.find? fun t => t.tid == r.tid && decide (r.unit = u) with
        | some t => { r with op := z.2, stopped := false, reply := some (reply t), dest := d, ipc := pc }
        | none => r
      .done (z.1.onCrew cr.key fun cr => { cr with rays := cr.rays.map go })

/-! ### fprep (18 R388, R389, R393) -/

/-- A code of the program being specialised: its place, length, and whether it stays. -/
structure PItem where
  at_ : Nat
  len : Nat
  op : Nat
  keep : Bool := true

/-- A stack slot: where its bytes begin, after those of the slot below, and end, at the code that produced it; whether they are one
operand's only together with those of the slot below (`down`), or of the slot above (`up`), after SWAP and DUP; whether they hold a
callable, which is never pruned (18 R388, R389; notes/assumptions/54.md). -/
structure PSlot where
  start : Nat
  stop : Nat
  down : Bool := false
  up : Bool := false
  fixed : Bool := false

/-- May the slot's bytes be removed alone? -/
def PSlot.alone (x : PSlot) : Bool := !x.down && !x.up && !x.fixed

/-- The codes of [lo, hi) are removed; the last position code among them stays. -/
def pruneRange (l : List PItem) (lo hi : Nat) : List PItem :=
  let inside := fun (x : PItem) => decide (lo ≤ x.at_ ∧ x.at_ < hi)
  let pos := ((l.filter fun x => inside x && (x.op == 19 || x.op == 20 || x.op == 21)).getLast?).map (·.at_)
  l.map fun x => if inside x then { x with keep := pos == some x.at_ } else x

/-- The operand that a MIN, MAX or SMIN loses: true for B, none for neither (18 R389). -/
def pruneSide (op k : Nat) (a b : EVal) : Option Bool :=
  let p := a.iv_
  let q := b.iv_
  if op = 12 then (if (ex p.2).le (ex q.1) then some true else if (ex q.2).lt (ex p.1) then some false else none)
  else if op = 13 then (if (ex q.2).le (ex p.1) then some true else if (ex p.2).lt (ex q.1) then some false else none)
  else if op = 18 then (if clear_ k p.2 q.1 then some true else if clear_ k q.2 p.1 then some false else none)
  else none

/-- The slot of a result: the bytes of its operands together, the lowest of them last. -/
def PSlot.join (gone : List PSlot) (stop : Nat) : PSlot :=
  { start := ((gone.getLast?).map (·.start)).getD 0, stop := stop, down := (gone.getLast?).any (·.down), fixed := gone.any (·.fixed) }

/-- The slots after a code that prunes nothing. -/
def PSlot.after (op stop : Nat) (slots : List PSlot) : List PSlot :=
  let top := ((slots.head?).map (·.stop)).getD 0
  match op, slots with
  | 14, x :: r => { start := top, stop := stop } :: { x with up := true } :: r
  | 15, x :: y :: r => { x with down := true, stop := stop } :: { y with up := true } :: r
  | _, _ =>
    match efcArity op with
    | some (_, 0, 1) => { start := top, stop := stop } :: slots
    | some (_, pops, 1) => PSlot.join (slots.take pops) stop :: slots.drop pops
    | _ => slots

/-- The program in interval mode, with its pruning: the bounds of its value, and its codes. -/
def State.prepGo (s : State) (cr : Crew) (e : Efc) : Nat → EfcSt → List PSlot → List PItem → Rd ((Nat × Nat) × List PItem)
  | 0, _, _, _ => Rd.fail (5, 0)
  | fuel + 1, st, slots, items => do
    let op := (e.code[st.pc]?).getD 0
    match ← s.efcStep cr e st with
    | .value v => pure (v.iv_, items ++ [{ at_ := st.pc, len := 1, op := 0 }])
    | .call _ st' =>
      let here := match PSlot.after op st'.pc slots with
        | x :: r => { x with fixed := true } :: r
        | [] => []
      s.prepGo cr e fuel { st' with est := .iv fpNegInf fpInf :: st'.est } here
        (items ++ [{ at_ := st.pc, len := st'.pc - st.pc, op := op }])
    | .next st' =>
      let keep := s.prepGo cr e fuel st' (PSlot.after op st'.pc slots) (items ++ [{ at_ := st.pc, len := st'.pc - st.pc, op := op }])
      match slots, st.est with
      | y :: x :: r, b :: a :: _ =>
        let k := ((upto 4).map fun j => e.code.getD (st.pc + 1 + j) 0 * 256 ^ j).sum
        (match pruneSide op k a b with
         | none => keep
         | some side =>
           if (if side then y else x).alone then
             let items := if side then pruneRange items y.start y.stop else pruneRange items x.start x.stop
             let rest := if side then { x with up := false, stop := st'.pc } else { y with start := x.start, stop := st'.pc }
             s.prepGo cr e fuel st' (rest :: r) (items ++ [{ at_ := st.pc, len := st'.pc - st.pc, op := op, keep := false }])
           else keep)
      | _, _ => keep

/-- The frustum of a tile: 8 exact points of a line bundle hulled per component (18 R388). -/
def prepBase (w : List X) (o : List X) (dirs : List (List X)) (t0 t1 : X) : List (EVal × (X × X)) :=
  (upto 3).map fun k =>
    let xs := dirs.flatMap fun d =>
      match (lineOf w o d)[k]? with
      | some pq => [lineAt pq t0, lineAt pq t1]
      | none => []
    match xs with
    | [] => (.iv 0 0, (X.ofInt 0, X.ofInt 0))
    | x :: r =>
      let l := r.foldl X.min x
      let h := r.foldl X.max x
      (.iv (fp32.round .dn l).1 (fp32.round .up h).1, (l, h))

/-- fprep's evaluation of the record whose 640 bits are `x`, with the code that it specialises; none for inputs that are not finite. -/
def State.prepRun (s : State) (cr : Crew) (x : Nat) : Option (Rd (((Nat × Nat) × List PItem) × List Nat)) :=
  let f := fun (k : Nat) => bitsOf x (32 * k) 32
  let fx := fun (k : Nat) => (fp32.val (f k)).x
  if !((upto 17).all fun k => cfin (f k)) then none
  else some do
    match sceneOf (← s.fieldGet cr (bitsOf x 576 64) 64 1) with
    | none => Rd.fail (10, 0)
    | some z =>
      match instOf (← s.fieldGet cr (z.itab + 128 * f 17) 128 1) with
      | none => Rd.fail (10, 0)
      | some n => do
        let code ← s.efcProg cr n.prog n.plen
        let dirs := (upto 4).map fun c => [fx (3 + 3 * c), fx (4 + 3 * c), fx (5 + 3 * c)]
        let ps := prepBase n.w [fx 0, fx 1, fx 2] dirs (fx 15) (fx 16)
        let e : Efc :=
          { mode := 1, code := code, base := ps.map Prod.fst, ends := ps.map Prod.snd, vtab := n.vtab, xtab := n.xtab,
            bmap := z.bmap, nbmap := z.nbmap }
        let v ← s.prepGo cr e 4097 { cur := e.base } [] []
        pure (v, code)

/-- The bytes of the codes that stay. -/
def keptCode (code : List Nat) (items : List PItem) : List Nat :=
  (items.filter (·.keep)).flatMap fun x => (code.drop x.at_).take x.len

/-- A MARCH report leaves for a cohort (18 R386). -/
def State.marchReport (s : State) (cohort crew det ipc : Nat) : State :=
  if det = 0 then s
  else { s with repIn := s.repIn ++ [({ cohort := cohort, crew := crew, report :=
      { code := 0x13, detail := det, eng := 2, ipc := ipc } } : RepIn)] }

/-- fprep. It fills no brick (10 R219). Of a frustum that is not finite the spec states no evaluation: its outcome, and the code that it
would write, are free within the fields of R393 (notes/assumptions/14.md). -/
def fprep (i : Info) (d a b : Nat) (s : State) : Out :=
  issue i s fun c s =>
    let cr := s.crewOf c
    let xa := c.sr a
    let xb := c.sr b
    if xa.toNat % 8 ≠ 0 then c.all 4 0 (opInfo xa 2 1)
    else if xb.toNat % 16 ≠ 0 then c.all 4 0 (opInfo xb 2 2)
    else if cr.ssize < xa.toNat + 4104 then c.all 7 0 (opInfo xa 2 1)
    else if cr.ssize < xb.toNat + 80 then c.all 7 0 (opInfo xb 2 2)
    else if s.fieldHeld c then .hold
    else
      let fin := fun (s : State) (r : Dword) =>
        Res.done (s.quickOp c.key i.len { id := 0, cls := .gath, regsS := dst d, res := [.s d r] })
      let rec_ := (upto 80).map fun k => s.spadByte cr (xb.toNat + k)
      let stop := fun (s : State) (e : Bad) => fin (s.marchReport c.key cr.key e.2 c.pc) (BitVec.ofNat 64 (e.1 * 2 ^ 32))
      let inst := leNat ((rec_.drop 68).take 4 |>.map (·.1))
      let write := fun (s : State) (code : List Nat) =>
        let bytes := leBytes 4 inst ++ leBytes 4 code.length ++ code.map (BitVec.ofNat 8)
        s.engSpad cr ((atAddr xa.toNat bytes).map fun e => (e.1, e.2, false))
      let s := s.meetCrew cr xb.toNat 80
      if rec_.any (·.2) then stop s (9, 4)
      else match s.prepRun cr (leNat (rec_.map (·.1))) with
      | none =>
        let w := fun (k : Nat) => (Config.fieldOpen s.fresh k).toNat
        let status := [0, 5, 6, 9, 10].getD (w 0 % 5) 0
        let len := if status = 0 then w 1 % 4096 + 1 else 0
        let code := (upto len).map fun k => if k + 1 = len then 0 else w (k + 3) % 256
        let s : State := { s with fresh := s.fresh + 1 }
        fin (if status = 0 then write s code else s) (BitVec.ofNat 64 (len + status * 2 ^ 32 + w 2 % 4 * 2 ^ 40))
      | some m =>
        let e := m.out
        s.reads c cr { e.2 with bricks := [] } fun s =>
          match e.1 with
          | .error e => stop s e
          | .ok (v, code) =>
            let out := keptCode code v.2
            let no := if ex0.lt (ex v.1.1) then 2 ^ 40 else 0
            let all := if (ex v.1.2).lt ex0 then 2 ^ 41 else 0
            fin (write s out) (BitVec.ofNat 64 (out.length + no + all))

/-! ### bfetch (18 R394) -/

/-- The local coordinates of a central difference's two points along an axis, and their distance in map units. -/
def gradEnds (l : List X) (k : Nat) (up : Bool) : List X :=
  let x := l.getD k (X.ofInt 0)
  let half : X := ⟨1, -1, 1⟩
  let y := if up then (x.add half).min (X.ofInt 8) else (x.sub half).max (X.ofInt (-1))
  (upto 3).map fun j => if j = k then y else l.getD j (X.ofInt 0)

/-- One lane of bfetch in a map: four codes, the DETAIL of a report, which of the words are poisoned (none listed: none). A word is
poisoned where it is built from a poisoned sample; a brick with a poisoned byte stays out of the cache. An exact zero is +0
(notes/assumptions/101.md). -/
def State.bfetchIn (s : State) (cr : Crew) (m : BMap) (p : List Nat) : Rd (List Nat × Nat × List Bool) := do
  let nans := List.replicate 4 fp32.nan
  let none_ := ([m.empty, 0, 0, 0], 0, ([] : List Bool))
  if p.any fun c => (fp32.val c).isNan then pure (nans, 0, [])
  else if !(p.all cfin) then pure none_
  else
    let g := m.coord (p.map fun c => (fp32.val c).x)
    match ← s.brickFindBy cr m g (s.brickRaw cr) with
    | none => pure none_
    | some (pa, raw, b) => do
      let bs := raw.map (·.1)
      let l := localOf g b
      let ends := fun (k : Nat) => [gradEnds l k true, gradEnds l k false]
      let bad := fun (ps : List (List X)) => ps.any fun q => (corners q).any fun e =>
        (raw.drop (sampleAt e.1)).take 2 |>.any (·.2)
      let flags := bad [l] :: (upto 3).map fun k => bad (ends k)
      let grad := fun (k : Nat) =>
        let u := gradEnds l k true
        let v := gradEnds l k false
        match trilinear bs u, trilinear bs v with
        | some x, some y =>
          some ((x.sub y).div (((u.getD k (X.ofInt 0)).sub (v.getD k (X.ofInt 0))).mul m.vox))
        | _, _ => none
      if !(raw.any (·.2)) then Rd.brick (pa, bs)
      if flags.contains true then pure (nans, 4, flags)
      else match trilinear bs l, grad 0, grad 1, grad 2 with
        | some f, some x, some y, some z => pure ([f, x, y, z].map fun q => (fp32.round .ne q).1, 0, [])
        | _, _, _, _ => pure (nans, 0, [])

/-- One lane of bfetch, canonical NaNs where a read failed or the map is malformed; with what it has read. -/
def State.bfetchLane (s : State) (cr : Crew) (m : Option BMap) (bad : Option Bad) (p : List Nat) :
    (List Nat × Nat × List Bool) × Reads :=
  let nans := List.replicate 4 fp32.nan
  match bad, m with
  | some e, _ => ((nans, e.2, []), {})
  | none, none => ((nans, 0, []), {})
  | none, some m =>
    let e := (s.bfetchIn cr m p).out
    match e.1 with
    | .ok r => (r, e.2)
    | .error b => ((nans, b.2, []), e.2)

/-- The reads of lanes after that of their descriptor. -/
def laneReads {α : Type} (va : Nat) (rs : List (Nat × α × Reads)) : Reads :=
  { mem := (va, 64) :: rs.flatMap (·.2.2.mem), bricks := rs.flatMap (·.2.2.bricks) }

/-- bfetch. -/
def bfetch (i : Info) (d a b : Nat) (s : State) : Out :=
  issue i s fun c s =>
    let cr := s.crewOf c
    let x := c.sr b
    if x.toNat % 64 ≠ 0 then c.all 4 0 (opInfo x 3 2)
    else if s.fieldHeld c then .hold
    else
      let (m, bad) := match s.fieldRead cr x.toNat 64 3 with
        | .ok z => (bmapOf z, none)
        | .error e => (none, some e)
      let rs := c.actives.map fun t => (t.tid, s.bfetchLane cr m bad ((upto 3).map fun k => (t.vr (a + k)).toNat))
      s.reads c cr (laneReads x.toNat rs) fun s =>
        let s := rs.foldl (fun s r => s.marchReport c.key cr.key r.2.1.2.1 c.pc) s
        let res := rs.flatMap fun r => (List.zip (upto 4) r.2.1.1).map fun e =>
          RegWrite.v r.1 (d + e.1) (BitVec.ofNat 32 e.2) (r.2.1.2.2.getD e.1 false)
        .done (s.quickOp c.key i.len { id := 0, cls := .gath, regsV := grp d 4, res := res })

/-- MARCH (R391): Hand the acting lanes' rays to the marcher. -/
def execMarch (d a b : Nat) (sp : Bool) (mode : Nat) (s : State) : Out :=
  march { infoMarch 46 0 d a b sp mode with long := true } d a b sp mode s

/-- MARCHR (R392): Resume suspended rays with a callable reply. -/
def execMarchr (d a : Nat) (s : State) : Out :=
  resume { infoMarchr 46 1 d a with long := true } .marcher d 4 (fun t => (t.vr a, t.vr (a + 1))) s

/-- FPREP (R393): Specialise an instance program for a screen tile. -/
def execFprep (d a b : Nat) (s : State) : Out :=
  fprep { infoFprep 46 2 d a b with long := true } d a b s

/-- BFETCH (R394): Sample a distance brick with gradient. -/
def execBfetch (d a b : Nat) (s : State) : Out :=
  bfetch { infoBfetch 46 3 d a b with long := true } d a b s

end Sys2Proof.Machine
end

