-- ==== Sys2Proof/Machine/Trace.lean ====
section
/-!
DEFINITION. Sys2Proof/Machine/Trace.lean: the traverser (19 R397-R400), the end of a ray (18 R382, 19 R400) and images (19
R406-R408).
-/

namespace Sys2Proof.Machine

/-! ### Records of a trace scene (19 R397) -/

/-- TOP, ITAB and NINST of a descriptor; none when malformed. -/
def tsceneOf (x : Nat) : Option (Nat × Nat × Nat) :=
  let n := bitsOf x 128 32
  if n = 0 ∨ 65535 < n ∨ bitsOf x 160 352 ≠ 0 then none else some (bitsOf x 0 64, bitsOf x 64 64, n)

/-- W, NODES and TRIS of an instance; none when malformed. -/
def tinstOf (x : Nat) : Option (List X × Nat × Nat) :=
  let f := fun (k : Nat) => bitsOf x (32 * k) 32
  if (upto 12).all fun k => cfin (f k) then
    some ((upto 12).map fun k => (fp32.val (f k)).x, bitsOf x 384 64, bitsOf x 448 64)
  else none

/-- The children of a node: box, KIND, index; none when malformed. -/
def tnodeOf (x : Nat) : Option (List (List X × Nat × Nat)) :=
  let f := fun (k : Nat) => bitsOf x (32 * k) 32
  if bitsOf x 896 128 ≠ 0 ∨ !((upto 24).all fun k => cfin (f k)) ∨ (upto 4).any (fun c => bitsOf (f (24 + c)) 30 2 == 3) then none
  else some ((upto 4).map fun c =>
    ((upto 6).map (fun k => (fp32.val (f (6 * c + k))).x), bitsOf (f (24 + c)) 30 2, bitsOf (f (24 + c)) 0 30))

/-- A triangle: its vertices, NOPQ, PRIM; none when malformed. -/
def ttriOf (x : Nat) : Option (List X × Bool × Nat) :=
  let f := fun (k : Nat) => bitsOf x (32 * k) 32
  if bitsOf (f 9) 1 31 ≠ 0 ∨ f 11 ≠ 0 ∨ !((upto 9).all fun k => cfin (f k)) then none
  else some ((upto 9).map (fun k => (fp32.val (f k)).x), bit (f 9) 0, f 10)

/-! ### Exact intersection (19 R398) -/

/-- Cross and dot product of 3-vectors. -/
def cross (a b : List X) : List X :=
  let g := fun (v : List X) (k : Nat) => v.getD k (X.ofInt 0)
  (upto 3).map fun k =>
    let i := (k + 1) % 3
    let j := (k + 2) % 3
    ((g a i).mul (g b j)).sub ((g a j).mul (g b i))
def dot (a b : List X) : X := X.sum ((List.zip a b).map fun e => e.1.mul e.2)
def vsub (a b : List X) : List X := (List.zip a b).map fun e => e.1.sub e.2

/-- t, u, v and FRONT of a line and a triangle; none without an intersection inside it. -/
def triHit (p q tri : List X) : Option (X × X × X × Bool) :=
  let v0 := tri.take 3
  let e1 := vsub ((tri.drop 3).take 3) v0
  let e2 := vsub ((tri.drop 6).take 3) v0
  let h := cross q e2
  let det := dot e1 h
  if det.n = 0 then none
  else
    let w := vsub p v0
    let c := cross w e1
    let u := (dot w h).div det
    let v := (dot q c).div det
    let zero := X.ofInt 0
    if u.lt zero || v.lt zero || (X.ofInt 1).lt (u.add v) then none
    else some ((dot e2 c).div det, u, v, (dot (cross e1 e2) q).lt zero)

/-- The parameter range of a line in a box: bounds, none where unbounded; no range where it misses the box. -/
def boxRange (p q box : List X) : Option (Option X × Option X) :=
  let g := fun (v : List X) (k : Nat) => v.getD k (X.ofInt 0)
  (upto 3).foldl (fun (r : Option (Option X × Option X)) k =>
    r.bind fun z =>
      let lo := g box k
      let hi := g box (3 + k)
      if (g q k).n = 0 then (if lo.le (g p k) && (g p k).le hi then some z else none)
      else
        let a := (lo.sub (g p k)).div (g q k)
        let b := (hi.sub (g p k)).div (g q k)
        if hi.lt lo then none
        else
          let l := match z.1 with
            | some x => x.max (a.min b)
            | none => a.min b
          let h := match z.2 with
            | some x => x.min (a.max b)
            | none => a.max b
          if h.lt l then none else some (some l, some h)) (some (none, none))

/-- Does a range meet [lo, hi]? -/
def rangeMeets (r : Option X × Option X) (lo hi : X) : Bool :=
  (match r.1 with
   | some l => l.le hi
   | none => true) &&
  match r.2 with
  | some h => lo.le h
  | none => true

/-- Entry order: an unbounded entry first. -/
def entersBefore (a b : TTodo) : Bool :=
  match a.lo, b.lo with
  | none, _ => true
  | some _, none => false
  | some x, some y => x.le y

/-- Insertion by entry, ties keep their order. -/
def insertEntry (x : TTodo) : List TTodo → List TTodo
  | [] => [x]
  | y :: ys => if entersBefore y x then y :: insertEntry x ys else x :: y :: ys

/-- Would a candidate become the closest hit? -/
def closer (c : THit) : Option THit → Bool
  | none => true
  | some b => c.t.lt b.t || (c.t.eq b.t && (decide (c.inst < b.inst) || (c.inst == b.inst && decide (c.tri < b.tri))))

/-- A trace's environment. -/
structure TEnv where
  cr : Crew
  top : Nat
  itab : Nat
  ninst : Nat
  o : List X
  d : List X
  tmin : X
  tmax : X

/-- How a traversal ends. -/
inductive TraceOut where
  | done (st : TraceSt)
  | steps (st : TraceSt)
  | call (st : TraceSt) (c : THit)
  | bad (b : Bad) (st : TraceSt)

/-- The ray's line in a tree: the world's, or an instance's. -/
def State.traceLine (s : State) (v : TEnv) (st : TraceSt) (inst : Option Nat) : Rd (List X × List X × Nat × Nat × TraceSt) :=
  match inst with
  | none => pure (v.o, v.d, v.top, 0, st)
  | some n => do
    let (x, insts) ← s.instRec v.cr v.itab n 64 5 st.insts
    match tinstOf x with
    | none => Rd.fail (10, 0)
    | some (w, nodes, tris) =>
      let l := lineOf w v.o v.d
      pure (l.map Prod.fst, l.map Prod.snd, nodes, tris, { st with insts := insts })

/-- The triangle of a leaf as a candidate, with NOPQ; none where the ray misses it (19 R397, R398). -/
def State.traceTri (s : State) (v : TEnv) (st : TraceSt) (n ix : Nat) : Rd (TraceSt × Option (THit × Bool)) := do
  let (p, q, _, tris, st) ← s.traceLine v st (some n)
  match ttriOf (← s.fieldGet v.cr (tris + 48 * ix) 48 5) with
  | none => Rd.fail (10, 0)
  | some (tri, nopq, prim) =>
    pure (st, (triHit p q tri).map fun h =>
      ({ t := h.1, u := h.2.1, v := h.2.2.1, front := h.2.2.2, inst := n, tri := ix, prim := prim }, nopq))

/-- The children that the ray meets of a node, in the order of their visits. -/
def State.traceKids (s : State) (v : TEnv) (st : TraceSt) (inst : Option Nat) (ix : Nat) : Rd (TraceSt × List TTodo) := do
  let (p, q, nodes, _, st) ← s.traceLine v st inst
  let inArrays := fun (cs : List (List X × Nat × Nat)) =>
    inst.isSome || cs.all fun e => e.2.1 != 2 || decide (e.2.2 < v.ninst)
  match (tnodeOf (← s.fieldGet v.cr (nodes + 128 * ix) 128 5)).filter inArrays with
  | none => Rd.fail (10, 0)
  | some cs =>
    let kids := cs.filterMap fun e =>
      if e.2.1 = 0 then none
      else (boxRange p q e.1).map fun r => ({ inst := inst, leaf := e.2.1 == 2, ix := e.2.2, lo := r.1, hi := r.2 } : TTodo)
    pure (st, kids.foldl (fun (l : List TTodo) k => insertEntry k l) [])

/-- The visit of the next child. -/
def State.traceGo (s : State) (v : TEnv) : Nat → TraceSt → Rd TraceOut
  | 0, st => pure (.steps st)
  | fuel + 1, st =>
    match st.todo with
    | [] => pure (.done st)
    | x :: rest =>
      let st := { st with todo := rest }
      let tcur := (st.best.map THit.t).getD v.tmax
      if !(rangeMeets (x.lo, x.hi) v.tmin tcur) then s.traceGo v fuel st
      else
        match x.inst, x.leaf with
        | none, true =>
          if v.ninst ≤ x.ix then pure (.bad (10, 0) st)
          else s.traceGo v fuel { st with todo := { inst := some x.ix, leaf := false, ix := 0 } :: rest }
        | some n, true => do
          match ← (s.traceTri v st n x.ix).attempt with
          | .error b => pure (.bad b st)
          | .ok (st, none) => s.traceGo v fuel st
          | .ok (st, some (c, nopq)) =>
            if c.t.lt v.tmin || tcur.lt c.t || !(closer c st.best) then s.traceGo v fuel st
            else if nopq then pure (.call { st with cand := some c } c)
            else s.traceGo v fuel { st with best := some c }
        | inst, false =>
          if st.visits = 65536 then pure (.steps st)
          else do
            match ← (s.traceKids v st inst x.ix).attempt with
            | .error b => pure (.bad b st)
            | .ok (st, kids) => s.traceGo v fuel { st with visits := st.visits + 1, todo := kids ++ rest }

/-- The five words of a candidate (19 R400); an exact zero of t, u or v is +0 (notes/assumptions/102.md). -/
def hitWords (c : THit) (status : Nat) : List Nat :=
  let r := fun (x : X) => (fp32.round .ne x).1
  [r c.t, status + (if c.front then 256 else 0) + c.inst % 65536 * 65536, c.prim, r c.u, r c.v]

/-- The words of an end for which the spec gives STATUS, and D when `t` is some; the others are open. -/
def openWords (n status : Nat) (t : Option Nat) : List Nat :=
  let w := fun (k : Nat) => (Config.fieldOpen n k).toNat
  [t.getD (w 0), status + w 1 / 256 * 256, w 2, w 3, w 4]

/-- A traced ray's end: the five result words, the DETAIL of a report, what is kept at a CALL, the nodes visited, and what has been
read. -/
structure TraceEnd where
  words : List Nat
  det : Nat := 0
  kept : Option TraceSt := none
  steps : Nat := 0
  reads : Reads := {}

/-- A traced ray's end or CALL; `n` numbers its open values. -/
def State.traceRay (s : State) (cr : Crew) (r : Ray) (n : Nat) : TraceEnd :=
  let c := r.input.map (·.toNat)
  let tmin := c.getD 6 0
  let tmax := c.getD 7 0
  match r.bad, tsceneOf r.scene with
  | some b, _ => { words := openWords n b.1 (some tmin), det := b.2 }
  | none, none => { words := openWords n 10 (some tmin) }
  | none, some (top, itab, ninst) =>
    if badRay c then { words := openWords n 7 (some tmin) }
    else if (ex tmax).lt (ex tmin) then { words := [tmax, 0xFFFF0000, 0, 0, 0] }
    else
      let x := fun (k : Nat) => (fp32.val (c.getD k 0)).x
      let v : TEnv :=
        { cr := cr, top := top, itab := itab, ninst := ninst, o := [x 0, x 1, x 2], d := [x 3, x 4, x 5], tmin := x 6,
          tmax := x 7 }
      let go := fun (st : TraceSt) =>
        let m := (s.traceGo v 600000 st).out
        let ends := fun (st' : TraceSt) (status : Nat) =>
          ({ words := match st'.best with
               | some b => hitWords b status
               | none => if status = 1 then [tmax, 0xFFFF0000, 0, 0, 0] else openWords n status none
             steps := st'.visits - st.visits, reads := m.2 } : TraceEnd)
        match m.1 with
        | .ok (.done st') => ends st' 1
        | .ok (.steps st') => ends st' 3
        | .ok (.call st' h) => { words := hitWords h 4, kept := some st', steps := st'.visits - st.visits, reads := m.2 }
        | .ok (.bad b st') => { words := openWords n b.1 none, det := b.2, steps := st'.visits - st.visits, reads := m.2 }
        | .error b => { words := openWords n b.1 none, det := b.2, reads := m.2 }
      match r.reply, r.trace.cand with
      | some w, some h =>
        if w.1.toNat / 2 ≠ 0 then { words := openWords n 8 none }
        else go { r.trace with cand := none, best := if bit w.1.toNat 0 then some h else r.trace.best }
      | _, _ => go { todo := [{ inst := none, leaf := false, ix := 0 }] }

/-- trace (19 R400). -/
def trace (i : Info) (d a b : Nat) (s : State) : Out :=
  issue i s fun c s =>
    let cr := s.crewOf c
    let x := c.sr b
    if x.toNat % 64 ≠ 0 then c.all 4 0 (opInfo x 4 2)
    else if s.fieldHeld c then .hold
    else
      let z := s.readScene cr x.toNat 5
      s.reads c cr { mem := [(x.toNat, 64)] } fun s => s.startRays c cr i .traverser d 5 fun t op =>
        { unit := .traverser, tid := t.tid, op := op, scene := z.1, bad := z.2,
          input := (upto 8).map (fun k => t.vr (a + k)), dest := d, ipc := c.pc }

/-! ### The end of a ray (18 R382, 19 R400) -/

/-- Work of a core's units that has read memory: it waits for a miss slot and while its requests are NACKed (10 R227, R230). -/
def State.unitReads (s : State) (cr : Crew) (who : Nat) (r : Reads) (work : State → State) : State :=
  let pages := distinct (r.mem.flatMap fun e => pagesVa e.1 e.2)
  if s.missHeld cr.core cr.jd pages then s.startWalks cr.core cr.jd pages
  else s.atHomes cr.core (.ray, who) (s.readHomes cr r) fun s => work (s.readDone cr r)

/-- RAY_END: the ray of a thread in a unit (0 marcher, 1 traverser) ends or stops at CALL: its result words go to its
instruction's registers, a failed read is reported. -/
def rayEnd (k tid unit : Nat) (s : State) : State :=
  let u := if unit = 0 then RayUnit.marcher else RayUnit.traverser
  match (s.crew k).bind fun cr => (cr.rayOf u tid).map fun r => (cr, r) with
  | none => s
  | some (cr, r) =>
    if r.stopped || cr.shadow || s.engineHolds cr.core then s
    else
      let co := ((s.cohortsOf k).find? fun c => (c.op r.op).isSome).map (·.key)
      let fin := fun (s : State) (words : List Nat) (det steps : Nat) (keep : Option Ray) =>
        let left := fun (x : Ray) => if decide (x.unit = u) && x.tid == tid then keep.toList else [x]
        let s := s.onCrew k fun cr => { cr with rays := cr.rays.flatMap left }
        let res := (List.zip (upto words.length) words).map fun e => RegWrite.v tid (r.dest + e.1) (BitVec.ofNat 32 e.2) false
        let s := match co with
          | some c => (s.onCohort c fun c => c.onOp r.op fun o => { o with res := o.res ++ res, left := o.left - 1 }).marchReport
              c k det r.ipc
          | none => s
        s.countPm cr.core 0 11 steps
      let rest := { r with op := 0, stopped := true, reply := none }
      let who := (k * 128 + tid) * 2 + unit
      match u with
      | .marcher =>
        let e := s.marchRay cr r
        s.unitReads cr who e.reads fun s =>
          fin s e.words e.det (e.steps - r.march.steps) (e.kept.map fun m => { rest with march := m })
      | .traverser =>
        let e := s.traceRay cr r s.fresh
        s.unitReads cr who e.reads fun s =>
          fin { s with fresh := s.fresh + 1 } e.words e.det e.steps (e.kept.map fun m => { rest with trace := m })

/-! ### Images (19 R406-R408) -/

/-- An image descriptor's fields. -/
structure Img where
  base : Nat
  rmap : Nat
  w : Nat
  h : Nat
  levels : Nat
  fmt : Nat

/-- A descriptor from its bits; none when it breaks R406. -/
def imgOf (x : Nat) : Option Img :=
  let w := bitsOf x 128 16
  let h := bitsOf x 144 16
  let n := bitsOf x 160 8
  let f := bitsOf x 168 8
  if bitsOf x 0 64 % 256 ≠ 0 ∨ w = 0 ∨ 16384 < w ∨ h = 0 ∨ 16384 < h ∨ n = 0 ∨ 15 < n ∨ 1 + Nat.log2 (max w h) < n ∨ f = 0 ∨ 3 < f ∨
      bitsOf x 176 336 ≠ 0 then none
  else some { base := bitsOf x 0 64, rmap := bitsOf x 64 64, w := w, h := h, levels := n, fmt := f }

/-- Bytes of a texel. -/
def Img.bpp (m : Img) : Nat := if m.fmt = 2 then 8 else 4
def Img.lw (m : Img) (l : Nat) : Nat := max 1 (m.w / 2 ^ l)
def Img.lh (m : Img) (l : Nat) : Nat := max 1 (m.h / 2 ^ l)
/-- Tiles of a level. -/
def Img.tiles (m : Img) (l : Nat) : Nat := ceilDiv (m.lw l) 8 * ceilDiv (m.lh l) 8
/-- Tiles of the levels before one. -/
def Img.before (m : Img) (l : Nat) : Nat := ((upto l).map m.tiles).sum
/-- The tile of a texel in its level. -/
def Img.tile (m : Img) (l x y : Nat) : Nat := y / 8 * ceilDiv (m.lw l) 8 + x / 8
/-- The address of a texel. -/
def Img.texel (m : Img) (l x y : Nat) : Nat :=
  let z := ((upto 3).map fun k => (if bit x k then 4 ^ k else 0) + (if bit y k then 2 * 4 ^ k else 0)).sum
  m.base + (64 * (m.before l + m.tile l x y) + z) * m.bpp

/-- The footprint of a position at a level: columns, rows, and the weights (19 R407). -/
def Img.foot (m : Img) (l : Nat) (u v : X) : List Nat × List Nat × X × X :=
  let axis := fun (p : X) (n : Nat) =>
    let s := (p.mul (X.ofInt n)).sub ⟨1, -1, 1⟩
    let i := s.floor
    let clamp := fun (k : Int) => (satInt k 0 ((n : Int) - 1)).toNat
    ([clamp i, clamp (i + 1)], s.sub (X.ofInt i))
  let a := axis u (m.lw l)
  let b := axis v (m.lh l)
  (a.1, b.1, a.2, b.2)

/-- Are the tiles of a footprint resident? -/
def State.footResident (s : State) (cr : Crew) (m : Img) (l : Nat) (xs ys : List Nat) : Rd Bool := do
  if m.rmap = 0 then pure true
  else
    let ts := distinct (ys.flatMap fun y => xs.map fun x => m.tile l x y)
    let l ← ts.mapM fun t => s.fieldGet cr (m.rmap + m.before l + t) 1 6
    pure (l.all (· != 0))

/-- The used level: the least from `l` on whose footprint is resident. -/
def State.usedLevel (s : State) (cr : Crew) (m : Img) (u v : X) : Nat → Nat → Rd (Option Nat)
  | 0, _ => pure none
  | fuel + 1, l => do
    if m.levels ≤ l then pure none
    else
      let f := m.foot l u v
      if ← s.footResident cr m l f.1 f.2.1 then pure (some l)
      else s.usedLevel cr m u v fuel (l + 1)

/-- The requested level. -/
def Img.request (m : Img) (lam : Nat) : Nat :=
  match fp32.val lam with
  | .nan _ => 0
  | .inf n => if n then 0 else m.levels - 1
  | x => (satInt (x.x.toInt (some .ne)) 0 ((m.levels : Int) - 1)).toNat

/-- The channels of a texel, as values. -/
def Img.channels (m : Img) (x : Nat) : List FVal :=
  if m.fmt = 2 then (upto 4).map fun k => fp16.val (bitsOf x (16 * k) 16)
  else [fp32.val x, .fin false 0 0, .fin false 0 0, .fin false 1 0]

/-- The blend of four values with weights: rne of the exact sum; a NaN where a value is not finite is canonical. An exact zero
is +0 (notes/assumptions/101.md). -/
def blend (vs : List FVal) (ws : List X) : Nat :=
  if vs.all (·.isFin) then (fp32.round .ne (X.sum ((List.zip vs ws).map fun e => e.1.x.mul e.2))).1
  else
    let used := (List.zip vs ws).filter fun e => !e.1.isFin
    let infs := used.map fun e => (e.1, e.2.n == 0)
    if infs.any fun e => e.1.isNan || e.2 then fp32.nan
    else
      let negs := infs.map fun e => e.1.negQ
      if negs.contains true && negs.contains false then fp32.nan else if negs.contains true then fpNegInf else fpInf

/-- The bilinear sample at a level: four codes. -/
def State.sample (s : State) (cr : Crew) (m : Img) (l : Nat) (u v : X) : Rd (List Nat) := do
  let f := m.foot l u v
  let one := X.ofInt 1
  let ws := [(one.sub f.2.2.1).mul (one.sub f.2.2.2), f.2.2.1.mul (one.sub f.2.2.2), (one.sub f.2.2.1).mul f.2.2.2,
    f.2.2.1.mul f.2.2.2]
  let pts := f.2.1.flatMap fun y => f.1.map fun x => m.texel l x y
  let ts ← pts.mapM fun a => s.fieldGet cr a m.bpp 6
  pure ((upto 4).map fun c =>
    if m.fmt = 1 then
      (fp32.round .ne ((X.sum ((List.zip ts ws).map fun e => (X.ofInt (bitsOf e.1 (8 * c) 8)).mul e.2)).div (X.ofInt 255))).1
    else blend (ts.map fun t => (m.channels t).getD c (.fin false 0 0)) ws)

/-- The level that a position uses, with the sample there; none where no level is resident. -/
def State.texAt (s : State) (cr : Crew) (m : Img) (p : List Nat) : Rd (Option (List Nat)) := do
  let u := (fp32.val (p.getD 0 0)).x
  let v := (fp32.val (p.getD 1 0)).x
  match ← s.usedLevel cr m u v 16 (m.request (p.getD 2 0)) with
  | none => pure none
  | some l => do
    let cs ← s.sample cr m l u v
    pure (some cs)

/-- One lane of tex: four codes, the DETAIL of a report, whether they are poisoned; and what it has read. -/
def State.texLane (s : State) (cr : Crew) (n : Nat) (img : Except Bad (Option Img)) (p : List Nat) :
    (List Nat × Nat × Bool) × Reads :=
  let nans := List.replicate 4 fp32.nan
  let fail := fun (e : Bad) => ((upto 4).map fun k => (Config.fieldOpen n k).toNat, e.2, e.2 == 4)
  match img with
  | .error e => (fail e, {})
  | .ok none => ((nans, 0, false), {})
  | .ok (some m) =>
    if !((p.take 2).all cfin) then ((nans, 0, false), {})
    else
      let e := (s.texAt cr m p).out
      (match e.1 with
       | .error e => fail e
       | .ok r => (r.getD [0, 0, 0, 0], 0, false), e.2)

/-- One lane of texq: the status word, the DETAIL of a report, whether it is poisoned; and what it has read. After a failed read the
fields that it would have given are free: all of them for a descriptor, all but the requested level for RMAP
(notes/assumptions/14.md). -/
def State.texqLane (s : State) (cr : Crew) (n : Nat) (img : Except Bad (Option Img)) (p : List Nat) : (Nat × Nat × Bool) × Reads :=
  let w := (Config.fieldOpen n 0).toNat
  match img with
  | .error e => ((w % 2 ^ 18, e.2, e.2 == 4), {})
  | .ok none => ((w % 2 ^ 18 + 2 ^ 18, 0, false), {})
  | .ok (some m) =>
    let r := m.request (p.getD 2 0)
    if !((p.take 2).all cfin) then ((r + w % 1024 * 256, 0, false), {})
    else
      let e := (s.usedLevel cr m (fp32.val (p.getD 0 0)).x (fp32.val (p.getD 1 0)).x 16 r).out
      (match e.1 with
       | .error e => (r + w % 1024 * 256, e.2, e.2 == 4)
       | .ok none => (r + w % 512 * 256 + 2 ^ 17, 0, false)
       | .ok (some l) => (r + l * 256 + (if l = r then 0 else 65536), 0, false), e.2)

/-- The descriptor of a texture instruction. -/
def State.readImg (s : State) (cr : Crew) (va : Nat) : Except Bad (Option Img) :=
  match s.fieldRead cr va 64 6 with
  | .error b => .error b
  | .ok x => .ok (imgOf x)

/-- tex and texq: `lane` gives the words of a lane. -/
def texOp (i : Info) (sub d a b n : Nat) (s : State)
    (lane : Cohort → State → Nat → Except Bad (Option Img) → List Nat → (List Nat × Nat × Bool) × Reads) : Out :=
  issue i s fun c s =>
    let cr := s.crewOf c
    let x := c.sr b
    if x.toNat % 64 ≠ 0 then c.all 4 0 (opInfo x sub 2)
    else if s.fieldHeld c then .hold
    else
      let img := s.readImg cr x.toNat
      let ts := c.actives
      let rs := (List.zip ts (upto ts.length)).map fun e =>
        (e.1.tid, lane c s (s.fresh + e.2) img ((upto 3).map fun k => (e.1.vr (a + k)).toNat))
      s.reads c cr (laneReads x.toNat rs) fun s =>
        let s := rs.foldl (fun s r => s.marchReport c.key cr.key r.2.1.2.1 c.pc) { s with fresh := s.fresh + ts.length }
        let res := rs.flatMap fun r => (List.zip (upto n) r.2.1.1).map fun e =>
          RegWrite.v r.1 (if n = 1 then d else d + e.1) (BitVec.ofNat 32 e.2) r.2.1.2.2
        .done (s.quickOp c.key i.len { id := 0, cls := .gath, regsV := if n = 1 then dst d else grp d n, res := res })

def tex (i : Info) (d a b : Nat) (s : State) : Out :=
  texOp i 6 d a b 4 s fun c s n img p => s.texLane (s.crewOf c) n img p
def texq (i : Info) (d a b : Nat) (s : State) : Out :=
  texOp i 7 d a b 1 s fun c s n img p =>
    let r := s.texqLane (s.crewOf c) n img p
    (([r.1.1], r.1.2), r.2)

/-- TRACE (R400): Hand rays to the BVH traverser. -/
def execTrace (d a b : Nat) (s : State) : Out :=
  trace { infoTrace 46 4 d a b with long := true } d a b s

/-- TRACER (R400): Resume stopped trace rays with accept or reject. -/
def execTracer (d a : Nat) (s : State) : Out :=
  resume { infoTracer 46 5 d a with long := true } .traverser d 5 (fun t => (t.vr a, 0)) s

/-- TEX (R407): Sample a texture bilinearly at a resident level. -/
def execTex (d a b : Nat) (s : State) : Out :=
  tex { infoTex 46 6 d a b with long := true } d a b s

/-- TEXQ (R408): Query the texture level a sample would use. -/
def execTexq (d a b : Nat) (s : State) : Out :=
  texq { infoTexq 46 7 d a b with long := true } d a b s

/-- RAY_END (R382): A marched or traced ray ends or stops at CALL and writes its result registers. -/
def execRayEnd (crew tid unit : Nat) (s : State) : Out :=
  .next (rayEnd crew tid unit s)

end Sys2Proof.Machine
end

