-- ==== Sys2Proof/Machine/Raster.lean ====
section
/-!
DEFINITION. Sys2Proof/Machine/Raster.lean: the raster engines: draw records, coverage and depth, frames (19 R401-R405).
-/

namespace Sys2Proof.Machine

/-- A draw record's fields (19 R403). -/
structure DRec where
  vtx : Nat
  idx : Nat
  vis : Nat
  ntri : Nat
  width : Nat
  height : Nat
  pitch : Nat
  idbase : Nat
  tlist : Nat
  tlsz : Nat

/-- A record from its bits; none when it breaks the rules. -/
def drecOf (x : Nat) : Option DRec :=
  let r : DRec :=
    { vtx := bitsOf x 0 57, idx := bitsOf x 64 57, vis := bitsOf x 128 57, ntri := bitsOf x 192 32, width := bitsOf x 224 16,
      height := bitsOf x 240 16, pitch := bitsOf x 256 32, idbase := bitsOf x 288 32, tlist := bitsOf x 320 57,
      tlsz := bitsOf x 384 32 }
  if r.vis % 8 ≠ 0 ∨ r.width = 0 ∨ 16384 < r.width ∨ r.height = 0 ∨ 16384 < r.height ∨ r.pitch % 8 ≠ 0 ∨
      r.pitch < 8 * r.width ∨ r.tlist % 256 ≠ 0 ∨ r.tlsz % 8 ≠ 0 ∨ r.tlsz < 4096 ∨ bitsOf x 57 7 ≠ 0 ∨ bitsOf x 121 7 ≠ 0 ∨
      bitsOf x 185 7 ≠ 0 ∨ bitsOf x 377 7 ≠ 0 ∨ bitsOf x 512 512 ≠ 0 then none else some r

/-- Vertices of a triangle, exact: x, y, z of each. -/
abbrev Tri := List (List X)

/-- Twice the signed area of the projection. -/
def area2 (p q r : List X) : X :=
  let g := fun (v : List X) (k : Nat) => v.getD k (X.ofInt 0)
  (((g q 0).sub (g p 0)).mul ((g r 1).sub (g p 1))).sub (((g q 1).sub (g p 1)).mul ((g r 0).sub (g p 0)))

/-- Is a point inside the edge from `p` to `q` of a triangle of positive area; on the edge, only of a top or left edge (19
R404)? -/
def edgeIn (p q c : List X) : Bool :=
  let g := fun (v : List X) (k : Nat) => v.getD k (X.ofInt 0)
  let a := area2 p q c
  let dx := (g q 0).sub (g p 0)
  let dy := (g q 1).sub (g p 1)
  decide (0 < a.sgn) || (a.sgn == 0 && (dy.sgn == -1 || (dy.sgn == 0 && dx.sgn == 1)))

/-- The triangle with positive area; none when it has none. -/
def orient (t : Tri) : Option Tri :=
  match t with
  | [p, q, r] => if (area2 p q r).sgn = 0 then none else if (area2 p q r).sgn = 1 then some t else some [p, r, q]
  | _ => none

/-- The depth code at a centre that the triangle covers (19 R404). -/
def depthAt (t : Tri) (c : List X) : Option Nat :=
  match t with
  | [p, q, r] =>
    if edgeIn p q c && edgeIn q r c && edgeIn r p c then
      let z := fun (v : List X) => v.getD 2 (X.ofInt 0)
      let n := ((area2 q r c).mul (z p)).add (((area2 r p c).mul (z q)).add ((area2 p q c).mul (z r)))
      let d := (fp32.round .ne (n.div (area2 p q r))).1
      some (if 2147483648 ≤ d then 0 else d)
    else none
  | _ => none

/-- The unit number of a sector's raster engine, for translations. -/
def rasterUnit (k : Nat) : Nat := 640 + k

/-- A number read by the engine; none when the read fails or is poisoned. -/
def State.rasterRead (s : State) (k : Nat) (jd : JobDesc) (va n : Nat) : Option Nat :=
  match s.readVa (rasterUnit k) jd va n with
  | .error _ => none
  | .ok bs => if bs.any (·.2) then none else some (leNat (bs.map (·.1)))

/-- A visibility word replaced by the unsigned minimum (19 R401); none when its address cannot be written. -/
def State.visMin (s : State) (k : Nat) (jd : JobDesc) (va x : Nat) : Option State :=
  match s.translate (rasterUnit k) jd va .atomic with
  | .error _ => none
  | .ok pa =>
    let s := (s.slPost true ((upto 8).map (pa + ·))).meet (s.sites .glob pa 8)
    some (if s.poisoned .glob pa 8 then s else s.writeNat .glob pa 8 (min (s.gmem.nat pa 8) x))

/-- An entry of the tile list: tile column and row, triangle number, its vertices. -/
structure Entry where
  tx : Nat
  ty : Nat
  n : Nat
  tri : Tri

/-- The writes of an entry: pixels of its tile that the triangle covers. -/
def Entry.words (r : DRec) (e : Entry) : List (Nat × Nat) :=
  (upto 32).flatMap fun dy => (upto 32).filterMap fun dx =>
    let x := 32 * e.tx + dx
    let y := 32 * e.ty + dy
    if x < r.width ∧ y < r.height then
      (depthAt e.tri [⟨2 * (x : Int) + 1, -1, 1⟩, ⟨2 * (y : Int) + 1, -1, 1⟩]).map fun d =>
        (r.vis + y * r.pitch + 8 * x, d * 2 ^ 32 + (r.idbase + e.n) % 2 ^ 32)
    else none

/-- Render writes in order; none after the first that fails, with the state so far. -/
def State.visWrites (k : Nat) (jd : JobDesc) : List (Nat × Nat) → State → State × Bool
  | [], s => (s, true)
  | w :: ws, s =>
    match s.visMin k jd w.1 w.2 with
    | none => (s, false)
    | some s => State.visWrites k jd ws s

/-- The tiles that a triangle's bounding box touches (19 R405). -/
def tilesOf (r : DRec) (t : Tri) : List (Nat × Nat) :=
  let axis : Nat → Nat → List Nat := fun (k n : Nat) =>
    let xs := t.map fun v => (v.getD k (X.ofInt 0)).floor
    match xs with
    | [] => []
    | x :: rest =>
      let lo := rest.foldl Min.min x
      let hi := rest.foldl Max.max x
      (upto (ceilDiv n 32)).filter fun (i : Nat) => decide (lo / 32 ≤ (i : Int) ∧ (i : Int) ≤ hi / 32)
  (axis 1 r.height).flatMap fun ty => (axis 0 r.width).map fun tx => (tx, ty)

/-- Triangle `i`: its vertices with positive area; `some none` when it is skipped, none when a read fails (19 R404). -/
def State.readTri (s : State) (k : Nat) (jd : JobDesc) (r : DRec) (i : Nat) : Option (Option Tri) :=
  match s.rasterRead k jd (r.idx + 12 * i) 12 with
  | none => none
  | some x =>
    let ix := (upto 3).map fun j => bitsOf x (32 * j) 32
    if ix.any fun n => decide (2 ^ 32 ≤ 12 * n) then some none
    else
      match ix.mapM fun n => s.rasterRead k jd (r.vtx + 12 * n) 12 with
      | none => none
      | some vs =>
        let cs := vs.map fun v => (upto 3).map fun j => bitsOf v (32 * j) 32
        if !(cs.all fun v => v.all cfin) then some none
        else some (orient (cs.map fun v => v.map fun c => (fp32.val c).x))

/-- The words that the reading of triangle `i` meets (10 R233). -/
def State.meetTri (s : State) (k : Nat) (jd : JobDesc) (r : DRec) (i : Nat) : State :=
  if s.latent = [] then s
  else
    let s := s.meetVa (rasterUnit k) jd (r.idx + 12 * i) 12
    match s.rasterRead k jd (r.idx + 12 * i) 12 with
    | none => s
    | some x => (upto 3).foldl (fun s j => s.meetVa (rasterUnit k) jd (r.vtx + 12 * bitsOf x (32 * j) 32) 12) s

/-- The homes that a draw reaches: its record, indices, vertices, tile list and surface, while some domain changes (10 R230). -/
def State.drawHomes (s : State) (k : Nat) (jd : JobDesc) (va : Nat) : List Nat :=
  if s.changing = [] then []
  else
    let homes := fun (a n : Nat) (w : Acc) => if n = 0 then [] else s.vaHomes (rasterUnit k) jd a n w
    homes va 128 .read ++ match (s.rasterRead k jd va 128).bind drecOf with
      | none => []
      | some r =>
        homes r.idx (12 * r.ntri) .read ++ homes r.tlist r.tlsz .write ++ homes r.vis (r.height * r.pitch) .atomic ++
          (upto r.ntri).flatMap fun i => match s.rasterRead k jd (r.idx + 12 * i) 12 with
            | none => []
            | some x => (upto 3).flatMap fun j => homes (r.vtx + 12 * bitsOf x (32 * j) 32) 12 .read

/-- A draw under way: state, frame so far (newest first), flushes, and whether it goes on. -/
structure DrawRun where
  s : State
  frame : List Entry := []
  flushes : Nat := 0
  ok : Bool := true

/-- The frame is rendered and the area emptied. -/
def DrawRun.flush (d : DrawRun) (k : Nat) (jd : JobDesc) (r : DRec) : DrawRun :=
  let z := State.visWrites k jd (d.frame.reverse.flatMap (Entry.words r)) d.s
  { d with s := z.1, ok := z.2, frame := [] }

/-- An entry is appended; its 8 bytes in the tile list are the engine's own (notes/assumptions/14.md). -/
def DrawRun.append (d : DrawRun) (k : Nat) (jd : JobDesc) (r : DRec) (e : Entry) : DrawRun :=
  if !d.ok then d
  else
    let d := if r.tlsz < 8 * (d.frame.length + 1) then
        (let f := d.flush k jd r
         { f with flushes := f.flushes + 1 }) else d
    if !d.ok then d
    else match d.s.translate (rasterUnit k) jd (r.tlist + 8 * d.frame.length) .write with
    | .error _ => { d with ok := false }
    | .ok pa =>
      let w := fun (j : Nat) => (Config.fieldOpen d.s.fresh j).toNat
      let s : State := { d.s with fresh := d.s.fresh + 1 }
      { d with s := (s.slPost false ((upto 8).map (pa + ·))).writeNat .glob pa 8 (w 0 + w 1 * 2 ^ 32), frame := e :: d.frame }

/-- The triangles from `i` on. -/
def drawTris (k : Nat) (jd : JobDesc) (r : DRec) : Nat → Nat → DrawRun → DrawRun
  | 0, _, d => d
  | n + 1, i, d =>
    if !d.ok then d
    else
    let d := { d with s := d.s.meetTri k jd r i }
    match d.s.readTri k jd r i with
    | none => { d with ok := false }
    | some none => drawTris k jd r n (i + 1) d
    | some (some t) =>
      drawTris k jd r n (i + 1)
        ((tilesOf r t).foldl (fun (d : DrawRun) e => d.append k jd r { tx := e.1, ty := e.2, n := i, tri := t }) d)

/-- The active job of a partition. -/
def State.activeJob (s : State) (p : Nat) : Option JobDesc :=
  let pa := Tab.read 0 s.pjob (2 * p)
  if s.jobOk pa then some (s.jobAt pa p true) else none

/-- Physical address of a raster ring. -/
def rasterRing (k p : Nat) : Nat := 0x11FFFE0000 + 0x1000 * (8 * k + p)

/-- Has the ring of partition `p` a slot to take? -/
def State.rasterReady (s : State) (k p : Nat) : Bool :=
  let pa := rasterRing k p
  let page := pa / 65536 * 65536
  (s.activeJob p).isSome && (s.ringPoison false pa page 65536).isNone && (s.ringReach false pa page 65536).isSome

/-- DRAW_TAKE: an idle engine takes the next slot of its rings in turn and draws (19 R402, R404, R405). -/
def drawTake (k : Nat) (s : State) : State :=
  if 4 ≤ k ∨ s.draws.any (fun d => d.engine == k) then s
  else
    let n := Tab.read 0 s.rasterNext k
    match ((upto 8).map fun j => (n + j) % 8).find? (s.rasterReady k) with
    | none => s
    | some p =>
      match s.activeJob p with
      | none => s
      | some jd =>
        let pa := rasterRing k p
        let slot := s.gmem.nat (s.ringSlot pa (s.ringHead pa)) 8
        s.atHomes 640 (.raster, k) (s.drawHomes k jd slot) fun s =>
        let s := s.meet (s.sites .glob pa 64 ++ s.sites .glob (s.ringSlot pa (s.ringHead pa)) 8)
        let z := (s.slPost false ((upto 8).map (pa + 16 + ·))).ringPop pa
        let s : State := { z.2 with rasterNext := Tab.put 0 z.2.rasterNext k ((p + 1) % 8) }
        let fin := fun (s : State) (status flushes : Nat) =>
          { s with draws := s.draws ++ [({ engine := k, drec := z.1, jd := jd, status := status, flushes := flushes } : Draw)] }
        let s := s.meetVa (rasterUnit k) jd z.1 128
        match s.rasterRead k jd z.1 128 with
        | none => fin s 9 0
        | some x =>
          match drecOf x with
          | none => fin s 5 0
          | some r =>
            let d := drawTris k jd r r.ntri 0 { s := s }
            let d := if d.ok then d.flush k jd r else d
            fin d.s (if d.ok then 1 else 9) d.flushes

/-- A 32-bit field of a draw record written by the engine, when its page can be written. -/
def State.drawWrite (s : State) (k : Nat) (jd : JobDesc) (va x : Nat) : State :=
  match s.translate (rasterUnit k) jd va .write with
  | .error _ => s
  | .ok pa => ((s.slPost false ((upto 4).map (pa + ·))).meet (s.sites .glob pa 4)).writeNat .glob pa 4 x

/-- A 32-bit counter of a draw record raised. -/
def State.drawAdd (s : State) (k : Nat) (jd : JobDesc) (va x : Nat) : State :=
  match s.rasterRead k jd va 4 with
  | some n => s.drawWrite k jd va ((n + x) % 2 ^ 32)
  | none => s

/-- DRAW_END: STATUS and FLUSHES, then DONE; a record that breaks the rules gets STATUS alone (19 R403, R405). -/
def drawEnd (k : Nat) (s : State) : State :=
  match s.draws.find? fun d => d.engine == k with
  | none => s
  | some d => s.atHomes 640 (.raster, k) (s.vaHomes (rasterUnit k) d.jd d.drec 64 .write) fun s =>
    let s : State := { s with draws := s.draws.filter fun x => x.engine != k }
    let s := s.drawWrite k d.jd (d.drec + 52) d.status
    if d.status = 5 then s else (s.drawAdd k d.jd (d.drec + 56) d.flushes).drawAdd k d.jd (d.drec + 60) 1

/-- DRAW_TAKE (R402): A raster engine takes a draw record from a ring and rasterises it. -/
def execDrawTake (engine : Nat) (s : State) : Out :=
  .next (drawTake engine s)

/-- DRAW_END (R405): The draw ends: STATUS, FLUSHES, then DONE with a release. -/
def execDrawEnd (engine : Nat) (s : State) : Out :=
  .next (drawEnd engine s)

end Sys2Proof.Machine
end

