-- ==== Sys2Proof/Machine/Collectives.lean ====
section
/-!
DEFINITION. Sys2Proof/Machine/Collectives.lean: collectives among the ranks of a communicator (20 R414-R419) and the failures of
their paths (21 R420, R421).
-/

namespace Sys2Proof.Machine

/-! ### Communicator records (20 R414, 21 R421) -/

/-- Bytes of a job's space as an engine of sector 0 reads them; DETAIL of the report otherwise: 1 translation, 2 PROT. -/
def State.collRead (s : State) (cr : Crew) (va n : Nat) : Except Nat (List (Byte × Bool)) :=
  if n = 0 then .ok []
  else match s.readVa 640 cr.jd va n with
  | .ok bs => .ok bs
  | .error e => .error (if e.1 = 6 then 2 else 1)

/-- A number in such bytes; poisoned bytes are DETAIL 3. -/
def State.collNat (s : State) (cr : Crew) (va n : Nat) : Except Nat Nat :=
  match s.collRead cr va n with
  | .ok bs => if bs.any (·.2) then .error 3 else .ok (leNat (bs.map (·.1)))
  | .error e => .error e

/-- Does a queue pair exist on a port? -/
def State.hasQp (s : State) (port qp : Nat) : Bool := s.qpairs.any fun q => q.port == port && q.qp == qp

/-- An entry of the peer table and whether it keeps the rules of 21 R421. -/
def State.commPeer (s : State) (x : Nat) : CommPeer × Bool :=
  let e : CommPeer := { path := bitsOf x 0 16, lqpn := bitsOf x 32 24, rqpn := bitsOf x 64 24, rkey := bitsOf x 96 32,
                        rstage := bitsOf x 128 64 }
  (e, bitsOf x 16 16 == 0 && bitsOf x 192 64 == 0 &&
    (e.path == 0xFFFF || (decide (e.path < 4) && bitsOf x 56 8 == 0 && bitsOf x 88 8 == 0 && s.hasQp e.path e.lqpn)))

/-- No peer: the entry of the rank itself, which is not read, and one that breaks the rules. -/
def noPeer : CommPeer := { path := 0x10000, lqpn := 0, rqpn := 0, rkey := 0, rstage := 0 }

/-- The communicator record of a collective taken into it; `bad` is 4 where it is refused, and the peers whose entries can be read and
keep the rules are known all the same. -/
def State.readComm (s : State) (cr : Crew) (x : Coll) : Coll :=
  match if x.comm % 64 = 0 then s.collNat cr x.comm 64 else .error 4 with
  | .error e => { x with bad := e }
  | .ok r =>
    let x : Coll := { x with nrank := bitsOf r 0 16, rank := bitsOf r 16 16, seq := bitsOf r 256 32 }
    let stage := match s.translate 640 cr.jd (bitsOf r 128 64) .write with
      | .ok pa => some pa
      | .error _ => none
    let ps : List (CommPeer × Nat) := (upto x.nrank).map fun k =>
      if k = x.rank then (noPeer, 0)
      else match s.collNat cr (bitsOf r 64 64 + 32 * k) 32 with
        | .error e => (noPeer, e)
        | .ok w => if (s.commPeer w).2 then ((s.commPeer w).1, 0) else (noPeer, 4)
    let ok := bitsOf r 32 32 == 0 && bitsOf r 293 27 == 0 && bitsOf r 320 192 == 0 && decide (x.rank < x.nrank)
    let worst := (ps.map (·.2)).find? fun e => e != 0
    { x with stage := stage, peers := ps.map (·.1), bad := if !ok then 4 else worst.getD (if stage.isNone then 1 else 0) }

/-- The record of a collective and the entries of its peer table, as ranges; a field that SEQ is in among them. -/
def State.commRanges (s : State) (cr : Crew) (x : Coll) : List (Nat × Nat) :=
  (x.comm, 64) :: match s.collNat cr x.comm 64 with
    | .error _ => []
    | .ok r => (upto (bitsOf r 0 16)).map fun k => (bitsOf r 64 64 + 32 * k, 32)

/-- The engine reads ranges, and their errors are met (10 R233). -/
def State.collMeet (s : State) (cr : Crew) (rs : List (Nat × Nat)) : State :=
  if s.latent = [] then s else (rs.filter fun r => r.2 != 0).foldl (fun s r => s.meetVa 640 cr.jd r.1 r.2) s

/-- The homes of ranges. -/
def State.collHomes (s : State) (cr : Crew) (rs : List (Nat × Nat)) : List Nat :=
  if s.changing = [] then [] else (rs.filter fun r => r.2 != 0).flatMap fun r => s.vaHomes 640 cr.jd r.1 r.2

/-- Reports of a slice watch that a write of the engine strikes leave for the collective's cohort (09 R205). -/
def State.collStruck (s : State) (x : Coll) (pas : List Nat) : State :=
  let rep := s.slReport false pas x.ipc
  { s with repIn := s.repIn ++ rep.map fun r => ({ cohort := x.cohort, crew := x.crew, report := r } : RepIn) }

/-- A field of the record written through its home slice; nothing where it may not be written. -/
def State.commWrite (s : State) (cr : Crew) (x : Coll) (va v : Nat) : State :=
  match s.translate 640 cr.jd va .write with
  | .ok pa => ((s.collStruck x ((upto 4).map (pa + ·))).writeNat .glob pa 4 v).l1Drop cr.core [pa / 128]
  | .error _ => s

/-- A bit of LINKERR is set in the record at a physical address; a slice watch is told as of a write with no cohort (16 R340). -/
def State.linkErr (s : State) (pa k : Nat) : State :=
  let s := s.meet (s.sites .glob (pa + 36) 4)
  (s.slPost false ((upto 4).map (pa + 36 + ·))).writeNat .glob (pa + 36) 4 (s.gmem.nat (pa + 36) 4 ||| 2 ^ k)

/-- The engine knows the communicator of a collective with its peers. -/
def State.commKnown (s : State) (cr : Crew) (x : Coll) : State :=
  match s.translate 640 cr.jd x.comm .read with
  | .ok pa => { s with comms := s.comms.filter (fun m => m.pa != pa) ++ [{ pa := pa, peers := x.peers }] }
  | .error _ => s

/-! ### Contributions (20 R416-R418) -/

/-- csend and crecv. -/
def Coll.pairwise (x : Coll) : Bool := x.kind == 4 || x.kind == 5

/-- Bytes of an element. -/
def Coll.width (x : Coll) : Nat := if bit x.fl 2 then 2 else 4

/-- The ranks that a collective needs: the peer of csend and crecv, else every rank. -/
def Coll.needs (x : Coll) (j : Nat) : Bool := if x.pairwise then j == x.peer else decide (j < x.nrank)

/-- The ranks whose contributions a collective takes. -/
def Coll.ranks (x : Coll) : List Nat := (upto x.nrank).filter x.needs

/-- The part of its source that rank `j` takes: offset and bytes. -/
def Coll.part (x : Coll) (j : Nat) : Nat × Nat :=
  match x.kind with
  | 0 => (0, x.count * x.width)
  | 1 => (0, x.count)
  | 2 => (j * x.count * x.width, x.count * x.width)
  | 3 => (j * x.count, x.count)
  | 4 => (0, x.count)
  | _ => (0, 0)

/-- A report of the collective's DETAIL to its cohort; an ORPHAN record once its crew has retired (09 R202). -/
def State.collReport (s : State) (x : Coll) (detail : Nat) : State :=
  match s.crew x.crew, s.jobCtx x.job with
  | none, some jd =>
    let r : Report := { code := 0x11, detail := detail, entry := 0, eng := 0, unit := 0, ipc := x.ipc }
    s.postFor x.core jd x.index 0 0 3 r.code r.detail r.info r.ipc
  | _, _ => s.copyReport x.cohort x.crew 0x11 detail 0 x.ipc

/-- Change a collective. -/
def State.onColl (s : State) (id : Nat) (f : Coll → Coll) : State := { s with colls := mapIf (fun x => x.id == id) f s.colls }

/-- The operation of a collective may complete. -/
def State.collFree (s : State) (x : Coll) : State := s.onCohort x.cohort fun c => c.onOp x.op fun o => { o with left := 0 }

/-- The collective is over: it leaves the engine, and its operation may complete. -/
def State.collEnd (s : State) (x : Coll) : State :=
  ({ s with colls := s.colls.filter fun y => y.id != x.id } : State).collFree x

/-- A collective of count 0 has completed at once, and stays to pair with those of the other ranks (20 R415, R416). -/
def Coll.moveless (x : Coll) : Bool := x.kind != 6 && x.count == 0

/-- Bytes leave on a queue pair: the rate recovers by 1/16 of line rate per 64 KiB sent (21 R420). -/
def State.qpSent (s : State) (port qp n : Nat) : State :=
  let go := fun (q : QPair) =>
    { q with sent := (q.sent + n) % 65536, rate := min 65536 (q.rate + 4096 * ((q.sent + n) / 65536)) }
  { s with qpairs := mapIf (fun q => q.port == port && q.qp == qp) go s.qpairs }

/-- A contribution leaves for rank `j`: into a staging area of this device, or on the queue pair to the peer (21 R421). -/
def State.sendPart (s : State) (x : Coll) (j : Nat) (p : PeerPart) : State :=
  match x.peers[j]? with
  | none => s
  | some e =>
    if j = x.rank then { s with peerIn := s.peerIn ++ x.stage.toList.map fun a => { p with stage := a } }
    else if e.path = 0xFFFF then { s with peerIn := s.peerIn ++ [{ p with stage := e.rstage }] }
    else if 4 ≤ e.path then s
    else
      ({ s with outbox := s.outbox ++ [.coll e.path e.lqpn e.rkey { p with stage := e.rstage }] } : State).qpSent e.path e.lqpn
        p.data.length

/-- The source of a collective is read and its contributions leave (20 R416); a refusal leaves as a contribution of its own, is reported,
and frees the operation. -/
def State.collSend (s : State) (cr : Crew) (x : Coll) : State :=
  if x.sent then s
  else
    let them := x.ranks
    let part := fun (j : Nat) => s.collRead cr (x.src + (x.part j).1) (x.part j).2
    let fail := them.findSome? fun j => match part j with
      | .error e => some e
      | .ok _ => none
    let bad := if x.bad ≠ 0 then x.bad else fail.getD 0
    let p : PeerPart := { stage := 0, rank := x.rank, kind := if bad = 0 then x.kind else 15,
                          tag := if x.pairwise then some x.tag else none, seq := if x.pairwise then x.kind else x.seq,
                          count := x.count, fl := x.fl, data := [] }
    let bytes := fun (j : Nat) => match part j with
      | .ok bs => bs
      | .error _ => []
    let s := s.collMeet cr (them.map fun j => (x.src + (x.part j).1, (x.part j).2))
    let s := them.foldl (fun (s : State) j => s.sendPart x j { p with data := if bad = 0 then bytes j else [] }) s
    let s := if bad = 0 ∧ them.any (fun j => (bytes j).any (·.2)) then s.collReport x 3 else s
    let s := if bad = 0 then s else (s.collReport x bad).collFree x
    s.onColl x.id fun x => { x with sent := true, bad := bad }

/-- Is a contribution for a collective: of its number, or of its tag and of the other direction? -/
def Coll.claims (x : Coll) (p : PeerPart) : Bool :=
  x.stage == some p.stage &&
    if x.pairwise then p.tag == some x.tag && p.seq == 9 - x.kind else p.tag == none && p.seq == x.seq

/-- The oldest contribution of rank `j` to a collective; for a missing one stands the refusal of a rank whose record gives it no place
among the ranks (20 R414). -/
def State.partFrom (s : State) (x : Coll) (j : Nat) : Option PeerPart :=
  (s.peerIn.find? fun p => x.claims p && p.rank == j).or
    (s.peerIn.find? fun p => x.claims p && p.kind == 15 && decide (x.nrank ≤ p.rank))

/-- Contributions that a collective takes with it. -/
def State.takeParts (s : State) (ps : List PeerPart) : State := { s with peerIn := ps.foldl (fun l p => l.erase p) s.peerIn }

/-- Does a contribution pair with the collective (20 R416, R418)? -/
def Coll.pairs (x : Coll) (p : PeerPart) : Bool :=
  p.count == x.count && p.fl == x.fl && p.kind == if x.pairwise then 9 - x.kind else x.kind

/-! ### Results (20 R417, R418) -/

/-- An element of a contribution as an FP32 code. -/
def elem32 (w : Nat) (bs : List Byte) : Nat := if w = 2 then (cvtFloat bf16 fp32 (leNat bs)).1 else leNat bs

/-- The fold of one element over the ranks, in format W (20 R417). -/
def foldElem (fl w : Nat) (xs : List Nat) : Nat :=
  match xs with
  | [] => 0
  | x :: rest =>
    let op := fun (r y : Nat) =>
      if fl % 4 = 0 then (fp32.addV .ne (fp32.val r) (fp32.val y)).1 else (fp32.minMaxNm (fl % 4 == 2) r y).1
    let r := rest.foldl op x
    if (fp32.val r).isNan then (if w = 2 then bf16.nan else fp32.nan) else if w = 2 then (cvtFloat fp32 bf16 r).1 else r

/-- Destination bytes of a collective from the contributions of ranks 0, 1, ...: offset, value, poison. -/
def Coll.result (x : Coll) (ps : List PeerPart) : List (Nat × Byte × Bool) :=
  match x.kind with
  | 0 | 2 =>
    let w := x.width
    (upto x.count).flatMap fun e =>
      let cells := ps.map fun p => (p.data.drop (w * e)).take w
      let r := foldElem x.fl w (cells.map fun c => elem32 w (c.map (·.1)))
      let po := cells.any fun c => c.any (·.2)
      (List.zip (upto w) (leBytes w r)).map fun b => (w * e + b.1, b.2, po)
  | 1 | 3 => ps.flatMap fun p => (List.zip (upto x.count) p.data).map fun b => (p.rank * x.count + b.1, b.2)
  | 5 => ps.flatMap fun p => (List.zip (upto x.count) p.data).map fun b => b
  | _ => []

/-- The destination is written: each line leaves the L1 of the cohort's core (10 R218), slice watches report (09 R205); the
DETAIL of the failure where it cannot be written. -/
def State.collWrite (s : State) (cr : Crew) (x : Coll) (bs : List (Nat × Byte × Bool)) : Except Nat State :=
  let at_ : Except Nat (List (Nat × Byte × Bool)) := bs.mapM fun b => match s.translate 640 cr.jd (x.dst + b.1) .write with
    | .ok pa => .ok (pa, b.2)
    | .error e => .error (if e = 6 then 2 else 1)
  match at_ with
  | .error e => .error e
  | .ok ws =>
    let pas := ws.map (·.1)
    .ok (((s.collStruck x pas).engWrite .glob ws).l1Drop cr.core (distinct (pas.map (· / 128))))

/-- Is the collective the first of the cohort's device to pair: earlier ones by the same tag go first, and a cwait follows every
earlier collective of its communicator that has a byte to move (20 R416, R418)? -/
def State.collTurn (s : State) (x : Coll) : Bool :=
  !(s.colls.any fun y => decide (y.id < x.id) && y.job == x.job && y.comm == x.comm &&
    ((x.kind == 6 && !y.moveless) || (x.pairwise && y.kind == x.kind && y.peer == x.peer && y.tag == x.tag)))

/-- The collective ends with what its ranks contributed. -/
def State.collFinish (s : State) (cr : Crew) (x : Coll) (ps : List PeerPart) : State :=
  let s := s.takeParts ps
  if x.bad ≠ 0 then s.collEnd x
  else if !(ps.all x.pairs) then (s.collReport x 4).collEnd x
  else if cr.torn then s.collEnd x
  else match s.collWrite cr x (x.result ps) with
    | .ok s => s.collEnd x
    | .error e => (s.collReport x e).collEnd x

/-- A collective whose operation is complete, of a crew that has retired, ends with what its ranks contributed: it has nothing to move. -/
def State.collGone (s : State) (x : Coll) : State :=
  let fin := fun (ps : List PeerPart) =>
    let s := s.takeParts ps
    (if x.bad = 0 ∧ !(ps.all x.pairs) then s.collReport x 4 else s).collEnd x
  match x.ranks.mapM (s.partFrom x) with
  | some ps => fin ps
  | none => if x.bad ≠ 0 ∧ (!x.pairwise ∨ x.stage = none) then fin (x.ranks.filterMap (s.partFrom x)) else s

/-- The ranges that a collective reads before its contributions leave, and the one that it writes when all have come. -/
def State.collRanges (s : State) (x : Coll) : List (Nat × Nat) :=
  (if x.sent then [] else x.ranks.map fun j => (x.src + (x.part j).1, (x.part j).2)) ++
    match x.ranks.mapM (s.partFrom x) with
    | some ps => [(x.dst, ((x.result ps).map fun e => e.1 + 1).foldl max 0)]
    | none => []

/-- COLLECTIVE_COMPLETE: collective `n` reads its source, no earlier than the releases before it are performed (12 R275), and completes
once every rank that it pairs with has contributed; a refused one takes what is there. -/
def collectiveComplete (n : Nat) (s : State) : State :=
  match s.colls.find? fun x => x.id == n with
  | none => s
  | some x =>
    match s.crew x.crew with
    | none => if s.collTurn x && x.sent then s.collGone x else s
    | some cr =>
      let may := (s.cohort x.cohort).all fun c => s.opMay c x.op
      if !(s.collTurn x) || !may then s
      else s.atHomes 640 (.collective, n) (if s.changing = [] then [] else s.collHomes cr (s.collRanges x)) fun s =>
        let s := s.collSend cr x
        match s.colls.find? fun x => x.id == n with
        | none => s
        | some x =>
          match x.ranks.mapM (s.partFrom x) with
          | some ps => s.collFinish cr x ps
          | none => if x.bad ≠ 0 ∧ (!x.pairwise ∨ x.stage = none) then s.collFinish cr x (x.ranks.filterMap (s.partFrom x)) else s

/-! ### Failures (20 R416, 21 R420, R421) -/

/-- Is rank `j` of a collective reached on a path that satisfies a test? -/
def Coll.uses (x : Coll) (f : CommPeer → Bool) : Bool :=
  (List.zip (upto x.nrank) x.peers).any fun e => e.1 != x.rank && x.needs e.1 && f e.2

/-- The collectives that need a failed path complete with their destinations unwritten; LINKERR of each communicator that has
the path is set. -/
def State.pathFails (s : State) (f : CommPeer → Bool) (k : Nat) : State :=
  let t := (s.comms.filter fun m => m.peers.any f).foldl (fun (s : State) m => s.linkErr m.pa k) s
  (s.colls.filter fun x => x.uses f).foldl State.collEnd t

/-- QUEUE_PAIR_FATAL_ERROR of a queue pair of a port. -/
def queuePairFatalError (port qp : Nat) (s : State) : State :=
  if !(s.hasQp port qp) then s
  else
    let s : State :=
      { s with qpairs := mapIf (fun q => q.port == port && q.qp == qp) (fun q => { q with failed := true }) s.qpairs }
    s.pathFails (fun e => e.path == port && e.lqpn == qp) port

/-- ON_DIE_PATH_FAILURE: the on-die paths of the communicator of collective `n` fail. -/
def onDiePathFailure (n : Nat) (s : State) : State :=
  match s.colls.find? fun x => x.id == n with
  | none => s
  | some x =>
    let mine := fun (y : Coll) => y.job == x.job && y.comm == x.comm
    let onDie := fun (e : CommPeer) => e.path == 0xFFFF
    match (s.crew x.crew).map fun cr => s.translate 640 cr.jd x.comm .write with
    | some (.ok pa) =>
      if !(x.peers.any onDie) then s
      else (s.colls.filter fun y => mine y && y.uses onDie).foldl State.collEnd (s.linkErr pa 4)
    | _ => s

/-- CONGESTION_NOTIFICATION: the send rate of a queue pair halves (21 R420). -/
def congestionNotification (port qp : Nat) (s : State) : State :=
  { s with qpairs := mapIf (fun q => q.port == port && q.qp == qp) (fun q => { q with rate := q.rate / 2 }) s.qpairs }

/-! ### Issue (20 R415) -/

/-- The collective of an instruction, before its record is read. -/
def collOf (c : Cohort) (cr : Crew) (job kind d a b fl : Nat) : Coll :=
  let w := (c.sr (b + 1)).toNat
  let pw := kind == 4 || kind == 5
  { id := 0, cohort := c.key, crew := cr.key, core := cr.core, index := cr.index, op := 0, kind := kind, comm := (c.sr b).toNat, job := job,
    dst := if kind = 4 ∨ kind = 6 then 0 else (c.sr d).toNat, src := if kind = 5 ∨ kind = 6 then 0 else (c.sr a).toNat,
    count := if kind = 6 then 0 else if pw then w % 2 ^ 32 else w, fl := fl,
    peer := if pw then bitsOf w 32 16 else 0, tag := if pw then bitsOf w 48 16 else 0, seq := 0, ipc := c.pc }

/-- Does the path of a peer go by a queue pair that has failed? -/
def State.pathFailed (s : State) (e : CommPeer) : Bool := s.qpairs.any fun q => q.port == e.path && q.qp == e.lqpn && q.failed

/-- The bits of LINKERR of the failed paths of a collective. -/
def State.linkErrs (s : State) (cr : Crew) (x : Coll) : State :=
  match s.translate 640 cr.jd x.comm .write with
  | .ok pa => (x.peers.filter s.pathFailed).foldl (fun (s : State) e => s.linkErr pa e.path) s
  | .error _ => s

/-- SEQ counts a numbered collective, a refused one as well, which pairs with those of the other ranks. -/
def State.seqUp (s : State) (cr : Crew) (x : Coll) : State :=
  if x.pairwise ∨ x.comm % 64 ≠ 0 then s
  else match s.collNat cr (x.comm + 32) 4 with
    | .ok n => s.commWrite cr x (x.comm + 32) ((n + 1) % 2 ^ 32)
    | .error _ => s

/-- Acceptance by the engine: SEQ counts, a failed queue pair is found, and the collective goes under way; the operation of one that
moves nothing is complete at once, its contributions leaving now, and one whose path has failed is over (20 R415, R416). -/
def State.collAccept (s : State) (cr : Crew) (x : Coll) : State :=
  let s := s.seqUp cr x
  let s := if x.bad ≠ 0 then s else (s.linkErrs cr x).commKnown cr x
  let s : State := { s with colls := s.colls ++ [x] }
  if x.bad ≠ 0 then s else if x.uses s.pathFailed then s.collEnd x else if x.moveless then (s.collSend cr x).collFree x else s

/-- A COLL instruction. -/
def coll (i : Info) (kind d a b fl : Nat) (s : State) : Out :=
  issue i s fun c s =>
    let cr := s.crewOf c
    let x := collOf c cr (s.jobOf cr) kind d a b fl
    let word := c.sr (b + 1)
    let ops := (if kind = 4 ∨ kind = 6 then [] else [(0, c.sr d)]) ++ (if kind = 5 ∨ kind = 6 then [] else [(1, c.sr a)]) ++
      [(2, c.sr b)]
    if cr.spec then .spec
    else match ops.find? fun o => o.2.toNat % 16 != 0 with
      | some o => c.all 4 0 (opInfo o.2 kind o.1)
      | none =>
        let y := s.readComm cr x
        if 2 ^ 24 < x.count ∨ (x.pairwise ∧ y.bad = 0 ∧ y.nrank ≤ x.peer) then c.all 7 0 (opInfo word kind 2)
        else if c.acquiring || decide (63 ≤ c.count .coll) then .hold
        else
          s.reaches c cr .collective [] (if s.changing = [] then [] else s.collHomes cr (s.commRanges cr x)) fun s =>
          let r := (s.collMeet cr (s.commRanges cr x)).startOp c.key i.len { id := 0, cls := .coll, left := 1 }
          .done (({ r.1 with fresh := r.1.fresh + 1 } : State).collAccept cr { y with id := r.1.fresh, op := r.2 })

/-- CRED (R417): Collective all-reduce. -/
def execCred (d a b rop : Nat) (w : Bool) (s : State) : Out :=
  coll { infoCred 47 0 d a b rop w with long := true } 0 d a b (4 * w.toNat + rop) s

/-- CGAT (R418): Collective all-gather. -/
def execCgat (d a b : Nat) (s : State) : Out :=
  coll { infoCgat 47 1 d a b with long := true } 1 d a b 0 s

/-- CRSC (R417): Collective reduce-scatter. -/
def execCrsc (d a b rop : Nat) (w : Bool) (s : State) : Out :=
  coll { infoCred 47 2 d a b rop w with long := true } 2 d a b (4 * w.toNat + rop) s

/-- CA2A (R418): Collective all-to-all. -/
def execCa2a (d a b : Nat) (s : State) : Out :=
  coll { infoCgat 47 3 d a b with long := true } 3 d a b 0 s

/-- CSEND (R418): Point-to-point collective send. -/
def execCsend (a b : Nat) (s : State) : Out :=
  coll { infoCsend 47 4 a b with long := true } 4 0 a b 0 s

/-- CRECV (R418): Point-to-point collective receive. -/
def execCrecv (d b : Nat) (s : State) : Out :=
  coll { infoCrecv 47 5 d b with long := true } 5 d 0 b 0 s

/-- CWAIT (R418): Collective barrier over the communicator. -/
def execCwait (b : Nat) (s : State) : Out :=
  coll { infoCwait 47 6 b with long := true } 6 0 0 b 0 s

/-- COLLECTIVE_COMPLETE (R416): A paired collective finishes on the engine and retires its counter. -/
def execCollectiveComplete (n : Nat) (s : State) : Out :=
  .next (collectiveComplete n s)

/-- QUEUE_PAIR_FATAL_ERROR (R421): A queue pair fails and sets LINKERR. -/
def execQueuePairFatalError (port qp : Nat) (s : State) : Out :=
  .next (queuePairFatalError port qp s)

/-- CONGESTION_NOTIFICATION (R420): A congestion notification packet halves the queue pair's send rate. -/
def execCongestionNotification (port qp : Nat) (s : State) : Out :=
  .next (congestionNotification port qp s)

/-- ON_DIE_PATH_FAILURE (R414): An on-die path to a peer partition fails: LINKERR bit 4 is set and the affected collectives complete with their destinations unwritten. -/
def execOnDiePathFailure (n : Nat) (s : State) : Out :=
  .next (onDiePathFailure n s)

end Sys2Proof.Machine
end

