-- ==== Sys2Proof/Machine/FloatOps.lean ====
section
/-!
DEFINITION. Sys2Proof/Machine/FloatOps.lean: FALU, FALUH, FALUB, FALUD, FCMP, SFU and CVT (06 R128-R138), and F64, which
parks for its emulation (06 R139, R140).
-/

namespace Sys2Proof.Machine

/-- D := f(A, B) with flags. -/
def fbin (i : Info) (d a : Nat) (b : VSrc) (s : State) (f : Nat → Nat → FRes) : Out :=
  floatOp i d s fun c t => f (t.vr a).toNat (b.val c t).toNat

/-- D := f(A, B, D) with flags. -/
def ftri (i : Info) (d a : Nat) (b : VSrc) (s : State) (f : Nat → Nat → Nat → FRes) : Out :=
  floatOp i d s fun c t => f (t.vr a).toNat (b.val c t).toNat (t.vr d).toNat

/-- D := f(A) with flags. -/
def fun1 (i : Info) (d a : Nat) (s : State) (f : Nat → FRes) : Out := floatOp i d s fun _ t => f (t.vr a).toNat

/-- Operations on codes of one format. -/
def Fmt.add (f : Fmt) (r : Rnd) (a b : Nat) : FRes := f.addV r (f.val a) (f.val b)
def Fmt.sub (f : Fmt) (r : Rnd) (a b : Nat) : FRes := f.addV r (f.val a) (f.val b).flip
def Fmt.mul (f : Fmt) (r : Rnd) (a b : Nat) : FRes := f.mulV r (f.val a) (f.val b)
def Fmt.fma (f : Fmt) (r : Rnd) (a b d : Nat) : FRes := f.fmaV r (f.val a) (f.val b) (f.val d)
/-- D - A * B: the product's sign is inverted (06 R129). -/
def Fmt.fms (f : Fmt) (r : Rnd) (a b d : Nat) : FRes := f.fmaV r (f.val a).flip (f.val b) (f.val d)

/-- Bit operations set no flag. -/
def noFlag (x : Nat) : FRes := (x, 0)

/-- Element i of a packed pair (06 R132). -/
def half (x k : Nat) : Nat := x / 65536 ^ k % 65536

/-- A packed operation, its flags ORed over the two elements (06 R132). -/
def packed (f : Nat → FRes) : FRes := ((f 0).1 + (f 1).1 * 65536, (f 0).2 ||| (f 1).2)

/-- D := f of each element pair of A and B. -/
def fbin2 (i : Info) (d a : Nat) (b : VSrc) (s : State) (f : Nat → Nat → FRes) : Out :=
  fbin i d a b s fun x y => packed fun k => f (half x k) (half y k)

/-- D := f of each element triple of A, B and D. -/
def ftri2 (i : Info) (d a : Nat) (b : VSrc) (s : State) (f : Nat → Nat → Nat → FRes) : Out :=
  ftri i d a b s fun x y z => packed fun k => f (half x k) (half y k) (half z k)

/-- D := f of each element of A. -/
def fun2 (i : Info) (d a : Nat) (s : State) (f : Nat → FRes) : Out :=
  fun1 i d a s fun x => packed fun k => f (half x k)

/-- FCMP: pD of each acting lane; IV (06 R134). -/
def fcmp (i : Info) (cc : FCond) (d a : Nat) (b : VSrc) (s : State) : Out :=
  issue i s fun c s => .done (s.onCohort c.key fun c =>
    ((c.actors i.g).foldl (fun k t =>
        k.addFp (cc.invalid (fp32.val (t.vr a).toNat) (fp32.val (b.val c t).toNat))) c).mapT (·.acts i.g) fun t =>
      t.setP d (cc.holds (fp32.order (t.vr a).toNat (b.val c t).toNat)))

/-- SFU: long-latency; results and flags are written at completion (03 R84, 06 R135). -/
def sfu (i : Info) (d : Nat) (s : State) (f : Cohort → Thread → FRes) : Out :=
  issue i s fun c s =>
    let ts := c.actors i.g
    .done (s.quickOp c.key i.len
      { id := 0, sfu := true, regsV := dst d,
        res := ts.map fun t => .v t.tid d (BitVec.ofNat 32 (f c t).1) false,
        fp := (ts.foldl (fun (k : FFlags) t => k ||| (f c t).2) 0).zeroExtend 64 })

/-- SFU of one source. -/
def sfu1 (i : Info) (d a : Nat) (s : State) (f : Nat → FRes) : Out := sfu i d s fun _ t => f (t.vr a).toNat

/-- The saturating conversions to integers (04 R97). -/
def toI32 (x : Nat) : FRes := let r := cvtInt (-2147483648) 2147483647 x; ((BitVec.ofInt 32 r.1).toNat, r.2)
def toN32 (x : Nat) : FRes := let r := cvtInt 0 4294967295 x; (r.1.toNat, r.2)

/-- F64: the cohort parks for the emulation routine of feature bit 0 (06 R140, 09 R199), FEATURE is delivered where none
is bound. The flags rise at the park; the operation waits for EMULATION_RETURN. -/
def f64 (i : Info) (fn d a b : Nat) (s : State) : Out :=
  issue i s fun c s =>
    if Tab.read 0 s.emul 0 = 0 then c.all 11
    else
      let r := s.startOp c.key i.len { id := 0, sfu := true, regsV := i.vd, left := 1 }
      .parks (r.1.onCohort c.key fun c =>
        { c.mapT (·.act) fun t => { t with st := .parked .feature } with emul := some ⟨fn, d, a, b, i.g, r.2⟩ })

/-- The result of an F64 operation in a thread, and how many registers it fills (06 R139). -/
def f64Result (e : Emul) (t : Thread) : FRes × Nat :=
  let a := (t.vPair e.a).toNat
  let b := (t.vPair e.b).toNat
  match e.fn with
  | 0 => (fp64.add .ne a b, 2)
  | 1 => (fp64.sub .ne a b, 2)
  | 2 => (fp64.mul .ne a b, 2)
  | 3 => (fp64.fma .ne a b (t.vPair e.d).toNat, 2)
  | 4 => (fp64.divV .ne (fp64.val a) (fp64.val b), 2)
  | 5 => (fp64.sqrtV .ne (fp64.val a), 2)
  | 6 => (cvtFloat fp32 fp64 (t.vr e.a).toNat, 2)
  | _ => (cvtFloat fp64 fp32 a, 1)

/-- The registers that an F64 operation reads (06 R139). -/
def Emul.sources (e : Emul) : List Nat :=
  let pair := fun (n : Nat) => [n, n + 1]
  if e.fn = 6 then [e.a] else if e.fn = 5 ∨ e.fn = 7 then pair e.a
  else pair e.a ++ pair e.b ++ if e.fn = 3 then pair e.d else []

/-- The thread with the operation's result, where its guard is true; of a poisoned source, which the park does not look at (02 R58),
the result is poisoned (notes/assumptions/73.md). -/
def f64Write (e : Emul) (t : Thread) : Thread :=
  let r := f64Result e t
  let bad := e.sources.any fun n => Tab.read false t.vPoison n
  let regs := (if r.2 = 2 then [e.d, e.d + 1] else [e.d]).filter fun n => n != 63
  if !t.pr e.g then t
  else
    let t := if r.2 = 2 then t.setPair e.d (BitVec.ofNat 64 r.1.1) else t.setV e.d (BitVec.ofNat 32 r.1.1)
    if bad then { t with vPoison := Tab.putAll false t.vPoison (regs.map fun n => (n, true)) } else t

/-- Does the routine of another cohort go first: one of a partition that halts, while the cohort's own does not (13 R282;
notes/assumptions/100.md)? -/
def State.emulLater (s : State) (c : Cohort) : Bool :=
  let halts := fun (c : Cohort) => decide ((s.core (s.crewOf c).core).phase = .halting) && !(s.crewOf c).shadow
  !(halts c) && s.cohorts.any fun o => o.emul.isSome && halts o

/-- The words of the register file that a routine reads, and those that it writes. -/
def Cohort.emulReads (c : Cohort) (e : Emul) : List Site :=
  (c.threads.filter fun t => decide (t.st = .parked .feature) && t.pr e.g).flatMap fun t => e.sources.map fun n => .vreg c.key t.tid n
def Cohort.emulWrites (c : Cohort) (e : Emul) : List Site :=
  (c.threads.filter fun t => decide (t.st = .parked .feature) && t.pr e.g).flatMap fun t =>
    (if e.fn = 7 then [e.d] else [e.d, e.d + 1]).map fun n => .vreg c.key t.tid n

/-- EMULATION_RETURN: the routine completes the parked instruction or declines it (06 R140, 09 R199). -/
def emulationReturn (k : Nat) (decline : Bool) (s : State) : State :=
  match (s.cohort k).bind fun c => c.emul.map fun e => (c, e) with
  | none => s
  | some (c, e) =>
    let mine := fun (t : Thread) => decide (t.st = .parked .feature)
    if s.emulLater c then s
    else if decline then
      let s := s.onCohort k fun c =>
        (({ c with emul := none } : Cohort).onOp e.op fun o => { o with res := [] }).completeOp e.op
      let pc := match c.threads.find? mine with
        | some t => t.pc.toNat
        | none => 0
      s.takeFault k mine pc pc ((c.threads.filter mine).map fun t => ⟨t.tid, 11, 0, 0, 0⟩)
    else
      ((s.meet (c.emulReads e)).rewrite (c.emulWrites e)).onCohort k fun c =>
        let ts := c.threads.filter fun t => mine t && t.pr e.g
        let fl := ts.foldl (fun (f : FFlags) t => f ||| (f64Result e t).1.2) 0
        let c : Cohort := { c with emul := none }
        ((c.mapT mine fun t => { (f64Write e t) with st := .eligible, pc := t.pc + 4 }).addFp fl).completeOp e.op

/-- FADD (R129): FP32 add, rne. -/
def execFadd (d a : Nat) (b : VSrc) (g : Nat) (s : State) : Out :=
  fbin (infoVal 15 0 d a b g) d a b s (fp32.add .ne)

/-- FSUB (R129): FP32 subtract. -/
def execFsub (d a : Nat) (b : VSrc) (g : Nat) (s : State) : Out :=
  fbin (infoVal 15 1 d a b g) d a b s (fp32.sub .ne)

/-- FMUL (R129): FP32 multiply. -/
def execFmul (d a : Nat) (b : VSrc) (g : Nat) (s : State) : Out :=
  fbin (infoVal 15 2 d a b g) d a b s (fp32.mul .ne)

/-- FFMA (R129): FP32 fused multiply-add A·B + D. -/
def execFfma (d a : Nat) (b : VSrc) (g : Nat) (s : State) : Out :=
  ftri (infoValD 15 3 d a b g) d a b s (fp32.fma .ne)

/-- FFMS (R129): FP32 fused D − A·B. -/
def execFfms (d a : Nat) (b : VSrc) (g : Nat) (s : State) : Out :=
  ftri (infoValD 15 4 d a b g) d a b s (fp32.fms .ne)

/-- FMIN (R130): FP32 NaN-propagating minimum. -/
def execFmin (d a : Nat) (b : VSrc) (g : Nat) (s : State) : Out :=
  fbin (infoVal 15 5 d a b g) d a b s (fp32.minMax false)

/-- FMAX (R130): FP32 NaN-propagating maximum. -/
def execFmax (d a : Nat) (b : VSrc) (g : Nat) (s : State) : Out :=
  fbin (infoVal 15 6 d a b g) d a b s (fp32.minMax true)

/-- FMINNM (R130): FP32 number-preferring minimum. -/
def execFminnm (d a : Nat) (b : VSrc) (g : Nat) (s : State) : Out :=
  fbin (infoVal 15 7 d a b g) d a b s (fp32.minMaxNm false)

/-- FMAXNM (R130): FP32 number-preferring maximum. -/
def execFmaxnm (d a : Nat) (b : VSrc) (g : Nat) (s : State) : Out :=
  fbin (infoVal 15 8 d a b g) d a b s (fp32.minMaxNm true)

/-- FABS (R129): Clear the FP32 sign bit. -/
def execFabs (d a g : Nat) (s : State) : Out :=
  fun1 (infoVun 15 9 d a g) d a s fun x => noFlag (x % 2147483648)

/-- FNEG (R129): Invert the FP32 sign bit. -/
def execFneg (d a g : Nat) (s : State) : Out :=
  fun1 (infoVun 15 10 d a g) d a s fun x => noFlag (x ^^^ 2147483648)

/-- FCPSGN (R129): Copy sign of B onto A. -/
def execFcpsgn (d a : Nat) (b : VSrc) (g : Nat) (s : State) : Out :=
  fbin (infoVal 15 11 d a b g) d a b s fun x y => noFlag (x % 2147483648 + y / 2147483648 * 2147483648)

/-- FRNDN (R131): Round to integral, ties to even. -/
def execFrndn (d a g : Nat) (s : State) : Out :=
  fun1 (infoVun 15 12 d a g) d a s (fp32.integral (some .ne))

/-- FRNDZ (R131): Round to integral toward zero. -/
def execFrndz (d a g : Nat) (s : State) : Out :=
  fun1 (infoVun 15 13 d a g) d a s (fp32.integral none)

/-- FRNDD (R131): Round to integral toward −∞. -/
def execFrndd (d a g : Nat) (s : State) : Out :=
  fun1 (infoVun 15 14 d a g) d a s (fp32.integral (some .dn))

/-- FRNDU (R131): Round to integral toward +∞. -/
def execFrndu (d a g : Nat) (s : State) : Out :=
  fun1 (infoVun 15 15 d a g) d a s (fp32.integral (some .up))

/-- HADD (R132): Packed f16x2 add. -/
def execHadd (d a : Nat) (b : VSrc) (g : Nat) (s : State) : Out :=
  fbin2 (infoVal 16 0 d a b g) d a b s (fp16.add .ne)

/-- HSUB (R132): Packed f16x2 subtract. -/
def execHsub (d a : Nat) (b : VSrc) (g : Nat) (s : State) : Out :=
  fbin2 (infoVal 16 1 d a b g) d a b s (fp16.sub .ne)

/-- HMUL (R132): Packed f16x2 multiply. -/
def execHmul (d a : Nat) (b : VSrc) (g : Nat) (s : State) : Out :=
  fbin2 (infoVal 16 2 d a b g) d a b s (fp16.mul .ne)

/-- HFMA (R132): Packed f16x2 fused multiply-add. -/
def execHfma (d a : Nat) (b : VSrc) (g : Nat) (s : State) : Out :=
  ftri2 (infoValD 16 3 d a b g) d a b s (fp16.fma .ne)

/-- HMIN (R132): Packed f16x2 minimum. -/
def execHmin (d a : Nat) (b : VSrc) (g : Nat) (s : State) : Out :=
  fbin2 (infoVal 16 4 d a b g) d a b s (fp16.minMax false)

/-- HMAX (R132): Packed f16x2 maximum. -/
def execHmax (d a : Nat) (b : VSrc) (g : Nat) (s : State) : Out :=
  fbin2 (infoVal 16 5 d a b g) d a b s (fp16.minMax true)

/-- HABS (R132): Packed f16x2 absolute value. -/
def execHabs (d a g : Nat) (s : State) : Out :=
  fun2 (infoVun 16 6 d a g) d a s fun x => noFlag (x % 32768)

/-- HNEG (R132): Packed f16x2 negate. -/
def execHneg (d a g : Nat) (s : State) : Out :=
  fun2 (infoVun 16 7 d a g) d a s fun x => noFlag (x ^^^ 32768)

/-- BADD (R132): Packed bf16x2 add. -/
def execBadd (d a : Nat) (b : VSrc) (g : Nat) (s : State) : Out :=
  fbin2 (infoVal 17 0 d a b g) d a b s (bf16.add .ne)

/-- BSUB (R132): Packed bf16x2 subtract. -/
def execBsub (d a : Nat) (b : VSrc) (g : Nat) (s : State) : Out :=
  fbin2 (infoVal 17 1 d a b g) d a b s (bf16.sub .ne)

/-- BMUL (R132): Packed bf16x2 multiply. -/
def execBmul (d a : Nat) (b : VSrc) (g : Nat) (s : State) : Out :=
  fbin2 (infoVal 17 2 d a b g) d a b s (bf16.mul .ne)

/-- BFMA (R132): Packed bf16x2 fused multiply-add. -/
def execBfma (d a : Nat) (b : VSrc) (g : Nat) (s : State) : Out :=
  ftri2 (infoValD 17 3 d a b g) d a b s (bf16.fma .ne)

/-- BMIN (R132): Packed bf16x2 minimum. -/
def execBmin (d a : Nat) (b : VSrc) (g : Nat) (s : State) : Out :=
  fbin2 (infoVal 17 4 d a b g) d a b s (bf16.minMax false)

/-- BMAX (R132): Packed bf16x2 maximum. -/
def execBmax (d a : Nat) (b : VSrc) (g : Nat) (s : State) : Out :=
  fbin2 (infoVal 17 5 d a b g) d a b s (bf16.minMax true)

/-- BABS (R132): Packed bf16x2 absolute value. -/
def execBabs (d a g : Nat) (s : State) : Out :=
  fun2 (infoVun 17 6 d a g) d a s fun x => noFlag (x % 32768)

/-- BNEG (R132): Packed bf16x2 negate. -/
def execBneg (d a g : Nat) (s : State) : Out :=
  fun2 (infoVun 17 7 d a g) d a s fun x => noFlag (x ^^^ 32768)

/-- FADD_RD (R133): FP32 add rounded toward −∞. -/
def execFaddRd (d a : Nat) (b : VSrc) (g : Nat) (s : State) : Out :=
  fbin (infoVal 18 0 d a b g) d a b s (fp32.add .dn)

/-- FADD_RU (R133): FP32 add rounded toward +∞. -/
def execFaddRu (d a : Nat) (b : VSrc) (g : Nat) (s : State) : Out :=
  fbin (infoVal 18 1 d a b g) d a b s (fp32.add .up)

/-- FSUB_RD (R133): FP32 subtract rounded down. -/
def execFsubRd (d a : Nat) (b : VSrc) (g : Nat) (s : State) : Out :=
  fbin (infoVal 18 2 d a b g) d a b s (fp32.sub .dn)

/-- FSUB_RU (R133): FP32 subtract rounded up. -/
def execFsubRu (d a : Nat) (b : VSrc) (g : Nat) (s : State) : Out :=
  fbin (infoVal 18 3 d a b g) d a b s (fp32.sub .up)

/-- FMUL_RD (R133): FP32 multiply rounded down. -/
def execFmulRd (d a : Nat) (b : VSrc) (g : Nat) (s : State) : Out :=
  fbin (infoVal 18 4 d a b g) d a b s (fp32.mul .dn)

/-- FMUL_RU (R133): FP32 multiply rounded up. -/
def execFmulRu (d a : Nat) (b : VSrc) (g : Nat) (s : State) : Out :=
  fbin (infoVal 18 5 d a b g) d a b s (fp32.mul .up)

/-- FFMA_RD (R133): FP32 fused multiply-add rounded down. -/
def execFfmaRd (d a : Nat) (b : VSrc) (g : Nat) (s : State) : Out :=
  ftri (infoValD 18 6 d a b g) d a b s (fp32.fma .dn)

/-- FFMA_RU (R133): FP32 fused multiply-add rounded up. -/
def execFfmaRu (d a : Nat) (b : VSrc) (g : Nat) (s : State) : Out :=
  ftri (infoValD 18 7 d a b g) d a b s (fp32.fma .up)

/-- FSQRT_RD (R133): FP32 square root rounded down. -/
def execFsqrtRd (d a g : Nat) (s : State) : Out :=
  fun1 (infoVun 18 8 d a g) d a s fun x => fp32.sqrtV .dn (fp32.val x)

/-- FSQRT_RU (R133): FP32 square root rounded up. -/
def execFsqrtRu (d a g : Nat) (s : State) : Out :=
  fun1 (infoVun 18 9 d a g) d a s fun x => fp32.sqrtV .up (fp32.val x)

/-- FDIV_RD (R133): FP32 divide rounded down. -/
def execFdivRd (d a : Nat) (b : VSrc) (g : Nat) (s : State) : Out :=
  fbin (infoVal 18 10 d a b g) d a b s fun x y => fp32.divV .dn (fp32.val x) (fp32.val y)

/-- FDIV_RU (R133): FP32 divide rounded up. -/
def execFdivRu (d a : Nat) (b : VSrc) (g : Nat) (s : State) : Out :=
  fbin (infoVal 18 11 d a b g) d a b s fun x y => fp32.divV .up (fp32.val x) (fp32.val y)

/-- FEQ (R134): FP32 compare ordered equal into predicate. -/
def execFeq (d a : Nat) (b : VSrc) (g : Nat) (s : State) : Out :=
  fcmp (infoVcmp 19 0 d a b g) .eq d a b s

/-- FNE (R134): FP32 compare unordered or not equal. -/
def execFne (d a : Nat) (b : VSrc) (g : Nat) (s : State) : Out :=
  fcmp (infoVcmp 19 1 d a b g) .ne d a b s

/-- FLT (R134): FP32 compare less. -/
def execFlt (d a : Nat) (b : VSrc) (g : Nat) (s : State) : Out :=
  fcmp (infoVcmp 19 2 d a b g) .lt d a b s

/-- FLE (R134): FP32 compare less or equal. -/
def execFle (d a : Nat) (b : VSrc) (g : Nat) (s : State) : Out :=
  fcmp (infoVcmp 19 3 d a b g) .le d a b s

/-- FGT (R134): FP32 compare greater. -/
def execFgt (d a : Nat) (b : VSrc) (g : Nat) (s : State) : Out :=
  fcmp (infoVcmp 19 4 d a b g) .gt d a b s

/-- FGE (R134): FP32 compare greater or equal. -/
def execFge (d a : Nat) (b : VSrc) (g : Nat) (s : State) : Out :=
  fcmp (infoVcmp 19 5 d a b g) .ge d a b s

/-- FUN (R134): FP32 compare unordered. -/
def execFunord (d a : Nat) (b : VSrc) (g : Nat) (s : State) : Out :=
  fcmp (infoVcmp 19 6 d a b g) .un d a b s

/-- FORD (R134): FP32 compare ordered. -/
def execFord (d a : Nat) (b : VSrc) (g : Nat) (s : State) : Out :=
  fcmp (infoVcmp 19 7 d a b g) .ord d a b s

/-- FRCP (R136): SFU reciprocal. -/
def execFrcp (d a g : Nat) (s : State) : Out :=
  sfu1 { infoVun 20 0 d a g with long := true } d a s sfuRcp

/-- FRSQ (R136): SFU reciprocal square root. -/
def execFrsq (d a g : Nat) (s : State) : Out :=
  sfu1 { infoVun 20 1 d a g with long := true } d a s sfuRsq

/-- FSQRT (R136): SFU correctly rounded square root. -/
def execFsqrt (d a g : Nat) (s : State) : Out :=
  sfu1 { infoVun 20 2 d a g with long := true } d a s fun x => fp32.sqrtV .ne (fp32.val x)

/-- FDIV (R136): SFU correctly rounded divide. -/
def execFdiv (d a : Nat) (b : VSrc) (g : Nat) (s : State) : Out :=
  sfu { infoVal 20 3 d a b g with long := true } d s fun c t => fp32.divV .ne (fp32.val (t.vr a).toNat) (fp32.val (b.val c t).toNat)

/-- FEXP2 (R136): SFU base-2 exponential. -/
def execFexp2 (d a g : Nat) (s : State) : Out :=
  sfu1 { infoVun 20 4 d a g with long := true } d a s sfuExp2

/-- FLOG2 (R136): SFU base-2 logarithm. -/
def execFlog2 (d a g : Nat) (s : State) : Out :=
  sfu1 { infoVun 20 5 d a g with long := true } d a s sfuLog2

/-- FSINPI (R136): SFU sin(π·A). -/
def execFsinpi (d a g : Nat) (s : State) : Out :=
  sfu1 { infoVun 20 6 d a g with long := true } d a s (sfuTrig false)

/-- FCOSPI (R136): SFU cos(π·A). -/
def execFcospi (d a g : Nat) (s : State) : Out :=
  sfu1 { infoVun 20 7 d a g with long := true } d a s (sfuTrig true)

/-- FTANH (R136): SFU hyperbolic tangent. -/
def execFtanh (d a g : Nat) (s : State) : Out :=
  sfu1 { infoVun 20 8 d a g with long := true } d a s sfuTanh

/-- FSIGM (R136): SFU logistic sigmoid. -/
def execFsigm (d a g : Nat) (s : State) : Out :=
  sfu1 { infoVun 20 9 d a g with long := true } d a s sfuSigm

/-- CVT_I32_F32 (R138): Convert FP32 to signed 32-bit integer, saturating. -/
def execCvtI32F32 (d a g : Nat) (s : State) : Out :=
  fun1 (infoVun 21 0 d a g) d a s toI32

/-- CVT_N32_F32 (R138): Convert FP32 to unsigned 32-bit integer. -/
def execCvtN32F32 (d a g : Nat) (s : State) : Out :=
  fun1 (infoVun 21 1 d a g) d a s toN32

/-- CVT_F32_I32 (R138): Convert signed integer to FP32. -/
def execCvtF32I32 (d a g : Nat) (s : State) : Out :=
  fun1 (infoVun 21 2 d a g) d a s fun x => cvtFromInt (sextNat 32 x)

/-- CVT_F32_N32 (R138): Convert unsigned integer to FP32. -/
def execCvtF32N32 (d a g : Nat) (s : State) : Out :=
  fun1 (infoVun 21 3 d a g) d a s fun x => cvtFromInt x

/-- CVT_F16_F32 (R138): Convert FP32 to FP16. -/
def execCvtF16F32 (d a g : Nat) (s : State) : Out :=
  fun1 (infoVun 21 4 d a g) d a s fun x => cvtFloat fp32 fp16 x

/-- CVT_F32_F16 (R138): Convert FP16 to FP32. -/
def execCvtF32F16 (d a g : Nat) (s : State) : Out :=
  fun1 (infoVun 21 5 d a g) d a s fun x => cvtFloat fp16 fp32 (x % 65536)

/-- CVT_BF16_F32 (R138): Convert FP32 to BF16. -/
def execCvtBf16F32 (d a g : Nat) (s : State) : Out :=
  fun1 (infoVun 21 6 d a g) d a s fun x => cvtFloat fp32 bf16 x

/-- CVT_F32_BF16 (R138): Convert BF16 to FP32. -/
def execCvtF32Bf16 (d a g : Nat) (s : State) : Out :=
  fun1 (infoVun 21 7 d a g) d a s fun x => cvtFloat bf16 fp32 (x % 65536)

/-- CVT_E4M3_F32 (R138): Convert FP32 to E4M3. -/
def execCvtE4m3F32 (d a g : Nat) (s : State) : Out :=
  fun1 (infoVun 21 8 d a g) d a s fun x => cvtFloat fp32 e4m3 x

/-- CVT_F32_E4M3 (R138): Convert E4M3 to FP32. -/
def execCvtF32E4m3 (d a g : Nat) (s : State) : Out :=
  fun1 (infoVun 21 9 d a g) d a s fun x => cvtFloat e4m3 fp32 (x % 256)

/-- CVT_E5M2_F32 (R138): Convert FP32 to E5M2. -/
def execCvtE5m2F32 (d a g : Nat) (s : State) : Out :=
  fun1 (infoVun 21 10 d a g) d a s fun x => cvtFloat fp32 e5m2 x

/-- CVT_F32_E5M2 (R138): Convert E5M2 to FP32. -/
def execCvtF32E5m2 (d a g : Nat) (s : State) : Out :=
  fun1 (infoVun 21 11 d a g) d a s fun x => cvtFloat e5m2 fp32 (x % 256)

/-- CVT_E2M1_F32 (R138): Convert FP32 to E2M1. -/
def execCvtE2m1F32 (d a g : Nat) (s : State) : Out :=
  fun1 (infoVun 21 12 d a g) d a s fun x => cvtFloat fp32 e2m1 x

/-- CVT_F32_E2M1 (R138): Convert E2M1 to FP32. -/
def execCvtF32E2m1 (d a g : Nat) (s : State) : Out :=
  fun1 (infoVun 21 13 d a g) d a s fun x => cvtFloat e2m1 fp32 (x % 16)

/-- PK2_BF16 (R138): Pack two FP32 values as bf16x2. -/
def execPk2Bf16 (d a : Nat) (b : VSrc) (g : Nat) (s : State) : Out :=
  fbin (infoVal 21 14 d a b g) d a b s fun x y => packed fun k => cvtFloat fp32 bf16 (if k = 0 then x else y)

/-- PK2_F16 (R138): Pack two FP32 values as f16x2. -/
def execPk2F16 (d a : Nat) (b : VSrc) (g : Nat) (s : State) : Out :=
  fbin (infoVal 21 15 d a b g) d a b s fun x y => packed fun k => cvtFloat fp32 fp16 (if k = 0 then x else y)

/-- DADD (R139): Binary64 add, by emulation. -/
def execDadd (d a b g : Nat) (s : State) : Out :=
  f64 { infoD3 48 0 d a b g with long := true } 0 d a b s

/-- DSUB (R139): Binary64 subtract. -/
def execDsub (d a b g : Nat) (s : State) : Out :=
  f64 { infoD3 48 1 d a b g with long := true } 1 d a b s

/-- DMUL (R139): Binary64 multiply. -/
def execDmul (d a b g : Nat) (s : State) : Out :=
  f64 { infoD3 48 2 d a b g with long := true } 2 d a b s

/-- DFMA (R139): Binary64 fused multiply-add. -/
def execDfma (d a b g : Nat) (s : State) : Out :=
  f64 { infoD3D 48 3 d a b g with long := true } 3 d a b s

/-- DDIV (R139): Binary64 divide. -/
def execDdiv (d a b g : Nat) (s : State) : Out :=
  f64 { infoD3 48 4 d a b g with long := true } 4 d a b s

/-- DSQRT (R139): Binary64 square root. -/
def execDsqrt (d a g : Nat) (s : State) : Out :=
  f64 { infoD2 48 5 d a g with long := true } 5 d a 0 s

/-- CVT_F64_F32 (R139): Widen FP32 to binary64. -/
def execCvtF64F32 (d a g : Nat) (s : State) : Out :=
  f64 { infoDw 48 6 d a g with long := true } 6 d a 0 s

/-- CVT_F32_F64 (R139): Narrow binary64 to FP32. -/
def execCvtF32F64 (d a g : Nat) (s : State) : Out :=
  f64 { infoDn 48 7 d a g with long := true } 7 d a 0 s

/-- EMULATION_RETURN (R140): The management core's routine completes or declines the parked instruction. -/
def execEmulationReturn (cohort : Nat) (decline : Bool) (s : State) : Out :=
  .next (emulationReturn cohort decline s)

end Sys2Proof.Machine
end

