-- ==== Sys2Proof/Machine/Sha.lean ====
section
/-!
DEFINITION. Sys2Proof/Machine/Sha.lean: the standards that 15 R316 and 21 R425-R429 name: CRC-32C, SHA-256 (FIPS 180-4) and
ECDSA on P-256 (FIPS 186-4; notes/assumptions/10.md).
-/

namespace Sys2Proof.Machine

/-! ### CRC-32C (15 R316) -/

/-- Eight shifts of the reflected Castagnoli polynomial. -/
def crcBits : Nat → Nat → Nat
  | 0, x => x
  | n + 1, x => crcBits n (if x % 2 = 1 then (x / 2) ^^^ 0x82F63B78 else x / 2)

/-- CRC-32C of bytes. -/
def crc32c (bs : List Byte) : Nat :=
  (bs.foldl (fun c b => crcBits 8 (c ^^^ b.toNat)) 0xFFFFFFFF) ^^^ 0xFFFFFFFF

/-! ### SHA-256 -/

/-- The greatest number whose `k`-th power does not exceed `x`: the `n` bits below `lo` are tried from the highest. -/
def rootFrom (k x : Nat) : Nat → Nat → Nat
  | 0, lo => lo
  | n + 1, lo => rootFrom k x n (if (lo + 2 ^ n) ^ k ≤ x then lo + 2 ^ n else lo)

/-- The first 32 bits of the fractional part of the `k`-th root of `p`, as FIPS 180-4 builds its constants. -/
def rootBits (k p : Nat) : BitVec 32 := BitVec.ofNat 32 (rootFrom k (p * 2 ^ (32 * k)) 40 0)

/-- The primes below `n`. -/
def primesBelow (n : Nat) : List Nat :=
  (upto n).filter fun p => decide (2 ≤ p) && (upto p).all fun d => decide (d < 2) || p % d != 0

/-- The round constants of FIPS 180-4: of the cube roots of the first 64 primes. -/
def shaK : List (BitVec 32) := (primesBelow 312).map (rootBits 3)

/-- The initial hash value: of the square roots of the first eight primes. -/
def shaInit : List (BitVec 32) := (primesBelow 20).map (rootBits 2)

/-- The message schedule, newest word first. -/
def shaSched : Nat → List (BitVec 32) → List (BitVec 32)
  | 0, w => w
  | n + 1, w =>
    let x := w.getD 14 0
    let y := w.getD 1 0
    let s0 := x.rotateRight 7 ^^^ x.rotateRight 18 ^^^ (x >>> 3)
    let s1 := y.rotateRight 17 ^^^ y.rotateRight 19 ^^^ (y >>> 10)
    shaSched n ((w.getD 15 0 + s0 + w.getD 6 0 + s1) :: w)

/-- One round. -/
def shaRound (v : List (BitVec 32)) (kw : BitVec 32 × BitVec 32) : List (BitVec 32) :=
  let g := fun (i : Nat) => v.getD i 0
  let e := g 4
  let a := g 0
  let t1 := g 7 + (e.rotateRight 6 ^^^ e.rotateRight 11 ^^^ e.rotateRight 25) + ((e &&& g 5) ^^^ (~~~e &&& g 6)) + kw.1 + kw.2
  let t2 := (a.rotateRight 2 ^^^ a.rotateRight 13 ^^^ a.rotateRight 22) + ((a &&& g 1) ^^^ (a &&& g 2) ^^^ (g 1 &&& g 2))
  [t1 + t2, g 0, g 1, g 2, g 3 + t1, g 4, g 5, g 6]

/-- A big-endian number. -/
def beNat (bs : List Byte) : Nat := bs.foldl (fun n b => n * 256 + b.toNat) 0

/-- The `n` bytes of a number, most significant first. -/
def beBytes (n x : Nat) : List Byte := (leBytes n x).reverse

/-- One block of 64 bytes. -/
def shaBlock (h : List (BitVec 32)) (b : List Byte) : List (BitVec 32) :=
  let w := ((upto 16).map fun i => BitVec.ofNat 32 (beNat ((b.drop (4 * i)).take 4))).reverse
  let v := (List.zip shaK (shaSched 48 w).reverse).foldl shaRound h
  (List.zip h v).map fun e => e.1 + e.2

/-- The blocks of a padded message. -/
def shaBlocks : Nat → List Byte → List (BitVec 32) → List (BitVec 32)
  | 0, _, h => h
  | n + 1, bs, h => shaBlocks n (bs.drop 64) (shaBlock h (bs.take 64))

/-- SHA-256 of bytes, as a number. -/
def sha256 (bs : List Byte) : Nat :=
  let n := bs.length
  let pad := (119 - n % 64) % 64
  let m := bs ++ [0x80] ++ List.replicate pad 0 ++ beBytes 8 (8 * n)
  (shaBlocks (m.length / 64) m shaInit).foldl (fun x w => x * 2 ^ 32 + w.toNat) 0

/-! ### ECDSA verification on P-256 -/

/-- The field and the order of the curve, its coefficient b and its base point. -/
def p256 : Nat := 0xffffffff00000001000000000000000000000000ffffffffffffffffffffffff
def n256 : Nat := 0xffffffff00000000ffffffffffffffffbce6faada7179e84f3b9cac2fc632551
def b256 : Nat := 0x5ac635d8aa3a93e7b3ebbd55769886bc651d06b0cc53b0f63bce3c3e27d2604b
def g256 : Nat × Nat :=
  (0x6b17d1f2e12c4247f8bce6e563a440f277037d812deb33a0f4a13945d898c296,
   0x4fe342e2fe1a7f9b8ee7eb4a7c0f9e162bce33576b315ececbb6406837bf51f5)

/-- acc times x to the power e, modulo m, by squaring; e has at most `k` bits. -/
def powMod (m : Nat) : Nat → Nat → Nat → Nat → Nat
  | 0, _, acc, _ => acc
  | k + 1, e, acc, x => powMod m k (e / 2) (if e % 2 = 1 then acc * x % m else acc) (x * x % m)

/-- The inverse modulo a prime. -/
def invMod (m x : Nat) : Nat := powMod m 256 (m - 2) 1 (x % m)

/-- The sum of two points; none is the point at infinity. -/
def ecAdd (a b : Option (Nat × Nat)) : Option (Nat × Nat) :=
  match a, b with
  | none, q => q
  | q, none => q
  | some (x1, y1), some (x2, y2) =>
    if x1 = x2 ∧ (y1 + y2) % p256 = 0 then none
    else
      let l := if x1 = x2 then (3 * x1 * x1 + p256 - 3) * invMod p256 (2 * y1) % p256
        else (y2 + p256 - y1) * invMod p256 (x2 + p256 - x1) % p256
      let x3 := (l * l + 2 * p256 - x1 - x2) % p256
      some (x3, (l * (x1 + p256 - x3) + p256 - y1) % p256)

/-- A multiple of a point, from the low bit on. -/
def ecMul : Nat → Nat → Option (Nat × Nat) → Option (Nat × Nat) → Option (Nat × Nat)
  | 0, _, _, acc => acc
  | n + 1, k, q, acc => ecMul n (k / 2) (ecAdd q q) (if k % 2 = 1 then ecAdd acc q else acc)

/-- Does a signature (r, s) of the hash `h` verify under the public key (x, y)? -/
def ecdsaOk (x y h r s : Nat) : Bool :=
  decide (0 < r ∧ r < n256 ∧ 0 < s ∧ s < n256 ∧ x < p256 ∧ y < p256) &&
  y * y % p256 == (x * x * x + (p256 - 3) * x + b256) % p256 &&
  let w := invMod n256 s
  match ecAdd (ecMul 256 (h * w % n256) (some g256) none) (ecMul 256 (r * w % n256) (some (x, y)) none) with
  | some q => q.1 % n256 == r
  | none => false

/-! ### The identity key (21 R427, R428) -/

/-- The device identity key: a P-256 private key, 1 to the order less 1, from the fused secret and the firmware digest. -/
def identityKey (secret digest : Nat) : Nat := 1 + Config.identityKey secret digest % (n256 - 1)

/-- The public key of a private key. -/
def publicKey (d : Nat) : Nat × Nat := (ecMul 256 d (some g256) none).getD (0, 0)

/-- The signature of the hash `h` under the private key `d` with the secret number `k`: r, then s (FIPS 186-4). -/
def ecdsaWith (d h k : Nat) : Nat × Nat :=
  let r := (publicKey k).1 % n256
  (r, invMod n256 k * (h + r * d) % n256)

/-- The signature that the signing service gives: that of the first secret number whose r and s are not 0. -/
def ecdsaSign (d h : Nat) : Nat × Nat :=
  let tries := (upto 4).map fun j => ecdsaWith d h (1 + Config.signNonce d h j % (n256 - 1))
  (tries.find? fun e => e.1 != 0 && e.2 != 0).getD (1, 1)

end Sys2Proof.Machine
end

