-- ==== Sys2Proof/Machine/Host.lean ====
section
/-!
DEFINITION. Sys2Proof/Machine/Host.lean: hosts and the management core: inbound RDMA (12 R277, 21 R420), submission and
completion rings (15 R316-R318, R325; 21 R422, R423), boot, identity and attestation (21 R424-R429) and thermal conditions
(R431).
-/

namespace Sys2Proof.Machine

/-! ### Inbound RDMA (12 R277, 21 R420) -/

/-- A message of the inbox is done with. -/
def State.inDone (s : State) (n : Nat) : State := { s with inbox := s.inbox.take n ++ s.inbox.drop (n + 1) }

/-- A message to a host. -/
def State.tell (s : State) (m : HostOut) : State := { s with outbox := s.outbox ++ [m] }

/-- Do bytes lie in a region registered for the connection? -/
def State.registered (s : State) (conn a n : Nat) : Bool :=
  s.regions.any fun r => r.conn == conn && decide (r.base ≤ a ∧ a + n ≤ r.base + r.len)

/-- The region of a ring: its header and its packets. -/
def Ring.size (r : Ring) : Nat := 64 + 256 * r.nslot

/-- Do parts of a write meet the first `n` bytes of a ring's region? -/
def Ring.hit (r : Ring) (parts : List (Nat × List Byte)) (n : Nat) : Bool :=
  parts.any fun p => decide (p.1 < r.region + n ∧ r.region < p.1 + p.2.length)

/-- Do they meet its header? -/
def Ring.headerHit (r : Ring) (parts : List (Nat × List Byte)) : Bool := r.hit parts 64

/-- An RDMA WRITE into a ring's region has completed: a torn packet is worth one more read, and C is read again (15 R317, 21
R423). -/
def Ring.land (s : State) (parts : List (Nat × List Byte)) (r : Ring) : Ring :=
  let r := if r.hit parts r.size then { r with landed := r.landed + 1 } else r
  if r.headerHit parts then { r with c := s.gmem.nat (r.region + 8) 4 } else r

/-- One part of a message is performed at its home. -/
def State.rdmaPart (s : State) (p : Nat × List Byte) : State :=
  let s := (s.writeBytes .glob (atAddr p.1 p.2)).slPost false ((upto p.2.length).map (p.1 + ·))
  { s with rings := s.rings.map fun r => r.touch p.1 p.2.length }

/-- RDMA_WRITE: one 64-byte part of message `n` is performed at its home; the last one completes the message. -/
def rdmaWrite (n part : Nat) (s : State) : State :=
  match s.inbox[n]? with
  | some (.write port conn parts done) =>
    if !s.boot.portsOpen then s
    else if !(parts.all fun p => s.registered conn p.1 p.2.length) then (s.inDone n).tell (.nak port)
    else match parts[part]? with
      | none => s
      | some p =>
        if done.contains part then s
        else s.atHomes 640 (.rdma port, p.1) [p.1] fun s =>
          let s := s.rdmaPart p
          let done := part :: done
          if (upto parts.length).all fun k => done.contains k then
            let s := s.meet ((s.rings.filter fun r => r.headerHit parts).flatMap fun r => s.sites .glob (r.region + 8) 4)
            (({ s with rings := s.rings.map (Ring.land s parts) } : State).inDone n).tell (.ack port)
          else { s with inbox := s.inbox.set n (.write port conn parts done) }
  | _ => s

/-- RDMA_READ: message `n` is answered with the values at the homes. -/
def rdmaRead (n : Nat) (s : State) : State :=
  match s.inbox[n]? with
  | some (.read port conn a k) =>
    if !s.boot.portsOpen then s
    else if s.registered conn a k then
      s.atHomes 640 (.rdma port, a) ((upto (k / 64 + 1)).map fun j => a + 64 * j) fun s =>
        ((s.inDone n).meet (s.sites .glob a k)).tell (.data (s.gmem.bytes a k))
    else (s.inDone n).tell (.nak port)
  | _ => s

/-! ### Submission rings (15 R316, R317, R325) -/

/-- A ring by number. -/
def State.ring (s : State) (n : Nat) : Option Ring := s.rings.find? fun r => r.n == n
/-- Change a ring. -/
def State.onRing (s : State) (n : Nat) (f : Ring → Ring) : State := { s with rings := mapIf (fun r => r.n == n) f s.rings }

/-- The ring stops with SUBMIT_TORN. -/
def Ring.stop (r : Ring) : Ring :=
  ({ r with stopped := true, kicks := [], target := none, torn := min (r.torn + 1) (2 ^ 32 - 1) } : Ring).post r.next 2

/-- The kick word: KSEQ and KCRC. -/
def State.kickWord (s : State) (r : Ring) : Nat × Nat := (s.gmem.nat r.region 4, s.gmem.nat (r.region + 4) 4)

/-- The reset kick. -/
def resetKickWord : Nat × Nat := (0xFFFFFFFF, 0)

/-- RING_KICK: the front end reads the kick word of a ring that runs. -/
def ringKick (n : Nat) (s : State) : State :=
  match s.ring n with
  | none => s
  | some r =>
    let k := s.kickWord r
    if !r.kicked || k == resetKickWord then s
    else
      let s := (s.meet (s.sites .glob r.region 8)).onRing n fun r => { r with kicked := false }
      let d := (k.1 + 2 ^ 32 - r.next) % 2 ^ 32
      if r.stopped || decide (2 ^ 31 ≤ d) then s
      else if r.nslot ≤ d then s.onRing n Ring.stop
      else
        let further := match r.target with
          | some t => decide ((t + 2 ^ 32 - r.next) % 2 ^ 32 ≤ d)
          | none => true
        s.onRing n fun r =>
          { r with kicks := k :: r.kicks, target := if further then some k.1 else r.target,
                   reads := if r.target.isNone then 0 else r.reads, landed := if r.target.isNone then 0 else r.landed }

/-- RESET_KICK: NEXT becomes 0 and the ring restarts. -/
def resetKick (n : Nat) (s : State) : State :=
  match s.ring n with
  | none => s
  | some r =>
    if !r.kicked || s.kickWord r != resetKickWord then s
    else ((s.meet (s.sites .glob r.region 8)).unrequest (.ring n)).onRing n fun r =>
      { r with kicked := false, stopped := false, next := 0, kicks := [], target := none, reads := 0, landed := 0 }

/-- The 256 bytes of the packet NEXT, when the front end may read them now: first, or after one more inbound write. -/
def State.packet (s : State) (r : Ring) : Option (List Byte) :=
  if r.stopped || r.target.isNone || (r.reads != 0 && r.landed == 0) then none
  else some (s.gmem.bytes (r.region + 64 + 256 * (r.next % r.nslot)) 256)

/-- The front end reads the packet and meets the errors of its words (10 R233). -/
def State.frontRead (s : State) (r : Ring) : State := s.meet (s.sites .glob (r.region + 64 + 256 * (r.next % r.nslot)) 256)

/-- Does the packet pass: its SEQ, its CRC, and the KCRC of a kick that names it? -/
def Ring.passes (r : Ring) (s : State) (bs : List Byte) : Bool :=
  let crc := leNat ((bs.drop 4).take 4)
  leNat (bs.take 4) == r.next && crc == crc32c (bs.drop 8) &&
  !(s.poisoned .glob (r.region + 64 + 256 * (r.next % r.nslot)) 256) &&
  (match r.kicks.find? fun k => k.1 == r.next with
   | some k => k.2 == crc
   | none => true)

/-- The packet has passed: NEXT advances, and its record is posted. -/
def Ring.pass (r : Ring) (tag status : Nat) : Ring :=
  let next := (r.next + 1) % 2 ^ 32
  ({ r with next := next, kicks := r.kicks.filter (fun k => k.1 != r.next), reads := 0, landed := 0,
            target := if r.target = some r.next then none else r.target } : Ring).post tag status

/-- LAUNCH_PACKET: a passing packet that is no CANCEL is refused, or takes an entry of the store or waits for one. -/
def launchPacket (n : Nat) (s : State) : State :=
  match s.ring n with
  | none => s
  | some r =>
    match s.packet r with
    | none => if r.stopped then s.unrequest (.ring n) else s
    | some bs =>
      let x := leNat bs
      let tag := bitsOf x 128 64
      let rec_ := bitsOf x 1024 1024
      if !(r.passes s bs) || bitsOf x 64 16 == 2 then s
      else
        let e := if bitsOf x 64 16 = 1 ∧ bitsOf x 80 48 = 0 ∧ bitsOf x 192 832 = 0 ∧ (lrecOf rec_).job = r.job then
          s.checkRecord rec_ none else none
        let s := s.frontRead r
        match e with
        | none => (s.unrequest (.ring n)).onRing n fun r => r.pass tag 3
        | some e =>
          if !(s.mayTake (.ring n)) then s.request (.ring n)
          else (((s.unrequest (.ring n)).accept e (some (n, tag)) .none false 0).1).onRing n fun r => r.pass tag 4

/-- CANCEL_PACKET: a passing CANCEL packet acts on the ring's job. -/
def cancelPacket (n : Nat) (s : State) : State :=
  match s.ring n with
  | none => s
  | some r =>
    match s.packet r with
    | none => s
    | some bs =>
      let x := leNat bs
      let tag := bitsOf x 128 64
      if !(r.passes s bs) || bitsOf x 64 16 != 2 then s
      else if bitsOf x 80 48 ≠ 0 ∨ bitsOf x 320 704 ≠ 0 then (s.frontRead r).onRing n fun r => r.pass tag 3
      else ((s.frontRead r).onRing n fun r => r.pass tag 4).hostCancel r.job n (bitsOf x 192 64) (bitsOf x 256 64)

/-- PACKET_REREAD: a read of a torn packet fails; the 64th stops the ring. -/
def packetReread (n : Nat) (s : State) : State :=
  match s.ring n with
  | none => s
  | some r =>
    match s.packet r with
    | none => s
    | some bs =>
      if r.passes s bs then s
      else if 64 ≤ r.reads + 1 then (s.frontRead r).onRing n Ring.stop
      else (s.frontRead r).onRing n fun r => { r with reads := r.reads + 1, landed := if r.reads = 0 then 0 else r.landed - 1 }

/-- COMPLETION_RECORD: the oldest waiting record of a ring is written once the consumed count allows (21 R423). -/
def completionRecord (n : Nat) (s : State) : State :=
  match s.ring n with
  | none => s
  | some r =>
    match r.waiting with
    | [] => s
    | (tag, status, ring) :: rest =>
      if r.nc ≤ (r.p + 2 ^ 32 - r.c) % 2 ^ 32 then s
      else
        let s := s.tell (.record r.conn (r.cq + 16 * (r.p % r.nc)) r.rkey tag status ring)
        let s := s.onRing n fun r => { r with waiting := rest }
        { s with rings := mapIf (fun x => x.conn == r.conn) (fun x => { x with p := (x.p + 1) % 2 ^ 32 }) s.rings }

/-! ### Connections (21 R422, R423) -/

/-- Is a number a power of two from `lo` to `hi`? -/
def powIn (lo hi n : Nat) : Bool := decide (lo ≤ n ∧ n ≤ hi) && n == 2 ^ Nat.log2 n

/-- The version that two sides use: the highest bit set in both masks, of which the part's has bits 0 and 1. -/
def agreed (mask : Nat) : Option Nat := if bit mask 1 then some 1 else if bit mask 0 then some 0 else none

/-- CONNECTION_OPEN: message `n` opens a connection; with no common version it closes with no ring assigned. -/
def connectionOpen (n : Nat) (s : State) : State :=
  match s.inbox[n]? with
  | some (.open_ mask rings regs) =>
    if !s.boot.portsOpen then s
    else match agreed mask with
    | none => (s.inDone n).tell (.mask 0)
    | some v =>
      let id := freshFrom (s.conns.map (·.id)) s.conns.length 1
      let ok := rings.filter fun r => decide (r.n < 64) && powIn 16 4096 r.nslot && powIn 16 65536 r.nc &&
        !(s.rings.any fun x => x.n == r.n)
      let given := ok.map fun r =>
        ({ n := r.n, region := r.region, nslot := r.nslot, job := r.job, nc := r.nc, cq := r.cq, rkey := r.rkey, conn := id,
           c := s.gmem.nat (r.region + 8) 4 } : Ring)
      let mine := regs.map fun g => ({ conn := id, base := g.1, len := g.2 } : Region)
      let s := s.meet (ok.flatMap fun r => s.sites .glob (r.region + 8) 4)
      (({ s with rings := s.rings ++ given, conns := s.conns ++ [{ id := id, version := v }],
                 regions := s.regions ++ mine } : State).inDone n).tell (.mask 3)
  | _ => s

/-! ### Boot (21 R424-R427) -/

/-- `k` bytes of an image from byte `a` on. -/
def imgBytes (img : List Byte) (a k : Nat) : List Byte :=
  let part := (img.drop a).take k
  part ++ List.replicate (k - part.length) 0

/-- A number of the image's header. -/
def imgNat (img : List Byte) (a k : Nat) : Nat := leNat (imgBytes img a k)

/-- Is there a valid header (R426)? -/
def imgValid (img : List Byte) : Bool :=
  let len := imgNat img 8 8
  let load := imgNat img 16 8
  let entry := imgNat img 24 8
  imgNat img 0 4 == 0x4E465749 && len % 4096 == 0 && decide (len ≤ 64 * 2 ^ 20 - 4096) && imgNat img 192 64 == 0 &&
  decide (load ≤ entry ∧ entry < load + len)

/-- Does the ROM accept the image (R425)? -/
def imgOk (b : Boot) (img : List Byte) : Bool :=
  imgValid img && sha256 (imgBytes img 64 64) == b.fuseKey &&
  ecdsaOk (beNat (imgBytes img 64 32)) (beNat (imgBytes img 96 32)) (sha256 (imgBytes img 0 128))
    (beNat (imgBytes img 128 32)) (beNat (imgBytes img 160 32)) &&
  sha256 (imgBytes img 4096 (imgNat img 8 8)) == beNat (imgBytes img 32 32) && decide (b.fuseSvn ≤ imgNat img 4 4)

/-- A write of a configuration register by firmware (16 R337). -/
def State.fwConfig (s : State) (w : Nat × Nat × Nat) : State :=
  match cfgSel w.1 (BitVec.ofNat 64 w.2.1) with
  | some (core, item) => if cwrLegal w.1 then s.cfgSet w.1 core item (w.2.2 % 2 ^ 64) else s
  | none => s

/-- A domain takes its pending fields at once, in a change that firmware begins and ends (10 R231). -/
def State.fwSync (s : State) (d : Nat) : State :=
  let new := Tab.read {} s.domsNew d
  if s.domInvalid d ∨ s.changing ≠ [] then s
  else (({ s with changing := s.domAffected d new } : State).syncEnd d new).1

/-- The boot steps 1 to 4 with an image: recovery, or firmware that has written EMUL item 0 and the configured values, the interleave
domains with them (R424, 16 R343). -/
def State.bootWith (s : State) (img : List Byte) : State :=
  if !(imgOk s.boot img) || !s.boot.tier1Ok then
    { s with boot := { s.boot with running := false, recovery := true } }
  else
    let digest := beNat (imgBytes img 32 32)
    let s : State :=
      { s with boot := { s.boot with
          running := true, recovery := false, svn := imgNat img 4 4, fwDigest := digest,
          pubKey := publicKey (identityKey s.boot.fuseSecret digest) } }
    let s := s.boot.config.foldl State.fwConfig s
    let s := (distinct ((s.boot.config.filter fun w => decide (7 ≤ w.1 ∧ w.1 ≤ 9)).map fun w =>
      if w.1 = 9 then bitsOf w.2.1 19 6 else bitsOf w.2.1 16 9)).foldl State.fwSync s
    { s with emul := Tab.put 0 s.emul 0 (Config.emulRoutine % (2 ^ 64 - 1) + 1) }

/-- What power-on leaves: flash, fuses and the boot count, the sensors, messages on the links, and the moves that are chosen. -/
def State.powerOn (s : State) (on : Bool) : State :=
  { State.reset with
    boot := { s.boot with running := false, recovery := false, portsOpen := false, released := 0, svn := 0, fwDigest := 0,
                          pubKey := (0, 0), tools := none, powered := on, fuseBoots := if on then min (s.boot.fuseBoots + 1) (2 ^ 32 - 1) else s.boot.fuseBoots },
    dieTemp := s.dieTemp, inletTemp := s.inletTemp, inbox := s.inbox, outbox := s.outbox, agenda := s.agenda, focus := s.focus,
    turns := s.turns, fresh := s.fresh }

/-- POWER_ON_RESET: the management core leaves reset and runs the ROM and the boot steps up to step 4. -/
def powerOnReset (s : State) : State := let s := s.powerOn true; s.bootWith s.boot.flash

/-- CLUSTER_RELEASE: the next cluster leaves reset, its %cyc from 0; after the last one the ports open (R424, steps 5 and 6). -/
def clusterRelease (s : State) : State :=
  let c := s.boot.released
  if !s.boot.running || decide (40 ≤ c) then s
  else
    let s := (upto 16).foldl (fun (s : State) k => s.onCore (16 * c + k) fun x => { x with released := true, cyc := 0 }) s
    { s with boot := { s.boot with released := c + 1, portsOpen := decide (c = 39) } }

/-- RECOVERY_IMAGE: in recovery, message `n` on port 0 brings a firmware image. -/
def recoveryImage (n : Nat) (s : State) : State :=
  match s.inbox[n]? with
  | some (.image port img) => if s.boot.recovery && port == 0 then (s.inDone n).bootWith img else s
  | _ => s

/-! ### Attestation (21 R428, R429) -/

/-- The 9,356 bytes that CFGDIG digests. -/
def State.cfgString (s : State) : List Byte :=
  ((upto 640).flatMap fun k => leBytes 8 (s.cfg 0 k 0)) ++ ((upto 8).flatMap fun k => leBytes 8 (s.cfg 13 0 k)) ++
  ((upto 512).flatMap fun k => leBytes 8 (s.cfg 14 0 k)) ++ ((upto 8).flatMap fun k => leBytes 8 (s.cfg 11 0 k)) ++
  leBytes 8 (s.cfg 10 0 0) ++ leBytes 4 s.boot.svn

/-- The report on a nonce; digests, and r and s, as big-endian byte strings. -/
def State.report (s : State) (nonce : Nat) : List Byte :=
  let body := leBytes 32 nonce ++ beBytes 32 s.boot.fwDigest ++ beBytes 32 (sha256 s.cfgString) ++ leBytes 4 s.boot.svn ++
    leBytes 4 s.boot.fuseBoots ++ List.replicate 120 0
  let sig := ecdsaSign (identityKey s.boot.fuseSecret s.boot.fwDigest) (sha256 body)
  body ++ beBytes 32 sig.1 ++ beBytes 32 sig.2

/-- ATTESTATION_REQUEST: message `n` is answered with a report. -/
def attestationRequest (n : Nat) (s : State) : State :=
  match s.inbox[n]? with
  | some (.attest nonce) => if s.boot.portsOpen then (s.inDone n).tell (.report (s.report nonce)) else s
  | _ => s

/-! ### Thermal conditions (21 R431) -/

/-- The condition after a reading. -/
def thermalOf (old : Thermal) (die inlet : Int) : Thermal :=
  let was := fun (l : List Thermal) => l.contains old
  if 115 < die then .critical
  else if 105 < die ∨ (was [.hot, .critical] ∧ 95 ≤ die) then .hot
  else if 95 < die ∨ 45 < inlet ∨ (was [.warm, .hot, .critical] ∧ 90 ≤ die) then .warm
  else .normal

/-- The number of a condition. -/
def Thermal.num : Thermal → Nat
  | .normal => 0
  | .warm => 1
  | .hot => 2
  | .critical => 3

/-- The cause of a change: 0 die, 1 inlet, 2 both; into normal, what had held the old condition (notes/assumptions/65.md). -/
def thermalCause (old new : Thermal) (oldDie oldInlet die inlet : Int) : Nat :=
  let d := decide (if new = .normal then 90 ≤ oldDie else if old = .normal then 95 < die else 90 ≤ die)
  let i := decide (45 < if new = .normal then oldInlet else inlet)
  if new = .hot ∨ new = .critical then 0 else if d && i then 2 else if i then 1 else 0

/-- Bytes 0-7 of a THERMAL record (15 R318). -/
def thermalTag (new : Thermal) (cause : Nat) (die inlet : Int) : Nat :=
  new.num + cause * 2 ^ 8 + (BitVec.ofInt 16 die).toNat * 2 ^ 16 + (BitVec.ofInt 16 inlet).toNat * 2 ^ 32

/-- A THERMAL record for every connection, behind the records that wait for its first ring. -/
def State.thermalRecord (s : State) (tag : Nat) : State :=
  let firsts := s.conns.filterMap fun c => (s.rings.find? fun r => r.conn == c.id).map (·.n)
  { s with rings := mapIf (fun r => firsts.contains r.n) (fun r => r.postAs tag 5 0xFFFFFFFF) s.rings }

/-- Every record that fits goes out. -/
def State.sendRecords (s : State) : State :=
  s.rings.foldl (fun (s : State) r => r.waiting.foldl (fun s _ => completionRecord r.n s) s) s

/-- THERMAL_CHANGE: a reading of the sensors. A change of condition is posted; into hot, every partition's context goes to
shadow storage, and returns when hot ends; critical sends what fits and removes power. While no firmware runs, the module removes power
in the critical condition, and the other changes wait for it (notes/assumptions/65.md). -/
def thermalChange (die inlet : Int) (s : State) : State :=
  let old := s.thermal
  let new := thermalOf old die inlet
  let tag := thermalTag new (thermalCause old new s.dieTemp s.inletTemp die inlet) die inlet
  let s : State := { s with dieTemp := die, inletTemp := inlet }
  if !s.boot.running then if new = .critical then s.powerOn false else s
  else if new = old then s
  else
    let s : State := { s with thermal := new }
    let s := s.thermalRecord tag
    match new with
    | .critical => s.sendRecords.powerOn false
    | .hot => s.heatWant ((upto 8).filter fun p => Tab.read 0 s.part p % 2 ^ 40 != 0 && !(s.heatOut.contains p))
    | _ => s.heatWant s.heatOut

/-! ### What firmware does of its own accord -/

/-- Firmware places a launch in the store itself, once it has a free entry that none waits for: a launch created by the management
core (02 R54). -/
def State.fwLaunch (s : State) (lrec : Nat) : State :=
  match s.checkRecord lrec none with
  | none => s
  | some e => if s.storeFree && s.storeWait.isEmpty then (s.accept e none .none true 0).1 else s

/-- Message `n` answered: the mask to a tool, with the version held, or the certificate. -/
def State.fwAnswer (s : State) (n : Nat) : State :=
  match s.inbox[n]? with
  | some (.tools mask) =>
    let s := (s.inDone n).tell (.mask (if (agreed mask).isSome then 3 else 0))
    { s with boot := { s.boot with tools := agreed mask } }
  | some .certificate => (s.inDone n).tell (.certificate s.boot.cert)
  | _ => s

/-- halt by the management core, which lies in no partition (13 R285). -/
def State.fwStop (s : State) (p : Nat) : State :=
  if 8 ≤ p ∨ Tab.read 0 s.part p % 2 ^ 40 = 0 ∨ s.partHalting p then s
  else { s.beginSwap p with fwHalt := some p }

/-- A store of the management core leaves as requests for its lines, which it replays when they are NACKed (10 R230). -/
def State.fwStore (s : State) (a : Nat) (bs : List Byte) : State :=
  let bytes := atAddr a bs
  (distinct (bytes.map fun b => b.1 / 128)).foldl (fun s l => s.foreignStore 640 (bytes.filter fun b => b.1 / 128 == l)) s

/-- Is the management core held: accesses of its tlbinv under way, or a halt of its own not over? -/
def State.fwHeld (s : State) : Bool := !(s.fwPackets.all s.packetOver) || s.fwHalt.any s.partHalting

/-- An action of firmware; none while it does not run, or is held. A port has at most 4,096 queue pairs (21 R420), and the fused minimum only rises
(21 R425). -/
def State.act (s : State) (f : Firmware) : State :=
  if !s.boot.running || s.fwHeld then s
  else
    let s : State := { s with fwPackets := [], fwHalt := none }
    match f with
    | .launch r => s.fwLaunch r
    | .config idx sel x => s.fwConfig (idx, sel, x)
    | .slsync d => if d < 8 then s.fwSync d else s
    | .tlbinv mode x => if mode < 3 then { s.tlbDrop mode x with fwPackets := s.tlbUsers mode x } else s
    | .halt p => s.fwStop p
    | .store a bs => s.fwStore a bs
    | .queuePair port qp =>
      if port < 4 ∧ qp < 2 ^ 24 ∧ !(s.hasQp port qp) ∧ (s.qpairs.filter fun q => q.port == port).length < 4096 then
        { s with qpairs := s.qpairs ++ [{ port := port, qp := qp }] }
      else s
    | .register r => if s.conns.any fun c => c.id == r.conn then { s with regions := s.regions ++ [r] } else s
    | .minimum svn => { s with boot := { s.boot with fuseSvn := max s.boot.fuseSvn (svn % 2 ^ 32) } }
    | .answer n => s.fwAnswer n

/-- RDMA_WRITE (R277): An inbound RDMA WRITE is performed at home slices and acknowledged. -/
def execRdmaWrite (n part : Nat) (s : State) : Out :=
  .next (rdmaWrite n part s)

/-- RDMA_READ (R277): An inbound RDMA READ returns home values. -/
def execRdmaRead (n : Nat) (s : State) : Out :=
  .next (rdmaRead n s)

/-- RING_KICK (R317): The front end acts on a submission ring's kick word. -/
def execRingKick (ring : Nat) (s : State) : Out :=
  .next (ringKick ring s)

/-- LAUNCH_PACKET (R317): A passing LAUNCH packet is checked and takes a store entry. -/
def execLaunchPacket (ring : Nat) (s : State) : Out :=
  .next (launchPacket ring s)

/-- CANCEL_PACKET (R325): A passing CANCEL packet tears down the selected instance of the ring's job. -/
def execCancelPacket (ring : Nat) (s : State) : Out :=
  .next (cancelPacket ring s)

/-- PACKET_REREAD (R317): A torn packet is read again after an inbound write; the 64th failure stops the ring. -/
def execPacketReread (ring : Nat) (s : State) : Out :=
  .next (packetReread ring s)

/-- RESET_KICK (R317): The reset kick sets NEXT to 0 and restarts a stopped ring. -/
def execResetKick (ring : Nat) (s : State) : Out :=
  .next (resetKick ring s)

/-- COMPLETION_RECORD (R423): A completion record is written to the host ring once the consumed count allows. -/
def execCompletionRecord (ring : Nat) (s : State) : Out :=
  .next (completionRecord ring s)

/-- CONNECTION_OPEN (R422): A host SEND with a version bitmask opens a Svetyel connection. -/
def execConnectionOpen (n : Nat) (s : State) : Out :=
  .next (connectionOpen n s)

/-- ATTESTATION_REQUEST (R428): A nonce SEND is answered with a signed attestation report. -/
def execAttestationRequest (n : Nat) (s : State) : Out :=
  .next (attestationRequest n s)

/-- RECOVERY_IMAGE (R424): In recovery, a firmware image arrives by SEND on port 0. -/
def execRecoveryImage (n : Nat) (s : State) : Out :=
  .next (recoveryImage n s)

/-- POWER_ON_RESET (R424): The management core leaves reset and runs the boot steps. -/
def execPowerOnReset (s : State) : Out :=
  .next (powerOnReset s)

/-- CLUSTER_RELEASE (R424): The next cluster leaves reset after 1,024 management-core clk. -/
def execClusterRelease (s : State) : Out :=
  .next (clusterRelease s)

/-- THERMAL_CHANGE (R431): A sensor reading changes the thermal condition and a THERMAL record is posted. -/
def execThermalChange (die inlet : Int) (s : State) : Out :=
  .next (thermalChange die inlet s)

end Sys2Proof.Machine
end

