-- ==== Sys2Proof/Machine/Pred.lean ====
section
/-!
DEFINITION. Sys2Proof/Machine/Pred.lean: the predicate group PRED (05 R112).
-/

namespace Sys2Proof.Machine

/-- pD := f(pA, pB) in the acting lanes. -/
def pred2 (i : Info) (d a b : Nat) (s : State) (f : Bool → Bool → Bool) : Out :=
  predOp i d s fun _ t => f (t.pr a) (t.pr b)

/-- PAND (R112): Predicate AND. -/
def execPand (d a b g : Nat) (s : State) : Out :=
  pred2 (infoPred 10 0 d a b g) d a b s fun x y => x && y

/-- POR (R112): Predicate OR. -/
def execPor (d a b g : Nat) (s : State) : Out :=
  pred2 (infoPred 10 1 d a b g) d a b s fun x y => x || y

/-- PXOR (R112): Predicate XOR. -/
def execPxor (d a b g : Nat) (s : State) : Out :=
  pred2 (infoPred 10 2 d a b g) d a b s fun x y => x != y

/-- PANDN (R112): Predicate AND NOT. -/
def execPandn (d a b g : Nat) (s : State) : Out :=
  pred2 (infoPred 10 3 d a b g) d a b s fun x y => x && !y

/-- PNOT (R112): Predicate NOT. -/
def execPnot (d a g : Nat) (s : State) : Out :=
  predOp (infoPredU 10 4 d a g) d s fun _ t => !(t.pr a)

/-- PMOV (R112): Predicate move. -/
def execPmov (d a g : Nat) (s : State) : Out :=
  predOp (infoPredU 10 5 d a g) d s fun _ t => t.pr a

end Sys2Proof.Machine
end

