-- ==== Sys2Proof/Machine/ScalarInt.lean ====
section
/-!
DEFINITION. Sys2Proof/Machine/ScalarInt.lean: the scalar integer groups SALU, SALUI, SSHI, SCMP (05 R103-R106).
-/

namespace Sys2Proof.Machine

/-- SALU: D := f(A, B) under the cohort's guard (05 R103, R104). -/
def salu (i : Info) (d : Nat) (a b : SSrc) (s : State) (f : Dword → Dword → Dword) : Out :=
  scalarOp i d s fun c => f (a.val c) (b.val c)

/-- SALUI and SSHI: D := f(A) (05 R105). -/
def salui (i : Info) (d a : Nat) (s : State) (f : Dword → Dword) : Out := scalarOp i d s fun c => f (c.sr a)

/-- SCMP: pD of every active lane := A cc B, under the cohort's guard (05 R106). -/
def scmp (i : Info) (cc : Cond) (d : Nat) (a b : SSrc) (s : State) : Out :=
  perCohort i s fun c =>
    let r := cc.holds (a.val c) (b.val c)
    c.mapT (·.act) fun t => t.setP d r

/-- The shift count B[5:0] (05 R104). -/
def cnt6 (b : Dword) : Nat := b.toNat % 64

/-- SADD (R104): Scalar 64-bit add sD := sA + sB. -/
def execSadd (d : Nat) (a b : SSrc) (g : Nat) (s : State) : Out :=
  salu (infoSal 1 0 d a b g) d a b s fun x y => x + y

/-- SSUB (R104): Scalar subtract. -/
def execSsub (d : Nat) (a b : SSrc) (g : Nat) (s : State) : Out :=
  salu (infoSal 1 1 d a b g) d a b s fun x y => x - y

/-- SMUL (R104): Scalar multiply, low 64 bits. -/
def execSmul (d : Nat) (a b : SSrc) (g : Nat) (s : State) : Out :=
  salu (infoSal 1 2 d a b g) d a b s fun x y => x * y

/-- SMULH (R104): Scalar signed multiply, high 64 bits. -/
def execSmulh (d : Nat) (a b : SSrc) (g : Nat) (s : State) : Out :=
  salu (infoSal 1 3 d a b g) d a b s fun x y => BitVec.ofInt 64 (x.toInt * y.toInt / 2 ^ 64)

/-- SMULHN (R104): Scalar unsigned multiply, high 64 bits. -/
def execSmulhn (d : Nat) (a b : SSrc) (g : Nat) (s : State) : Out :=
  salu (infoSal 1 4 d a b g) d a b s fun x y => BitVec.ofNat 64 (x.toNat * y.toNat / 2 ^ 64)

/-- SAND (R104): Scalar AND. -/
def execSand (d : Nat) (a b : SSrc) (g : Nat) (s : State) : Out :=
  salu (infoSal 1 5 d a b g) d a b s fun x y => x &&& y

/-- SOR (R104): Scalar OR. -/
def execSor (d : Nat) (a b : SSrc) (g : Nat) (s : State) : Out :=
  salu (infoSal 1 6 d a b g) d a b s fun x y => x ||| y

/-- SXOR (R104): Scalar XOR. -/
def execSxor (d : Nat) (a b : SSrc) (g : Nat) (s : State) : Out :=
  salu (infoSal 1 7 d a b g) d a b s fun x y => x ^^^ y

/-- SSHL (R104): Scalar shift left. -/
def execSshl (d : Nat) (a b : SSrc) (g : Nat) (s : State) : Out :=
  salu (infoSal 1 8 d a b g) d a b s fun x y => x <<< cnt6 y

/-- SSHR (R104): Scalar logical shift right. -/
def execSshr (d : Nat) (a b : SSrc) (g : Nat) (s : State) : Out :=
  salu (infoSal 1 9 d a b g) d a b s fun x y => x >>> cnt6 y

/-- SSRA (R104): Scalar arithmetic shift right. -/
def execSsra (d : Nat) (a b : SSrc) (g : Nat) (s : State) : Out :=
  salu (infoSal 1 10 d a b g) d a b s fun x y => x.sshiftRight (cnt6 y)

/-- SMIN (R104): Scalar signed minimum. -/
def execSmin (d : Nat) (a b : SSrc) (g : Nat) (s : State) : Out :=
  salu (infoSal 1 11 d a b g) d a b s fun x y => if x.sle y then x else y

/-- SMAX (R104): Scalar signed maximum. -/
def execSmax (d : Nat) (a b : SSrc) (g : Nat) (s : State) : Out :=
  salu (infoSal 1 12 d a b g) d a b s fun x y => if x.sle y then y else x

/-- SMINN (R104): Scalar unsigned minimum. -/
def execSminn (d : Nat) (a b : SSrc) (g : Nat) (s : State) : Out :=
  salu (infoSal 1 13 d a b g) d a b s fun x y => if x.ule y then x else y

/-- SMAXN (R104): Scalar unsigned maximum. -/
def execSmaxn (d : Nat) (a b : SSrc) (g : Nat) (s : State) : Out :=
  salu (infoSal 1 14 d a b g) d a b s fun x y => if x.ule y then y else x

/-- SMOV (R104): Scalar move of B. -/
def execSmov (d : Nat) (b : SSrc) (g : Nat) (s : State) : Out :=
  scalarOp (infoSmov 1 15 d b g) d s fun c => b.val c

/-- SADDI (R105): Scalar add of sign-extended IMM12. -/
def execSaddi (d a : Nat) (imm : BitVec 12) (s : State) : Out :=
  salui (infoSali 2 0 d a imm) d a s fun x => x + imm.signExtend 64

/-- SANDI (R105): Scalar AND with immediate. -/
def execSandi (d a : Nat) (imm : BitVec 12) (s : State) : Out :=
  salui (infoSali 2 1 d a imm) d a s fun x => x &&& imm.signExtend 64

/-- SORI (R105): Scalar OR with immediate. -/
def execSori (d a : Nat) (imm : BitVec 12) (s : State) : Out :=
  salui (infoSali 2 2 d a imm) d a s fun x => x ||| imm.signExtend 64

/-- SXORI (R105): Scalar XOR with immediate. -/
def execSxori (d a : Nat) (imm : BitVec 12) (s : State) : Out :=
  salui (infoSali 2 3 d a imm) d a s fun x => x ^^^ imm.signExtend 64

/-- SSHLI (R105): Scalar shift left by immediate. -/
def execSshli (d a c : Nat) (s : State) : Out :=
  salui (infoSshi 3 0 d a c) d a s fun x => x <<< c

/-- SSHRI (R105): Scalar logical shift right by immediate. -/
def execSshri (d a c : Nat) (s : State) : Out :=
  salui (infoSshi 3 1 d a c) d a s fun x => x >>> c

/-- SSRAI (R105): Scalar arithmetic shift right by immediate. -/
def execSsrai (d a c : Nat) (s : State) : Out :=
  salui (infoSshi 3 2 d a c) d a s fun x => x.sshiftRight c

/-- SLUI (R105): Scalar load of sext(IMM12) << 20. -/
def execSlui (d : Nat) (imm : BitVec 12) (s : State) : Out :=
  scalarOp (infoSlui 3 3 d imm) d s fun _ => imm.signExtend 64 <<< 20

/-- SCMP_EQ (R106): Scalar compare equal into predicate of active lanes. -/
def execScmpEq (d : Nat) (a b : SSrc) (g : Nat) (s : State) : Out :=
  scmp (infoScmp 4 0 d a b g) .eq d a b s

/-- SCMP_NE (R106): Scalar compare not equal. -/
def execScmpNe (d : Nat) (a b : SSrc) (g : Nat) (s : State) : Out :=
  scmp (infoScmp 4 1 d a b g) .ne d a b s

/-- SCMP_LT (R106): Scalar compare signed less. -/
def execScmpLt (d : Nat) (a b : SSrc) (g : Nat) (s : State) : Out :=
  scmp (infoScmp 4 2 d a b g) .lt d a b s

/-- SCMP_LE (R106): Scalar compare signed less or equal. -/
def execScmpLe (d : Nat) (a b : SSrc) (g : Nat) (s : State) : Out :=
  scmp (infoScmp 4 3 d a b g) .le d a b s

/-- SCMP_GT (R106): Scalar compare signed greater. -/
def execScmpGt (d : Nat) (a b : SSrc) (g : Nat) (s : State) : Out :=
  scmp (infoScmp 4 4 d a b g) .gt d a b s

/-- SCMP_GE (R106): Scalar compare signed greater or equal. -/
def execScmpGe (d : Nat) (a b : SSrc) (g : Nat) (s : State) : Out :=
  scmp (infoScmp 4 5 d a b g) .ge d a b s

/-- SCMP_LTN (R106): Scalar compare unsigned less. -/
def execScmpLtn (d : Nat) (a b : SSrc) (g : Nat) (s : State) : Out :=
  scmp (infoScmp 4 6 d a b g) .ltn d a b s

/-- SCMP_LEN (R106): Scalar compare unsigned less or equal. -/
def execScmpLen (d : Nat) (a b : SSrc) (g : Nat) (s : State) : Out :=
  scmp (infoScmp 4 7 d a b g) .len d a b s

/-- SCMP_GTN (R106): Scalar compare unsigned greater. -/
def execScmpGtn (d : Nat) (a b : SSrc) (g : Nat) (s : State) : Out :=
  scmp (infoScmp 4 8 d a b g) .gtn d a b s

/-- SCMP_GEN (R106): Scalar compare unsigned greater or equal. -/
def execScmpGen (d : Nat) (a b : SSrc) (g : Nat) (s : State) : Out :=
  scmp (infoScmp 4 9 d a b g) .gen d a b s

end Sys2Proof.Machine
end

