-- ==== Sys2Proof/Machine/Sequencer.lean ====
section
/-!
DEFINITION. Sys2Proof/Machine/Sequencer.lean: the ports: runs (15 R328, 02 R38), the fetch and the beginning of a clause (02
R30, R31, R37, R41; 05 R114) and the filling of the instruction cache (15 R329).
-/

namespace Sys2Proof.Machine

/-! ### Waits that end (05 R113) -/

/-- Satisfied waits of a cohort end: their instructions are to issue again. -/
def State.wake (s : State) (c : Cohort) : Cohort :=
  let cr := s.crewOf c
  let fin := fun (t : Thread) => match t.st with
    | .waiting w => (!c.tmode || t.inH) && s.satisfied c t.tid w
    | _ => false
  if cr.out.isSome || cr.torn then c
  else if c.threads.any fin then (c.mapT fin fun t => { t with st := .eligible }).settle else c

/-- The cohorts of a port. -/
def State.portCohorts (s : State) (core sub port : Nat) : List Cohort :=
  (s.residents core sub).filter fun c => c.port == port

/-! ### The next clause -/

/-- The lowest PC among the threads that may be chosen (05 R114). -/
def Cohort.lowPc (c : Cohort) : Option Nat :=
  match (c.threads.filter c.elig).map (·.pc.toNat) with
  | [] => none
  | l => some (leastD 0 l)

/-- May the oldest report be delivered at the boundary where the cohort stands (09 R200)? -/
def Cohort.reportDue (c : Cohort) : Bool := !c.reports.isEmpty && !c.tmode && c.boundarySet != []

/-- Is the cohort kept from issuing: its crew away, torn down or committing, or the cohort parked? A cohort with one group parked for
XLATE, FEATURE or speculation issues nothing (notes/assumptions/20.md). -/
def State.keptBack (s : State) (c : Cohort) : Bool :=
  let cr := s.crewOf c
  cr.out.isSome || cr.torn || cr.committing || c.drainPark.isSome || c.xpark.isSome || c.emul.isSome ||
    c.threads.any fun t => decide (t.st = .parked .spec)

/-- Header address of the clause at a PC: the PC itself, or the header below it when it lies mid-clause (05 R114). -/
def State.headerOf (s : State) (cr : Crew) (pc : Nat) : Nat :=
  if s.isHeader cr pc then pc else (s.clauseOf cr pc).getD pc

/-- The addresses that the issue at a PC needs: the PC, then the header and the words of its clause. -/
def State.fetchAddrs (s : State) (cr : Crew) (pc : Nat) : List Nat :=
  let h := s.headerOf cr pc
  let n := match s.iword cr h with
    | some w => hCount w
    | none => 0
  pc :: (upto (n + 1)).map fun k => h + 4 * k

/-- The first of them whose line is not cached. -/
def State.missing (s : State) (cr : Crew) (pc : Nat) : Option Nat :=
  (s.fetchAddrs cr pc).find? fun a => (s.iline cr.core cr.jd.job (a / 64)).isNone

/-- Is the next clause's WAIT clear? It is not looked at mid-clause, nor known before the header's line is there. -/
def State.waitsClear (s : State) (c : Cohort) (pc : Nat) : Bool :=
  let cr := s.crewOf c
  if s.headerOf cr pc ≠ pc then true
  else match s.iword cr pc with
    | some w => c.waitClear (hWait w)
    | none => true

/-- Is a cohort ready for the arbiter (15 R328)? -/
def State.ready (s : State) (c : Cohort) : Bool :=
  !(s.keptBack c) && (c.reportDue || match c.lowPc with
    | some pc => s.waitsClear c pc
    | none => false)

/-- The priority of a cohort's launch. -/
def State.prioOf (s : State) (c : Cohort) : Nat := ((s.launch (s.crewOf c).launch).map (·.lrec.prio)).getD 3

/-- Is cohort `a` chosen before `b`: priority, least recent run, place (01 R26, 15 R328)? -/
def State.before (s : State) (a b : Cohort) : Bool :=
  let k := fun (c : Cohort) => (s.prioOf c * 2 ^ 128 + c.lastRun) * 16 + c.place
  decide (k a < k b)

/-- The arbiter's choice among cohorts. -/
def State.choose (s : State) : List Cohort → Option Cohort
  | [] => none
  | c :: cs =>
    match s.choose cs with
    | none => some c
    | some d => if s.before d c then some d else some c

/-- RUN_START: a port that no run holds and no missing line freezes is granted to the chosen ready cohort (15 R328, R329). -/
def runStart (core sub port : Nat) (s : State) : State :=
  let k := portIx core sub port
  if Tab.read 0 s.running k ≠ 0 ∨ (Tab.read none s.frozen k).isSome ∨ (s.core core).phase ≠ .running ∨ !(s.core core).released ∨ 4 ≤ sub ∨ 2 ≤ port then s
  else
    let s := (s.portCohorts core sub port).foldl (fun (s : State) c => s.setCohort (s.wake c)) s
    match s.choose ((s.portCohorts core sub port).filter s.ready) with
    | none => s
    | some c =>
      ({ s with running := Tab.put 0 s.running k c.key, fresh := s.fresh + 1 } : State).onCohort c.key fun c =>
        { c with run := 0, chain := true, lastRun := s.fresh }

/-- The run ends: the port goes back to the arbiter. -/
def State.endRun (s : State) (k key : Nat) : State :=
  ({ s with running := Tab.put 0 s.running k 0 } : State).onCohort key fun c => { c with run := 0, chain := false }

/-- A fault found by the fetch of a clause, delivered to the threads that would have issued it. -/
def State.fetchFault (s : State) (c : Cohort) (pc at_ code detail info : Nat) : State :=
  let who := fun (t : Thread) => c.elig t && t.pc.toNat == pc
  s.takeFault c.key who at_ at_ ((c.threads.filter who).map fun t => ⟨t.tid, code, detail, info, 0⟩)

/-- The clause at a PC begins for the threads that stand there: the checks of 02 R31 at a header, then WAIT and the length of
the run; the idle clk of a chained clause are interlock cycles (02 R39). -/
def State.beginClause (s : State) (k : Nat) (c : Cohort) (cr : Crew) (pc : Nat) : State :=
  let h := s.headerOf cr pc
  let w := (s.iword cr h).getD 0
  let words := (upto (hCount w)).map fun j => (s.iword cr (h + 4 * (j + 1))).getD 0
  match (s.fetchAddrs cr pc).find? fun a => s.iwordBad cr a with
  | some a => s.fetchFault c pc a 12 0 a
  | none =>
    match if h = pc then clauseFault w words else none with
    | some n => s.fetchFault c pc h 2 0 n
    | none =>
      if (h = pc ∧ !(c.waitClear (hWait w))) ∨ (c.run ≠ 0 ∧ (!c.chain ∨ 24 < c.run + hCount w)) then s.endRun k c.key
      else
        let s := if c.run = 0 ∨ h ≠ pc then s else s.countPm cr.core c.sub 3 (hStall w)
        s.onCohort c.key fun c =>
          let who := fun (t : Thread) => c.elig t && t.pc.toNat == pc
          let c := c.mapT who fun t => { t with act := true, skipLabel := none, pc := if h = pc then BitVec.ofNat 64 (h + 4) else t.pc }
          { c with clause := some { hdr := h, word := w, words := words }, run := c.run + hCount w }

/-- Threads at a safe point's LABEL park there for a migration (13 R291). -/
def State.parkSafe (s : State) (c : Cohort) (cr : Crew) (pc : Nat) : Option State :=
  let who := fun (t : Thread) => c.elig t && t.pc.toNat == pc && t.skipLabel != some pc
  let asked := match cr.mig with
    | .requested _ => true
    | _ => false
  if asked && !cr.spec && ((s.safePts cr).any fun e => e.label == pc) && c.threads.any who then
    some ((s.endWaits c.key ((c.threads.filter who).map (·.tid))).onCohort c.key fun c =>
      (c.mapT who fun t => { t with st := .parked .safePoint }).settle)
  else none

/-- CLAUSE_ISSUE: at a boundary of the cohort that holds a port: a report is delivered, or the threads at the lowest PC begin
their clause; a missing line freezes the sequencer. -/
def clauseIssue (core sub port : Nat) (s : State) : State :=
  let k := portIx core sub port
  match s.cohort (Tab.read 0 s.running k) with
  | none => s
  | some c0 =>
    if c0.clause.isSome || (Tab.read none s.frozen k).isSome then s
    else
      let c := s.wake c0.settle
      let s := s.setCohort c
      let cr := s.crewOf c
      if (s.core core).phase ≠ .running ∨ s.keptBack c then s.endRun k c.key
      else if c.reportDue then
        let set := c.boundarySet
        (s.deliverReport c.key fun t => set.contains t.tid).endRun k c.key
      else match c.lowPc with
        | none => s.endRun k c.key
        | some pc =>
          match s.parkSafe c cr pc with
          | some s => s.endRun k c.key
          | none =>
            match s.missing cr pc with
            | some a =>
              let slip := fun (x : CoreSt) => { x with slip := Tab.put 0 x.slip sub ((Tab.read 0 x.slip sub + 1) % 2 ^ 32) }
              { (s.onCore core slip).countPm core sub 4 1 with frozen := Tab.put none s.frozen k (some (pc, a)) }
            | none => s.beginClause k c cr pc

/-- ICACHE_FILL: the line that the fetch missed arrives and the sequencer unfreezes; a fetch that fails is delivered with %tpc the
fetched word (09 R193). It needs a miss slot (10 R227), and a request of it that is NACKed keeps the sequencer frozen (10 R230). -/
def icacheFill (core sub port : Nat) (s : State) : State :=
  let k := portIx core sub port
  match Tab.read none s.frozen k with
  | none => s
  | some (pc, a) =>
    let thawed : State := { s with frozen := Tab.put none s.frozen k none }
    match s.cohort (Tab.read 0 s.running k) with
    | none => thawed
    | some c =>
      let cr := s.crewOf c
      let pages := s.fetchPages cr (a / 64)
      if s.missHeld cr.core cr.jd pages then s.startWalks cr.core cr.jd pages
      else s.atHomes cr.core (.fetch, c.key) (s.fetchHomes cr (a / 64)) fun s =>
        let s : State := { s with frozen := Tab.put none s.frozen k none }
        match s.ifill cr (a / 64) with
        | .ok s => s
        | .error e => s.fetchFault c pc a e.1 (if e.1 = 12 then 0 else 4) a

/-- RUN_START (R328): A port's arbiter grants the port to a ready cohort for one run. -/
def execRunStart (core sub port : Nat) (s : State) : Out :=
  .next (runStart core sub port s)

/-- CLAUSE_ISSUE (R114): At a clause boundary the sequencer picks the minimum-PC active set and begins the clause. -/
def execClauseIssue (core sub port : Nat) (s : State) : Out :=
  .next (clauseIssue core sub port s)

/-- ICACHE_FILL (R329): A missing instruction line and its clause-map bits arrive and unfreeze the sequencer. -/
def execIcacheFill (core sub port : Nat) (s : State) : Out :=
  .next (icacheFill core sub port s)

end Sys2Proof.Machine
end

