-- ==== Sys2Proof/Machine/VectorInt.lean ====
section
/-!
DEFINITION. Sys2Proof/Machine/VectorInt.lean: the vector integer groups VALU, VALU2, VALUI, VSHI, VCMP (05 R107-R111).
-/

namespace Sys2Proof.Machine

/-- D := f(A, B) in the acting lanes (05 R107). -/
def valu (i : Info) (d a : Nat) (b : VSrc) (s : State) (f : Word → Word → Word) : Out :=
  vectorOp i d s fun c t => f (t.vr a) (b.val c t)

/-- D := f(A, B, D) in the acting lanes. -/
def valu3 (i : Info) (d a : Nat) (b : VSrc) (s : State) (f : Word → Word → Word → Word) : Out :=
  vectorOp i d s fun c t => f (t.vr a) (b.val c t) (t.vr d)

/-- D := f(A) in the acting lanes. -/
def valu1 (i : Info) (d a : Nat) (s : State) (f : Word → Word) : Out := vectorOp i d s fun _ t => f (t.vr a)

/-- VCMP: pD of each acting lane := A cc B (05 R111). -/
def vcmp (i : Info) (cc : Cond) (d a : Nat) (b : VSrc) (s : State) : Out :=
  predOp i d s fun c t => cc.holds (t.vr a) (b.val c t)

/-- The shift count B[5:0]: 32 and more shift every bit out (05 R108). -/
def cnt5 (b : Word) : Nat := b.toNat % 64

/-- sat of a sum or difference to 32 bits, signed (05 R109). -/
def sat32 (x : Int) : Word := BitVec.ofInt 32 (satInt x (-2147483648) 2147483647)

/-- Leading zero bits, 32 for 0. -/
def clz (x : Word) : Nat := if x = 0 then 32 else 31 - Nat.log2 x.toNat

/-- One bits among the low `n` bits. -/
def popc (x : Nat) : Nat → Nat
  | 0 => 0
  | n + 1 => (bit x n).toNat + popc x n

/-- vbfe: A[e-1:p] zero-extended, e = min(p + n, 32) (05 R109). -/
def bfe (a b : Word) : Word :=
  let p := b.toNat % 256
  let n := b.toNat / 256 % 256
  if n = 0 ∨ 32 ≤ p then 0 else BitVec.ofNat 32 (a.toNat / 2 ^ p % 2 ^ (min (p + n) 32 - p))

/-- vbfi: D with D[e-1:p] replaced from A (05 R109). -/
def bfi (a b d : Word) : Word :=
  let p := b.toNat % 256
  let n := b.toNat / 256 % 256
  if n = 0 ∨ 32 ≤ p then d
  else
    let k := min (p + n) 32 - p
    BitVec.ofNat 32 (d.toNat / 2 ^ (p + k) * 2 ^ (p + k) + a.toNat % 2 ^ k * 2 ^ p + d.toNat % 2 ^ p)

/-- vdp4: D + the signed byte products (05 R109). -/
def dp4 (a b d : Word) : Word :=
  BitVec.ofInt 32 (d.toInt + ((upto 4).map fun k => sextNat 8 (a.toNat / 256 ^ k) * sextNat 8 (b.toNat / 256 ^ k)).sum)

/-- VADD (R108): Per-lane 32-bit add. -/
def execVadd (d a : Nat) (b : VSrc) (g : Nat) (s : State) : Out :=
  valu (infoVal 5 0 d a b g) d a b s fun x y => x + y

/-- VSUB (R108): Per-lane subtract. -/
def execVsub (d a : Nat) (b : VSrc) (g : Nat) (s : State) : Out :=
  valu (infoVal 5 1 d a b g) d a b s fun x y => x - y

/-- VMUL (R108): Per-lane multiply, low 32 bits. -/
def execVmul (d a : Nat) (b : VSrc) (g : Nat) (s : State) : Out :=
  valu (infoVal 5 2 d a b g) d a b s fun x y => x * y

/-- VMULH (R108): Per-lane signed multiply, high 32 bits. -/
def execVmulh (d a : Nat) (b : VSrc) (g : Nat) (s : State) : Out :=
  valu (infoVal 5 3 d a b g) d a b s fun x y => BitVec.ofInt 32 (x.toInt * y.toInt / 2 ^ 32)

/-- VMULHN (R108): Per-lane unsigned multiply, high 32 bits. -/
def execVmulhn (d a : Nat) (b : VSrc) (g : Nat) (s : State) : Out :=
  valu (infoVal 5 4 d a b g) d a b s fun x y => BitVec.ofNat 32 (x.toNat * y.toNat / 2 ^ 32)

/-- VAND (R108): Per-lane AND. -/
def execVand (d a : Nat) (b : VSrc) (g : Nat) (s : State) : Out :=
  valu (infoVal 5 5 d a b g) d a b s fun x y => x &&& y

/-- VOR (R108): Per-lane OR. -/
def execVor (d a : Nat) (b : VSrc) (g : Nat) (s : State) : Out :=
  valu (infoVal 5 6 d a b g) d a b s fun x y => x ||| y

/-- VXOR (R108): Per-lane XOR. -/
def execVxor (d a : Nat) (b : VSrc) (g : Nat) (s : State) : Out :=
  valu (infoVal 5 7 d a b g) d a b s fun x y => x ^^^ y

/-- VSHL (R108): Per-lane shift left. -/
def execVshl (d a : Nat) (b : VSrc) (g : Nat) (s : State) : Out :=
  valu (infoVal 5 8 d a b g) d a b s fun x y => x <<< cnt5 y

/-- VSHR (R108): Per-lane logical shift right. -/
def execVshr (d a : Nat) (b : VSrc) (g : Nat) (s : State) : Out :=
  valu (infoVal 5 9 d a b g) d a b s fun x y => x >>> cnt5 y

/-- VSRA (R108): Per-lane arithmetic shift right. -/
def execVsra (d a : Nat) (b : VSrc) (g : Nat) (s : State) : Out :=
  valu (infoVal 5 10 d a b g) d a b s fun x y => x.sshiftRight (cnt5 y)

/-- VMIN (R108): Per-lane signed minimum. -/
def execVmin (d a : Nat) (b : VSrc) (g : Nat) (s : State) : Out :=
  valu (infoVal 5 11 d a b g) d a b s fun x y => if x.sle y then x else y

/-- VMAX (R108): Per-lane signed maximum. -/
def execVmax (d a : Nat) (b : VSrc) (g : Nat) (s : State) : Out :=
  valu (infoVal 5 12 d a b g) d a b s fun x y => if x.sle y then y else x

/-- VMINN (R108): Per-lane unsigned minimum. -/
def execVminn (d a : Nat) (b : VSrc) (g : Nat) (s : State) : Out :=
  valu (infoVal 5 13 d a b g) d a b s fun x y => if x.ule y then x else y

/-- VMAXN (R108): Per-lane unsigned maximum. -/
def execVmaxn (d a : Nat) (b : VSrc) (g : Nat) (s : State) : Out :=
  valu (infoVal 5 14 d a b g) d a b s fun x y => if x.ule y then y else x

/-- VMOV (R108): Per-lane move of B. -/
def execVmov (d : Nat) (b : VSrc) (g : Nat) (s : State) : Out :=
  vectorOp (infoVmov 5 15 d b g) d s fun c t => b.val c t

/-- VABS (R109): Per-lane signed absolute value. -/
def execVabs (d a g : Nat) (s : State) : Out :=
  valu1 (infoVun 6 0 d a g) d a s fun x => if x.msb then 0 - x else x

/-- VNEG (R109): Per-lane negate. -/
def execVneg (d a g : Nat) (s : State) : Out :=
  valu1 (infoVun 6 1 d a g) d a s fun x => 0 - x

/-- VCLZ (R109): Per-lane count leading zeros. -/
def execVclz (d a g : Nat) (s : State) : Out :=
  valu1 (infoVun 6 2 d a g) d a s fun x => BitVec.ofNat 32 (clz x)

/-- VPOPC (R109): Per-lane population count. -/
def execVpopc (d a g : Nat) (s : State) : Out :=
  valu1 (infoVun 6 3 d a g) d a s fun x => BitVec.ofNat 32 (popc x.toNat 32)

/-- VBREV (R109): Per-lane bit reverse. -/
def execVbrev (d a g : Nat) (s : State) : Out :=
  valu1 (infoVun 6 4 d a g) d a s fun x => x.reverse

/-- VADDSAT (R109): Per-lane saturating signed add. -/
def execVaddsat (d a : Nat) (b : VSrc) (g : Nat) (s : State) : Out :=
  valu (infoVal 6 5 d a b g) d a b s fun x y => sat32 (x.toInt + y.toInt)

/-- VSUBSAT (R109): Per-lane saturating signed subtract. -/
def execVsubsat (d a : Nat) (b : VSrc) (g : Nat) (s : State) : Out :=
  valu (infoVal 6 6 d a b g) d a b s fun x y => sat32 (x.toInt - y.toInt)

/-- VMAD (R109): Per-lane multiply-add into D. -/
def execVmad (d a : Nat) (b : VSrc) (g : Nat) (s : State) : Out :=
  valu3 (infoValD 6 7 d a b g) d a b s fun x y z => z + x * y

/-- VSEL (R109): Per-lane select of A or B by the G predicate. -/
def execVsel (d a : Nat) (b : VSrc) (g : Nat) (s : State) : Out :=
  perLane { infoVal 6 8 d a b g with g := 7, ps := [g] } s fun c t => t.setV d (if t.pr g then t.vr a else b.val c t)

/-- VSEXT8 (R109): Per-lane sign extension of the low byte. -/
def execVsext8 (d a g : Nat) (s : State) : Out :=
  valu1 (infoVun 6 9 d a g) d a s fun x => (x.truncate 8).signExtend 32

/-- VSEXT16 (R109): Per-lane sign extension of the low half. -/
def execVsext16 (d a g : Nat) (s : State) : Out :=
  valu1 (infoVun 6 10 d a g) d a s fun x => (x.truncate 16).signExtend 32

/-- VZEXT8 (R109): Per-lane zero extension of the low byte. -/
def execVzext8 (d a g : Nat) (s : State) : Out :=
  valu1 (infoVun 6 11 d a g) d a s fun x => (x.truncate 8).zeroExtend 32

/-- VZEXT16 (R109): Per-lane zero extension of the low half. -/
def execVzext16 (d a g : Nat) (s : State) : Out :=
  valu1 (infoVun 6 12 d a g) d a s fun x => (x.truncate 16).zeroExtend 32

/-- VBFE (R109): Per-lane bit-field extract. -/
def execVbfe (d a : Nat) (b : VSrc) (g : Nat) (s : State) : Out :=
  valu (infoVal 6 13 d a b g) d a b s fun x y => bfe x y

/-- VBFI (R109): Per-lane bit-field insert into D. -/
def execVbfi (d a : Nat) (b : VSrc) (g : Nat) (s : State) : Out :=
  valu3 (infoValD 6 14 d a b g) d a b s fun x y z => bfi x y z

/-- VDP4 (R109): Per-lane signed 4-byte dot product added to D. -/
def execVdp4 (d a : Nat) (b : VSrc) (g : Nat) (s : State) : Out :=
  valu3 (infoValD 6 15 d a b g) d a b s fun x y z => dp4 x y z

/-- VADDI (R110): Per-lane add of immediate. -/
def execVaddi (d a : Nat) (imm : BitVec 12) (s : State) : Out :=
  valu1 (infoVali 7 0 d a imm) d a s fun x => x + imm.signExtend 32

/-- VANDI (R110): Per-lane AND with immediate. -/
def execVandi (d a : Nat) (imm : BitVec 12) (s : State) : Out :=
  valu1 (infoVali 7 1 d a imm) d a s fun x => x &&& imm.signExtend 32

/-- VORI (R110): Per-lane OR with immediate. -/
def execVori (d a : Nat) (imm : BitVec 12) (s : State) : Out :=
  valu1 (infoVali 7 2 d a imm) d a s fun x => x ||| imm.signExtend 32

/-- VXORI (R110): Per-lane XOR with immediate. -/
def execVxori (d a : Nat) (imm : BitVec 12) (s : State) : Out :=
  valu1 (infoVali 7 3 d a imm) d a s fun x => x ^^^ imm.signExtend 32

/-- VSHLI (R110): Per-lane shift left by immediate. -/
def execVshli (d a c : Nat) (s : State) : Out :=
  valu1 (infoVshi 8 0 d a c) d a s fun x => x <<< c

/-- VSHRI (R110): Per-lane logical shift right by immediate. -/
def execVshri (d a c : Nat) (s : State) : Out :=
  valu1 (infoVshi 8 1 d a c) d a s fun x => x >>> c

/-- VSRAI (R110): Per-lane arithmetic shift right by immediate. -/
def execVsrai (d a c : Nat) (s : State) : Out :=
  valu1 (infoVshi 8 2 d a c) d a s fun x => x.sshiftRight c

/-- VMOVI (R110): Per-lane move of sign-extended immediate. -/
def execVmovi (d : Nat) (imm : BitVec 12) (s : State) : Out :=
  vectorOp (infoVmovi 8 3 d imm) d s fun _ _ => imm.signExtend 32

/-- VCMP_EQ (R111): Per-lane compare equal into predicate. -/
def execVcmpEq (d a : Nat) (b : VSrc) (g : Nat) (s : State) : Out :=
  vcmp (infoVcmp 9 0 d a b g) .eq d a b s

/-- VCMP_NE (R111): Per-lane compare not equal. -/
def execVcmpNe (d a : Nat) (b : VSrc) (g : Nat) (s : State) : Out :=
  vcmp (infoVcmp 9 1 d a b g) .ne d a b s

/-- VCMP_LT (R111): Per-lane compare signed less. -/
def execVcmpLt (d a : Nat) (b : VSrc) (g : Nat) (s : State) : Out :=
  vcmp (infoVcmp 9 2 d a b g) .lt d a b s

/-- VCMP_LE (R111): Per-lane compare signed less or equal. -/
def execVcmpLe (d a : Nat) (b : VSrc) (g : Nat) (s : State) : Out :=
  vcmp (infoVcmp 9 3 d a b g) .le d a b s

/-- VCMP_GT (R111): Per-lane compare signed greater. -/
def execVcmpGt (d a : Nat) (b : VSrc) (g : Nat) (s : State) : Out :=
  vcmp (infoVcmp 9 4 d a b g) .gt d a b s

/-- VCMP_GE (R111): Per-lane compare signed greater or equal. -/
def execVcmpGe (d a : Nat) (b : VSrc) (g : Nat) (s : State) : Out :=
  vcmp (infoVcmp 9 5 d a b g) .ge d a b s

/-- VCMP_LTN (R111): Per-lane compare unsigned less. -/
def execVcmpLtn (d a : Nat) (b : VSrc) (g : Nat) (s : State) : Out :=
  vcmp (infoVcmp 9 6 d a b g) .ltn d a b s

/-- VCMP_LEN (R111): Per-lane compare unsigned less or equal. -/
def execVcmpLen (d a : Nat) (b : VSrc) (g : Nat) (s : State) : Out :=
  vcmp (infoVcmp 9 7 d a b g) .len d a b s

/-- VCMP_GTN (R111): Per-lane compare unsigned greater. -/
def execVcmpGtn (d a : Nat) (b : VSrc) (g : Nat) (s : State) : Out :=
  vcmp (infoVcmp 9 8 d a b g) .gtn d a b s

/-- VCMP_GEN (R111): Per-lane compare unsigned greater or equal. -/
def execVcmpGen (d a : Nat) (b : VSrc) (g : Nat) (s : State) : Out :=
  vcmp (infoVcmp 9 9 d a b g) .gen d a b s

end Sys2Proof.Machine
end

