-- ==== Sys2Proof/Machine/Dispatch.lean ====
section
/-!
DEFINITION. Sys2Proof/Machine/Dispatch.lean: the meaning of every instruction and event, one arm per constructor.
-/

namespace Sys2Proof.Machine

/-- The step of one instruction or event. -/
def exec (i : Instr) (s : State) : Host.Outcome State Fault Refusal :=
  match i with
  | .sadd d a b g => Sys2Proof.Machine.execSadd d a b g s
  | .ssub d a b g => Sys2Proof.Machine.execSsub d a b g s
  | .smul d a b g => Sys2Proof.Machine.execSmul d a b g s
  | .smulh d a b g => Sys2Proof.Machine.execSmulh d a b g s
  | .smulhn d a b g => Sys2Proof.Machine.execSmulhn d a b g s
  | .sand d a b g => Sys2Proof.Machine.execSand d a b g s
  | .sor d a b g => Sys2Proof.Machine.execSor d a b g s
  | .sxor d a b g => Sys2Proof.Machine.execSxor d a b g s
  | .sshl d a b g => Sys2Proof.Machine.execSshl d a b g s
  | .sshr d a b g => Sys2Proof.Machine.execSshr d a b g s
  | .ssra d a b g => Sys2Proof.Machine.execSsra d a b g s
  | .smin d a b g => Sys2Proof.Machine.execSmin d a b g s
  | .smax d a b g => Sys2Proof.Machine.execSmax d a b g s
  | .sminn d a b g => Sys2Proof.Machine.execSminn d a b g s
  | .smaxn d a b g => Sys2Proof.Machine.execSmaxn d a b g s
  | .smov d b g => Sys2Proof.Machine.execSmov d b g s
  | .saddi d a imm => Sys2Proof.Machine.execSaddi d a imm s
  | .sandi d a imm => Sys2Proof.Machine.execSandi d a imm s
  | .sori d a imm => Sys2Proof.Machine.execSori d a imm s
  | .sxori d a imm => Sys2Proof.Machine.execSxori d a imm s
  | .sshli d a c => Sys2Proof.Machine.execSshli d a c s
  | .sshri d a c => Sys2Proof.Machine.execSshri d a c s
  | .ssrai d a c => Sys2Proof.Machine.execSsrai d a c s
  | .slui d imm => Sys2Proof.Machine.execSlui d imm s
  | .scmpEq d a b g => Sys2Proof.Machine.execScmpEq d a b g s
  | .scmpNe d a b g => Sys2Proof.Machine.execScmpNe d a b g s
  | .scmpLt d a b g => Sys2Proof.Machine.execScmpLt d a b g s
  | .scmpLe d a b g => Sys2Proof.Machine.execScmpLe d a b g s
  | .scmpGt d a b g => Sys2Proof.Machine.execScmpGt d a b g s
  | .scmpGe d a b g => Sys2Proof.Machine.execScmpGe d a b g s
  | .scmpLtn d a b g => Sys2Proof.Machine.execScmpLtn d a b g s
  | .scmpLen d a b g => Sys2Proof.Machine.execScmpLen d a b g s
  | .scmpGtn d a b g => Sys2Proof.Machine.execScmpGtn d a b g s
  | .scmpGen d a b g => Sys2Proof.Machine.execScmpGen d a b g s
  | .vadd d a b g => Sys2Proof.Machine.execVadd d a b g s
  | .vsub d a b g => Sys2Proof.Machine.execVsub d a b g s
  | .vmul d a b g => Sys2Proof.Machine.execVmul d a b g s
  | .vmulh d a b g => Sys2Proof.Machine.execVmulh d a b g s
  | .vmulhn d a b g => Sys2Proof.Machine.execVmulhn d a b g s
  | .vand d a b g => Sys2Proof.Machine.execVand d a b g s
  | .vor d a b g => Sys2Proof.Machine.execVor d a b g s
  | .vxor d a b g => Sys2Proof.Machine.execVxor d a b g s
  | .vshl d a b g => Sys2Proof.Machine.execVshl d a b g s
  | .vshr d a b g => Sys2Proof.Machine.execVshr d a b g s
  | .vsra d a b g => Sys2Proof.Machine.execVsra d a b g s
  | .vmin d a b g => Sys2Proof.Machine.execVmin d a b g s
  | .vmax d a b g => Sys2Proof.Machine.execVmax d a b g s
  | .vminn d a b g => Sys2Proof.Machine.execVminn d a b g s
  | .vmaxn d a b g => Sys2Proof.Machine.execVmaxn d a b g s
  | .vmov d b g => Sys2Proof.Machine.execVmov d b g s
  | .vabs d a g => Sys2Proof.Machine.execVabs d a g s
  | .vneg d a g => Sys2Proof.Machine.execVneg d a g s
  | .vclz d a g => Sys2Proof.Machine.execVclz d a g s
  | .vpopc d a g => Sys2Proof.Machine.execVpopc d a g s
  | .vbrev d a g => Sys2Proof.Machine.execVbrev d a g s
  | .vaddsat d a b g => Sys2Proof.Machine.execVaddsat d a b g s
  | .vsubsat d a b g => Sys2Proof.Machine.execVsubsat d a b g s
  | .vmad d a b g => Sys2Proof.Machine.execVmad d a b g s
  | .vsel d a b g => Sys2Proof.Machine.execVsel d a b g s
  | .vsext8 d a g => Sys2Proof.Machine.execVsext8 d a g s
  | .vsext16 d a g => Sys2Proof.Machine.execVsext16 d a g s
  | .vzext8 d a g => Sys2Proof.Machine.execVzext8 d a g s
  | .vzext16 d a g => Sys2Proof.Machine.execVzext16 d a g s
  | .vbfe d a b g => Sys2Proof.Machine.execVbfe d a b g s
  | .vbfi d a b g => Sys2Proof.Machine.execVbfi d a b g s
  | .vdp4 d a b g => Sys2Proof.Machine.execVdp4 d a b g s
  | .vaddi d a imm => Sys2Proof.Machine.execVaddi d a imm s
  | .vandi d a imm => Sys2Proof.Machine.execVandi d a imm s
  | .vori d a imm => Sys2Proof.Machine.execVori d a imm s
  | .vxori d a imm => Sys2Proof.Machine.execVxori d a imm s
  | .vshli d a c => Sys2Proof.Machine.execVshli d a c s
  | .vshri d a c => Sys2Proof.Machine.execVshri d a c s
  | .vsrai d a c => Sys2Proof.Machine.execVsrai d a c s
  | .vmovi d imm => Sys2Proof.Machine.execVmovi d imm s
  | .vcmpEq d a b g => Sys2Proof.Machine.execVcmpEq d a b g s
  | .vcmpNe d a b g => Sys2Proof.Machine.execVcmpNe d a b g s
  | .vcmpLt d a b g => Sys2Proof.Machine.execVcmpLt d a b g s
  | .vcmpLe d a b g => Sys2Proof.Machine.execVcmpLe d a b g s
  | .vcmpGt d a b g => Sys2Proof.Machine.execVcmpGt d a b g s
  | .vcmpGe d a b g => Sys2Proof.Machine.execVcmpGe d a b g s
  | .vcmpLtn d a b g => Sys2Proof.Machine.execVcmpLtn d a b g s
  | .vcmpLen d a b g => Sys2Proof.Machine.execVcmpLen d a b g s
  | .vcmpGtn d a b g => Sys2Proof.Machine.execVcmpGtn d a b g s
  | .vcmpGen d a b g => Sys2Proof.Machine.execVcmpGen d a b g s
  | .pand d a b g => Sys2Proof.Machine.execPand d a b g s
  | .por d a b g => Sys2Proof.Machine.execPor d a b g s
  | .pxor d a b g => Sys2Proof.Machine.execPxor d a b g s
  | .pandn d a b g => Sys2Proof.Machine.execPandn d a b g s
  | .pnot d a g => Sys2Proof.Machine.execPnot d a g s
  | .pmov d a g => Sys2Proof.Machine.execPmov d a g s
  | .br g n off => Sys2Proof.Machine.execBr g n off s
  | .call g n off => Sys2Proof.Machine.execCall g n off s
  | .meet g n off => Sys2Proof.Machine.execMeet g n off s
  | .ret g => Sys2Proof.Machine.execRet g s
  | .exit g => Sys2Proof.Machine.execExit g s
  | .yield g => Sys2Proof.Machine.execYield g s
  | .brx a g => Sys2Proof.Machine.execBrx a g s
  | .callx a g => Sys2Proof.Machine.execCallx a g s
  | .mrget d g => Sys2Proof.Machine.execMrget d g s
  | .mrset a g => Sys2Proof.Machine.execMrset a g s
  | .nop => Sys2Proof.Machine.execNop s
  | .csign cv => Sys2Proof.Machine.execCsign cv s
  | .trap n g => Sys2Proof.Machine.execTrap n g s
  | .tret => Sys2Proof.Machine.execTret s
  | .tretSkip => Sys2Proof.Machine.execTretSkip s
  | .wreq d a => Sys2Proof.Machine.execWreq d a s
  | .rdsp d sc x g => Sys2Proof.Machine.execRdsp d sc x g s
  | .wrsp x a g => Sys2Proof.Machine.execWrsp x a g s
  | .fadd d a b g => Sys2Proof.Machine.execFadd d a b g s
  | .fsub d a b g => Sys2Proof.Machine.execFsub d a b g s
  | .fmul d a b g => Sys2Proof.Machine.execFmul d a b g s
  | .ffma d a b g => Sys2Proof.Machine.execFfma d a b g s
  | .ffms d a b g => Sys2Proof.Machine.execFfms d a b g s
  | .fmin d a b g => Sys2Proof.Machine.execFmin d a b g s
  | .fmax d a b g => Sys2Proof.Machine.execFmax d a b g s
  | .fminnm d a b g => Sys2Proof.Machine.execFminnm d a b g s
  | .fmaxnm d a b g => Sys2Proof.Machine.execFmaxnm d a b g s
  | .fabs d a g => Sys2Proof.Machine.execFabs d a g s
  | .fneg d a g => Sys2Proof.Machine.execFneg d a g s
  | .fcpsgn d a b g => Sys2Proof.Machine.execFcpsgn d a b g s
  | .frndn d a g => Sys2Proof.Machine.execFrndn d a g s
  | .frndz d a g => Sys2Proof.Machine.execFrndz d a g s
  | .frndd d a g => Sys2Proof.Machine.execFrndd d a g s
  | .frndu d a g => Sys2Proof.Machine.execFrndu d a g s
  | .hadd d a b g => Sys2Proof.Machine.execHadd d a b g s
  | .hsub d a b g => Sys2Proof.Machine.execHsub d a b g s
  | .hmul d a b g => Sys2Proof.Machine.execHmul d a b g s
  | .hfma d a b g => Sys2Proof.Machine.execHfma d a b g s
  | .hmin d a b g => Sys2Proof.Machine.execHmin d a b g s
  | .hmax d a b g => Sys2Proof.Machine.execHmax d a b g s
  | .habs d a g => Sys2Proof.Machine.execHabs d a g s
  | .hneg d a g => Sys2Proof.Machine.execHneg d a g s
  | .badd d a b g => Sys2Proof.Machine.execBadd d a b g s
  | .bsub d a b g => Sys2Proof.Machine.execBsub d a b g s
  | .bmul d a b g => Sys2Proof.Machine.execBmul d a b g s
  | .bfma d a b g => Sys2Proof.Machine.execBfma d a b g s
  | .bmin d a b g => Sys2Proof.Machine.execBmin d a b g s
  | .bmax d a b g => Sys2Proof.Machine.execBmax d a b g s
  | .babs d a g => Sys2Proof.Machine.execBabs d a g s
  | .bneg d a g => Sys2Proof.Machine.execBneg d a g s
  | .faddRd d a b g => Sys2Proof.Machine.execFaddRd d a b g s
  | .faddRu d a b g => Sys2Proof.Machine.execFaddRu d a b g s
  | .fsubRd d a b g => Sys2Proof.Machine.execFsubRd d a b g s
  | .fsubRu d a b g => Sys2Proof.Machine.execFsubRu d a b g s
  | .fmulRd d a b g => Sys2Proof.Machine.execFmulRd d a b g s
  | .fmulRu d a b g => Sys2Proof.Machine.execFmulRu d a b g s
  | .ffmaRd d a b g => Sys2Proof.Machine.execFfmaRd d a b g s
  | .ffmaRu d a b g => Sys2Proof.Machine.execFfmaRu d a b g s
  | .fsqrtRd d a g => Sys2Proof.Machine.execFsqrtRd d a g s
  | .fsqrtRu d a g => Sys2Proof.Machine.execFsqrtRu d a g s
  | .fdivRd d a b g => Sys2Proof.Machine.execFdivRd d a b g s
  | .fdivRu d a b g => Sys2Proof.Machine.execFdivRu d a b g s
  | .feq d a b g => Sys2Proof.Machine.execFeq d a b g s
  | .fne d a b g => Sys2Proof.Machine.execFne d a b g s
  | .flt d a b g => Sys2Proof.Machine.execFlt d a b g s
  | .fle d a b g => Sys2Proof.Machine.execFle d a b g s
  | .fgt d a b g => Sys2Proof.Machine.execFgt d a b g s
  | .fge d a b g => Sys2Proof.Machine.execFge d a b g s
  | .funord d a b g => Sys2Proof.Machine.execFunord d a b g s
  | .ford d a b g => Sys2Proof.Machine.execFord d a b g s
  | .frcp d a g => Sys2Proof.Machine.execFrcp d a g s
  | .frsq d a g => Sys2Proof.Machine.execFrsq d a g s
  | .fsqrt d a g => Sys2Proof.Machine.execFsqrt d a g s
  | .fdiv d a b g => Sys2Proof.Machine.execFdiv d a b g s
  | .fexp2 d a g => Sys2Proof.Machine.execFexp2 d a g s
  | .flog2 d a g => Sys2Proof.Machine.execFlog2 d a g s
  | .fsinpi d a g => Sys2Proof.Machine.execFsinpi d a g s
  | .fcospi d a g => Sys2Proof.Machine.execFcospi d a g s
  | .ftanh d a g => Sys2Proof.Machine.execFtanh d a g s
  | .fsigm d a g => Sys2Proof.Machine.execFsigm d a g s
  | .cvtI32F32 d a g => Sys2Proof.Machine.execCvtI32F32 d a g s
  | .cvtN32F32 d a g => Sys2Proof.Machine.execCvtN32F32 d a g s
  | .cvtF32I32 d a g => Sys2Proof.Machine.execCvtF32I32 d a g s
  | .cvtF32N32 d a g => Sys2Proof.Machine.execCvtF32N32 d a g s
  | .cvtF16F32 d a g => Sys2Proof.Machine.execCvtF16F32 d a g s
  | .cvtF32F16 d a g => Sys2Proof.Machine.execCvtF32F16 d a g s
  | .cvtBf16F32 d a g => Sys2Proof.Machine.execCvtBf16F32 d a g s
  | .cvtF32Bf16 d a g => Sys2Proof.Machine.execCvtF32Bf16 d a g s
  | .cvtE4m3F32 d a g => Sys2Proof.Machine.execCvtE4m3F32 d a g s
  | .cvtF32E4m3 d a g => Sys2Proof.Machine.execCvtF32E4m3 d a g s
  | .cvtE5m2F32 d a g => Sys2Proof.Machine.execCvtE5m2F32 d a g s
  | .cvtF32E5m2 d a g => Sys2Proof.Machine.execCvtF32E5m2 d a g s
  | .cvtE2m1F32 d a g => Sys2Proof.Machine.execCvtE2m1F32 d a g s
  | .cvtF32E2m1 d a g => Sys2Proof.Machine.execCvtF32E2m1 d a g s
  | .pk2Bf16 d a b g => Sys2Proof.Machine.execPk2Bf16 d a b g s
  | .pk2F16 d a b g => Sys2Proof.Machine.execPk2F16 d a b g s
  | .shfl d a b g => Sys2Proof.Machine.execShfl d a b g s
  | .shflup d a b g => Sys2Proof.Machine.execShflup d a b g s
  | .shfldn d a b g => Sys2Proof.Machine.execShfldn d a b g s
  | .shflx d a b g => Sys2Proof.Machine.execShflx d a b g s
  | .bcast d a b g => Sys2Proof.Machine.execBcast d a b g s
  | .vany d a g => Sys2Proof.Machine.execVany d a g s
  | .vall d a g => Sys2Proof.Machine.execVall d a g s
  | .ballot d a g => Sys2Proof.Machine.execBallot d a g s
  | .vpfxc d a g => Sys2Proof.Machine.execVpfxc d a g s
  | .vcomp d a b g => Sys2Proof.Machine.execVcomp d a b g s
  | .vexpd d a b g => Sys2Proof.Machine.execVexpd d a b g s
  | .vmrank d a g => Sys2Proof.Machine.execVmrank d a g s
  | .vmcnt d a g => Sys2Proof.Machine.execVmcnt d a g s
  | .vmlead d a g => Sys2Proof.Machine.execVmlead d a g s
  | .vtopk d a b g => Sys2Proof.Machine.execVtopk d a b g s
  | .vtopka d a b g => Sys2Proof.Machine.execVtopka d a b g s
  | .raddI32 d a g => Sys2Proof.Machine.execRaddI32 d a g s
  | .rminI32 d a g => Sys2Proof.Machine.execRminI32 d a g s
  | .rmaxI32 d a g => Sys2Proof.Machine.execRmaxI32 d a g s
  | .rand d a g => Sys2Proof.Machine.execRand d a g s
  | .ror d a g => Sys2Proof.Machine.execRor d a g s
  | .rxor d a g => Sys2Proof.Machine.execRxor d a g s
  | .raddF32 d a g => Sys2Proof.Machine.execRaddF32 d a g s
  | .raddF32Any d a g => Sys2Proof.Machine.execRaddF32Any d a g s
  | .rminF32 d a g => Sys2Proof.Machine.execRminF32 d a g s
  | .rmaxF32 d a g => Sys2Proof.Machine.execRmaxF32 d a g s
  | .scanI32 d a g => Sys2Proof.Machine.execScanI32 d a g s
  | .scanF32 d a g => Sys2Proof.Machine.execScanF32 d a g s
  | .xscanI32 d a g => Sys2Proof.Machine.execXscanI32 d a g s
  | .rgput a g => Sys2Proof.Machine.execRgput a g s
  | .rgflush g => Sys2Proof.Machine.execRgflush g s
  | .rgqry d g => Sys2Proof.Machine.execRgqry d g s
  | .ldg t a u size ord scope g off => Sys2Proof.Machine.execLdg t a u size ord scope g off s
  | .stg t a u size ord scope g off => Sys2Proof.Machine.execStg t a u size ord scope g off s
  | .lds t a u size ord scope g off => Sys2Proof.Machine.execLds t a u size ord scope g off s
  | .sts t a u size ord scope g off => Sys2Proof.Machine.execSts t a u size ord scope g off s
  | .ldc t a u size ord scope g off => Sys2Proof.Machine.execLdc t a u size ord scope g off s
  | .stc t a u size ord scope g off => Sys2Proof.Machine.execStc t a u size ord scope g off s
  | .ldx t a u size ord scope g off => Sys2Proof.Machine.execLdx t a u size ord scope g off s
  | .stx t a u size ord scope g off => Sys2Proof.Machine.execStx t a u size ord scope g off s
  | .ldp t a u size ord scope g off => Sys2Proof.Machine.execLdp t a u size ord scope g off s
  | .stp t a u size ord scope g off => Sys2Proof.Machine.execStp t a u size ord scope g off s
  | .atg t a u aop w ord scope rt off => Sys2Proof.Machine.execAtg t a u aop w ord scope rt off s
  | .ats t a u aop w ord scope rt off => Sys2Proof.Machine.execAts t a u aop w ord scope rt off s
  | .atc t a u aop w ord scope rt off => Sys2Proof.Machine.execAtc t a u aop w ord scope rt off s
  | .atx t a u aop w ord scope rt off => Sys2Proof.Machine.execAtx t a u aop w ord scope rt off s
  | .fenceAcq sc => Sys2Proof.Machine.execFenceAcq sc s
  | .fenceRel sc => Sys2Proof.Machine.execFenceRel sc s
  | .fenceAr sc => Sys2Proof.Machine.execFenceAr sc s
  | .fenceSc sc => Sys2Proof.Machine.execFenceSc sc s
  | .ackwait => Sys2Proof.Machine.execAckwait s
  | .pf a => Sys2Proof.Machine.execPf a s
  | .pf2 a => Sys2Proof.Machine.execPf2 a s
  | .wbr a b phys => Sys2Proof.Machine.execWbr a b phys s
  | .invr a b l2 phys => Sys2Proof.Machine.execInvr a b l2 phys s
  | .icpf a => Sys2Proof.Machine.execIcpf a s
  | .bpf a => Sys2Proof.Machine.execBpf a s
  | .cpg2s d a b => Sys2Proof.Machine.execCpg2s d a b s
  | .cps2g d a b => Sys2Proof.Machine.execCps2g d a b s
  | .cps2s d a b => Sys2Proof.Machine.execCps2s d a b s
  | .cps2c d a b => Sys2Proof.Machine.execCps2c d a b s
  | .cpc2s d a b => Sys2Proof.Machine.execCpc2s d a b s
  | .tld d a b => Sys2Proof.Machine.execTld d a b s
  | .tst d a b => Sys2Proof.Machine.execTst d a b s
  | .tslot n a b sc => Sys2Proof.Machine.execTslot n a b sc s
  | .cpclose => Sys2Proof.Machine.execCpclose s
  | .waitc n cls => Sys2Proof.Machine.execWaitc n cls s
  | .cpring a => Sys2Proof.Machine.execCpring a s
  | .mma n sa sb fs cv => Sys2Proof.Machine.execMma n sa sb fs cv s
  | .mmaz n sa sb fs cv => Sys2Proof.Machine.execMmaz n sa sb fs cv s
  | .accz n cv => Sys2Proof.Machine.execAccz n cv s
  | .accst n out keep cv xa xb imm => Sys2Proof.Machine.execAccst n out keep cv xa xb imm s
  | .accld n cv xa xb imm => Sys2Proof.Machine.execAccld n cv xa xb imm s
  | .accrd n r cv xa imm => Sys2Proof.Machine.execAccrd n r cv xa imm s
  | .accwr n r cv xa imm => Sys2Proof.Machine.execAccwr n r cv xa imm s
  | .oclaim n cv => Sys2Proof.Machine.execOclaim n cv s
  | .orel n cv => Sys2Proof.Machine.execOrel n cv s
  | .oloadData n cv xa xb imm => Sys2Proof.Machine.execOloadData n cv xa xb imm s
  | .oloadSide n cv xa xb imm => Sys2Proof.Machine.execOloadSide n cv xa xb imm s
  | .oloadBand n cv xa imm => Sys2Proof.Machine.execOloadBand n cv xa imm s
  | .accsclF32 n cv xa => Sys2Proof.Machine.execAccsclF32 n cv xa s
  | .accsclI2f n cv xa => Sys2Proof.Machine.execAccsclI2f n cv xa s
  | .accsclF2i n cv xa => Sys2Proof.Machine.execAccsclF2i n cv xa s
  | .qpush n a g => Sys2Proof.Machine.execQpush n a g s
  | .qpop n a g => Sys2Proof.Machine.execQpop n a g s
  | .qpushn d n a g => Sys2Proof.Machine.execQpushn d n a g s
  | .qpopn d n a g => Sys2Proof.Machine.execQpopn d n a g s
  | .qallow n a g => Sys2Proof.Machine.execQallow n a g s
  | .qlen d n g => Sys2Proof.Machine.execQlen d n g s
  | .chsend n a g => Sys2Proof.Machine.execChsend n a g s
  | .chrecv n a g => Sys2Proof.Machine.execChrecv n a g s
  | .chsendn d n a g => Sys2Proof.Machine.execChsendn d n a g s
  | .chrecvn d n a g => Sys2Proof.Machine.execChrecvn d n a g s
  | .renq d a g => Sys2Proof.Machine.execRenq d a g s
  | .rdeq d a g => Sys2Proof.Machine.execRdeq d a g s
  | .rawait d a g => Sys2Proof.Machine.execRawait d a g s
  | .rrel a g => Sys2Proof.Machine.execRrel a g s
  | .barinit n a g => Sys2Proof.Machine.execBarinit n a g s
  | .bararr d n g => Sys2Proof.Machine.execBararr d n g s
  | .barwait n a g => Sys2Proof.Machine.execBarwait n a g s
  | .barsync n g => Sys2Proof.Machine.execBarsync n g s
  | .jinc a g => Sys2Proof.Machine.execJinc a g s
  | .spawn d a g => Sys2Proof.Machine.execSpawn d a g s
  | .spawnw d a g => Sys2Proof.Machine.execSpawnw d a g s
  | .doneCrew a g => Sys2Proof.Machine.execDoneCrew a g s
  | .cancel a g => Sys2Proof.Machine.execCancel a g s
  | .wflag n g => Sys2Proof.Machine.execWflag n g s
  | .tbpub n g => Sys2Proof.Machine.execTbpub n g s
  | .tbrel n g => Sys2Proof.Machine.execTbrel n g s
  | .tbstat d n g => Sys2Proof.Machine.execTbstat d n g s
  | .spchk d g => Sys2Proof.Machine.execSpchk d g s
  | .spbar g => Sys2Proof.Machine.execSpbar g s
  | .march d a b sp mode => Sys2Proof.Machine.execMarch d a b sp mode s
  | .marchr d a => Sys2Proof.Machine.execMarchr d a s
  | .fprep d a b => Sys2Proof.Machine.execFprep d a b s
  | .bfetch d a b => Sys2Proof.Machine.execBfetch d a b s
  | .trace d a b => Sys2Proof.Machine.execTrace d a b s
  | .tracer d a => Sys2Proof.Machine.execTracer d a s
  | .tex d a b => Sys2Proof.Machine.execTex d a b s
  | .texq d a b => Sys2Proof.Machine.execTexq d a b s
  | .cred d a b rop w => Sys2Proof.Machine.execCred d a b rop w s
  | .cgat d a b => Sys2Proof.Machine.execCgat d a b s
  | .crsc d a b rop w => Sys2Proof.Machine.execCrsc d a b rop w s
  | .ca2a d a b => Sys2Proof.Machine.execCa2a d a b s
  | .csend a b => Sys2Proof.Machine.execCsend a b s
  | .crecv d b => Sys2Proof.Machine.execCrecv d b s
  | .cwait b => Sys2Proof.Machine.execCwait b s
  | .dadd d a b g => Sys2Proof.Machine.execDadd d a b g s
  | .dsub d a b g => Sys2Proof.Machine.execDsub d a b g s
  | .dmul d a b g => Sys2Proof.Machine.execDmul d a b g s
  | .dfma d a b g => Sys2Proof.Machine.execDfma d a b g s
  | .ddiv d a b g => Sys2Proof.Machine.execDdiv d a b g s
  | .dsqrt d a g => Sys2Proof.Machine.execDsqrt d a g s
  | .cvtF64F32 d a g => Sys2Proof.Machine.execCvtF64F32 d a g s
  | .cvtF32F64 d a g => Sys2Proof.Machine.execCvtF32F64 d a g s
  | .brk n g => Sys2Proof.Machine.execBrk n g s
  | .rdcnt d n g => Sys2Proof.Machine.execRdcnt d n g s
  | .mark n g => Sys2Proof.Machine.execMark n g s
  | .crd d a idx => Sys2Proof.Machine.execCrd d a idx s
  | .cwr d a idx => Sys2Proof.Machine.execCwr d a idx s
  | .freplyResume d a => Sys2Proof.Machine.execFreplyResume d a s
  | .freplyReject d a => Sys2Proof.Machine.execFreplyReject d a s
  | .carve d a => Sys2Proof.Machine.execCarve d a s
  | .pjob d a => Sys2Proof.Machine.execPjob d a s
  | .tlbinvPage a => Sys2Proof.Machine.execTlbinvPage a s
  | .tlbinvAsid a => Sys2Proof.Machine.execTlbinvAsid a s
  | .tlbinvAll a => Sys2Proof.Machine.execTlbinvAll a s
  | .slsync d a => Sys2Proof.Machine.execSlsync d a s
  | .halt d a => Sys2Proof.Machine.execHalt d a s
  | .runStart core sub port => Sys2Proof.Machine.execRunStart core sub port s
  | .clauseIssue core sub port => Sys2Proof.Machine.execClauseIssue core sub port s
  | .emulationReturn cohort decline => Sys2Proof.Machine.execEmulationReturn cohort decline s
  | .icacheFill core sub port => Sys2Proof.Machine.execIcacheFill core sub port s
  | .loadDataReturn cohort op => Sys2Proof.Machine.execLoadDataReturn cohort op s
  | .longLatencyCompletion cohort op => Sys2Proof.Machine.execLongLatencyCompletion cohort op s
  | .acknowledgement n => Sys2Proof.Machine.execAcknowledgement n s
  | .homeRequest n => Sys2Proof.Machine.execHomeRequest n s
  | .requestReplay n => Sys2Proof.Machine.execRequestReplay n s
  | .translationWalk core asid va => Sys2Proof.Machine.execTranslationWalk core asid va s
  | .impreciseReportArrival n => Sys2Proof.Machine.execImpreciseReportArrival n s
  | .copyGranule copy granule => Sys2Proof.Machine.execCopyGranule copy granule s
  | .copyBatchComplete batch => Sys2Proof.Machine.execCopyBatchComplete batch s
  | .copyRingAdvance batch => Sys2Proof.Machine.execCopyRingAdvance batch s
  | .mtxCompletion cohort => Sys2Proof.Machine.execMtxCompletion cohort s
  | .tileBind cohort => Sys2Proof.Machine.execTileBind cohort s
  | .slotClaim cohort => Sys2Proof.Machine.execSlotClaim cohort s
  | .matrixStartAdmission cohort => Sys2Proof.Machine.execMatrixStartAdmission cohort s
  | .admissionWindow sector => Sys2Proof.Machine.execAdmissionWindow sector s
  | .rayEnd crew tid unit => Sys2Proof.Machine.execRayEnd crew tid unit s
  | .wreqGrant crew => Sys2Proof.Machine.execWreqGrant crew s
  | .binFormation core sub bin => Sys2Proof.Machine.execBinFormation core sub bin s
  | .autoFlush crew => Sys2Proof.Machine.execAutoFlush crew s
  | .cohortRetire cohort => Sys2Proof.Machine.execCohortRetire cohort s
  | .queueWaiterRetry crew q push => Sys2Proof.Machine.execQueueWaiterRetry crew q push s
  | .channelDelivery n => Sys2Proof.Machine.execChannelDelivery n s
  | .creditPacket n => Sys2Proof.Machine.execCreditPacket n s
  | .faultRecordPost n => Sys2Proof.Machine.execFaultRecordPost n s
  | .rdmaWrite n part => Sys2Proof.Machine.execRdmaWrite n part s
  | .rdmaRead n => Sys2Proof.Machine.execRdmaRead n s
  | .ringKick ring => Sys2Proof.Machine.execRingKick ring s
  | .launchPacket ring => Sys2Proof.Machine.execLaunchPacket ring s
  | .cancelPacket ring => Sys2Proof.Machine.execCancelPacket ring s
  | .packetReread ring => Sys2Proof.Machine.execPacketReread ring s
  | .resetKick ring => Sys2Proof.Machine.execResetKick ring s
  | .completionRecord ring => Sys2Proof.Machine.execCompletionRecord ring s
  | .storeEntryGrant => Sys2Proof.Machine.execStoreEntryGrant s
  | .idleCoreRequest core => Sys2Proof.Machine.execIdleCoreRequest core s
  | .crewPlacement core => Sys2Proof.Machine.execCrewPlacement core s
  | .verdict n => Sys2Proof.Machine.execVerdict n s
  | .resolutionArrival n => Sys2Proof.Machine.execResolutionArrival n s
  | .commit crew => Sys2Proof.Machine.execCommit crew s
  | .coreHalted core => Sys2Proof.Machine.execCoreHalted core s
  | .swap core => Sys2Proof.Machine.execSwap core s
  | .longWaitSwapOut crew => Sys2Proof.Machine.execLongWaitSwapOut crew s
  | .crewReturn crew => Sys2Proof.Machine.execCrewReturn crew s
  | .migrationRequest crew core => Sys2Proof.Machine.execMigrationRequest crew core s
  | .migrationWithdraw crew => Sys2Proof.Machine.execMigrationWithdraw crew s
  | .saveStep crew => Sys2Proof.Machine.execSaveStep crew s
  | .migrationRecord crew => Sys2Proof.Machine.execMigrationRecord crew s
  | .restoreStep crew core => Sys2Proof.Machine.execRestoreStep crew core s
  | .drawTake engine => Sys2Proof.Machine.execDrawTake engine s
  | .drawEnd engine => Sys2Proof.Machine.execDrawEnd engine s
  | .collectiveComplete n => Sys2Proof.Machine.execCollectiveComplete n s
  | .queuePairFatalError port qp => Sys2Proof.Machine.execQueuePairFatalError port qp s
  | .congestionNotification port qp => Sys2Proof.Machine.execCongestionNotification port qp s
  | .connectionOpen n => Sys2Proof.Machine.execConnectionOpen n s
  | .attestationRequest n => Sys2Proof.Machine.execAttestationRequest n s
  | .recoveryImage n => Sys2Proof.Machine.execRecoveryImage n s
  | .powerOnReset => Sys2Proof.Machine.execPowerOnReset s
  | .clusterRelease => Sys2Proof.Machine.execClusterRelease s
  | .thermalChange die inlet => Sys2Proof.Machine.execThermalChange die inlet s
  | .patrolScrub n => Sys2Proof.Machine.execPatrolScrub n s
  | .dramRefresh channel => Sys2Proof.Machine.execDramRefresh channel s
  | .arithmeticClockCycle core => Sys2Proof.Machine.execArithmeticClockCycle core s
  | .onDiePathFailure n => Sys2Proof.Machine.execOnDiePathFailure n s
  | .historyCopyComplete n => Sys2Proof.Machine.execHistoryCopyComplete n s

end Sys2Proof.Machine
end

