-- ==== Sys2Proof/Machine/Sched.lean ====
section
/-!
DEFINITION. Sys2Proof/Machine/Sched.lean: who moves next (notes/assumptions/5.md): the issue of a port, and the events that are
pending when no move has been chosen. What each move does is in `exec`.
-/

namespace Sys2Proof.Machine

/-! ### The issue of a port -/

/-- The words of the clause under way from the PC on, as the sequencer fetched them (02 R31, R41). -/
def Cohort.fetched (c : Cohort) : List Word :=
  match c.clause with
  | some cl => cl.words.drop (c.wordIx c.pc)
  | none => []

/-- ILLEGAL_OP of a word that begins no instruction, %tinfo the word (02 R58). -/
def State.illegalWord (s : State) (c : Cohort) : State :=
  ({ s with stalled := false } : State).takeFault c.key (·.act) c.pc c.pc
    (c.actives.map fun t => ⟨t.tid, 1, 0, (c.fetched.headD 0).toNat, 0⟩)

/-- The port in focus issues the next word of the clause under way. -/
noncomputable def State.issueWord (s : State) (c : Cohort) : Host.Outcome State Fault Refusal :=
  match decode c.fetched with
  | .ok (i, _) => exec i s
  | .error _ => .next (s.illegalWord c)

/-- The sequencer event of the port in focus. -/
noncomputable def State.sequence (s : State) : Host.Outcome State Fault Refusal :=
  let core := s.focus / 8
  let sub := s.focus / 2 % 4
  let port := s.focus % 2
  if (Tab.read none s.frozen s.focus).isSome then exec (.icacheFill core sub port) s
  else if Tab.read 0 s.running s.focus = 0 then exec (.runStart core sub port) s
  else exec (.clauseIssue core sub port) s

/-- A move of the port in focus: a word, or what its sequencer has to do. -/
noncomputable def State.issue (s : State) : Host.Outcome State Fault Refusal :=
  match s.issuer with
  | some c => s.issueWord c
  | none => s.sequence

/-! ### Pending events -/

/-- Events of a cohort that may be pending. -/
noncomputable def Cohort.pending (c : Cohort) : List Instr :=
  let l : List (List Instr) := [
    c.ops.map fun o => .loadDataReturn c.key o.id,
    c.ops.map fun o => .longLatencyCompletion c.key o.id,
    if c.stream = [] then [] else [.tileBind c.key, .slotClaim c.key, .matrixStartAdmission c.key, .mtxCompletion c.key],
    if c.emul.isSome then [.emulationReturn c.key false] else [],
    if c.live = [] then [.cohortRetire c.key] else []]
  l.flatten

/-- Events of a crew that may be pending. -/
noncomputable def Crew.pending (cr : Crew) : List Instr :=
  let l : List (List Instr) := [
    cr.qwait.map fun w => .queueWaiterRetry cr.key w.q w.push,
    cr.rays.map fun r => .rayEnd cr.key r.tid (if r.unit = .marcher then 0 else 1),
    [.wreqGrant cr.key, .autoFlush cr.key, .commit cr.key, .crewReturn cr.key],
    match cr.mig with
    | .none => []
    | .requested _ => [.saveStep cr.key]
    | .saving _ => [.migrationRecord cr.key]
    | .moving core => [.restoreStep cr.key core]]
  l.flatten

/-- Events of the engines and the memory system. -/
noncomputable def State.pendingWork (s : State) : List Instr :=
  let l : List (List Instr) := [
    s.fabric.map fun p => .homeRequest p.id,
    s.fabric.map fun p => .requestReplay p.id,
    s.acks.map fun a => .acknowledgement a.id,
    s.cohorts.flatMap Cohort.pending,
    (upto s.repIn.length).map .impreciseReportArrival,
    (upto s.posts.length).map .faultRecordPost,
    s.copies.map fun x => .copyGranule x.id (x.granules.headD 0),
    s.batches.map fun b => .copyRingAdvance b.id,
    s.batches.map fun b => .copyBatchComplete b.id,
    (upto s.msgs.length).map .channelDelivery,
    (upto s.credits.length).map .creditPacket,
    s.bins.map fun e => .binFormation (e.1 / 32) (e.1 / 8 % 4) (e.1 % 8),
    (upto s.compares.length).map .verdict,
    (upto s.history.length).map .historyCopyComplete,
    (upto s.resols.length).map .resolutionArrival,
    s.crews.flatMap Crew.pending,
    s.colls.map fun x => .collectiveComplete x.id,
    s.draws.map fun d => .drawEnd d.engine,
    (upto 4).map .drawTake,
    s.admWait.map fun e => .admissionWindow e.1,
    s.walks.map fun k => .translationWalk k.core k.asid k.vpage,
    (s.crews.filter fun cr => (s.cohortsOf cr.key).isEmpty).map fun cr => .cohortRetire cr.key]
  l.flatten

/-- The messages of the hosts. -/
noncomputable def State.pendingIn (s : State) (n : Nat) : List Instr :=
  let parts : List Instr := match s.inbox[n]? with
    | some (.write _ _ parts _) => (upto parts.length).map fun k => .rdmaWrite n k
    | _ => []
  parts ++ [.rdmaRead n, .connectionOpen n, .attestationRequest n, .recoveryImage n]

/-- Events of the cores, the dispatcher, the hosts and the management core. -/
noncomputable def State.pendingDevice (s : State) : List Instr :=
  let ring : Ring → List Instr := fun r =>
    [.resetKick r.n, .ringKick r.n, .launchPacket r.n, .cancelPacket r.n, .packetReread r.n, .completionRecord r.n]
  let place : Nat × CoreSt → List Instr := fun e => if e.2.released then [.crewPlacement e.1, .idleCoreRequest e.1] else []
  let l : List (List Instr) := [
    s.cores.map fun e => .coreHalted e.1,
    s.cores.map fun e => .swap e.1,
    [.storeEntryGrant],
    s.rings.flatMap ring,
    (upto s.inbox.length).flatMap s.pendingIn,
    if s.launches.any (fun l => !l.tasks.isEmpty) then s.cores.flatMap place else [],
    if s.boot.running then [.clusterRelease] else if s.boot.powered && !s.boot.recovery then [.powerOnReset] else []]
  l.flatten

/-- The first of the events that changes the state. -/
def State.firstEvent (s : State) : List Instr → Option State
  | [] => none
  | i :: is =>
    match exec i s with
    | .next t => if t = s then s.firstEvent is else some t
    | _ => s.firstEvent is

/-- The next port after the one in focus where a cohort can move; its own number when there is none. -/
noncomputable def State.nextPort (s : State) : Nat :=
  let ports := (distinct (s.cohorts.map fun c => portIx (s.crewOf c).core c.sub c.port)).filter fun k =>
    ({ s with focus := k } : State).issuer.isSome || (match ({ s with focus := k } : State).sequence with
      | .next t => decide (t ≠ { s with focus := k })
      | _ => false)
  let order := sortBy (fun k => (k + 5120 - s.focus - 1) % 5120) ports
  order.headD s.focus

/-- The move when none is chosen and the port in focus is held, has nothing to do or has ended a run: the first event in turn that
changes the state, and the focus passes on; without one, the focus passes on; else the core's clock. -/
noncomputable def State.idle (s : State) : Host.Outcome State Fault Refusal :=
  let is := s.pendingWork ++ s.pendingDevice
  let n := s.turns % is.length
  match s.firstEvent (is.drop n ++ is.take n) with
  | some t =>
    let t : State := { t with stalled := false, turns := s.turns + 1 }
    .next { t with focus := t.nextPort }
  | none =>
    if s.nextPort ≠ s.focus then .next { s with focus := s.nextPort, stalled := false }
    else .next (clockCycle (s.focus / 8) { s with stalled := false })

/-- The move when the agenda is empty: the port in focus, unless it is held, its sequencer has nothing to do, or it has just ended
a run. -/
noncomputable def State.default (s : State) : Host.Outcome State Fault Refusal :=
  if s.stalled then s.idle
  else match s.issuer with
    | some c => s.issueWord c
    | none => match s.sequence with
      | .next t => if t = s then s.idle else .next { t with stalled := decide (Tab.read 0 t.running t.focus = 0) }
      | o => o

/-- A chosen move: an event of the table, the issue of a port, an action of firmware, or an arrival; an encoded instruction is no event
and moves nothing. -/
noncomputable def State.move (s : State) : Move → Host.Outcome State Fault Refusal
  | .event i => if encode i = [] then exec i s else .next s
  | .issue core sub port => ({ s with focus := portIx core sub port % 5120, stalled := false } : State).issue
  | .firmware f => .next (s.act f)
  | .message m => .next { s with inbox := s.inbox ++ [m] }
  | .contribution p => .next { s with peerIn := s.peerIn ++ [p] }

/-! ### A clause placed on the port in focus -/

/-- The kernel of the placed clause: text at 64 KiB, one role with every register. -/
def probeHeader : Header :=
  { text := 65536, tlen := 64, h := 65536, roles := [{ entry := 0, threads := 16, v := 63, s := 63 }], system := true }

/-- Its launch record. -/
def probeRec : LRec :=
  { khdr := 0, arg := 0, lo := 0, hi := 1, grain := 1, prio := 0, cosched := false, spec := false, spin := 0,
    fs := List.replicate 8 0, job := 0, phase := 0, graph := 0, priv := 0, cont := 0 }

/-- Its header word: COUNT 15, mixed, no flag. -/
def probeClause : Word := 0xFE001FE0

/-- The cohort of the placed clause: 16 threads, all active, at the word after the header. -/
def probeCohort (key sub port : Nat) (ws : List Word) : Cohort :=
  { key := key + 1, crew := key, cid := 0, role := 0, sub := sub, port := port, place := 0,
    threads := (upto 16).map fun k => { tid := k, lane := k, act := true, pc := 65540 },
    clause := some { hdr := 65536, word := probeClause, words := ws }, run := 15, chain := true }

/-- A machine whose port in focus is about to issue the word `ws` begins with. -/
def State.withClause (s : State) (ws : List Word) : State :=
  let core := s.focus / 8
  let key := s.fresh
  let cr : Crew :=
    { key := key, launch := s.nextHandle, index := 0, core := core, base := 0, slot := 0, sbase := 0, ssize := 65536,
      hdr := probeHeader, gw := 16, lastGrant := 16 }
  let l : Launch := { handle := s.nextHandle, lrec := probeRec, left := 1, system := true, inStore := false }
  let s := s.onCore core fun k => { k with released := true, phase := .running }
  { s with
    fresh := key + 2, nextHandle := s.nextHandle + 1, agenda := [], stalled := false, crews := s.crews ++ [cr],
    cohorts := s.cohorts ++ [probeCohort key (s.focus / 2 % 4) (s.focus % 2) ws], launches := s.launches ++ [l],
    running := Tab.put 0 s.running s.focus (key + 1) }

end Sys2Proof.Machine
end

