-- ==== Sys2Proof/Machine/Step.lean ====
section
/-!
DEFINITION. Sys2Proof/Machine/Step.lean: one step of the machine: the next chosen move, or the default one when none is chosen
(notes/assumptions/5.md); and a machine whose next step runs a given instruction.
-/

namespace Sys2Proof.Machine

/-- One step. -/
noncomputable def step (s : State) : Host.Outcome State Fault Refusal :=
  match s.agenda with
  | m :: rest => ({ s with agenda := rest } : State).move m
  | [] => s.default

/-- The state with the instruction whose bits are `w` as the next word of a clause under way on the port in focus, the bits above
`nbits` zero: what a placement, a fetch and the beginning of a clause would have brought about. -/
def State.withFetchWord (s : State) (nbits w : Nat) : State :=
  s.withClause (tableWords (w % 2 ^ nbits) ++ List.replicate 12 0)

end Sys2Proof.Machine
end

