-- ==== Sys2Proof/Safety.lean ====
section
/-!
DEFINITION. Sys2Proof/Safety.lean: the terms that the statements use: when a word issues, what going on to the next instruction may
change, what it is to complete, and the invariant of the memories.
-/

namespace Sys2Proof.Machine

/-! ### Invariants -/

/-- Every memory is in canonical form (notes/assumptions/1.md). -/
def State.MemWf (s : State) : Prop := s.gmem.wf = true ∧ s.cmem.wf = true ∧ s.smem.wf = true

/-! ### When a word issues (02 R35, R39; 03 R73; 10 R234) -/

/-- Cohort `c` holds the port in focus with its clause under way, and nothing keeps the word of `i` from issuing: its registers are
in the role's budget, none is being written or poisoned, none that it reads or writes has an error that no read has met (10 R233), and
no flag that it would raise is full. -/
def Issues (s : State) (i : Info) (c : Cohort) : Prop :=
  s.issuer = some c ∧ i.inBudget ((s.crewOf c).role c.role) = true ∧ c.busyRegs i = false ∧ c.regPoison i = [] ∧
  (i.long && (c.opFlags i.len).any fun f => decide (63 ≤ c.flag f)) = false ∧ ∀ e ∈ s.latent, e.1 ∉ c.issueSites i ++ c.destSites i

/-- The state in which a word's own effect begins: the port is not held. -/
def State.unheld (s : State) : State := { s with stalled := false }

/-! ### Going on (05 R114-R116) -/

/-- The active threads pass `n` words. -/
def Cohort.passes (c : Cohort) (n : Nat) : Cohort :=
  c.mapT (·.act) fun t => { t with pc := BitVec.ofNat 64 (t.pc.toNat + 4 * n) }

/-- What going on changes in a thread: its state, whether it is active, the mark of its first issue, and MR, which is only ever
cleared. Its PC and every other register stay. -/
def Thread.flow (t u : Thread) : Prop :=
  u = { t with st := u.st, act := u.act, mr := u.mr, skipW := u.skipW } ∧ (u.mr = t.mr ∨ u.mr = BitVec.allOnes 64)

/-- What going on changes in a cohort: its threads so, and the clause under way; %tmode falls only when no thread is in its
handler. Every register, flag, counter, tile name and operation stays. -/
def Cohort.flow (c d : Cohort) : Prop :=
  d = { c with threads := d.threads, clause := d.clause, chain := d.chain, tmode := d.tmode } ∧
  (d.tmode = c.tmode ∨ d.tmode = false ∧ c.threads.any (·.inH) = false) ∧ List.Forall₂ Thread.flow c.threads d.threads

/-- Two per-core records differ in the performance counters only. -/
def CoreSt.counted (k l : CoreSt) : Prop := l = { k with pmcnt := l.pmcnt }

/-- A step changed nothing but cohort `k`, performance counters and the held mark: no memory, no other cohort, no crew, launch,
packet or device. -/
def State.onlyCohort (s t : State) (k : Nat) : Prop :=
  t = { s with cohorts := t.cohorts, cores := t.cores, stalled := t.stalled } ∧
  (∀ j, j ≠ k → t.cohort j = s.cohort j) ∧ ∀ n, (s.core n).counted (t.core n)

/-- Cohort `k` has gone on from state `s` to state `t`, and nothing else has happened. -/
def State.goesOn (s t : State) (k : Nat) : Prop :=
  s.onlyCohort t k ∧ ∃ c d, s.cohort k = some c ∧ t.cohort k = some d ∧ c.flow d

/-! ### Completing -/

/-- The instruction completes with an effect on its own cohort `c`: the next state holds `f c`, its active threads past the
instruction's words, and nothing else has changed. -/
def Completes (i : Instr) (s : State) (c : Cohort) (f : Cohort → Cohort) : Prop :=
  ∃ t d, exec i s = .next t ∧ s.onlyCohort t c.key ∧ t.cohort c.key = some d ∧ ((f c).passes (encode i).length).flow d

/-- The instruction completes with the effect `e` on the state, and the active threads pass its words. -/
def Performs (i : Instr) (s : State) (c : Cohort) (e : State → State) : Prop :=
  ∃ t, exec i s = .next t ∧ ((e s.unheld).onCohort c.key fun c => c.passes (encode i).length).goesOn t c.key

/-- The instruction completes with the effect `e` on the state, which sets the PC of every active thread; its clause ends. -/
def Moves (i : Instr) (s : State) (c : Cohort) (e : State → State) : Prop :=
  ∃ t, exec i s = .next t ∧ (e s.unheld).goesOn t c.key

/-- The instruction waits: every active thread of its cohort is waiting for `w` at the word, to issue it again, and nothing else has
changed (02 R33, 05 R113). -/
def Waits (i : Instr) (s : State) (c : Cohort) (w : Wait) : Prop :=
  ∃ t d, exec i s = .next t ∧ s.onlyCohort t c.key ∧ t.cohort c.key = some d ∧ c.flow d ∧
    List.Forall₂ (fun x y : Thread => x.act = true → y.st = .waiting w ∧ y.act = false) c.threads d.threads

/-- The instruction faults precisely: the active threads take the exception of the causes `l`, at the word (09 R191). -/
def Raises (i : Instr) (s : State) (c : Cohort) (l : List LCause) : Prop :=
  exec i s = .next (s.unheld.takeFault c.key (·.act) c.pc c.pc l)

/-- One cause that every active thread of a cohort found. -/
def Cohort.every (c : Cohort) (code detail info : Nat) : List LCause := c.actives.map fun t => ⟨t.tid, code, detail, info, 0⟩

/-- What an instruction keeps of its cohort besides going on: every register, predicate, trap register and sticky bit; its
operations, flags, counters and tile names may change. -/
def Cohort.keeps (c d : Cohort) : Prop :=
  d.s = c.s ∧ d.sPoison = c.sPoison ∧ d.fpst = c.fpst ∧ d.mstat = c.mstat ∧ List.Forall₂ Thread.flow c.threads d.threads

/-- The instruction issues and answers `t`: its active threads pass its words, and until its work completes every register and every
byte of memory is as before, and so is every other cohort. -/
def Begins (i : Instr) (s : State) (c : Cohort) (t : State) : Prop :=
  exec i s = .next t ∧ t.gmem = s.gmem ∧ t.cmem = s.cmem ∧ t.smem = s.smem ∧
    (∀ j, j ≠ c.key → t.cohort j = s.cohort j) ∧
    ∃ d, t.cohort c.key = some d ∧ (c.passes (encode i).length).keeps d

/-- The instruction issues and answers `t`: its active threads pass its words, every register of its cohort is as before until its
work completes, and so is every other cohort. -/
def Starts (i : Instr) (s : State) (c : Cohort) (t : State) : Prop :=
  exec i s = .next t ∧ (∀ j, j ≠ c.key → t.cohort j = s.cohort j) ∧
    ∃ d, t.cohort c.key = some d ∧ (c.passes (encode i).length).keeps d

/-- The instruction waits as `Waits` says, after the effect `e` on the state. -/
def Suspends (i : Instr) (s : State) (c : Cohort) (w : Wait) (e : State → State) : Prop :=
  ∃ t d, exec i s = .next t ∧ (e s.unheld).onlyCohort t c.key ∧ t.cohort c.key = some d ∧ c.flow d ∧
    List.Forall₂ (fun x y : Thread => x.act = true → y.st = .waiting w ∧ y.act = false) c.threads d.threads

/-- The cohort parks by speculation at the word, to issue it again after a COMMIT, and nothing else has changed (17 R357). -/
def SpecParks (i : Instr) (s : State) (c : Cohort) : Prop :=
  ∃ t d, exec i s = .next t ∧ s.onlyCohort t c.key ∧ t.cohort c.key = some d ∧ c.flow d ∧
    List.Forall₂ (fun x y : Thread => x.act = true → y.st = .parked .spec ∧ y.act = false) c.threads d.threads

/-- The operation that an instruction has added to its cohort's list, as the last one. -/
def State.newOp (t : State) (k : Nat) (p : Op → Prop) : Prop := ∃ d o, t.cohort k = some d ∧ d.ops.getLast? = some o ∧ p o

/-! ### Shapes of results -/

/-- The sticky bits of results, ORed (06 R128). -/
def orFlags : List FFlags → FFlags
  | [] => 0
  | f :: fs => f ||| orFlags fs

/-- Two 16-bit elements of a lane's result, with the sticky bits of both (06 R132). -/
def pairOf (lo hi : FRes) : FRes := (lo.1 + hi.1 * 2 ^ 16, lo.2 ||| hi.2)

/-- The result of a floating-point instruction in every acting lane, and its sticky bits in %fpst (06 R128, 03 R82). -/
def Cohort.floats (c : Cohort) (g d : Nat) (f : Thread → FRes) : Cohort :=
  { c.mapT (·.acts g) fun t => t.setV d (BitVec.ofNat 32 (f t).1) with
    fpst := c.fpst ||| (orFlags ((c.actors g).map fun t => (f t).2)).zeroExtend 64 }

end Sys2Proof.Machine
end

