-- ==== Sys2Proof/Certificates/Slice0/Obligations.lean ====
section
/-!
DEFINITION. Sys2Proof/Certificates/Slice0/Obligations.lean: the statements for the provers, from the numbered rules of spec/. Each
names the rules it follows; a clause that rests on a choice of the model names its log entry.
-/

open Sys2Proof Sys2Proof.Machine

set_option maxRecDepth 4000

/-- O1. SALU, SALUI and SSHI compute their function into sD. For every state in which the word issues, each of the 24 scalar
arithmetic instructions answers a next state: sD holds the function of the table of the values of A and B (a literal
sign-extended to 64 bits, s63 as a destination discarded, the count B[5:0]), under the guard of the active lane with the lowest
%tid where the form has one, the active threads pass the words of the instruction, and no other register, flag, memory byte,
cohort, crew or device changes (performance counters may count). (R103, R104, R105, R44, R45) -/
def Obligations.ScalarArithmetic : Prop :=
  (∀ (s : State) (c : Cohort) (d : Nat) (a b : SSrc) (g : Nat),
    ∀ e ∈ ([(.sadd d a b g, infoSal 1 0 d a b g, fun x y => x + y),
      (.ssub d a b g, infoSal 1 1 d a b g, fun x y => x - y),
      (.smul d a b g, infoSal 1 2 d a b g, fun x y => x * y),
      (.smulh d a b g, infoSal 1 3 d a b g, fun x y => BitVec.ofInt 64 (x.toInt * y.toInt / 2 ^ 64)),
      (.smulhn d a b g, infoSal 1 4 d a b g, fun x y => BitVec.ofNat 64 (x.toNat * y.toNat / 2 ^ 64)),
      (.sand d a b g, infoSal 1 5 d a b g, fun x y => x &&& y),
      (.sor d a b g, infoSal 1 6 d a b g, fun x y => x ||| y),
      (.sxor d a b g, infoSal 1 7 d a b g, fun x y => x ^^^ y),
      (.sshl d a b g, infoSal 1 8 d a b g, fun x y => x <<< (y.toNat % 64)),
      (.sshr d a b g, infoSal 1 9 d a b g, fun x y => x >>> (y.toNat % 64)),
      (.ssra d a b g, infoSal 1 10 d a b g, fun x y => x.sshiftRight (y.toNat % 64)),
      (.smin d a b g, infoSal 1 11 d a b g, fun x y => if x.toInt ≤ y.toInt then x else y),
      (.smax d a b g, infoSal 1 12 d a b g, fun x y => if x.toInt ≤ y.toInt then y else x),
      (.sminn d a b g, infoSal 1 13 d a b g, fun x y => if x.toNat ≤ y.toNat then x else y),
      (.smaxn d a b g, infoSal 1 14 d a b g, fun x y => if x.toNat ≤ y.toNat then y else x),
      (.smov d b g, infoSmov 1 15 d b g, fun _ y => y)]
      : List (Instr × Info × (Dword → Dword → Dword))),
      Issues s e.2.1 c →
        Completes e.1 s c fun c => if c.guard g then c.setS d (e.2.2 (a.val c) (b.val c)) else c) ∧
  (∀ (s : State) (c : Cohort) (d a : Nat) (imm : BitVec 12),
    ∀ e ∈ ([(.saddi d a imm, infoSali 2 0 d a imm, fun x => x + imm.signExtend 64),
      (.sandi d a imm, infoSali 2 1 d a imm, fun x => x &&& imm.signExtend 64),
      (.sori d a imm, infoSali 2 2 d a imm, fun x => x ||| imm.signExtend 64),
      (.sxori d a imm, infoSali 2 3 d a imm, fun x => x ^^^ imm.signExtend 64)]
      : List (Instr × Info × (Dword → Dword))),
      Issues s e.2.1 c → Completes e.1 s c fun c => c.setS d (e.2.2 (c.sr a))) ∧
  (∀ (s : State) (c : Cohort) (d a n : Nat),
    ∀ e ∈ ([(.sshli d a n, infoSshi 3 0 d a n, fun x => x <<< n),
      (.sshri d a n, infoSshi 3 1 d a n, fun x => x >>> n),
      (.ssrai d a n, infoSshi 3 2 d a n, fun x => x.sshiftRight n)]
      : List (Instr × Info × (Dword → Dword))),
      Issues s e.2.1 c → Completes e.1 s c fun c => c.setS d (e.2.2 (c.sr a))) ∧
  ∀ (s : State) (c : Cohort) (d : Nat) (imm : BitVec 12), Issues s (infoSlui 3 3 d imm) c →
    Completes (.slui d imm) s c fun c => c.setS d (imm.signExtend 64 <<< 20)

/-- O2. SCMP and VCMP write their condition into pD. Each SCMP compares the 64-bit values of A and B and, under the guard of the
lowest active thread, writes the one result into predicate D of every active lane; each VCMP compares the 32-bit values of each
acting lane and writes the result into predicate D of that lane. A destination p7 discards. No other lane, register, flag or
memory byte changes. (R106, R111, R103, R107, R44) -/
def Obligations.IntegerCompare : Prop :=
  (∀ (s : State) (c : Cohort) (d : Nat) (a b : SSrc) (g : Nat),
    ∀ e ∈ ([(.scmpEq d a b g, infoScmp 4 0 d a b g, fun x y => decide (x = y)),
      (.scmpNe d a b g, infoScmp 4 1 d a b g, fun x y => decide (x ≠ y)),
      (.scmpLt d a b g, infoScmp 4 2 d a b g, fun x y => decide (x.toInt < y.toInt)),
      (.scmpLe d a b g, infoScmp 4 3 d a b g, fun x y => decide (x.toInt ≤ y.toInt)),
      (.scmpGt d a b g, infoScmp 4 4 d a b g, fun x y => decide (y.toInt < x.toInt)),
      (.scmpGe d a b g, infoScmp 4 5 d a b g, fun x y => decide (y.toInt ≤ x.toInt)),
      (.scmpLtn d a b g, infoScmp 4 6 d a b g, fun x y => decide (x.toNat < y.toNat)),
      (.scmpLen d a b g, infoScmp 4 7 d a b g, fun x y => decide (x.toNat ≤ y.toNat)),
      (.scmpGtn d a b g, infoScmp 4 8 d a b g, fun x y => decide (y.toNat < x.toNat)),
      (.scmpGen d a b g, infoScmp 4 9 d a b g, fun x y => decide (y.toNat ≤ x.toNat))]
      : List (Instr × Info × (Dword → Dword → Bool))),
      Issues s e.2.1 c →
        Completes e.1 s c fun c =>
          if c.guard g then c.mapT (·.act) fun t => t.setP d (e.2.2 (a.val c) (b.val c)) else c) ∧
  ∀ (s : State) (c : Cohort) (d a : Nat) (b : VSrc) (g : Nat),
    ∀ e ∈ ([(.vcmpEq d a b g, infoVcmp 9 0 d a b g, fun x y => decide (x = y)),
      (.vcmpNe d a b g, infoVcmp 9 1 d a b g, fun x y => decide (x ≠ y)),
      (.vcmpLt d a b g, infoVcmp 9 2 d a b g, fun x y => decide (x.toInt < y.toInt)),
      (.vcmpLe d a b g, infoVcmp 9 3 d a b g, fun x y => decide (x.toInt ≤ y.toInt)),
      (.vcmpGt d a b g, infoVcmp 9 4 d a b g, fun x y => decide (y.toInt < x.toInt)),
      (.vcmpGe d a b g, infoVcmp 9 5 d a b g, fun x y => decide (y.toInt ≤ x.toInt)),
      (.vcmpLtn d a b g, infoVcmp 9 6 d a b g, fun x y => decide (x.toNat < y.toNat)),
      (.vcmpLen d a b g, infoVcmp 9 7 d a b g, fun x y => decide (x.toNat ≤ y.toNat)),
      (.vcmpGtn d a b g, infoVcmp 9 8 d a b g, fun x y => decide (y.toNat < x.toNat)),
      (.vcmpGen d a b g, infoVcmp 9 9 d a b g, fun x y => decide (y.toNat ≤ x.toNat))]
      : List (Instr × Info × (Word → Word → Bool))),
      Issues s e.2.1 c →
        Completes e.1 s c fun c => c.mapT (·.acts g) fun t => t.setP d (e.2.2 (t.vr a) (b.val c t))

/-- O3. VALU, VALU2, VALUI and VSHI compute their function in every acting lane. For every state in which the word issues, each of
the 40 vector integer instructions answers a next state in which vD of each acting lane holds the function of the table of that
lane's A and B (a scalar B gives bits 31:0, a literal its word) and, for vmad, vbfi and vdp4, of the old vD; vsel takes A or B
by the G predicate in every active lane; vshl, vshr deliver 0 and vsra copies of A[31] for a count of 32 or more. No other
lane, register, predicate, flag or memory byte changes. (R107, R108, R109, R110, R44, R45) -/
def Obligations.VectorArithmetic : Prop :=
  (∀ (s : State) (c : Cohort) (d a : Nat) (b : VSrc) (g : Nat),
    ∀ e ∈ ([(.vadd d a b g, infoVal 5 0 d a b g, fun x y => x + y),
      (.vsub d a b g, infoVal 5 1 d a b g, fun x y => x - y),
      (.vmul d a b g, infoVal 5 2 d a b g, fun x y => x * y),
      (.vmulh d a b g, infoVal 5 3 d a b g, fun x y => BitVec.ofInt 32 (x.toInt * y.toInt / 2 ^ 32)),
      (.vmulhn d a b g, infoVal 5 4 d a b g, fun x y => BitVec.ofNat 32 (x.toNat * y.toNat / 2 ^ 32)),
      (.vand d a b g, infoVal 5 5 d a b g, fun x y => x &&& y),
      (.vor d a b g, infoVal 5 6 d a b g, fun x y => x ||| y),
      (.vxor d a b g, infoVal 5 7 d a b g, fun x y => x ^^^ y),
      (.vshl d a b g, infoVal 5 8 d a b g, fun x y => x <<< (y.toNat % 64)),
      (.vshr d a b g, infoVal 5 9 d a b g, fun x y => x >>> (y.toNat % 64)),
      (.vsra d a b g, infoVal 5 10 d a b g, fun x y => x.sshiftRight (y.toNat % 64)),
      (.vmin d a b g, infoVal 5 11 d a b g, fun x y => if x.toInt ≤ y.toInt then x else y),
      (.vmax d a b g, infoVal 5 12 d a b g, fun x y => if x.toInt ≤ y.toInt then y else x),
      (.vminn d a b g, infoVal 5 13 d a b g, fun x y => if x.toNat ≤ y.toNat then x else y),
      (.vmaxn d a b g, infoVal 5 14 d a b g, fun x y => if x.toNat ≤ y.toNat then y else x),
      (.vmov d b g, infoVmov 5 15 d b g, fun _ y => y),
      (.vaddsat d a b g, infoVal 6 5 d a b g, fun x y => BitVec.ofInt 32 (max (-2147483648) (min 2147483647 (x.toInt + y.toInt)))),
      (.vsubsat d a b g, infoVal 6 6 d a b g, fun x y => BitVec.ofInt 32 (max (-2147483648) (min 2147483647 (x.toInt - y.toInt)))),
      (.vbfe d a b g, infoVal 6 13 d a b g, bfe)]
      : List (Instr × Info × (Word → Word → Word))),
      Issues s e.2.1 c →
        Completes e.1 s c fun c => c.mapT (·.acts g) fun t => t.setV d (e.2.2 (t.vr a) (b.val c t))) ∧
  (∀ (s : State) (c : Cohort) (d a g : Nat),
    ∀ e ∈ ([(.vabs d a g, infoVun 6 0 d a g, fun x => BitVec.ofInt 32 x.toInt.natAbs),
      (.vneg d a g, infoVun 6 1 d a g, fun x => 0 - x),
      (.vclz d a g, infoVun 6 2 d a g, fun x => BitVec.ofNat 32 (clz x)),
      (.vpopc d a g, infoVun 6 3 d a g, fun x => BitVec.ofNat 32 ((List.range 32).countP fun k => x.getLsbD k)),
      (.vbrev d a g, infoVun 6 4 d a g, BitVec.reverse),
      (.vsext8 d a g, infoVun 6 9 d a g, fun x => (x.truncate 8).signExtend 32),
      (.vsext16 d a g, infoVun 6 10 d a g, fun x => (x.truncate 16).signExtend 32),
      (.vzext8 d a g, infoVun 6 11 d a g, fun x => BitVec.ofNat 32 (x.toNat % 2 ^ 8)),
      (.vzext16 d a g, infoVun 6 12 d a g, fun x => BitVec.ofNat 32 (x.toNat % 2 ^ 16))]
      : List (Instr × Info × (Word → Word))),
      Issues s e.2.1 c → Completes e.1 s c fun c => c.mapT (·.acts g) fun t => t.setV d (e.2.2 (t.vr a))) ∧
  (∀ (s : State) (c : Cohort) (d a : Nat) (b : VSrc) (g : Nat),
    ∀ e ∈ ([(.vmad d a b g, infoValD 6 7 d a b g, fun x y z => z + x * y),
      (.vbfi d a b g, infoValD 6 14 d a b g, bfi),
      (.vdp4 d a b g, infoValD 6 15 d a b g, dp4)]
      : List (Instr × Info × (Word → Word → Word → Word))),
      Issues s e.2.1 c →
        Completes e.1 s c fun c => c.mapT (·.acts g) fun t => t.setV d (e.2.2 (t.vr a) (b.val c t) (t.vr d))) ∧
  (∀ (s : State) (c : Cohort) (d a : Nat) (b : VSrc) (g : Nat),
    Issues s { infoVal 6 8 d a b g with g := 7, ps := [g] } c →
      Completes (.vsel d a b g) s c fun c =>
        c.mapT (·.act) fun t => t.setV d (if t.pr g then t.vr a else b.val c t)) ∧
  (∀ (s : State) (c : Cohort) (d a : Nat) (imm : BitVec 12),
    ∀ e ∈ ([(.vaddi d a imm, infoVali 7 0 d a imm, fun x => x + imm.signExtend 32),
      (.vandi d a imm, infoVali 7 1 d a imm, fun x => x &&& imm.signExtend 32),
      (.vori d a imm, infoVali 7 2 d a imm, fun x => x ||| imm.signExtend 32),
      (.vxori d a imm, infoVali 7 3 d a imm, fun x => x ^^^ imm.signExtend 32)]
      : List (Instr × Info × (Word → Word))),
      Issues s e.2.1 c → Completes e.1 s c fun c => c.mapT (·.act) fun t => t.setV d (e.2.2 (t.vr a))) ∧
  (∀ (s : State) (c : Cohort) (d a n : Nat),
    ∀ e ∈ ([(.vshli d a n, infoVshi 8 0 d a n, fun x => x <<< n),
      (.vshri d a n, infoVshi 8 1 d a n, fun x => x >>> n),
      (.vsrai d a n, infoVshi 8 2 d a n, fun x => x.sshiftRight n)]
      : List (Instr × Info × (Word → Word))),
      Issues s e.2.1 c → Completes e.1 s c fun c => c.mapT (·.act) fun t => t.setV d (e.2.2 (t.vr a))) ∧
  ∀ (s : State) (c : Cohort) (d : Nat) (imm : BitVec 12), Issues s (infoVmovi 8 3 d imm) c →
    Completes (.vmovi d imm) s c fun c => c.mapT (·.act) fun t => t.setV d (imm.signExtend 32)

/-- O4. PRED computes pD in every acting lane. Each PRED instruction writes its function of pA and pB into pD of each acting lane,
where a source p7 reads true and a destination p7 discards, and changes nothing else; its word is major 0x0A with D, A, B, SB =
0, G and FN in bits 25:20, 19:14, 13:8, 7, 6:4 and 3:0, and a word of that major with FN 6 to 15, with SB = 1 or with bit 5, 4
or 3 of a predicate field set is refused by the decoder. (R112) -/
def Obligations.PredicateLogic : Prop :=
  (∀ (s : State) (c : Cohort) (d a b g : Nat),
    ∀ e ∈ ([(.pand d a b g, infoPred 10 0 d a b g, fun x y => x && y),
      (.por d a b g, infoPred 10 1 d a b g, fun x y => x || y),
      (.pxor d a b g, infoPred 10 2 d a b g, fun x y => decide (x ≠ y)),
      (.pandn d a b g, infoPred 10 3 d a b g, fun x y => x && !y),
      (.pnot d a g, infoPredU 10 4 d a g, fun x _ => !x),
      (.pmov d a g, infoPredU 10 5 d a g, fun x _ => x)]
      : List (Instr × Info × (Bool → Bool → Bool))),
      Issues s e.2.1 c →
        Completes e.1 s c fun c => c.mapT (·.acts g) fun t => t.setP d (e.2.2 (t.pr a) (t.pr b))) ∧
  (∀ t : Thread, t.pr 7 = true) ∧ (∀ (t : Thread) (b : Bool), t.setP 7 b = t) ∧
  (∀ d a b g : Nat, d < 8 → a < 8 → b < 8 → g < 8 →
    let word := fun (b fn : Nat) =>
      [BitVec.ofNat 32 (0x0A * 2 ^ 26 + d * 2 ^ 20 + a * 2 ^ 14 + b * 2 ^ 8 + 0 * 2 ^ 7 + g * 2 ^ 4 + fn)]
    encode (.pand d a b g) = word b 0 ∧ encode (.por d a b g) = word b 1 ∧ encode (.pxor d a b g) = word b 2 ∧
    encode (.pandn d a b g) = word b 3 ∧ encode (.pnot d a g) = word 0 4 ∧ encode (.pmov d a g) = word 0 5) ∧
  ∀ (w : Word) (ws : List Word), wOp w = 10 →
    6 ≤ wFn w ∨ w.getLsbD 7 = true ∨ (w.toNat / 2 ^ 20 % 64) / 8 ≠ 0 ∨ (w.toNat / 2 ^ 14 % 64) / 8 ≠ 0 ∨
      (w.toNat / 2 ^ 8 % 64) / 8 ≠ 0 ∨ 4 ≤ wFn w ∧ w.toNat / 2 ^ 8 % 64 ≠ 0 →
    ∃ r, decode (w :: ws) = .error r

/-- O5. FALU and FALUD compute FP32 results with their sticky bits. Each FALU and FALUD instruction writes vD of every acting lane
with the FP32 result of the table, computed exactly from the values of A, B and D and rounded once (rne for FALU, toward minus
or plus infinity for FALUD), and ORs the sticky bits of the acting lanes into %fpst; nothing else changes. (R128, R129, R130,
R131, R133, R82) -/
def Obligations.FloatArithmetic : Prop :=
  (∀ (s : State) (c : Cohort) (d a g : Nat),
    ∀ e ∈ ([(.fabs d a g, infoVun 15 9 d a g, fun x => (x % 2 ^ 31, 0)),
      (.fneg d a g, infoVun 15 10 d a g, fun x => (x ^^^ 2 ^ 31, 0)),
      (.frndn d a g, infoVun 15 12 d a g, fp32.integral (some .ne)),
      (.frndz d a g, infoVun 15 13 d a g, fp32.integral none),
      (.frndd d a g, infoVun 15 14 d a g, fp32.integral (some .dn)),
      (.frndu d a g, infoVun 15 15 d a g, fp32.integral (some .up)),
      (.fsqrtRd d a g, infoVun 18 8 d a g, fun x => fp32.sqrtV .dn (fp32.val x)),
      (.fsqrtRu d a g, infoVun 18 9 d a g, fun x => fp32.sqrtV .up (fp32.val x))]
      : List (Instr × Info × (Nat → FRes))),
      Issues s e.2.1 c → Completes e.1 s c fun c => c.floats g d fun t => e.2.2 (t.vr a).toNat) ∧
  (∀ (s : State) (c : Cohort) (d a : Nat) (b : VSrc) (g : Nat),
    ∀ e ∈ ([(.fadd d a b g, infoVal 15 0 d a b g, fun x y => fp32.addV .ne (fp32.val x) (fp32.val y)),
      (.fsub d a b g, infoVal 15 1 d a b g, fun x y => fp32.addV .ne (fp32.val x) (fp32.val y).flip),
      (.fmul d a b g, infoVal 15 2 d a b g, fun x y => fp32.mulV .ne (fp32.val x) (fp32.val y)),
      (.fmin d a b g, infoVal 15 5 d a b g, fun x y => fp32.minMax false x y),
      (.fmax d a b g, infoVal 15 6 d a b g, fun x y => fp32.minMax true x y),
      (.fminnm d a b g, infoVal 15 7 d a b g, fun x y => fp32.minMaxNm false x y),
      (.fmaxnm d a b g, infoVal 15 8 d a b g, fun x y => fp32.minMaxNm true x y),
      (.fcpsgn d a b g, infoVal 15 11 d a b g, fun x y => (x % 2 ^ 31 + y / 2 ^ 31 * 2 ^ 31, 0)),
      (.faddRd d a b g, infoVal 18 0 d a b g, fun x y => fp32.addV .dn (fp32.val x) (fp32.val y)),
      (.faddRu d a b g, infoVal 18 1 d a b g, fun x y => fp32.addV .up (fp32.val x) (fp32.val y)),
      (.fsubRd d a b g, infoVal 18 2 d a b g, fun x y => fp32.addV .dn (fp32.val x) (fp32.val y).flip),
      (.fsubRu d a b g, infoVal 18 3 d a b g, fun x y => fp32.addV .up (fp32.val x) (fp32.val y).flip),
      (.fmulRd d a b g, infoVal 18 4 d a b g, fun x y => fp32.mulV .dn (fp32.val x) (fp32.val y)),
      (.fmulRu d a b g, infoVal 18 5 d a b g, fun x y => fp32.mulV .up (fp32.val x) (fp32.val y)),
      (.fdivRd d a b g, infoVal 18 10 d a b g, fun x y => fp32.divV .dn (fp32.val x) (fp32.val y)),
      (.fdivRu d a b g, infoVal 18 11 d a b g, fun x y => fp32.divV .up (fp32.val x) (fp32.val y))]
      : List (Instr × Info × (Nat → Nat → FRes))),
      Issues s e.2.1 c → Completes e.1 s c fun c => c.floats g d fun t => e.2.2 (t.vr a).toNat (b.val c t).toNat) ∧
  ∀ (s : State) (c : Cohort) (d a : Nat) (b : VSrc) (g : Nat),
    ∀ e ∈ ([(.ffma d a b g, infoValD 15 3 d a b g, fun x y z => fp32.fmaV .ne (fp32.val x) (fp32.val y) (fp32.val z)),
      (.ffms d a b g, infoValD 15 4 d a b g, fun x y z => fp32.fmaV .ne (fp32.val x).flip (fp32.val y) (fp32.val z)),
      (.ffmaRd d a b g, infoValD 18 6 d a b g, fun x y z => fp32.fmaV .dn (fp32.val x) (fp32.val y) (fp32.val z)),
      (.ffmaRu d a b g, infoValD 18 7 d a b g, fun x y z => fp32.fmaV .up (fp32.val x) (fp32.val y) (fp32.val z))]
      : List (Instr × Info × (Nat → Nat → Nat → FRes))),
      Issues s e.2.1 c →
        Completes e.1 s c fun c => c.floats g d fun t => e.2.2 (t.vr a).toNat (b.val c t).toNat (t.vr d).toNat

/-- O6. FALUH and FALUB compute each 16-bit element independently. Each FALUH and FALUB instruction computes element 0 from bits
15:0 and element 1 from bits 31:16 of its operands, in FP16 or BF16, each rounded once, writes the pair into vD of every acting
lane and ORs the sticky bits of both elements of every acting lane into %fpst; nothing else changes. (R132, R128, R82) -/
def Obligations.PackedFloat : Prop :=
  (∀ (s : State) (c : Cohort) (d a g : Nat),
    ∀ e ∈ ([(.habs d a g, infoVun 16 6 d a g, fun x => (x % 2 ^ 15, 0)),
      (.hneg d a g, infoVun 16 7 d a g, fun x => (x ^^^ 2 ^ 15, 0)),
      (.babs d a g, infoVun 17 6 d a g, fun x => (x % 2 ^ 15, 0)),
      (.bneg d a g, infoVun 17 7 d a g, fun x => (x ^^^ 2 ^ 15, 0))]
      : List (Instr × Info × (Nat → FRes))),
      Issues s e.2.1 c → Completes e.1 s c fun c => c.floats g d fun t =>
        pairOf (e.2.2 ((t.vr a).toNat % 2 ^ 16)) (e.2.2 ((t.vr a).toNat / 2 ^ 16))) ∧
  (∀ (s : State) (c : Cohort) (d a : Nat) (b : VSrc) (g : Nat),
    ∀ e ∈ ([(.hadd d a b g, infoVal 16 0 d a b g, fun x y => fp16.addV .ne (fp16.val x) (fp16.val y)),
      (.hsub d a b g, infoVal 16 1 d a b g, fun x y => fp16.addV .ne (fp16.val x) (fp16.val y).flip),
      (.hmul d a b g, infoVal 16 2 d a b g, fun x y => fp16.mulV .ne (fp16.val x) (fp16.val y)),
      (.hmin d a b g, infoVal 16 4 d a b g, fun x y => fp16.minMax false x y),
      (.hmax d a b g, infoVal 16 5 d a b g, fun x y => fp16.minMax true x y),
      (.badd d a b g, infoVal 17 0 d a b g, fun x y => bf16.addV .ne (bf16.val x) (bf16.val y)),
      (.bsub d a b g, infoVal 17 1 d a b g, fun x y => bf16.addV .ne (bf16.val x) (bf16.val y).flip),
      (.bmul d a b g, infoVal 17 2 d a b g, fun x y => bf16.mulV .ne (bf16.val x) (bf16.val y)),
      (.bmin d a b g, infoVal 17 4 d a b g, fun x y => bf16.minMax false x y),
      (.bmax d a b g, infoVal 17 5 d a b g, fun x y => bf16.minMax true x y)]
      : List (Instr × Info × (Nat → Nat → FRes))),
      Issues s e.2.1 c → Completes e.1 s c fun c => c.floats g d fun t =>
        pairOf (e.2.2 ((t.vr a).toNat % 2 ^ 16) ((b.val c t).toNat % 2 ^ 16))
          (e.2.2 ((t.vr a).toNat / 2 ^ 16) ((b.val c t).toNat / 2 ^ 16))) ∧
  ∀ (s : State) (c : Cohort) (d a : Nat) (b : VSrc) (g : Nat),
    ∀ e ∈ ([(.hfma d a b g, infoValD 16 3 d a b g, fun x y z => fp16.fmaV .ne (fp16.val x) (fp16.val y) (fp16.val z)),
      (.bfma d a b g, infoValD 17 3 d a b g, fun x y z => bf16.fmaV .ne (bf16.val x) (bf16.val y) (bf16.val z))]
      : List (Instr × Info × (Nat → Nat → Nat → FRes))),
      Issues s e.2.1 c → Completes e.1 s c fun c => c.floats g d fun t =>
        pairOf (e.2.2 ((t.vr a).toNat % 2 ^ 16) ((b.val c t).toNat % 2 ^ 16) ((t.vr d).toNat % 2 ^ 16))
          (e.2.2 ((t.vr a).toNat / 2 ^ 16) ((b.val c t).toNat / 2 ^ 16) ((t.vr d).toNat / 2 ^ 16))

/-- O7. CVT converts each acting lane, with its sticky bits. Each CVT instruction converts A of every acting lane (pk2 packs the
conversions of A and B) with the rounding, saturation and NaN rules of the number formats, reads only the low bits of a narrow
source, writes vD, and ORs the sticky bits into %fpst; nothing else changes. (R138, R97, R128, R82) -/
def Obligations.Conversions : Prop :=
  (∀ (s : State) (c : Cohort) (d a g : Nat),
    ∀ e ∈ ([(.cvtI32F32 d a g, infoVun 21 0 d a g, fun x => let r := cvtInt (-2147483648) 2147483647 x; ((BitVec.ofInt 32 r.1).toNat, r.2)),
      (.cvtN32F32 d a g, infoVun 21 1 d a g, fun x => let r := cvtInt 0 4294967295 x; (r.1.toNat, r.2)),
      (.cvtF32I32 d a g, infoVun 21 2 d a g, fun x => cvtFromInt (sextNat 32 x)),
      (.cvtF32N32 d a g, infoVun 21 3 d a g, fun x => cvtFromInt x),
      (.cvtF16F32 d a g, infoVun 21 4 d a g, fun x => cvtFloat fp32 fp16 x),
      (.cvtF32F16 d a g, infoVun 21 5 d a g, fun x => cvtFloat fp16 fp32 (x % 2 ^ 16)),
      (.cvtBf16F32 d a g, infoVun 21 6 d a g, fun x => cvtFloat fp32 bf16 x),
      (.cvtF32Bf16 d a g, infoVun 21 7 d a g, fun x => cvtFloat bf16 fp32 (x % 2 ^ 16)),
      (.cvtE4m3F32 d a g, infoVun 21 8 d a g, fun x => cvtFloat fp32 e4m3 x),
      (.cvtF32E4m3 d a g, infoVun 21 9 d a g, fun x => cvtFloat e4m3 fp32 (x % 2 ^ 8)),
      (.cvtE5m2F32 d a g, infoVun 21 10 d a g, fun x => cvtFloat fp32 e5m2 x),
      (.cvtF32E5m2 d a g, infoVun 21 11 d a g, fun x => cvtFloat e5m2 fp32 (x % 2 ^ 8)),
      (.cvtE2m1F32 d a g, infoVun 21 12 d a g, fun x => cvtFloat fp32 e2m1 x),
      (.cvtF32E2m1 d a g, infoVun 21 13 d a g, fun x => cvtFloat e2m1 fp32 (x % 2 ^ 4))]
      : List (Instr × Info × (Nat → FRes))),
      Issues s e.2.1 c → Completes e.1 s c fun c => c.floats g d fun t => e.2.2 (t.vr a).toNat) ∧
  (∀ (s : State) (c : Cohort) (d a : Nat) (b : VSrc) (g : Nat),
    ∀ e ∈ ([(.pk2Bf16 d a b g, infoVal 21 14 d a b g, fun x y => pairOf (cvtFloat fp32 bf16 x) (cvtFloat fp32 bf16 y)),
      (.pk2F16 d a b g, infoVal 21 15 d a b g, fun x y => pairOf (cvtFloat fp32 fp16 x) (cvtFloat fp32 fp16 y))]
      : List (Instr × Info × (Nat → Nat → FRes))),
      Issues s e.2.1 c → Completes e.1 s c fun c => c.floats g d fun t => e.2.2 (t.vr a).toNat (b.val c t).toNat)

/-- O8. FCMP compares FP32 values, unordered with a NaN. Each FCMP writes into predicate D of every acting lane whether its
condition holds of the order of A and B, where a NaN operand makes them unordered and both zeros are equal, and ORs IV into
%fpst when an acting lane holds any NaN (flt, fle, fgt, fge) or a signalling NaN (the others); an unordered pair makes only fne
and fun true, and of two codes that are no NaN each condition is that of their values, in the order of the magnitudes with the
sign, both zeros equal. (R134, R128, R82) -/
def Obligations.FloatCompare : Prop :=
  (∀ (s : State) (c : Cohort) (d a : Nat) (b : VSrc) (g : Nat),
    ∀ e ∈ ([(.feq d a b g, infoVcmp 19 0 d a b g, FCond.eq),
      (.fne d a b g, infoVcmp 19 1 d a b g, FCond.ne),
      (.flt d a b g, infoVcmp 19 2 d a b g, FCond.lt),
      (.fle d a b g, infoVcmp 19 3 d a b g, FCond.le),
      (.fgt d a b g, infoVcmp 19 4 d a b g, FCond.gt),
      (.fge d a b g, infoVcmp 19 5 d a b g, FCond.ge),
      (.funord d a b g, infoVcmp 19 6 d a b g, FCond.un),
      (.ford d a b g, infoVcmp 19 7 d a b g, FCond.ord)]
      : List (Instr × Info × FCond)),
      Issues s e.2.1 c → Completes e.1 s c fun c =>
        { c.mapT (·.acts g) fun t => t.setP d (e.2.2.holds (fp32.order (t.vr a).toNat (b.val c t).toNat)) with
          fpst := c.fpst ||| (orFlags ((c.actors g).map fun t =>
            e.2.2.invalid (fp32.val (t.vr a).toNat) (fp32.val (b.val c t).toNat))).zeroExtend 64 }) ∧
  (∀ (k : FCond) (x y : Nat), (fp32.val x).isNan = true ∨ (fp32.val y).isNan = true →
    k.holds (fp32.order x y) = decide (k = .ne ∨ k = .un)) ∧
  ∀ x y : Nat, x < 2 ^ 32 → y < 2 ^ 32 → x % 2 ^ 31 ≤ 0x7F800000 → y % 2 ^ 31 ≤ 0x7F800000 →
    let p := if x < 2 ^ 31 then (x : Int) else 2 ^ 31 - (x : Int)
    let q := if y < 2 ^ 31 then (y : Int) else 2 ^ 31 - (y : Int)
    let z := fp32.order x y
    FCond.eq.holds z = decide (p = q) ∧ FCond.ne.holds z = decide (p ≠ q) ∧ FCond.lt.holds z = decide (p < q) ∧
    FCond.le.holds z = decide (p ≤ q) ∧ FCond.gt.holds z = decide (q < p) ∧ FCond.ge.holds z = decide (q ≤ p) ∧
    FCond.un.holds z = false ∧ FCond.ord.holds z = true

/-- O9. fmin and fmax order -0 below +0 and propagate NaN; the nm forms prefer the number. For all FP32 codes x and y: fmin and
fmax return the operand of least or greatest key (the key of a code orders -0 below +0) unchanged with no flag, and the
canonical NaN 0x7FC00000 when either is NaN; fminnm and fmaxnm return the other operand when exactly one is NaN, the canonical
NaN when both are; IV is set when either operand is a signalling NaN. (R130) -/
def Obligations.FloatMinMax : Prop :=
  let nan := fun (x : Nat) => decide (0x7F800000 < x % 2 ^ 31)
  let snan := fun (x : Nat) => nan x && decide (x % 2 ^ 23 < 2 ^ 22)
  let key := fun (x : Nat) => if x < 2 ^ 31 then (x : Int) else 2 ^ 31 - 1 - (x : Int)
  let iv := fun (x y : Nat) => if snan x || snan y then fIV else 0
  ∀ x y : Nat, x < 2 ^ 32 → y < 2 ^ 32 →
    (nan x = false ∧ nan y = false →
      fp32.minMax false x y = (if key x ≤ key y then x else y, 0) ∧
      fp32.minMax true x y = (if key x ≤ key y then y else x, 0) ∧
      fp32.minMaxNm false x y = (if key x ≤ key y then x else y, 0) ∧
      fp32.minMaxNm true x y = (if key x ≤ key y then y else x, 0)) ∧
    (nan x = true ∨ nan y = true → ∀ m : Bool, fp32.minMax m x y = (0x7FC00000, iv x y)) ∧
    (nan x = true ∧ nan y = false → ∀ m : Bool, fp32.minMaxNm m x y = (y, iv x y)) ∧
    (nan x = false ∧ nan y = true → ∀ m : Bool, fp32.minMaxNm m x y = (x, iv x y)) ∧
    (nan x = true ∧ nan y = true → ∀ m : Bool, fp32.minMaxNm m x y = (0x7FC00000, iv x y))

/-- O10. An SFU instruction issues as a long-latency operation whose completion writes vD and %fpst. Each SFU instruction issues at
once: the active threads pass its word, its clause's flags rise, and one operation joins the cohort's list that holds vD and,
for every acting lane, the function of the source (the correctly rounded root and quotient; the others within the bounds of the
error table, a value this model leaves open, log entry 8) with the sticky bits of all of them; no register and no %fpst changes
yet. (R135, R136, R84, R35, R36) -/
def Obligations.SpecialFunctions : Prop :=
  (∀ (s : State) (c : Cohort) (d a g : Nat),
    ∀ e ∈ ([(.frcp d a g, infoVun 20 0 d a g, sfuRcp),
      (.frsq d a g, infoVun 20 1 d a g, sfuRsq),
      (.fsqrt d a g, infoVun 20 2 d a g, fun x => fp32.sqrtV .ne (fp32.val x)),
      (.fexp2 d a g, infoVun 20 4 d a g, sfuExp2),
      (.flog2 d a g, infoVun 20 5 d a g, sfuLog2),
      (.fsinpi d a g, infoVun 20 6 d a g, sfuTrig false),
      (.fcospi d a g, infoVun 20 7 d a g, sfuTrig true),
      (.ftanh d a g, infoVun 20 8 d a g, sfuTanh),
      (.fsigm d a g, infoVun 20 9 d a g, sfuSigm)]
      : List (Instr × Info × (Nat → FRes))),
      Issues s { e.2.1 with long := true } c → Performs e.1 s c fun s => (s.startOp c.key 1
        { id := 0, sfu := true, regsV := dst d,
          res := (c.actors g).map fun t => .v t.tid d (BitVec.ofNat 32 (e.2.2 (t.vr a).toNat).1) false,
          fp := (orFlags ((c.actors g).map fun t => (e.2.2 (t.vr a).toNat).2)).zeroExtend 64 }).1) ∧
  ∀ (s : State) (c : Cohort) (d a : Nat) (b : VSrc) (g : Nat), Issues s { infoVal 20 3 d a b g with long := true } c →
    Performs (.fdiv d a b g) s c fun s => (s.startOp c.key (1 + b.lits.length)
      { id := 0, sfu := true, regsV := dst d,
        res := (c.actors g).map fun t =>
          .v t.tid d (BitVec.ofNat 32 (fp32.divV .ne (fp32.val (t.vr a).toNat) (fp32.val (b.val c t).toNat)).1) false,
        fp := (orFlags ((c.actors g).map fun t =>
          (fp32.divV .ne (fp32.val (t.vr a).toNat) (fp32.val (b.val c t).toNat)).2)).zeroExtend 64 }).1

/-- O11. An F64 instruction parks for the emulation routine bound to feature bit 0, which completes it. While a routine is bound to
feature bit 0, each F64 instruction issues by parking every active thread of its cohort on FEATURE with its PC at the word, its
clause's flags raised by one operation that no register write completes, and the operation, its registers and its guard kept
for the routine; no trap register, no %tmode and no other cohort changes. EMULATION_RETURN of a cohort parked on FEATURE writes
the binary64 result of the table (correctly rounded; cvt.f32.f64 an FP32 value) into D of every parked lane whose guard is
true, ORs the sticky bits of those lanes into %fpst, makes the parked threads eligible at the word after the instruction and
completes the operation, whose flags fall; no trap register changes. While a cohort of a core that halts is parked too and its
own core does not halt, it waits: the order is the model's reading of R282 (notes/assumptions/100.md). (R139, R140, R199, R35,
R90) -/
def Obligations.DoubleFloat : Prop :=
  ((∀ (s : State) (c : Cohort) (d a b g : Nat),
    ∀ e ∈ ([(.dadd d a b g, infoD3 48 0 d a b g, 0),
      (.dsub d a b g, infoD3 48 1 d a b g, 1),
      (.dmul d a b g, infoD3 48 2 d a b g, 2),
      (.dfma d a b g, infoD3D 48 3 d a b g, 3),
      (.ddiv d a b g, infoD3 48 4 d a b g, 4)]
      : List (Instr × Info × Nat)),
      Issues s { e.2.1 with long := true } c → Tab.read 0 s.emul 0 ≠ 0 → Moves e.1 s c fun s =>
        (s.startOp c.key 1 { id := 0, sfu := true, regsV := e.2.1.vd, left := 1 }).1.onCohort c.key fun c =>
        { c.mapT (·.act) fun t => { t with st := .parked .feature } with
          emul := some ⟨e.2.2, d, a, b, g, s.fresh⟩ }) ∧
  ∀ (s : State) (c : Cohort) (d a g : Nat),
    ∀ e ∈ ([(.dsqrt d a g, infoD2 48 5 d a g, 5),
      (.cvtF64F32 d a g, infoDw 48 6 d a g, 6),
      (.cvtF32F64 d a g, infoDn 48 7 d a g, 7)]
      : List (Instr × Info × Nat)),
      Issues s { e.2.1 with long := true } c → Tab.read 0 s.emul 0 ≠ 0 → Moves e.1 s c fun s =>
        (s.startOp c.key 1 { id := 0, sfu := true, regsV := e.2.1.vd, left := 1 }).1.onCohort c.key fun c =>
        { c.mapT (·.act) fun t => { t with st := .parked .feature } with
          emul := some ⟨e.2.2, d, a, 0, g, s.fresh⟩ }) ∧
  ((∀ (s : State) (k : Nat) (c : Cohort) (e : Emul), s.cohort k = some c → c.emul = some e → ∀ no : Bool,
    (s.core (s.crewOf c).core).phase ≠ .halting →
    (∃ o ∈ s.cohorts, o.emul ≠ none ∧ (s.core (s.crewOf o).core).phase = .halting ∧ (s.crewOf o).shadow = false) →
    exec (.emulationReturn k no) s = .next s) ∧
  (∀ (s : State) (k : Nat) (c : Cohort) (e : Emul), s.cohort k = some c → c.emul = some e → s.emulLater c = false →
    (∀ x ∈ s.latent, x.1 ∉ c.emulReads e ++ c.emulWrites e) →
    exec (.emulationReturn k false) s = .next (s.onCohort k fun c =>
      let parked := fun (t : Thread) => decide (t.st = .parked .feature)
      let fl := orFlags ((c.threads.filter fun t => parked t && t.pr e.g).map fun t => (f64Result e t).1.2)
      (({ c with emul := none,
                 threads := c.threads.map fun t =>
                   if parked t then { (f64Write e t) with st := .eligible, pc := t.pc + 4 } else t } : Cohort).addFp
        fl).completeOp e.op)) ∧
  ∀ (t : Thread) (d a b g op : Nat),
    let x := fp64.val (t.vPair a).toNat
    let y := fp64.val (t.vPair b).toNat
    let r := fun (fn : Nat) => f64Result ⟨fn, d, a, b, g, op⟩ t
    r 0 = (fp64.addV .ne x y, 2) ∧ r 1 = (fp64.addV .ne x y.flip, 2) ∧ r 2 = (fp64.mulV .ne x y, 2) ∧
    r 3 = (fp64.fmaV .ne x y (fp64.val (t.vPair d).toNat), 2) ∧ r 4 = (fp64.divV .ne x y, 2) ∧
    r 5 = (fp64.sqrtV .ne x, 2) ∧ r 6 = (cvtFloat fp32 fp64 (t.vr a).toNat, 2) ∧
    r 7 = (cvtFloat fp64 fp32 (t.vPair a).toNat, 1))

/-- O12. A shuffle reads register A of another lane of the cohort. Each shuffle and bcast writes vD of every acting lane l with
register A of lane k, where k is b, l - b, l + b or l XOR b of the unsigned 32-bit b of that lane: the value as it stood before
the instruction, 0 where lane k holds no thread, and the lane's own A where k lies outside 0 to G - 1. (R145, R146) -/
def Obligations.Shuffles : Prop :=
  (∀ (s : State) (c : Cohort) (d a : Nat) (b : VSrc) (g : Nat),
    ∀ e ∈ ([(.shfl d a b g, infoVal 22 0 d a b g, fun _ n => n),
      (.shflup d a b g, infoVal 22 1 d a b g, fun l n => (l : Int) - n),
      (.shfldn d a b g, infoVal 22 2 d a b g, fun l n => (l : Int) + n),
      (.shflx d a b g, infoVal 22 3 d a b g, fun l n => (l ^^^ n : Nat))]
      : List (Instr × Info × (Nat → Nat → Int))),
      Issues s e.2.1 c → Completes e.1 s c fun c => c.mapT (·.acts g) fun t =>
        let k := e.2.2 t.lane (b.val c t).toNat
        t.setV d (if 0 ≤ k ∧ k < (s.crewOf c).gw then c.laneVal a k.toNat else t.vr a)) ∧
  ∀ (s : State) (c : Cohort) (d a : Nat) (b : SSrc) (g : Nat), Issues s (infoBcast 22 4 d a b g) c →
    Completes (.bcast d a b g) s c fun c => c.mapT (·.acts g) fun t =>
      let k := (b.val c).toNat % 2 ^ 32
      t.setV d (if k < (s.crewOf c).gw then c.laneVal a k else t.vr a)

/-- O13. Votes, reductions, prefix counts, compaction, match groups and scans over the acting lanes. vany, vall and ballot write sD
from predicate A of the acting lanes (0, 1 and 0 when none acts); radd.i32, rmin.i32, rmax.i32, rand, ror and rxor write the
sign-extended sum, least and greatest value (2^31 - 1 and -2^31 when none acts) and the zero-extended bitwise reductions of A
over the acting lanes. vpfxc, vcomp, vexpd, vmrank, vmcnt, vmlead, scan.i32 and xscan.i32 write vD of every acting lane from
the acting lanes alone, in ascending lane order: the number of lower lanes with pA true, the j-th selected value, in a selected
lane alone the value whose rank is that of the lane, the place in, the size and the lowest lane of its match group, and the
inclusive and exclusive sums; vtopk and vtopka write pD, true in the k lanes of greatest value or magnitude (ties to the lower
%tid, NaN below all), with IV when a NaN is selected. (R145, R147, R151, R148, R149, R150) -/
def Obligations.CrossLane : Prop :=
  (∀ (s : State) (c : Cohort) (d a g : Nat),
    (∀ e ∈ ([(.vany d a g, infoVote 22 5 d a g, fun l => if l.any (·.pr a) then 1 else 0),
      (.vall d a g, infoVote 22 6 d a g, fun l => if l.all (·.pr a) then 1 else 0),
      (.ballot d a g, infoVote 22 7 d a g, fun l => ballotOf l a),
      (.raddI32 d a g, infoVredS 23 0 d a g, fun l => BitVec.ofInt 64 ((l.map fun t : Thread => (t.vr a).toInt).sum)),
      (.rminI32 d a g, infoVredS 23 1 d a g, fun l => BitVec.ofInt 64 ((l.map fun t : Thread => (t.vr a).toInt).foldl min (2 ^ 31 - 1))),
      (.rmaxI32 d a g, infoVredS 23 2 d a g, fun l => BitVec.ofInt 64 ((l.map fun t : Thread => (t.vr a).toInt).foldl max (-2 ^ 31))),
      (.rand d a g, infoVredS 23 3 d a g, fun l => ((l.map fun t : Thread => t.vr a).foldl (· &&& ·) (BitVec.allOnes 32)).zeroExtend 64),
      (.ror d a g, infoVredS 23 4 d a g, fun l => ((l.map fun t : Thread => t.vr a).foldl (· ||| ·) 0).zeroExtend 64),
      (.rxor d a g, infoVredS 23 5 d a g, fun l => ((l.map fun t : Thread => t.vr a).foldl (· ^^^ ·) 0).zeroExtend 64)]
      : List (Instr × Info × (List Thread → Dword))),
      Issues s e.2.1 c → Completes e.1 s c fun c => c.setS d (e.2.2 (c.actors g))) ∧
    ∀ (l : List Thread) (k : Nat), k < 64 → (ballotOf l a).getLsbD k = l.any fun t => t.lane == k && t.pr a) ∧
  ((∀ (s : State) (c : Cohort) (d a g : Nat),
    ∀ e ∈ ([(.vpfxc d a g, infoVpfxc 22 8 d a g, fun l t => BitVec.ofNat 32 ((before l t).countP (·.pr a))),
      (.vmrank d a g, infoVun 22 11 d a g, fun l t => BitVec.ofNat 32 ((before l t).countP fun x => x.vr a == t.vr a)),
      (.vmcnt d a g, infoVun 22 12 d a g, fun l t => BitVec.ofNat 32 (l.countP fun x => x.vr a == t.vr a)),
      (.vmlead d a g, infoVun 22 13 d a g, fun l t => BitVec.ofNat 32 (((l.find? fun x => x.vr a == t.vr a).map (·.lane)).getD 0)),
      (.scanI32 d a g, infoVun 23 10 d a g, fun l t => t.vr a + ((before l t).map (·.vr a)).sum),
      (.xscanI32 d a g, infoVun 23 12 d a g, fun l t => ((before l t).map (·.vr a)).sum)]
      : List (Instr × Info × (List Thread → Thread → Word))),
      Issues s e.2.1 c → Completes e.1 s c fun c => c.mapT (·.acts g) fun t => t.setV d (e.2.2 (c.actors g) t)) ∧
  (∀ (s : State) (c : Cohort) (d a b g : Nat), Issues s (infoVcomp 22 9 d a b g) c →
    Completes (.vcomp d a b g) s c fun c => c.mapT (·.acts g) fun t =>
      t.setV d ((((c.actors g).filter (·.pr b))[(before (c.actors g) t).length]?.map (·.vr a)).getD 0)) ∧
  (∀ (s : State) (c : Cohort) (d a b g : Nat), Issues s { infoVcomp 22 10 d a b g with part := true } c →
    (∀ e ∈ s.latent, ∀ t ∈ c.threads, e.1 ≠ .vreg c.key t.tid d) →
    Completes (.vexpd d a b g) s c fun c => c.mapT (fun t => t.acts g && t.pr b) fun t =>
      t.setV d ((((c.actors g)[(before (c.actors g) t).countP (·.pr b)]?).map (·.vr a)).getD (t.vr d))) ∧
  ∀ (s : State) (c : Cohort) (d a : Nat) (b : SSrc) (g : Nat),
    ∀ e ∈ ([(.vtopk d a b g, infoVtopk 22 14 d a b g, false), (.vtopka d a b g, infoVtopk 22 15 d a b g, true)]
      : List (Instr × Info × Bool)),
      Issues s e.2.1 c → Completes e.1 s c fun c =>
        let key := fun (t : Thread) => topKey e.2.2 (t.vr a).toNat
        let sel := fun (t : Thread) => decide ((((c.actors g).countP fun x =>
          decide (key t < key x ∨ key x = key t ∧ x.tid < t.tid))) < (b.val c).toNat)
        (c.addFp (if (c.actors g).any fun t => sel t && (fp32.val (t.vr a).toNat).isNan then fIV else 0)).mapT (·.acts g)
          fun t => t.setP d (sel t))

/-- O14. FP32 reductions follow their fixed order of additions. radd.f32 writes the zero-extended root of the pairwise tree over
the cohort's G positions, a lane that does not act keeping its position with -0; radd.f32.any compacts the acting lanes first,
in lane order, pads with -0 to the least power of two, and delivers a NaN as the canonical one; rmin.f32 and rmax.f32 deliver
an acting value that is least or greatest by the key of fmin and fmax, with no flag (+infinity and -infinity when no lane acts;
the canonical NaN when any is NaN, with IV for a signalling one); scan.f32 writes in every acting lane the nested sum of the
aligned nodes that split positions 0 to l; each ORs its sticky bits into %fpst and changes nothing else. (R152, R153, R154,
R155, R156, R157) -/
def Obligations.FloatReductions : Prop :=
  (∀ (s : State) (c : Cohort) (d a g : Nat),
    ∀ e ∈ ([(.raddF32 d a g, infoVredS 23 6 d a g, fun c n => treeRoot (Nat.log2 n) (c.leaves g n a)),
      (.raddF32Any d a g, infoVredS 23 7 d a g, raddAny g a),
      (.rminF32 d a g, infoVredS 23 8 d a g, rextF false g a),
      (.rmaxF32 d a g, infoVredS 23 9 d a g, rextF true g a)]
      : List (Instr × Info × (Cohort → Nat → FRes))),
      Issues s e.2.1 c → Completes e.1 s c fun c =>
        (c.addFp (e.2.2 c (s.crewOf c).gw).2).setS d (BitVec.ofNat 64 (e.2.2 c (s.crewOf c).gw).1)) ∧
  (∀ (s : State) (c : Cohort) (d a g : Nat), Issues s (infoVun 23 11 d a g) c →
    Completes (.scanF32 d a g) s c fun c => c.floats g d fun t =>
      nestSum (splitNodes (c.leaves g (s.crewOf c).gw a) 7 (t.lane + 1))) ∧
  (∀ (k : Nat) (l : List FRes), treeRoot (k + 1) l = treeRoot k (treeLevel l)) ∧
  (∀ (x y : FRes) (l : List FRes), treeRoot 0 [x] = x ∧ treeLevel [] = [] ∧ treeLevel (x :: y :: l) =
    (let r := fp32.addV .ne (fp32.val x.1) (fp32.val y.1)
     (r.1, r.2 ||| x.2 ||| y.2)) :: treeLevel l) ∧
  ∀ (c : Cohort) (g a n : Nat),
    let l := (c.actors g).map fun t => (t.vr a).toNat
    let nan := fun (x : Nat) => decide (0x7F800000 < x % 2 ^ 31)
    let key := fun (x : Nat) => if x < 2 ^ 31 then (x : Int) else 2 ^ 31 - 1 - (x : Int)
    (∀ k, l.length ≤ 2 ^ k → (k = 0 ∨ 2 ^ (k - 1) < l.length) →
      let r := treeRoot k (l.map (·, 0) ++ List.replicate (2 ^ k - l.length) (0x80000000, 0))
      raddAny g a c n = (if nan r.1 then 0x7FC00000 else r.1, r.2)) ∧
    ∀ m : Bool,
      (l.any nan = true → rextF m g a c n =
        (0x7FC00000, if l.any (fun x => nan x && decide (x % 2 ^ 23 < 2 ^ 22)) then fIV else 0)) ∧
      (l = [] → rextF m g a c n = (if m then 0xFF800000 else 0x7F800000, 0)) ∧
      (l.any nan = false → l ≠ [] → ∃ x ∈ l, rextF m g a c n = (x, 0) ∧
        ∀ y ∈ l, if m then key y ≤ key x else key x ≤ key y)

/-- O15. rgput deposits the acting threads, rgflush and the bin events form cohorts, rgqry reads occupancy. Outside the trap
handler, with no unacknowledged packet and no operation of the cohort under way, rgput moves the acting threads, reset but for
v0-v15, p0-p6 and %tid, into bins of the sub-core that match crew, role, key and continuation PC or are free, those that fit no
bin continuing in their cohort, whose released threads and complete signatures go on; with every bin of the sub-core free and
fewer than G acting threads, bin 0, the lowest free one by notes/assumptions/18.md, then holds exactly them with the key;
rgflush forms a cohort from every bin of the crew; rgqry writes COUNT of the issuing crew and role's bins, modulo 64 by
notes/assumptions/18.md, and OTHER for the rest into sD. (R158, R159, R160, R161, R162) -/
def Obligations.Regrouping : Prop :=
  (∀ (s : State) (c : Cohort) (a : SSrc) (g : Nat), Issues s (infoRgput 24 0 a g) c → c.tmode = false → c.acks = 0 →
    c.ops = [] → (∀ e ∈ s.latent, e.1 ∉ c.depositReads (c.actors g) ++ c.depositWrites (c.actors g)) →
      let ts := (c.actors g).map (·.binned (BitVec.ofNat 64 c.nextHeader))
      Performs (.rgput a g) s c (fun s =>
        let r := State.deposit c (s.crewOf c) (a.val c).toNat c.nextHeader 9 none s ts
        let gone := (ts.map (·.tid)).filter fun n => !((r.2.map (·.tid)).contains n)
        r.1.onCohort c.key fun d =>
          (({ d with threads := d.threads.filter fun t => !(gone.contains t.tid) } : Cohort).mapT
            (fun t => (r.2.map (·.tid)).contains t.tid) (·.binned (BitVec.ofNat 64 c.nextHeader))).release.closeSigs) ∧
      ((∀ n, n < 8 → (Tab.read {} s.bins (binIx (s.crewOf c).core c.sub n)).held = false) →
        ts ≠ [] → ts.length < (s.crewOf c).gw →
          let r := State.deposit c (s.crewOf c) (a.val c).toNat c.nextHeader 9 none s ts
          let b := Tab.read {} r.1.bins (binIx (s.crewOf c).core c.sub 0)
          r.2 = [] ∧ b.held = true ∧ b.full = false ∧ b.crew = (s.crewOf c).key ∧ b.role = c.role ∧
            b.key = (a.val c).toNat ∧ b.cpc = c.nextHeader ∧ (∀ t, t ∈ b.threads ↔ t ∈ ts))) ∧
  (∀ (s : State) (c : Cohort) (g : Nat), Issues s (infoGonly 24 1 g) c → c.tmode = false → c.guard g = true →
    Performs (.rgflush g) s c fun s => s.flushCrew c.crew) ∧
  ∀ (s : State) (c : Cohort) (d g : Nat), Issues s (infoRgqry 24 2 d g) c → c.guard g = true →
    let byte := fun (n : Nat) =>
      let b := Tab.read {} s.bins (binIx (s.crewOf c).core c.sub n)
      if b.held then (if b.crew = (s.crewOf c).key ∧ b.role = c.role then b.threads.length % 64 else 128) else 0
    Completes (.rgqry d g) s c fun c => c.setS d (BitVec.ofNat 64
      (byte 0 + byte 1 * 2 ^ 8 + byte 2 * 2 ^ 16 + byte 3 * 2 ^ 24 + byte 4 * 2 ^ 32 + byte 5 * 2 ^ 40 + byte 6 * 2 ^ 48 +
        byte 7 * 2 ^ 56))

/-- O16. A full bin forms its cohort once a place and register bytes are free; a flush forms the rest. BIN_FORMATION of a full bin,
with a cohort place and G x V x 4 register bytes free on the sub-core, appends a cohort that holds the bin's threads in order
in lanes 0 upward, all eligible, with the snapshot's scalars and their poison, its %fpst and %mstat (notes/assumptions/75.md),
and clear flags on that sub-core, and frees the bin; without a place or without the register bytes, or of a bin that is not
full, it changes nothing; AUTO_FLUSH of a crew flushes its bins when it is in no saved context and every non-exited thread of
every cohort waits at a wreq, and changes nothing otherwise. (R160, R161) -/
def Obligations.BinFormation : Prop :=
  (∀ (s : State) (core sub n : Nat) (cr : Crew) (pl : Nat),
    let b := Tab.read {} s.bins (binIx core sub n)
    b.full = true → b.threads ≠ [] → s.crew b.crew = some cr → cr.shadow = false → cr.out = none → s.freePlace core sub = some pl →
    cr.cohortBytes b.role ≤ s.freeRegs core sub →
      ∃ t d, exec (.binFormation core sub n) s = .next t ∧ t.cohorts = s.cohorts ++ [d] ∧
        t = { s with fresh := s.fresh + 1, cohorts := t.cohorts, bins := Tab.put {} s.bins (binIx core sub n) {} } ∧
        d.threads.map (·.tid) = b.threads.map (·.tid) ∧ d.threads.map (·.lane) = List.range b.threads.length ∧
        (∀ x ∈ d.threads, x.st = .eligible) ∧ d.threads.map (·.v) = b.threads.map (·.v) ∧
        d.s = b.s ∧ d.sPoison = b.sPoison ∧ d.fpst = b.fpst ∧ d.mstat = b.mstat ∧ d.flags = [] ∧ d.acc = [] ∧ d.crew = b.crew ∧ d.role = b.role ∧
        d.sub = sub ∧ d.place = pl) ∧
  (∀ (s : State) (core sub n : Nat),
    let b := Tab.read {} s.bins (binIx core sub n)
    (b.full = false ∨ s.freePlace core sub = none ∨
      ∃ cr, s.crew b.crew = some cr ∧ s.freeRegs core sub < cr.cohortBytes b.role) →
    exec (.binFormation core sub n) s = .next s) ∧
  ∀ (s : State) (k : Nat),
    let atWreq := ∀ c ∈ s.cohortsOf k, c.live ≠ [] → ∀ t ∈ c.threads, t.st = .exited ∨ ∃ d r n, t.st = .waiting (.wreq d r n)
    let here := ∀ cr, s.crew k = some cr → cr.shadow = false ∧ cr.out = none
    (here → atWreq → exec (.autoFlush k) s = .next (s.flushCrew k)) ∧ (¬ (here ∧ atWreq) → exec (.autoFlush k) s = .next s)

/-- O17. br, call and meet check one target, which is the word's address plus 4 times the offset. When the target, the word's
address + 4 sext(OFF22, 22), passes the target check or no thread takes it, br and call set PC := target in the active threads
whose guard (inverted when N = 1, true for G = 7) is true and PC := the next clause header in the others, call setting %lr :=
that header in the takers, and meet sets MR := target in them while every PC advances; when some thread takes it and the check
answers a cause (BAD_TARGET with the target where it is unaligned, outside the text or no clause header; DETAIL 4 with the
address of the map byte where the map cannot be read), all three have no effect of their own and raise that cause in every
taking thread; N = 1 with G = 7 is no instruction. (R117, R48, R40) -/
def Obligations.Branches : Prop :=
  (∀ (s : State) (c : Cohort) (g : Nat) (n : Bool) (off : BitVec 22),
    let target := BitVec.ofInt 64 ((c.pc : Int) + 4 * off.toInt)
    let takes := fun (t : Thread) => t.act && (if g = 7 then !n else t.pr g != n)
    let next := BitVec.ofNat 64 c.nextHeader
    let check := s.badTarget (s.crewOf c) target.toNat
    let takers := c.threads.filter takes
    let legal := check = none ∨ takers = []
    let bad := fun (i : Instr) => ∀ e, check = some e → takers ≠ [] →
      Raises i s c (takers.map fun t => ⟨t.tid, e.1, if e.1 = 8 then 0 else 4, e.2, 0⟩)
    (Issues s (infoBr 11 g n off) c →
      (legal → Moves (.br g n off) s c fun s => s.onCohort c.key fun c => c.mapT (·.act) fun t =>
        { t with pc := if takes t then target else next }) ∧ bad (.br g n off)) ∧
    (Issues s (infoBr 12 g n off) c →
      (legal → Moves (.call g n off) s c fun s => s.onCohort c.key fun c => c.mapT (·.act) fun t =>
        if takes t then { t with pc := target, lr := next } else { t with pc := next }) ∧ bad (.call g n off)) ∧
    (Issues s (infoBr 13 g n off) c →
      (legal → Completes (.meet g n off) s c fun c => c.mapT takes fun t => { t with mr := target }) ∧
        bad (.meet g n off))) ∧
  (∀ (s : State) (cr : Crew) (a : Nat), a % 4 ≠ 0 ∨ a < cr.hdr.text ∨ cr.hdr.text + cr.hdr.tlen ≤ a →
    s.badTarget cr a = some (8, a)) ∧
  (∀ (s : State) (cr : Crew) (a : Nat), a % 4 = 0 → cr.hdr.text ≤ a → a < cr.hdr.text + cr.hdr.tlen →
    s.badTarget cr a = match s.mapBit cr a with
      | .ok true => none
      | .ok false => some (8, a)
      | .error e => some e) ∧
  ∀ off : BitVec 22, (Instr.br 7 true off).wellFormed = false ∧ (Instr.call 7 true off).wellFormed = false ∧
    (Instr.meet 7 true off).wellFormed = false

/-- O18. ret, brx and callx go to each acting thread's own target, mrget and mrset move MR; a failing target of any of them raises
its cause. When every acting thread's target passes the target check, ret sends it to %lr, brx and callx to its register pair,
callx setting %lr to the next clause header, the other active threads going on at that header, and mrset sets MR from its pair,
a clear pair always passing; when some target fails, ret, brx, callx and mrset have no effect of their own and raise the
highest cause in the threads that found it, BAD_TARGET recording in each of them the target of the lowest failing thread; mrget
writes MR into the pair. (R119, R121, R40, R194) -/
def Obligations.Jumps : Prop :=
  (∀ (s : State) (c : Cohort) (a g : Nat),
    let next := BitVec.ofNat 64 c.nextHeader
    let legal := fun (target : Thread → Dword) => ∀ t ∈ c.actors g, s.badTarget (s.crewOf c) (target t).toNat = none
    let goes := fun (target : Thread → Dword) (lr : Bool) (s : State) => s.onCohort c.key fun c => c.mapT (·.act) fun t =>
      if t.acts g then { t with pc := target t, lr := if lr then next else t.lr } else { t with pc := next }
    (Issues s (infoGonly 14 0 g) c → legal (·.lr) → Moves (.ret g) s c (goes (·.lr) false)) ∧
    (Issues s (infoPairA 14 3 a g) c → legal (·.vPair a) → Moves (.brx a g) s c (goes (·.vPair a) false)) ∧
    (Issues s (infoPairA 14 4 a g) c → legal (·.vPair a) → Moves (.callx a g) s c (goes (·.vPair a) true)) ∧
    (Issues s (infoPairA 14 6 a g) c →
      (∀ t ∈ c.actors g, t.vPair a = BitVec.allOnes 64 ∨ s.badTarget (s.crewOf c) (t.vPair a).toNat = none) →
        Completes (.mrset a g) s c fun c => c.mapT (·.acts g) fun t => { t with mr := t.vPair a }) ∧
    let failing := fun (target : Thread → Dword) (ts : List Thread) => winners (ts.filterMap fun t =>
      (s.badTarget (s.crewOf c) (target t).toNat).map fun e =>
        ({ tid := t.tid, code := e.1, detail := if e.1 = 8 then 0 else 4, info := e.2 } : LCause))
    let bad := fun (i : Instr) (target : Thread → Dword) (ts : List Thread) => ∀ x l, failing target ts = x :: l →
      Raises i s c ((x :: l).map fun y => if x.code = 8 then { y with info := x.info } else y)
    (Issues s (infoGonly 14 0 g) c → bad (.ret g) (·.lr) (c.actors g)) ∧
    (Issues s (infoPairA 14 3 a g) c → bad (.brx a g) (·.vPair a) (c.actors g)) ∧
    (Issues s (infoPairA 14 4 a g) c → bad (.callx a g) (·.vPair a) (c.actors g)) ∧
    (Issues s (infoPairA 14 6 a g) c →
      bad (.mrset a g) (·.vPair a) ((c.actors g).filter fun t => t.vPair a != BitVec.allOnes 64))) ∧
  ∀ (s : State) (c : Cohort) (d g : Nat), Issues s (infoPairD 14 5 d g) c →
    Completes (.mrget d g) s c fun c => c.mapT (·.acts g) fun t => t.setPair d t.mr

/-- O19. exit, yield and csign change the states of the threads that reach them; nop changes nothing. Outside a save step exit
takes the acting threads out of the cohort, their cv bits cleared, sends the other active threads to the next header, completes
the signatures that are now whole and lowers every barrier's expected count by the number of threads that left; in a save step
the acting threads are saved instead; yield makes the acting threads yielded behind the eligible threads outside the active
set, and with none of those only advances; csign signs its register for every active thread and, when every non-exited thread
has signed, releases the signed threads at the word after their own csign; nop only advances. (R116, R118, R120, R122, R123,
R292, R347) -/
def Obligations.ExitYieldSign : Prop :=
  (∀ (s : State) (c : Cohort) (g : Nat), Issues s (infoGonly 14 1 g) c → (s.crewOf c).saving = false →
    Moves (.exit g) s c fun s =>
      (s.onCohort c.key fun c => Cohort.closeSigs (c.mapT (·.act) fun t =>
        if t.acts g then { t with st := .exited, act := false, inH := false, cv := 0 }
        else { t with pc := BitVec.ofNat 64 c.nextHeader })).barExit (s.crewOf c) (c.actors g).length) ∧
  (∀ (s : State) (c : Cohort) (g : Nat), Issues s (infoGonly 14 1 g) c → (s.crewOf c).saving = true →
    Moves (.exit g) s c fun s => s.onCohort c.key fun c => c.mapT (·.act) fun t =>
      if t.acts g then { t with st := .saved, act := false } else { t with pc := BitVec.ofNat 64 c.nextHeader }) ∧
  (∀ (s : State) (c : Cohort) (g : Nat), Issues s (infoGonly 14 2 g) c →
    let w := (c.threads.filter fun t => c.elig t && !t.act).map (·.tid)
    (w = [] → Completes (.yield g) s c id) ∧
    (w ≠ [] → Performs (.yield g) s c fun s => s.onCohort c.key fun c =>
      c.mapT (·.acts g) fun t => { t with st := .yielded w, act := false, pc := t.pc + 4 })) ∧
  (∀ (s : State) (c : Cohort) (n : Nat), Issues s (infoCsign 14 8 n) c →
    (c.sig n = none ∨ ∃ x, c.sig n = some x ∧ (x.pc = BitVec.ofNat 64 c.pc ∨ x.csign = true)) →
      Performs (.csign n) s c fun s => s.onCohort c.key fun c =>
        let d := c.mapT (·.act) fun t =>
          { t with st := .signed n, act := false, pc := t.pc + 4, cv := t.cv ||| (1#7 <<< n) }
        Cohort.closeSigs { d with sigs := if (c.sig n).isSome then c.sigs else
          c.sigs ++ [⟨n, BitVec.ofNat 64 c.pc, true⟩] }) ∧
  ∀ (s : State) (c : Cohort), Issues s (infoNone 14 7) c → Completes .nop s c id

/-- O20. A precise exception, trap and brk enter the handler with the trap registers saved; tret returns. With a usable trap PC,
outside trap mode and a save step, trap N and brk N write %tpc (the next clause header for trap, the word after it for brk),
%tmr := MR, %tcause := TRAP and %tinfo (N, and 0x100 + N for brk) in each acting thread, set its PC to the trap PC and %tmode
to 1, end what it had requested of a queue or of the store, and let the other active threads go on at that header or word; in
trap mode tret and tret.skip, every %tpc legal, send each active thread to its %tpc with MR as it is and out of its handler,
tret.skip with its next watch check suppressed, and let the copies whose watch report that handler received go on; outside trap
mode their ILLEGAL_OP kills the crew, with the word in the record. Outside trap mode and a save step and with a usable trap PC,
an exception of one cause other than XLATE, found by every active thread, gives each of them %tpc := the word, %tmr := MR,
%tcause := CODE with DETAIL and %tinfo := the information, PC := the trap PC, and sets %tmode, ends what it had requested of a
queue or of the store, and leaves the other threads, every other register, all other cohorts and memory as they were; in trap
mode or without a usable trap PC it kills a crew that is not speculative; a word that begins no instruction is such an
exception, ILLEGAL_OP with the word. (R124, R125, R191, R192, R196, R206, R207, R204, R58, R194) -/
def Obligations.Exceptions : Prop :=
  ((∀ (s : State) (c : Cohort) (n g : Nat), c.tmode = false → s.trapRefused (s.crewOf c) = false →
    (s.crewOf c).saving = false → c.actors g ≠ [] →
      let delivered := fun (at_ info : Nat) (s : State) =>
        (s.endWaits c.key ((c.actors g).map (·.tid))).onCohort c.key fun c =>
        { c.mapT (·.act) fun t =>
            if t.acts g then { t with tpc := BitVec.ofNat 64 at_, tmr := t.mr, tcause := 9, tinfo := BitVec.ofNat 64 info,
                                      pc := BitVec.ofNat 64 (s.crewOf c).hdr.trappc, inH := true }
            else { t with pc := BitVec.ofNat 64 at_ } with tmode := true }
      (Issues s (infoNum 14 9 n g) c → Moves (.trap n g) s c (delivered c.nextHeader n)) ∧
      (Issues s (infoNum 62 0 n g) c → Moves (.brk n g) s c (delivered (c.pc + 4) (0x100 + n)))) ∧
  (∀ (s : State) (c : Cohort) (n g : Nat), c.actors g = [] →
    (Issues s (infoNum 14 9 n g) c → Moves (.trap n g) s c fun s => s.onCohort c.key fun c =>
      c.mapT (·.act) fun t => { t with pc := BitVec.ofNat 64 c.nextHeader }) ∧
    (Issues s (infoNum 62 0 n g) c → Completes (.brk n g) s c id)) ∧
  (∀ (s : State) (c : Cohort), ∀ e ∈ ([(.tret, infoTret 0, false), (.tretSkip, infoTret 1, true)] : List (Instr × Info × Bool)),
    Issues s e.2.1 c → c.tmode = true → (∀ t ∈ c.actives, s.badTpc (s.crewOf c) t.tpc.toNat = none) →
      let on := fun (x : Copy) => { x with pausedW := none }
      let mine := fun (x : Copy) => x.cohort == c.key && x.pausedW == some true
      Moves e.1 s c (fun s => ({ s with copies := mapIf mine on s.copies } : State).onCohort c.key
        fun c => c.mapT (·.act) fun t => { t with pc := t.tpc, inH := false }) ∧
      ∃ t d, exec e.1 s = .next t ∧ t.cohort c.key = some d ∧
        List.Forall₂ (fun x y : Thread => x.act = true → y.skipW = e.2.2 ∧ y.act = false) c.threads d.threads) ∧
  ∀ (s : State) (c : Cohort), c.tmode = false →
    let killed := fun (word : Dword) => s.unheld.killCrew c (·.act)
      { code := 1, detail := 0, info := word, pc := BitVec.ofNat 64 c.pc, sub := c.sub, place := c.place }
    (Issues s (infoTret 0) c → exec .tret s = .next (killed 0x3800007A)) ∧
    (Issues s (infoTret 1) c → exec .tretSkip s = .next (killed 0x3810007A))) ∧
  ((∀ (s : State) (c : Cohort) (code detail info : Nat), s.cohort c.key = some c → c.actives ≠ [] → code ≠ 5 → code < 256 →
    detail < 256 →
    let u := s.takeFault c.key (·.act) c.pc c.pc (c.every code detail info)
    let cr := s.crewOf c
    (c.tmode = false → s.trapRefused cr = false → cr.saving = false →
      let v := s.endWaits c.key (c.actives.map (·.tid))
      ∃ d, u = { v with cohorts := u.cohorts } ∧ u.cohort c.key = some d ∧ d.tmode = true ∧ d.clause = none ∧ d.s = c.s ∧
        d.fpst = c.fpst ∧ d.ops = c.ops ∧ (∀ j, j ≠ c.key → u.cohort j = s.cohort j) ∧
        List.Forall₂ (fun x y : Thread =>
          (x.act = true → y.tpc = BitVec.ofNat 64 c.pc ∧ y.tmr = x.mr ∧ y.tcause.toNat = code + 256 * detail ∧
            y.tinfo = BitVec.ofNat 64 info ∧ y.pc = BitVec.ofNat 64 cr.hdr.trappc ∧ y.inH = true ∧ y.act = false ∧ y.v = x.v ∧
            y.p = x.p) ∧
          (x.act = false → y.tpc = x.tpc ∧ y.tmr = x.tmr ∧ y.tcause = x.tcause ∧ y.tinfo = x.tinfo ∧ y.pc = x.pc ∧
            y.inH = x.inH ∧ y.v = x.v ∧ y.p = x.p)) c.threads d.threads) ∧
    (c.tmode = true ∨ s.trapRefused cr = true → ∀ k, s.crew c.crew = some k → k.spec = false →
      u = s.killNow c.crew { code := code, detail := detail, info := BitVec.ofNat 64 info, pc := BitVec.ofNat 64 c.pc,
                             sub := c.sub, place := c.place })) ∧
  ∀ (s : State) (c : Cohort) (e : Reject), s.agenda = [] → s.stalled = false → s.issuer = some c →
    decode c.fetched = .error e →
      step s = .next (s.takeFault c.key (·.act) c.pc c.pc (c.every 1 0 (c.fetched.headD 0).toNat)))

/-- O21. wreq waits at the gathering; the grant is the widest width within the least request that fits, and a new width moves every
thread to its place. wreq issued with every non-exited thread of its cohort active waits with its request, and otherwise raises
CONV; the grant of a request is the widest of 64, 32 and 16 within it (a request below 16 counting as 16, one above 64 as 64)
that fits, and there is none where none fits; WREQ_GRANT changes nothing while a cohort of the crew that holds a thread does
not wait at a wreq, while one of its threads is binned, or while no width fits; when the grant is the width the crew has, it
writes the grant into sD of every cohort and sends its threads on after their own wreq, %gw and the last-read grant being that
width; when it is another, it delivers SLOT to every waiting cohort if one holds an accumulator name or an operand slot, waits
while anything of the crew is outstanding, and else re-slices: every waiting thread goes on after its own wreq in the lane %tid
mod G of a cohort that R75 gives, with its registers, and each cohort takes the scalars of the old cohort of its lowest thread,
the grant in that cohort's sD (notes/assumptions/92.md), with no flag and no accumulator name. A re-slice also waits while a
drain of the crew's held stores is under way or parked. (R126, R23, R75, R76, R77, R80, R142, R143) -/
def Obligations.WidthRequest : Prop :=
  (∀ (s : State) (c : Cohort) (d : Nat) (a : SSrc), Issues s (infoWreq 14 11 d a) c →
    (c.live.length = c.actives.length →
      Waits (.wreq d a) s c (.wreq d (a.val c).toNat c.nextHeader)) ∧
    (c.live.length ≠ c.actives.length →
      Raises (.wreq d a) s c (c.every 15 0 (7 + 11 * 256 + 14 * 65536)))) ∧
  (∀ (s : State) (core b req : Nat) (h : Header) (cs : Nat → List (Nat × Nat)) (mine : Nat),
    let fits := fun (g : Nat) => g ≤ max 16 (min 64 req) ∧ s.fits core b g h (cs g) mine = true
    (∀ g, s.grant core b req h cs mine = some g →
      (g = 16 ∨ g = 32 ∨ g = 64) ∧ fits g ∧ ∀ w ∈ [16, 32, 64], g < w → ¬ fits w) ∧
    (s.grant core b req h cs mine = none → ∀ w ∈ [16, 32, 64], ¬ fits w)) ∧
  (∀ (s : State) (k : Nat) (cr : Crew), s.crew k = some cr → cr.torn = false → cr.shadow = false → cr.out = none →
    let cs := (s.cohortsOf k).filter fun c => !c.live.isEmpty
    let binned := s.bins.any fun e => e.2.held && e.2.crew == k
    let req := reqOf (leastD 64 (cs.filterMap fun c => c.atWreq.map (·.2.1)))
    let granted := s.grant cr.core cr.base req cr.hdr (fun g =>
      (sliceAll { cr with gw := g } (s.cohortsOf k) g 0 (slicesOf cr.hdr g)).map fun c => (c.cid, c.role)) k
    ((cs = [] ∨ (∃ c ∈ cs, c.atWreq = none) ∨ binned = true ∨ granted = none) → exec (.wreqGrant k) s = .next s) ∧
    ((∀ e ∈ s.latent, ∀ c ∈ cs, ∀ n, e.1 ≠ .sreg c.key n) → cs ≠ [] → (∀ c ∈ cs, c.atWreq ≠ none) → binned = false →
      (granted = some cr.gw → ∃ t, exec (.wreqGrant k) s = .next t ∧ t = { s with cohorts := t.cohorts, crews := t.crews } ∧
        t.cohorts = mapIf (fun c => c.crew == k) (fun c => (c.afterWreq cr.gw).settle) s.cohorts ∧
        t.crews = mapIf (fun x => x.key == k) (fun x => { x with gw := cr.gw, lastGrant := cr.gw, lastReq := req }) s.crews) ∧
      ∀ g, granted = some g → g ≠ cr.gw →
        (s.crewHolds k = true → exec (.wreqGrant k) s = .next (cs.foldl (fun s c =>
          let pc := ((c.live.head?).map (·.pc.toNat)).getD 0
          s.takeFault c.key (fun t => decide (t.st ≠ .exited)) pc pc
            (c.live.map fun t => ⟨t.tid, 14, 0, 0xFF + 11 * 256, 0⟩)) s)) ∧
        (s.crewHolds k = false → s.crewQuiet k = false ∨ s.draining k = true → exec (.wreqGrant k) s = .next s) ∧
        (s.crewHolds k = false → s.crewQuiet k = true → s.draining k = false → ∃ t, exec (.wreqGrant k) s = .next t ∧
          t.gmem = s.gmem ∧ t.cmem = s.cmem ∧ t.smem = s.smem ∧
          (∀ j, j ≠ k → t.crew j = s.crew j) ∧
          (∃ e, t.crew k = some e ∧ e = { cr with gw := g, lastGrant := g, lastReq := req, effects := e.effects }) ∧
          (∀ c ∈ s.cohorts, c.crew ≠ k → c ∈ t.cohorts) ∧
          (∀ c ∈ cs, ∀ d r n, c.atWreq = some (d, r, n) → ∀ x ∈ c.threads, x.atWreq ≠ none →
            (∃ e ∈ slicesOf cr.hdr g, cr.hdr.tbase e.2.1 + e.2.2.1 ≤ x.tid ∧ x.tid < cr.hdr.tbase e.2.1 + e.2.2.1 + e.2.2.2) →
            ∃ e ∈ t.cohorts, e.crew = k ∧ ∃ y ∈ e.threads, y.tid = x.tid ∧ y.lane = x.tid % g ∧ y.pc = BitVec.ofNat 64 n ∧
              y.v = x.v ∧ y.p = x.p ∧ y.lr = x.lr ∧ y.tpc = x.tpc ∧ y.tmr = x.tmr ∧ y.tinfo = x.tinfo ∧ y.tcause = x.tcause) ∧
          ∀ e ∈ t.cohorts, e.crew = k → e.flags = [] ∧ e.acc = [] ∧ e.ops = [] ∧ e.sub = (cr.base + e.cid) % 4 ∧
            ∃ c ∈ s.cohortsOf k, ∃ u ∈ c.threads, (∀ y ∈ e.threads, u.tid ≤ y.tid) ∧ (∃ y ∈ e.threads, y.tid = u.tid) ∧
              e.s = (c.afterWreq g).s ∧ e.fpst = c.fpst ∧ e.mstat = c.mstat)))

/-- O22. rdsp, wrsp, rdcnt and mark reach the special registers and counters. rdsp copies the scalar special register of its index
into sD under the cohort's guard, a read of %gw also setting the last-read grant, or the vector one into vD or its even pair in
every acting lane; wrsp writes %fpst or %mstat with their reserved bits clear, %lr at any time and %tpc, %tmr, %tcause (its
reserved bits clear) and %tinfo in trap mode; reads and writes of %fpst hold while earlier SFU or F64 work is under way, those
of %mstat while matrix work is; rdcnt writes the counter of its number into sD under the guard; mark counts event 10 with its
value under the guard and changes nothing else; a kind that does not match the index, an index that is none, an odd pair, a
wrsp of a register that it may not write, of a trap register outside trap mode, and a rdcnt of no counter raise ILLEGAL_OP (the
scalar form of %lane and %tid by notes/assumptions/71.md). (R55, R56, R127, R80, R82, R83, R84, R412, R413) -/
def Obligations.SpecialRegisters : Prop :=
  (∀ (s : State) (c : Cohort) (d x g : Nat), Issues s (infoRdsp 14 12 d true x g) c →
    (spIsScalar x = true → c.spWaits x = false → c.guard g = true → x ≠ 0 →
      Completes (.rdsp d true x g) s c fun c => c.setS d ((s.spScalar c x).getD 0)) ∧
    (x = 0 → c.guard g = true → Performs (.rdsp d true 0 g) s c fun s =>
      (s.onCrew c.crew fun cr => { cr with lastGrant := cr.gw }).onCohort c.key fun c =>
        c.setS d (BitVec.ofNat 64 (s.crewOf c).gw)) ∧
    (spIsScalar x = true → c.spWaits x = false → c.guard g = false → Completes (.rdsp d true x g) s c id) ∧
    (spIsScalar x = false → Raises (.rdsp d true x g) s c (c.every 1 0 (asmA 14 d 0 x 1 g 12).toNat)) ∧
    (spIsScalar x = true → c.spWaits x = true → exec (.rdsp d true x g) s = .next s.unheld.stall)) ∧
  (∀ (s : State) (c : Cohort) (d x g : Nat), Issues s (infoRdsp 14 12 d false x g) c →
    let pairOk := spPair x = false ∨ (d % 2 = 0 ∧ d + 2 ≤ 63)
    (spIsVector x = true → pairOk →
      Completes (.rdsp d false x g) s c fun c => c.mapT (·.acts g) fun t =>
        if spPair x then t.setPair d ((t.spVector x).getD 0) else t.setV d (((t.spVector x).getD 0).truncate 32)) ∧
    (spIsVector x = false ∨ ¬ pairOk → Raises (.rdsp d false x g) s c (c.every 1 0 (asmA 14 d 0 x 0 g 12).toNat))) ∧
  (∀ (s : State) (c : Cohort) (a : VSrc) (g : Nat), (∀ n, a ≠ .v n) →
    (Issues s (infoWrsp 14 13 11 a g) c →
      (c.ops.any (·.sfu) = false → Completes (.wrsp 11 a g) s c fun c =>
        if c.guard g then { c with fpst := a.sval c &&& 0x3F } else c) ∧
      (c.ops.any (·.sfu) = true → exec (.wrsp 11 a g) s = .next s.unheld.stall)) ∧
    (Issues s (infoWrsp 14 13 12 a g) c →
      let under := c.ops.any fun o => decide (o.cls = .mtx)
      (under = false → Completes (.wrsp 12 a g) s c fun c =>
        if c.guard g then { c with mstat := a.sval c &&& 7 } else c) ∧
      (under = true → exec (.wrsp 12 a g) s = .next s.unheld.stall)) ∧
    ∀ x, x ≠ 11 → x ≠ 12 → Issues s (infoWrsp 14 13 x a g) c →
      Raises (.wrsp x a g) s c (c.every 1 0 ((infoWrsp 14 13 x a g).words.headD 0).toNat)) ∧
  (∀ (s : State) (c : Cohort) (n x g : Nat), Issues s (infoWrsp 14 13 x (.v n) g) c →
    let even := n % 2 = 0 ∧ n + 2 ≤ 63
    let sets := fun (f : Thread → Thread) => Completes (.wrsp x (.v n) g) s c fun c => c.mapT (·.acts g) f
    (x = 32 → even → sets fun t => { t with lr := t.vPair n }) ∧
    (c.tmode = true →
      (x = 34 → even → sets fun t => { t with tpc := t.vPair n }) ∧
      (x = 35 → even → sets fun t => { t with tmr := t.vPair n }) ∧
      (x = 36 → sets fun t => { t with tcause := t.vr n &&& 0x07FFFFFF }) ∧
      (x = 37 → even → sets fun t => { t with tinfo := t.vPair n })) ∧
    ((x ∉ [32, 34, 35, 36, 37] ∨ (x ≠ 36 ∧ ¬ even) ∨ (x ≠ 32 ∧ c.tmode = false)) →
      Raises (.wrsp x (.v n) g) s c (c.every 1 0 ((infoWrsp 14 13 x (.v n) g).words.headD 0).toNat))) ∧
  (∀ (s : State) (c : Cohort) (d n g : Nat), Issues s (infoRdcnt 62 1 d n g) c →
    (∀ v, s.counter c n = some v →
      Completes (.rdcnt d n g) s c fun c => if c.guard g then c.setS d (BitVec.ofNat 64 v) else c) ∧
    (s.counter c n = none →
      Raises (.rdcnt d n g) s c (c.every 1 0 ((infoRdcnt 62 1 d n g).words.headD 0).toNat))) ∧
  ∀ (s : State) (c : Cohort) (n g : Nat), Issues s (infoNum 62 2 n g) c → Performs (.mark n g) s c fun s =>
    if c.guard g then s.countPm (s.focus / 8) (s.focus / 2 % 4) 10 1 n else s

/-- O23. A load checks its lanes and leaves its requests; no register or memory byte changes before it returns. With no acquire
under way, every acting lane inside its space and readable, no interlock and no ninth miss, each of the five loads issues: it
adds one load operation that holds its destination registers, with as many values to come as there are pieces that the core
does not have at hand, and an earlier acquire scope when ORD is acquire; registers, memory and other cohorts are as before;
when a lane fails a check it raises the failing lanes' causes instead and nothing else happens; under an acquire, or with an
earlier access to one of its lines or a copy to its bytes under way, it holds, and with too few free miss slots it holds with
its first walks begun. (R236, R237, R239, R242, R243, R227, R270, R35) -/
def Obligations.Loads : Prop :=
  ∀ (s : State) (c : Cohort) (t a : Nat) (u : Bool) (size ord scope g : Nat) (off : Option (BitVec 32)),
    ∀ e ∈ ([(.ldg t a u size ord scope g off, infoLd 25 true t a u size ord scope g off, .g),
      (.lds t a u size ord scope g off, infoLd 27 false t a u size ord scope g off, .s),
      (.ldc t a u size ord scope g off, infoLd 29 false t a u size ord scope g off, .c),
      (.ldx t a u size ord scope g off, infoLd 31 false t a u size ord scope g off, .x),
      (.ldp t a u size ord scope g off, infoLd 33 false t a u size ord scope g off, .p)]
      : List (Instr × Info × Spc)),
      Issues s { e.2.1 with long := true } c →
        let cr := s.crewOf c
        let r := s.unheld
        (c.acquiring = true → exec e.1 s = .next r.stall) ∧
        (c.acquiring = false → ∀ lanes, checkLanes (r.loadLane c cr e.2.2 a u off (2 ^ size)) (c.actors g) = .ok lanes →
          (r.accessHeld c cr e.2.2 (lanes.flatMap (·.2)) = true → exec e.1 s = .next r.stall) ∧
          (r.accessHeld c cr e.2.2 (lanes.flatMap (·.2)) = false → r.tlbHeld cr e.2.2 lanes = true →
            exec e.1 s = .next (r.tlbStart cr e.2.2 lanes).stall) ∧
          (r.accessHeld c cr e.2.2 (lanes.flatMap (·.2)) = false → r.tlbHeld cr e.2.2 lanes = false →
            Performs e.1 s c (fun s => s.beginLoad { e.2.1 with long := true } c cr e.2.2 t ord scope lanes) ∧
            ∃ n, Begins e.1 s c n ∧ n.newOp c.key fun o => o.load = true ∧ o.regsV = e.2.1.vd ∧
              o.left = ((lanes.flatMap (·.2)).filter fun p => (r.atHand c cr e.2.2 p).isNone).length ∧
              o.acq = if ord = 1 then scope else 0)) ∧
        (c.acquiring = false →
          ∀ l, checkLanes (r.loadLane c cr e.2.2 a u off (2 ^ size)) (c.actors g) = .error l → Raises e.1 s c l)

/-- O24. A store leaves its packets, dirties private lines, or is held in the effect buffer, and changes no register. With no
acquire under way, every acting lane inside its space and writable, no interlock, no ninth miss and room in the ack counter,
each of the five stores issues: stp puts the lanes' bytes into the crew's dirty private bytes and lines of L1 (no byte of
memory changing while L1 has room for the lines; the places that lines take in L1 are notes/assumptions/17.md and 90.md), and
the others send one packet of the unprotected bytes for each line (stg, stx) or home (stc), raising the ack counter by the
number of packets, or write the core's own scratchpad at once (sts without a release to wait for); a release waits for the
packets that are unacknowledged; of a speculative crew an stx and an stc to another core park, and the lanes of an stg outside
the buffers that its launch writes append their entries to the effect buffer in place of packets, the cohort parking when the
buffer has no room for them all; when a lane fails a check the failing lanes' causes are raised and nothing is stored; under an
acquire, with an earlier access to one of its lines or a copy to its bytes under way, with no room in the ack counter, and an
stp with a release to wait for (notes/assumptions/35.md), it holds. (R236, R237, R240, R241, R242, R243, R217, R227, R357,
R358) -/
def Obligations.Stores : Prop :=
  ∀ (s : State) (c : Cohort) (t a : Nat) (u : Bool) (size ord scope g : Nat) (off : Option (BitVec 32)),
    ∀ e ∈ ([(.stg t a u size ord scope g off, infoSt 26 true t a u size ord scope g off, .g),
      (.sts t a u size ord scope g off, infoSt 28 false t a u size ord scope g off, .s),
      (.stc t a u size ord scope g off, infoSt 30 false t a u size ord scope g off, .c),
      (.stx t a u size ord scope g off, infoSt 32 false t a u size ord scope g off, .x),
      (.stp t a u size ord scope g off, infoSt 34 false t a u size ord scope g off, .p)]
      : List (Instr × Info × Spc)),
      Issues s e.2.1 c →
        let cr := s.crewOf c
        let r := s.unheld
        let parks := cr.spec = true ∧ (e.2.2 = .x ∨
          e.2.2 = .c ∧ ∃ x ∈ c.actors g, (laneAddr .c c x a u off % 2 ^ 32).toNat / 2 ^ 28 ≠ cr.core % 16)
        (c.acquiring = true → exec e.1 s = .next r.stall) ∧
        (c.acquiring = false → parks → SpecParks e.1 s c) ∧
        (c.acquiring = false → ¬ parks →
        let va := fun (x : Thread × List Piece) => (x.2.head?.map (·.va)).getD 0
        (∀ lanes, checkLanes (r.storeLane c cr e.2.2 a u off (2 ^ size)) (c.actors g) = .ok lanes →
          let kept := lanes.filter fun x => cr.spec && e.2.2 == .g && !(r.inWritten cr (va x) (2 ^ size))
          let out := lanes.filter fun x => !(cr.spec && e.2.2 == .g && !(r.inWritten cr (va x) (2 ^ size)))
          let bytes := out.map fun x =>
            ((x.2.head?.map (·.sp)).getD .unit, r.unprotected e.2.2 cr (va x) (laneBytes x.1 t (2 ^ size) x.2))
          let need := if ord = 2 then c.unacked.map (·.1) else []
          let full := kept ≠ [] ∧ 32768 < cr.effectEnd + kept.length * (if size = 4 then 24 else 16)
          let held := r.accessHeld c cr e.2.2 (out.flatMap (·.2)) = true ∨ (e.2.2 = .p ∧ need ≠ []) ∨
            (e.2.2 ≠ .p ∧ 4095 < c.acks + (storePackets e.2.2 cr bytes).length)
          let lines := distinct ((bytes.flatMap (·.2)).map fun b => b.1 / 128)
          (full → SpecParks e.1 s c) ∧
          (¬ full → held → exec e.1 s = .next r.stall) ∧
          (¬ full → ¬ held → r.tlbHeld cr e.2.2 lanes = true → exec e.1 s = .next (r.tlbStart cr e.2.2 lanes).stall) ∧
          (¬ held → r.tlbHeld cr e.2.2 lanes = false → e.2.2 = .p → (∃ n, Starts e.1 s c n) ∧
            ((s.l1.filter fun x => x.core == cr.core).length + lines.length ≤ 2048 → ∃ n, Begins e.1 s c n) ∧
            Performs e.1 s c fun s => (s.storePriv c cr (bytes.flatMap (·.2))).countAccess c cr e.2.2 lanes 0) ∧
          (¬ full → ¬ held → r.tlbHeld cr e.2.2 lanes = false → e.2.2 ≠ .p →
            (e.2.2 ≠ .s → kept = [] → ∃ n, Begins e.1 s c n) ∧
            (kept ≠ [] → ∃ n d, Starts e.1 s c n ∧ n.gmem = s.gmem ∧ n.cmem = s.cmem ∧ n.crew c.crew = some d ∧
              d.effects.map (fun x => (x.cohort, x.va, x.size, x.data)) =
                cr.effects.map (fun x => (x.cohort, x.va, x.size, x.data)) ++
                  kept.map fun x => (c.key, va x, size, leBytes (2 ^ size) (x.1.data t (2 ^ size)))) ∧
            Performs e.1 s c fun s =>
              let s := kept.foldl (fun s x => s.holdStore c size t x.1 (va x)) s
              (s.sendStore c cr e.2.2 (storePackets e.2.2 cr bytes) need).countAccess c cr e.2.2 lanes 0)) ∧
        ∀ l, checkLanes (r.storeLane c cr e.2.2 a u off (2 ^ size)) (c.actors g) = .error l → Raises e.1 s c l)

/-- O25. A scratchpad store changes only the bytes of its lanes, and they read as stored. sts without a release to wait for leaves
every byte of every memory as before except scratchpad bytes of its own lanes; after one lane's store in a canonical memory its
unprotected bytes read as the register's, least significant first. (R237, R240, R241, R2) -/
def Obligations.ScratchpadStore : Prop :=
  ∀ (s : State) (c : Cohort) (t a : Nat) (u : Bool) (size ord scope g : Nat) (off : Option (BitVec 32)),
    Issues s (infoSt 28 false t a u size ord scope g off) c → c.acquiring = false → ord ≠ 2 →
      ∀ lanes, checkLanes (s.unheld.storeLane c (s.crewOf c) .s a u off (2 ^ size)) (c.actors g) = .ok lanes →
        s.unheld.accessHeld c (s.crewOf c) .s (lanes.flatMap (·.2)) = false → c.acks ≤ 4094 →
          ∃ n, exec (.sts t a u size ord scope g off) s = .next n ∧ n.gmem = s.gmem ∧ n.cmem = s.cmem ∧
            (∀ k, (∀ x ∈ lanes, ∀ b ∈ laneBytes x.1 t (2 ^ size) x.2, s.spadBase (s.crewOf c).core + b.1 ≠ k) →
              n.smem.byte k = s.smem.byte k) ∧
            (s.MemWf → ∀ x p, lanes = [(x, [p])] → p.n = 2 ^ size → p.ix = 0 → (s.crewOf c).ssize ≠ 0 →
              ∀ j, j < 2 ^ size → s.protects (s.crewOf c) (p.addr + j - (s.crewOf c).sbase) = false →
                n.smem.byte (s.spadBase (s.crewOf c).core + p.addr + j) = BitVec.ofNat 8 (x.data t (2 ^ size) / 256 ^ j))

/-- O26. An atomic sends one packet for each address; the new value of every AOP, the lanes one after another. With no acquire
under way, every acting lane inside its space, readable and writable, no interlock, no ninth miss and room in the ack counter,
each of the four atomics issues: one packet for each distinct address, its lanes in ascending %tid, each raising the ack
counter, after an operation that holds T when RET = 1; a release waits for the packets that are unacknowledged; the core's own
scratchpad is reached at once; when a lane fails a check the failing lanes' causes are raised; under an acquire, with an
earlier access to one of its lines or a copy to its bytes under way and with no room in the ack counter it holds; an atg, an
atx and an atc to another core of a speculative crew park. For all operands of 4 or 8 bytes: add and sub wrap, min and max are
signed, minn and maxn unsigned, and, or, xor bitwise, exch takes the operand, cas takes the new value when the word equals the
compare value, fadd, fmin and fmax are FP32, incw gives 0 when the word is at least the operand and one more otherwise; the
lanes of one address take effect one after another, each returning the value it found; the operands of a reduction are combined
left to right with the operation itself, those of sub by a sum, and for AOP 0 to 8 the combined operand applied once leaves the
value that the lanes applied one after another leave. (R245, R246, R248, R241, R243, R227, R357, R247) -/
def Obligations.Atomics : Prop :=
  (∀ (s : State) (c : Cohort) (t a : Nat) (u : Bool) (aop : Nat) (w : Bool) (ord scope : Nat) (rt : Bool)
    (off : Option (BitVec 32)),
    ∀ e ∈ ([(.atg t a u aop w ord scope rt off, infoAt 35 true t a u aop w ord scope rt off, .g),
      (.ats t a u aop w ord scope rt off, infoAt 36 false t a u aop w ord scope rt off, .s),
      (.atc t a u aop w ord scope rt off, infoAt 37 false t a u aop w ord scope rt off, .c),
      (.atx t a u aop w ord scope rt off, infoAt 38 false t a u aop w ord scope rt off, .x)]
      : List (Instr × Info × Spc)),
      Issues s { e.2.1 with long := rt } c →
        let cr := s.crewOf c
        let n := if w then 8 else 4
        let r := s.unheld
        (c.acquiring = true → exec e.1 s = .next r.stall) ∧
        let parks := cr.spec = true ∧ (e.2.2 = .g ∨ e.2.2 = .x ∨
          e.2.2 = .c ∧ ∃ x ∈ c.actors 7, (laneAddr .c c x a u off % 2 ^ 32).toNat / 2 ^ 28 ≠ cr.core % 16)
        (c.acquiring = false → parks → SpecParks e.1 s c) ∧
        (c.acquiring = false → ¬ parks →
        (∀ lanes, checkLanes (r.atomLane c cr e.2.2 a u off n rt) (c.actors 7) = .ok lanes →
          let pk := atomPackets t n aop lanes
          let need := if ord = 2 ∨ ord = 3 then c.unacked.map (·.1) else []
          let held := r.accessHeld c cr e.2.2 (lanes.flatMap (·.2)) = true ∨ 4095 < c.acks + pk.length
          (held → exec e.1 s = .next r.stall) ∧
          (¬ held → r.tlbHeld cr e.2.2 lanes = true → exec e.1 s = .next (r.tlbStart cr e.2.2 lanes).stall) ∧
          (¬ held → r.tlbHeld cr e.2.2 lanes = false → Performs e.1 s c fun s =>
            let s := s.meetOwn e.2.2 lanes
            let o := if rt then s.startOp c.key (encode e.1).length
                { id := 0, load := true, regsV := e.2.1.vd, left := pk.length, acq := if ord = 1 ∨ ord = 3 then scope else 0 }
              else (s, 0)
            let s := pk.foldl (fun s k => s.sendAtom c cr e.2.2 o.2 aop n (if rt then some t else none) need k) o.1
            (if e.2.2 = .g then s.l1Drop cr.core (pk.map fun k => k.2.1 / 128) else s).countAccess c cr e.2.2 lanes 0)) ∧
        ∀ l, checkLanes (r.atomLane c cr e.2.2 a u off n rt) (c.actors 7) = .error l → Raises e.1 s c l)) ∧
  ((∀ n m x y : Nat, (n = 4 ∨ n = 8) → m < 2 ^ (8 * n) → x < 2 ^ (8 * n) →
    aopNew 0 n m x y = (m + x) % 2 ^ (8 * n) ∧
    aopNew 1 n m x y = (BitVec.ofNat (8 * n) m - BitVec.ofNat (8 * n) x).toNat ∧
    aopNew 2 n m x y = (if (BitVec.ofNat (8 * n) m).toInt ≤ (BitVec.ofNat (8 * n) x).toInt then m else x) ∧
    aopNew 3 n m x y = (if (BitVec.ofNat (8 * n) m).toInt ≤ (BitVec.ofNat (8 * n) x).toInt then x else m) ∧
    aopNew 4 n m x y = min m x ∧ aopNew 5 n m x y = max m x ∧ aopNew 6 n m x y = m &&& x ∧
    aopNew 7 n m x y = m ||| x ∧ aopNew 8 n m x y = m ^^^ x ∧ aopNew 9 n m x y = x ∧
    aopNew 10 n m x y = (if m = x then y else m) ∧
    aopNew 11 n m x y = (fp32.addV .ne (fp32.val m) (fp32.val x)).1 ∧
    aopNew 12 n m x y = (fp32.minMaxNm false m x).1 ∧ aopNew 13 n m x y = (fp32.minMaxNm true m x).1 ∧
    aopNew 14 n m x y = (if x ≤ m then 0 else m + 1)) ∧
  (∀ (aop n m : Nat) (l : List (Nat × Nat × Nat)),
    (applyLanes aop n m l).1 = l.foldl (fun k e => aopNew aop n k e.2.1 e.2.2) m ∧
    ((applyLanes aop n m l).2.map (·.1)) = l.map (·.1) ∧ ((applyLanes aop n m l).2.head?.map (·.2)) = l.head?.map fun _ => m) ∧
  (∀ (aop n x : Nat) (xs : List Nat),
    combine aop n (x :: xs) = xs.foldl (fun m y => aopNew (if aop = 1 then 0 else aop) n m y 0) x) ∧
  ∀ (aop n m : Nat) (xs : List Nat), aop ≤ 8 → (n = 4 ∨ n = 8) → m < 2 ^ (8 * n) → xs ≠ [] → (∀ x ∈ xs, x < 2 ^ (8 * n)) →
    aopNew aop n m (combine aop n xs) 0 = (applyLanes aop n m (xs.map fun x => (0, x, 0))).1)

/-- O27. Fences hold until their condition, then invalidate or release; none changes a register. With a legal scope: fence.acq
issues once no load of the cohort is under way, fence.rel and ackwait once the ack counter is 0, fence.ar once both hold, an
acquire of scope .cl or wider dropping the clean L1 lines and brick copies of the core; until then they hold the port with
nothing changed but the interlock count; fence.sc waits for the ack counter, sends one increment of the sequence word of its
scope, holds until that is acknowledged and completes as an acquire; in a speculative crew it parks at a scope of .cl or wider;
a scope outside 1 to 5 (2 to 5 for fence.sc) is ILLEGAL_OP. (R249, R250, R243, R241, R357) -/
def Obligations.Fences : Prop :=
  ∀ (s : State) (c : Cohort) (k : Nat),
    let core := (s.crewOf c).core
    let acquired := fun (s : State) => if 3 ≤ k then s.flash core else s
    let idle := c.ops.any (·.load) = false
    let wait := fun (i : Instr) => exec i s = .next s.unheld.stall
    (1 ≤ k → k ≤ 5 →
      (Issues s (infoFence 39 0 k) c →
        (idle → Performs (.fenceAcq k) s c acquired) ∧ (¬ idle → wait (.fenceAcq k))) ∧
      (Issues s (infoFence 39 1 k) c →
        (c.acks = 0 → Completes (.fenceRel k) s c id) ∧ (c.acks ≠ 0 → wait (.fenceRel k))) ∧
      (Issues s (infoFence 39 2 k) c →
        (c.acks = 0 → idle → Performs (.fenceAr k) s c acquired) ∧ (c.acks ≠ 0 ∨ ¬ idle → wait (.fenceAr k)))) ∧
    (2 ≤ k → k ≤ 5 → Issues s (infoFenceSc 39 3 k) c →
      ((s.crewOf c).spec = true → 3 ≤ k → SpecParks (.fenceSc k) s c) ∧
      ((s.crewOf c).spec = false ∨ k = 2 →
        (c.acks ≠ 0 → wait (.fenceSc k)) ∧
        (c.acks = 0 → c.fence = none → ∃ t p, exec (.fenceSc k) s = .next t ∧ t.fabric = s.fabric ++ [p] ∧
          p.kind = .seqInc (if k = 2 then 41 else if k = 3 then core / 16 else 40) ∧ p.id = s.fresh ∧
          t.cohort c.key = some { c with fence := some s.fresh } ∧ t.gmem = s.gmem ∧ t.smem = s.smem) ∧
        (∀ n, c.acks = 0 → c.fence = some n → n ≠ 0 → wait (.fenceSc k)) ∧
        (c.acks = 0 → c.fence = some 0 →
          (¬ idle → wait (.fenceSc k)) ∧
          (idle → Performs (.fenceSc k) s c fun s =>
            (acquired s).onCohort c.key fun c => { c with fence := none })))) ∧
    (Issues s (infoNone 39 4) c → (c.acks = 0 → Completes .ackwait s c id) ∧ (c.acks ≠ 0 → wait .ackwait)) ∧
    let illegal := fun (i : Instr) (n : Info) => Raises i s c (c.every 1 0 (n.words.headD 0).toNat)
    (k = 0 ∨ 5 < k →
      (Issues s (infoFence 39 0 k) c → illegal (.fenceAcq k) (infoFence 39 0 k)) ∧
      (Issues s (infoFence 39 1 k) c → illegal (.fenceRel k) (infoFence 39 1 k)) ∧
      (Issues s (infoFence 39 2 k) c → illegal (.fenceAr k) (infoFence 39 2 k))) ∧
    (k < 2 ∨ 5 < k → Issues s (infoFenceSc 39 3 k) c → illegal (.fenceSc k) (infoFenceSc 39 3 k))

/-- O28. A request takes effect at its home: bytes are read or written there and nowhere else. HOME_REQUEST of a packet that is not
NACKed, whose earlier packets are acknowledged and whose domain and generation are current and in no change removes it from the
fabric; a store leaves every byte of its home outside its own as before and each of its bytes as sent, and one acknowledgement
follows; a reduction or an atomic on words that are not poisoned writes the value that its combined operand or its lanes give,
changes no other byte, is acknowledged once and returns each lane of a returning one the value it found; on a poisoned word it
changes no byte and is acknowledged; a load adds its value to its operation and changes no byte, but where its line pushes a
dirty private line out of a full L1, and one that fills brings its line into the core's L1 as its home holds it, where no write
of the core to the line is under way and no word of it is poisoned; a packet of a stale domain or generation, or to a domain in
the change state, is NACKed instead, and REQUEST_REPLAY sends it again under the current domain, once that is not in change
under the packet's own generation. (R221, R230, R212, R239, R240, R241, R246, R248, R234) -/
def Obligations.HomeRequests : Prop :=
  let current := fun (s : State) (p : Packet) =>
    p.space = .glob → s.domOf p.addr = p.dom ∧ Tab.read 0 s.gens p.dom = p.gen ∧ s.changing.contains p.dom = false
  let key := fun (s : State) (sp : Space) (a : Nat) => match sp with
    | .spad c => s.spadBase c + a
    | .shad c => s.shadBase c + a
    | _ => a
  let mem := fun (s : State) (sp : Space) => match sp with
    | .glob => s.gmem
    | .chip => s.cmem
    | _ => s.smem
  let others := fun (s t : State) (sp : Space) =>
    (sp ≠ .glob → t.gmem = s.gmem) ∧ (sp ≠ .chip → t.cmem = s.cmem) ∧ (sp = .glob ∨ sp = .chip → t.smem = s.smem)
  let gone := fun (s t : State) (n : Nat) =>
    t.fabric = s.fabric.filter (fun q => q.id != n) ∧ t.acks.length = s.acks.length + 1 ∧
    (t.acks.getLast?.map (·.id)) = some n
  (∀ (s : State) (n : Nat) (p : Packet) (bytes : List (Nat × Byte)), s.MemWf → s.fabric.find? (fun q => q.id == n) = some p →
    p.nacked = false → s.needMet p = true → p.kind = .store bytes → p.space ≠ .unit → current s p →
      let sp := s.homeSpace p
      ∃ t, exec (.homeRequest n) s = .next t ∧ others s t sp ∧ gone s t n ∧
        (∀ a, (∀ b ∈ bytes, key s sp b.1 ≠ a) → (mem t sp).byte a = (mem s sp).byte a) ∧
        (∀ a x before after, bytes = before ++ (a, x) :: after → (∀ b ∈ after, b.1 ≠ a) →
          (mem t sp).byte (key s sp a) = x)) ∧
  (∀ (s : State) (n : Nat) (p : Packet) (aop w m reg : Nat) (lanes : List (Nat × Nat × Nat)), s.MemWf →
    s.fabric.find? (fun q => q.id == n) = some p → p.nacked = false → s.needMet p = true → current s p → p.space ≠ .unit →
    p.kind = .atom aop w lanes (some reg) → aop < 15 → (w = 4 ∨ w = 8) → s.latent = [] →
    s.poisoned (s.homeSpace p) p.addr w = false → m = s.readNat (s.homeSpace p) p.addr w →
      let sp := s.homeSpace p
      ∃ t, exec (.homeRequest n) s = .next t ∧ others s t sp ∧ gone s t n ∧
        (∀ a, a < key s sp p.addr ∨ key s sp p.addr + w ≤ a → (mem t sp).byte a = (mem s sp).byte a) ∧
        (mem t sp).nat (key s sp p.addr) w = (applyLanes aop w m lanes).1 % 2 ^ (8 * w) ∧
        ∀ c o, s.cohort p.cohort = some c → c.op p.op = some o → ∃ d q, t.cohort p.cohort = some d ∧ d.op p.op = some q ∧
          q.res = o.res ++ (applyLanes aop w m lanes).2.flatMap fun e => regWrites e.1 reg w e.2 false) ∧
  (∀ (s : State) (n : Nat) (p : Packet) (aop w m : Nat) (k : PKind) (value : Nat), s.MemWf →
    s.fabric.find? (fun q => q.id == n) = some p → p.nacked = false → s.needMet p = true → current s p → p.space ≠ .unit →
    p.kind = k → aop < 15 → (w = 4 ∨ w = 8) → s.latent = [] →
    s.poisoned (s.homeSpace p) p.addr w = false → m = s.readNat (s.homeSpace p) p.addr w →
    ((∃ x, k = .red aop w x ∧ value = aopNew aop w m x 0) ∨
      (∃ lanes, k = .atom aop w lanes none ∧ value = (applyLanes aop w m lanes).1)) →
      let sp := s.homeSpace p
      ∃ t, exec (.homeRequest n) s = .next t ∧ others s t sp ∧ gone s t n ∧
        (∀ a, a < key s sp p.addr ∨ key s sp p.addr + w ≤ a → (mem t sp).byte a = (mem s sp).byte a) ∧
        (mem t sp).nat (key s sp p.addr) w = value % 2 ^ (8 * w)) ∧
  (∀ (s : State) (n : Nat) (p : Packet) (aop w : Nat),
    s.fabric.find? (fun q => q.id == n) = some p → p.nacked = false → s.needMet p = true → current s p →
    ((∃ x, p.kind = .red aop w x) ∨ ∃ lanes r, p.kind = .atom aop w lanes r) →
    s.latent = [] → s.poisoned (s.homeSpace p) p.addr w = true →
      ∃ t, exec (.homeRequest n) s = .next t ∧ t.gmem = s.gmem ∧ t.cmem = s.cmem ∧ t.smem = s.smem ∧
        t.gPoison = s.gPoison ∧ t.cPoison = s.cPoison ∧ t.sPoison = s.sPoison ∧ gone s t n) ∧
  (∀ (s : State) (n : Nat) (p : Packet) (tid reg w priv : Nat) (known : List (Nat × Byte)) (fill : Bool),
    s.fabric.find? (fun q => q.id == n) = some p → p.nacked = false → s.needMet p = true → current s p →
    p.kind = .load tid reg w known fill priv →
      ∃ t, exec (.homeRequest n) s = .next t ∧ t.cmem = s.cmem ∧ t.smem = s.smem ∧
        (fill = false ∨ (s.l1.filter fun e => e.core == p.core).length < 2048 → t.gmem = s.gmem) ∧
        ∀ c o, s.cohort p.cohort = some c → c.op p.op = some o → ∃ d q po, t.cohort p.cohort = some d ∧ d.op p.op = some q ∧
          q.left = o.left - 1 ∧
          q.res = o.res ++ regWrites tid reg w (leNat (overlay (s.readBytes (s.homeSpace p) p.addr w) known)) po) ∧
  (∀ (s : State) (n : Nat) (p : Packet) (tid reg w priv : Nat) (known : List (Nat × Byte)) (fill : Bool),
    s.fabric.find? (fun q => q.id == n) = some p → p.nacked = false → s.needMet p = true → current s p →
    p.kind = .load tid reg w known fill priv →
      let line := p.addr / 128
      ∃ t, exec (.homeRequest n) s = .next t ∧
        (fill = false ∨ s.writeSent p.core line = true ∨ s.poisoned .glob (line * 128) 128 = true → t.l1 = s.l1) ∧
        (fill = true → s.writeSent p.core line = false → s.poisoned .glob (line * 128) 128 = false →
          t.l1Line p.core line priv = some (s.gmem.bytes (line * 128) 128))) ∧
  (∀ (s : State) (n : Nat) (p : Packet), s.fabric.find? (fun q => q.id == n) = some p → p.nacked = false →
    s.needMet p = true → p.space = .glob → ¬ current s p →
      ∃ t, exec (.homeRequest n) s = .next t ∧ t.gmem = s.gmem ∧ t.cohorts = s.cohorts ∧
        t.fabric = mapIf (fun q => q.id == n) (fun q => { q with nacked := true }) s.fabric) ∧
  ∀ (s : State) (n : Nat) (p : Packet), s.fabric.find? (fun q => q.id == n && q.nacked) = some p →
    let now := s.domOf p.addr
    let waits := now = p.dom ∧ Tab.read 0 s.gens now = p.gen ∧ s.changing.contains now = true
    (waits → exec (.requestReplay n) s = .next s) ∧
    (¬ waits → exec (.requestReplay n) s = .next { s with
      replays := (s.replays + 1) % 2 ^ 64,
      fabric := mapIf (fun q => q.id == n) (fun q => { q with
        nacked := false, dom := now, gen := Tab.read 0 s.gens now }) s.fabric })

/-- O29. Data returns write the destination registers, completions lower the flags, acknowledgements the counter. LOAD_DATA_RETURN
of a load all of whose values have arrived writes them into the destination registers, whose words then hold no error, and
frees them for the scoreboard, an acquire of scope .cl or wider also dropping the clean copies of the core;
LONG_LATENCY_COMPLETION of an operation with nothing left to come writes its results and sticky bits, takes it off the list and
lowers each of its flags by one; ACKNOWLEDGEMENT of a counted packet takes it out of the ack counter; each leaves every memory
byte and every other cohort as before. (R239, R241, R243, R35, R84, R29) -/
def Obligations.Returns : Prop :=
  (∀ (s : State) (k id : Nat) (c : Cohort) (o : Op), s.cohort k = some c → c.op id = some o → o.load = true → o.left = 0 →
    let now := if 3 ≤ o.acq then s.flash (s.crewOf c).core else s
    exec (.loadDataReturn k id) s = .next ((now.rewrite (o.res.flatMap (RegWrite.sites k))).onCohort k fun c => (c.applyWrites o.res).onOp id fun o =>
      { o with load := false, res := [], acq := 0, regsV := [], regsS := [], regsP := [] }) ∧
    now.gmem = s.gmem ∧ now.smem = s.smem ∧ now.cmem = s.cmem ∧ now.cohorts = s.cohorts) ∧
  (∀ (s : State) (k id : Nat) (c : Cohort) (o : Op), s.cohort k = some c → c.op id = some o → o.load = false → o.left = 0 →
    ∃ t d, exec (.longLatencyCompletion k id) s = .next t ∧
      t = { s with cohorts := t.cohorts, latent := (s.rewrite (o.res.flatMap (RegWrite.sites k))).latent } ∧
      (∀ j, j ≠ k → t.cohort j = s.cohort j) ∧ t.cohort k = some d ∧
      d = { c.applyWrites o.res with ops := d.ops, flags := d.flags, outst := d.outst, fpst := c.fpst ||| o.fp } ∧
      d.op id = none ∧ (Tab.wf 0 c.flags = true → o.flags.Nodup → ∀ f, d.flag f = c.flag f - if f ∈ o.flags then 1 else 0)) ∧
  (∀ (c : Cohort) (tid reg : Nat) (x : Word), (c.applyWrites [.v tid reg x false]) =
      c.mapT (fun t => t.tid == tid) fun t => t.setV reg x) ∧
  (∀ (c : Cohort) (reg : Nat) (x : Dword), (c.applyWrites [.s reg x]) = c.setS reg x) ∧
  ∀ (s : State) (n : Nat) (a : Ack), s.acks.find? (fun x => x.id == n) = some a → a.reports = [] → a.op = 0 →
    a.counts = true →
      exec (.acknowledgement n) s = .next (({ s with acks := s.acks.filter fun x => x.id != n } : State).onCohort a.cohort
        fun c => { c with
          unacked := c.unacked.filter (fun u => u.1 != n), fence := if c.fence = some n then some 0 else c.fence })

/-- O30. Prefetches and range operations move copies only; no byte of memory changes but by a write-back of private lines. pf of a
line that the core's L1 does not hold sends one request that brings the line into L1 where it is performed, does nothing where
L1 holds the line, and drops when its translation fails; pf2 sends one that changes no cache of the core; icpf brings the text
line in and does nothing outside the text; bpf brings the brick in where no byte of it is poisoned; each holds for a ninth
outstanding miss of its core, and while a domain that it reaches is in the change state; invr drops exactly the core's clean
global L1 lines and brick copies that meet its range and, with L2 = 1, leaves no line of the range dirty; wbr changes no byte
of memory that is in no crew's private lines of the range and leaves no line of the range dirty; both hold, NACKed, while a
line that they write back is homed in a domain in the change state. Each is a long-latency operation that writes no register.
(R251, R252, R217, R219, R227, R230, R234, R35) -/
def Obligations.CacheInstructions : Prop :=
  ∀ (s : State) (c : Cohort) (a b : Nat) (l2 phys : Bool),
    let cr := s.crewOf c
    let r := s.unheld
    let va := (c.sr a).toNat
    let op := fun (t : State) (n : Nat) => t.newOp c.key fun o =>
      o.res = [] ∧ o.left = n ∧ o.load = false ∧ o.flags = c.opFlags 1
    let page := [va / 65536 * 65536]
    let asks := fun (i : Instr) (pa : Nat) (fill : Bool) =>
      (s.missHeld cr.core cr.jd page = true → exec i s = .next (r.startWalks cr.core cr.jd page).stall) ∧
      (s.missHeld cr.core cr.jd page = false → ∃ t p, Begins i s c t ∧ op t 1 ∧ t.l1 = s.l1 ∧ t.fabric = s.fabric ++ [p] ∧
        p.space = .glob ∧ p.addr = pa / 128 * 128 ∧ p.kind = .load 0 63 128 [] fill 0 ∧ p.acked = false)
    let drops := fun (i : Instr) => ∃ t, Begins i s c t ∧ op t 0 ∧ t.l1 = s.l1 ∧ t.fabric = s.fabric
    let reaches := fun (i : Instr) (who : Requester) (pages pas : List Nat) (done : Prop) =>
      (s.missHeld cr.core cr.jd pages = true → exec i s = .next (r.startWalks cr.core cr.jd pages).stall) ∧
      (s.missHeld cr.core cr.jd pages = false → s.mustReplay pas = true →
        exec i s = .next (r.nack cr.core (who, c.key)).stall) ∧
      (s.missHeld cr.core cr.jd pages = false → s.mustReplay pas = false → done)
    (Issues s { infoE1 40 0 a with long := true } c →
      (∀ e, s.translate cr.core cr.jd va .read = .error e → drops (.pf a)) ∧
      ∀ pa, s.translate cr.core cr.jd va .read = .ok pa →
        (s.l1Line cr.core (pa / 128) 0 ≠ none → drops (.pf a)) ∧
        (s.l1Line cr.core (pa / 128) 0 = none → asks (.pf a) pa true)) ∧
    (Issues s { infoE1 40 1 a with long := true } c →
      (∀ e, s.translate cr.core cr.jd va .read = .error e → drops (.pf2 a)) ∧
      ∀ pa, s.translate cr.core cr.jd va .read = .ok pa → asks (.pf2 a) pa false) ∧
    (Issues s { infoE1 40 4 a with long := true } c →
      (cr.hdr.text ≤ va → va < cr.hdr.text + cr.hdr.tlen →
        reaches (.icpf a) .fetch (s.fetchPages cr (va / 64)) (s.fetchHomes cr (va / 64)) (∃ t, Begins (.icpf a) s c t ∧ op t 0 ∧
          ∀ pa, s.translate cr.core cr.jd (va / 64 * 64) .fetch = .ok pa →
            ∃ l, t.iline cr.core cr.jd.job (va / 64) = some l ∧
              l.words = (List.range 16).map fun i => BitVec.ofNat 32 (s.gmem.nat (pa + 4 * i) 4))) ∧
      (va < cr.hdr.text ∨ cr.hdr.text + cr.hdr.tlen ≤ va → ∃ t, Begins (.icpf a) s c t ∧ op t 0 ∧ t.icache = s.icache)) ∧
    (Issues s { infoE1 40 5 a with long := true } c →
      (∀ e, s.readVa cr.core cr.jd va 2000 = .error e → drops (.bpf a)) ∧
      ∀ bs pa, s.readVa cr.core cr.jd va 2000 = .ok bs → s.translate cr.core cr.jd va .read = .ok pa →
        reaches (.bpf a) .ray (pagesVa va 2000) (s.vaHomes cr.core cr.jd va 2000) (∃ t, Begins (.bpf a) s c t ∧ op t 0 ∧
          (bs.any (·.2) = true → t.bricks = s.bricks) ∧
          (bs.any (·.2) = false → (⟨cr.core, pa, bs.map (·.1)⟩ : BLine) ∈ t.bricks))) ∧
    (phys = false ∨ s.privileged c = true →
      let ps := s.cacheRange c cr a b phys
      let keys := (s.crews.filter fun x => x.core == cr.core && !x.shadow).map (·.key)
      (Issues s { infoInvr 40 3 a b l2 phys with long := true } c →
        reaches (.invr a b l2 phys) .writeBack [] (if l2 then s.l2Homes ps else []) (∃ t, Begins (.invr a b l2 phys) s c t ∧
          op t 0 ∧ (∀ l, l ∈ t.l1 ↔ l ∈ s.l1 ∧ ¬ (l.core = cr.core ∧ l.priv = 0 ∧ meets ps (l.line * 128) 128 = true)) ∧
          (∀ x, x ∈ t.bricks ↔ x ∈ s.bricks ∧ ¬ (x.core = cr.core ∧ meets ps x.addr 2000 = true)) ∧
          ∀ n, meets ps (n * 128) 128 = true → Tab.read false t.l2dirty n = (!l2 && Tab.read false s.l2dirty n))) ∧
      (Issues s { infoWbr 40 2 a b phys with long := true } c →
        reaches (.wbr a b phys) .writeBack []
          ((keys.flatMap fun k => s.privHomes k fun l => meets ps (l * 128) 128) ++ s.l2Homes ps)
          (∃ t, Starts (.wbr a b phys) s c t ∧ op t 0 ∧ t.cmem = s.cmem ∧ t.smem = s.smem ∧
            (∀ pa, (∀ x ∈ s.crews, ∀ e ∈ x.privMem, e.1 = pa → meets ps (pa / 128 * 128) 128 = false) →
              t.gmem.byte pa = s.gmem.byte pa) ∧
            ∀ n, meets ps (n * 128) 128 = true → Tab.read false t.l2dirty n = false)))

/-- O31. Reports merge, walks fill a TLB, the scrubber meets errors, the clock counts; fault records go whole to a ring.
IMPRECISE_REPORT_ARRIVAL merges the report into the pending ones of its cohort and takes it off the way; TRANSLATION_WALK,
whose reads are NACKed while their domain is in the change state, with no walk of the page under way leaves the core's L1 TLB
with the leaf of a mapped address, and changes no TLB of an unmapped one; of one of the 32 walks that the sector resolves it
ends every walk of that page in the sector, each requester's leaf in its TLB unless a tlbinv marked the walk, and of a walk
that waits it changes nothing; PATROL_SCRUB of a word that it reads meets the errors of that word and no other: a corrected one
changes no value and no poison mark and is counted, an uncorrectable one poisons the word, or the four words of its burst; of a
register or a tile in use and of a dirty line of L1 it changes nothing; DRAM_REFRESH changes nothing; ARITHMETIC_CLOCK_CYCLE
adds 1 to %cyc of its core and no other. FAULT_RECORD_POST of a 32-byte record whose ring block is well-formed, has four free
slots and no record that arrived earlier and is held writes its four words to the next four slots, advances TAIL by 4 and
changes no other byte; with fewer free slots, or behind a held record of its ring, the record is held, the last of those held,
and no byte changes, and one already held stays so; on a malformed block inside its tier, and where the slice holds 64 records,
DROPPED increases by 1, saturating, the record is gone and no other byte changes, a slice watch on DROPPED posting its own
record. (R202, R226, R227, R233, R235, R432, R79, R197, R310, R312) -/
def Obligations.MemoryEvents : Prop :=
  ((∀ (s : State) (r : RepIn) (before after : List RepIn) (c : Cohort), s.repIn = before ++ r :: after →
    s.cohort r.cohort = some c → c.live ≠ [] →
      ∃ t d, exec (.impreciseReportArrival before.length) s = .next t ∧
        t = { s with repIn := before ++ after, cohorts := t.cohorts } ∧ (∀ j, j ≠ r.cohort → t.cohort j = s.cohort j) ∧
        t.cohort r.cohort = some d ∧ d = { c with reports := mergeReport c.reports r.report }) ∧
  (∀ (l : List Report) (r : Report),
    let same := fun (x : Report) => x.code == r.code && x.eng == r.eng && x.unit == r.unit && x.ipc == r.ipc
    (l.any same = false → l.length < 4 → mergeReport l r = l ++ [r]) ∧
    (l.any same = true → mergeReport l r = l.map fun x =>
      if same x then { x with detail := max x.detail r.detail, entry := min x.entry r.entry } else x) ∧
    (∀ x, l.any same = false → l.length = 4 → l[3]? = some x → mergeReport l r = l.take 3 ++ [{ x with overrun := true }])) ∧
  (∀ (s : State) (core asid : Nat) (va : BitVec 64) (cr : Crew), core < 640 →
    (s.walks.find? fun k => sectorOf k.core == sectorOf core && k.asid == asid &&
      decide (k.vpage ≤ va.toNat ∧ va.toNat < k.vpage + k.size)) = none →
    (s.crews.find? fun x => x.core == core && x.jd.asid == asid) = some cr →
    let homes := s.pteReads core cr.jd [va.toNat]
    (s.mustReplay homes = true →
      exec (.translationWalk core asid va) s = .next (s.nack 640 (walkKey core asid (va.toNat / 65536 * 65536)))) ∧
    (s.mustReplay homes = false → ∃ t, exec (.translationWalk core asid va) s = .next t ∧ t.gmem = s.gmem ∧ t.cohorts = s.cohorts ∧
        (∀ l, s.leafOf core cr.jd va.toNat = some l → ∃ e, t.tlbHit core asid va.toNat = some e ∧
          l = ⟨e.size, e.ppage, e.r, e.w, e.x⟩) ∧
        (s.leafOf core cr.jd va.toNat = none → t.tlb = s.tlb))) ∧
  (∀ (s : State) (core asid : Nat) (va : BitVec 64) (k : PageWalk),
    (s.walks.find? fun k => sectorOf k.core == sectorOf core && k.asid == asid &&
      decide (k.vpage ≤ va.toNat ∧ va.toNat < k.vpage + k.size)) = some k →
    let mine := fun (w : PageWalk) => sectorOf w.core = sectorOf core ∧ w.asid = k.asid ∧ w.vpage = k.vpage
    let now := (asid, k.vpage) ∈ s.walking (sectorOf core)
    (¬ now → exec (.translationWalk core asid va) s = .next s) ∧
    (now → s.mustReplay k.ptes = true → exec (.translationWalk core asid va) s = .next (s.nack 640 (walkKey core asid k.vpage))) ∧
    (now → s.mustReplay k.ptes = false → ∃ t, exec (.translationWalk core asid va) s = .next t ∧
      t = { s with tlb := t.tlb, walks := t.walks, nacked := t.nacked, replays := t.replays } ∧
      (∀ w, w ∈ t.walks ↔ w ∈ s.walks ∧ ¬ mine w) ∧
      ((∀ w ∈ s.walks, mine w → w.install = false) → t.tlb = s.tlb) ∧
      ∀ w ∈ s.walks, mine w → w.install = true → w.core < 640 →
        ∃ e ∈ t.tlb, e.where_ = w.core ∧ e.asid = w.asid ∧ e.vpage = w.vpage)) ∧
  (∀ (s : State) (k l u w : Nat), s.scrubs (.priv k l) = false ∧ (u < 64 * 640 → s.scrubs (.tile u w) = false) ∧
    (64 * 640 ≤ u → s.scrubs (.tile u w) = true) ∧
    ∀ c r t, s.cohort k = some c → s.scrubs (.vreg k t r) = (s.crewOf c).shadow ∧ s.scrubs (.sreg k r) = (s.crewOf c).shadow) ∧
  (∀ (s : State) (n : Nat) (e : Site × Bool), s.latent[n]? = some e →
    (s.scrubs e.1 = false → exec (.patrolScrub n) s = .next s) ∧
    (s.scrubs e.1 = true → ∃ t, exec (.patrolScrub n) s = .next t ∧ t.gmem = s.gmem ∧ t.cmem = s.cmem ∧ t.smem = s.smem ∧
      (∀ x, x ∈ t.latent ↔ x ∈ s.latent ∧ x.1 ≠ e.1) ∧
      (e.2 = true → ∀ w,
        (e.1 = .glob w → Tab.read false t.gPoison w = true) ∧ (e.1 = .chip w → Tab.read false t.cPoison w = true) ∧
        (e.1 = .spad w → Tab.read false t.sPoison w = true) ∧
        (e.1 = .burst w → ∀ j, j < 4 → Tab.read false t.gPoison (4 * w + j) = true) ∧
        ∀ u, (e.1 = .slot u w → w < 1280 → ∀ j, j < 8 → Tab.read false (Tab.read {} t.slots u).poison (8 * w + j) = true)) ∧
      ((∀ x ∈ s.latent, x.1 = e.1 → x.2 = false) →
        t = { s with latent := t.latent, cores := t.cores, slEcc := t.slEcc } ∧
        ∀ w, e.1 = .glob w → (s.latent.filter fun x => decide (x.1 = e.1)) = [e] →
          Tab.read 0 t.slEcc (s.slice (8 * w)) = min (Tab.read 0 s.slEcc (s.slice (8 * w)) + 1) (2 ^ 32 - 1)))) ∧
  (∀ (s : State) (channel : Nat), exec (.dramRefresh channel) s = .next s) ∧
  ∀ (s : State) (core : Nat), Tab.wf {} s.cores = true → ∃ t, exec (.arithmeticClockCycle core) s = .next t ∧
    (t.core core).cyc = (s.core core).cyc + 1 ∧ (∀ n, n ≠ core → t.core n = s.core n) ∧ t.cohorts = s.cohorts ∧
    t.gmem = s.gmem ∧ t.cmem = s.cmem ∧ t.smem = s.smem) ∧
  (∀ (s : State) (n : Nat) (p : Post) (w0 w1 w2 w3 : Nat), s.MemWf → s.posts[n]? = some p → p.words = [w0, w1, w2, w3] →
    s.tierOk p.ring 64 = true →
    let pa := p.ring
    let ok := s.ringBad pa (pa / 65536 * 65536) 65536 = false
    let before := if p.held then s.posts.take n else s.posts
    let waits := (∃ q ∈ before, q.held = true ∧ q.ring = pa) ∨ s.ringDepth pa < s.ringFill pa + 4
    let full := 64 ≤ (s.posts.filter fun q => q.held && s.slice q.ring == s.slice pa).length
    (ok → ¬ waits → s.ringTail pa + 4 < 2 ^ 64 →
      ∃ t, exec (.faultRecordPost n) s = .next t ∧ t.cohorts = s.cohorts ∧ t.cmem = s.cmem ∧ t.smem = s.smem ∧
        t.ringTail pa = s.ringTail pa + 4 ∧ t.ringHead pa = s.ringHead pa ∧ t.ringDepth pa = s.ringDepth pa ∧
        (∀ k w, [w0, w1, w2, w3][k]? = some w → t.gmem.nat (s.ringSlot pa (s.ringTail pa + k)) 8 = w % 2 ^ 64) ∧
        ∀ a, (a < pa + 24 ∨ pa + 32 ≤ a) →
          (∀ k, k < 4 → a < s.ringSlot pa (s.ringTail pa + k) ∨ s.ringSlot pa (s.ringTail pa + k) + 8 ≤ a) →
            t.gmem.byte a = s.gmem.byte a) ∧
    (ok → waits → p.held = true ∨ ¬ full →
      ∃ t, exec (.faultRecordPost n) s = .next t ∧ t.cohorts = s.cohorts ∧
        t.gmem = s.gmem ∧ t.cmem = s.cmem ∧ t.smem = s.smem ∧
        t.posts = if p.held then s.posts else (s.unpost n).posts ++ [{ p with held := true }]) ∧
    (¬ ok ∨ (waits ∧ p.held = false ∧ full) → ∃ t, exec (.faultRecordPost n) s = .next t ∧
      t.posts = ((s.unpost n).slPost false ((List.range 4).map (pa + 8 + ·))).posts ∧
      t.gmem.nat (pa + 8) 4 = min (s.gmem.nat (pa + 8) 4 + 1) (2 ^ 32 - 1) ∧
      ∀ a, a < pa + 8 ∨ pa + 12 ≤ a → t.gmem.byte a = s.gmem.byte a))

/-- O32. A copy joins the open batch, or opens one, and moves nothing when it issues. With no acquire under way, a place in the
batch counter where it opens a batch and one in the range scoreboard where it enters a range, a plain copy of LEN 0 or of at
most 2^24 bytes with operands that are multiples of 4 inside their memories, and tld, tst and tslot (the slot the cohort's own,
its coordinates at the required multiples) each append one copy with its operands, its issuing PC and its granules of 256 bytes
(a tensor copy's follow from its record) to the batch that is then open: the one open before while it counts fewer than 64
commands; a copy of nothing and one of a batch that has ended are done at once; the range of a tld is its box, or the rest of
the allocation while its record cannot be read (notes/assumptions/84.md; what refuses a record is notes/assumptions/33.md); no
byte moves; otherwise it holds. Its checks: of an operand that is no multiple of 4 ALIGN with the first such operand, of a
length above 2^24 RANGE with LEN, of a side outside its memory RANGE with that operand; a slot of another owner SLOT,
coordinates of a tslot off their multiples ALIGN. Of a speculative crew a cps2c, a cps2g outside the buffers that its launch
writes, and a tst that is not known to write inside them park. (R253, R254, R255, R256, R257, R260, R262, R263, R193, R194,
R357) -/
def Obligations.CopiesBegin : Prop :=
  ∀ (s : State) (c : Cohort) (d a b : Nat) (sc : Bool),
    let cr := s.crewOf c
    let joins := ∃ n y, c.openBatch = some n ∧ (s.batches.find? fun y => y.id == n) = some y ∧ y.count < 64
    let full := fun (range : Prop) => c.acquiring = true ∨ (¬ joins ∧ 63 ≤ (s.batchesOf c.key).length) ∨
      (range ∧ 32 ≤ s.ranges cr.core)
    let ended := fun (x : Copy) => s.batches.any fun y => y.id == x.batch && y.ended
    let begun := fun (i : Instr) (t : State) (x : Copy) => Begins i s c t ∧ t.copies.length = s.copies.length + 1 ∧
      t.copies.getLast? = some x ∧ x.cohort = c.key ∧ x.crew = cr.key ∧ x.core = cr.core ∧ x.ipc = c.pc ∧
      (∃ k, t.cohort c.key = some k ∧ k.openBatch = some x.batch) ∧
      (∀ n y, c.openBatch = some n → (s.batches.find? fun y => y.id == n) = some y → y.count < 64 → x.batch = n) ∧
      t.newOp c.key fun o => o.id = x.op ∧ o.res = [] ∧ o.flags = c.opFlags 1 ∧ o.left = if x.done then 0 else 1
    let starts := fun (i : Instr) (range : Prop) (q : Copy → Prop) =>
      (full range → exec i s = .next s.unheld.stall) ∧ (¬ full range → ∃ t x, begun i t x ∧ q x)
    (∀ e ∈ ([(.cpg2s d a b, { infoCp 41 0 d a b with long := true }, CopyKind.g2s, Side.spad, Side.glob, 0),
      (.cps2g d a b, { infoCp 41 1 d a b with long := true }, CopyKind.s2g, Side.glob, Side.spad, 1),
      (.cps2s d a b, { infoCp 41 2 d a b with long := true }, CopyKind.s2s, Side.spad, Side.spad, 2),
      (.cps2c d a b, { infoCp 41 3 d a b with long := true }, CopyKind.s2c, Side.win, Side.spad, 3),
      (.cpc2s d a b, { infoCp 41 4 d a b with long := true }, CopyKind.c2s, Side.spad, Side.win, 4)]
      : List (Instr × Info × CopyKind × Side × Side × Nat)),
      Issues s e.2.1 c →
      let n := (c.sr b).toNat
      let four := fun (r : Nat) => (c.sr r).toNat % 4 = 0
      let aligned := four d ∧ four a ∧ four b
      let raises := fun (code r k : Nat) => Raises e.1 s c (c.every code 0 (opInfo (c.sr r) e.2.2.2.2.2 k))
      let parks := cr.spec = true ∧ (e.2.2.1 = .s2c ∨ e.2.2.1 = .s2g ∧ n ≠ 0 ∧ s.inWritten cr (c.sr d).toNat n = false)
      let badD := s.sideBad cr e.2.2.2.1 (c.sr d) n = true
      let badA := s.sideBad cr e.2.2.2.2.1 (c.sr a) n = true
      (parks → SpecParks e.1 s c) ∧
      (¬ parks →
        ((n = 0 ∨ aligned ∧ n ≤ 2 ^ 24 ∧ ¬ badD ∧ ¬ badA) →
          starts e.1 (0 < n ∧ (e.2.2.1 = .g2s ∨ e.2.2.1 = .s2s ∨ e.2.2.1 = .c2s)) fun x => x.kind = e.2.2.1 ∧ x.len = n ∧
            x.dst = sideAddr e.2.2.2.1 (c.sr d) ∧ x.src = sideAddr e.2.2.2.2.1 (c.sr a) ∧
            x.granules = (if ended x then [] else List.range (ceilDiv n 256)) ∧ x.done = (decide (n = 0) || ended x)) ∧
        (n ≠ 0 → ¬ four d → raises 4 d 0) ∧ (n ≠ 0 → four d → ¬ four a → raises 4 a 1) ∧
        (n ≠ 0 → four d → four a → ¬ four b → raises 4 b 2) ∧ (aligned → 2 ^ 24 < n → raises 7 b 2) ∧
        (n ≠ 0 → aligned → n ≤ 2 ^ 24 → badD → raises 7 d 0) ∧
        (n ≠ 0 → aligned → n ≤ 2 ^ 24 → ¬ badD → badA → raises 7 a 1))) ∧
    (Issues s { infoTcp 41 5 d a b with long := true } c →
      let len := match s.peekTrec cr (c.sr a).toNat with
          | some r => r.pitch * r.rows
          | none => cr.ssize - (c.sr d).toNat
      starts (.tld d a b) (0 < len) fun x => x.kind = .tld ∧ x.dst = (c.sr d).toNat ∧ x.src = (c.sr a).toNat ∧
        x.coord = c.coords b ∧ x.trec = none ∧ x.granules = [] ∧ x.done = ended x ∧ x.len = len) ∧
    (Issues s { infoTcp 41 6 d a b with long := true } c →
      let lies := fun (r : TRec) => s.peekTrec cr (c.sr d).toNat = some r ∧ (c.sr a).toNat + r.pitch * r.rows ≤ cr.ssize ∧
        ∀ y, y < r.pitch * r.rows → ∀ p ∈ r.bitsAt (c.coords b) y, s.inWritten cr p.1 1 = true
      let q := fun (x : Copy) => x.kind = .tst ∧ x.dst = (c.sr d).toNat ∧ x.src = (c.sr a).toNat ∧ x.coord = c.coords b ∧
        x.done = ended x
      (cr.spec = false → starts (.tst d a b) False fun x => q x ∧ x.trec = none ∧ x.granules = []) ∧
      (cr.spec = true → (¬ ∃ r, lies r) → SpecParks (.tst d a b) s c) ∧
      (cr.spec = true → ∀ r, lies r → starts (.tst d a b) False fun x => q x ∧ x.trec = some r ∧
        x.granules = if ended x then [] else List.range (ceilDiv (r.pitch * r.rows) 256))) ∧
    (Issues s { infoTslot 41 7 d a b sc with long := true } c →
      let own := (Tab.read {} s.slots (unitIx cr.core c.sub d)).owner = c.key
      (own → (c.coords b).getD 1 0 % 32 = 0 → (c.coords b).getD 0 0 % 8 = 0 →
        starts (.tslot d a b sc) False fun x => x.kind = .tslot sc ∧ x.slot = d ∧ x.src = (c.sr a).toNat ∧
          x.coord = c.coords b ∧ x.trec = none ∧ x.granules = [] ∧ x.done = ended x) ∧
      (own → ((c.coords b).getD 1 0 % 32 ≠ 0 ∨ (c.coords b).getD 0 0 % 8 ≠ 0) →
        Raises (.tslot d a b sc) s c (c.every 4 0 (opInfo (c.sr b) 7 2))) ∧
      (¬ own → Raises (.tslot d a b sc) s c (c.every 14 0 (d + 7 * 256))))

/-- O33. cpclose and cpring close the batch, waitc waits for its counter, a finished batch leaves the counter. cpclose closes the
open batch; waitc closes it and completes when the counter of its class is at most N, and otherwise every active thread waits
for that; cpring of a 16-byte-aligned offset inside the allocation closes the open batch, or an empty one, bound to the ring
object there, holding while the counter has no place for an empty one, and raises ALIGN and RANGE of another offset;
COPY_BATCH_COMPLETE of a ready batch that is its cohort's oldest, bound to no ring or advanced, takes it out of the counter,
and of a batch that is not ready changes nothing; COPY_RING_ADVANCE of a ready batch adds 1 to WSEQ of its ring with a free
slot and changes no other byte, and changes nothing while the ring is full. (R257, R258, R259, R313, R314) -/
def Obligations.CopyBatches : Prop :=
  (∀ (s : State) (c : Cohort), Issues s (infoENone 41 8) c → Performs .cpclose s c fun s => s.closeBatch c.key) ∧
  (∀ (s : State) (c : Cohort) (n cls : Nat), Issues s { infoWaitc 41 9 n cls with long := true } c →
    let k := if cls = 0 then (s.batchesOf c.key).length else c.count (if cls = 1 then .mtx else if cls = 2 then .gath else .coll)
    (k ≤ n → ∃ t d, Begins (.waitc n cls) s c t ∧ t.cohort c.key = some d ∧ d.openBatch = none ∧
      t.newOp c.key fun o => o.res = [] ∧ o.left = 0 ∧ o.flags = c.opFlags 1) ∧
    (n < k → ∃ t d, exec (.waitc n cls) s = .next t ∧ t.cohort c.key = some d ∧ d.openBatch = none ∧ c.keeps d ∧
      d.ops = c.ops ∧ List.Forall₂ (fun x y : Thread => x.act = true → y.st = .waiting (.counter cls n) ∧ y.act = false)
        c.threads d.threads)) ∧
  (∀ (s : State) (c : Cohort) (a : Nat), Issues s (infoE1 41 10 a) c →
    let x := c.sr a
    let fits := x.toNat % 16 = 0 ∧ 0 ≤ x.toInt ∧ x.toInt + 16 ≤ (s.crewOf c).ssize
    (fits → c.openBatch = none → 63 ≤ (s.batchesOf c.key).length → exec (.cpring a) s = .next s.unheld.stall) ∧
    (fits → (c.openBatch ≠ none ∨ (s.batchesOf c.key).length < 63) →
        Performs (.cpring a) s c fun s =>
          (if c.openBatch = none then (s.openBatch c).1 else s).closeBatch c.key (some x.toNat) c.pc) ∧
    (x.toNat % 16 ≠ 0 → Raises (.cpring a) s c (c.every 4 0 (opInfo x 10 1))) ∧
    (x.toNat % 16 = 0 → ¬ fits → Raises (.cpring a) s c (c.every 7 0 (opInfo x 10 1)))) ∧
  (∀ (s : State) (b : Batch), (s.batches.find? fun y => y.id == b.id) = some b →
    (s.batchReady b = true → (b.ring = none ∨ b.advanced = true) → (s.batchesOf b.cohort).head? = some b →
      ∃ t, exec (.copyBatchComplete b.id) s = .next t ∧ t = { s with batches := t.batches, copies := t.copies } ∧
        (∀ y ∈ t.batches, y ∈ s.batches ∧ y.id ≠ b.id)) ∧
    (s.batchReady b = false → exec (.copyBatchComplete b.id) s = .next s)) ∧
  ∀ (s : State) (b : Batch) (off : Nat) (cr : Crew), s.MemWf →
    (s.batches.find? fun y => y.id == b.id && !y.advanced) = some b → b.ring = some off → s.crew b.crew = some cr →
    cr.torn = false → s.batchReady b = true → (s.cring cr off).bad = false →
    let r := s.cring cr off
    (r.fill < r.nslot → ∃ t, exec (.copyRingAdvance b.id) s = .next t ∧ t.gmem = s.gmem ∧ t.cmem = s.cmem ∧
      t.cohorts = s.cohorts ∧ (t.cring cr off).wseq = (r.wseq + 1) % 2 ^ 32 ∧
      ∀ k, k < s.crewKey cr + off ∨ s.crewKey cr + off + 4 ≤ k → t.smem.byte k = s.smem.byte k) ∧
    (r.fill = r.nslot → exec (.copyRingAdvance b.id) s = .next s)

/-- O34. A granule moves at most 256 bytes, and no byte outside its destination. COPY_GRANULE of a pending granule of an unpaused
copy, no release before it pending and no domain in change, whose bytes all translate: copies to scratchpad write the source
bytes at the destination offsets of the allocation that are not protected (cps2c at those of the crew that the window address
names, cpc2s from it) and no other byte of any memory, scratchpad to global writes them at the translated destination addresses
and no other byte; a granule of tld writes each byte of its part of the box at its swizzled place, an element outside the
tensor as 0, one of tst each element inside the tensor at its address and no other byte, nibble by nibble where an element has
4 bits; a granule of tslot writes one row of DATA, with .sc its SIDE bytes too, or BAND, of its slot while no other crew has
claimed it, a slot that a long-wait swap has saved taking them in the crew's image; the granule leaves the copy's list, and the
copy is done with the last unless a watch pauses it; a tensor copy whose record address is no multiple of 64 ends its batch
with COPY_FAULT, DETAIL 4 (notes/assumptions/33.md), and no byte changes; that a granule reads and writes its bytes at the one
step is notes/assumptions/9.md, and at which moment a window's crew is looked up 104.md. (R253, R254, R255, R256, R260, R261,
R262, R213, R90) -/
def Obligations.CopyGranules : Prop :=
  let runs := fun (s : State) (id : Nat) (x : Copy) (cr : Crew) (c : Cohort) (b : Batch) =>
    (s.copies.find? fun y => y.id == id) = some x ∧ x.done = false ∧ s.crew x.crew = some cr ∧ s.cohort x.cohort = some c ∧
    (s.batches.find? fun y => y.id == x.batch) = some b ∧ b.paused = none ∧ x.pausedW = none ∧ cr.shadow = false ∧
    s.engineHolds cr.core = false ∧ s.opMay c x.op = true ∧ s.changing = []
  let left := fun (t : State) (x : Copy) (g : Nat) => ∃ y, (t.copies.find? fun y => y.id == x.id) = some y ∧
    y.granules = x.granules.filter (· != g) ∧ (y.granules = [] → y.pausedW = none → y.done = true)
  (∀ (s : State) (id g : Nat) (x : Copy) (cr : Crew) (c : Cohort) (b : Batch), s.MemWf → runs s id x cr c b → g ∈ x.granules →
    let os := granOf x.len g
    let base := s.crewKey cr
    let toSpad := fun (w : Crew) (off : Nat) (f : Nat → Byte) => off + x.len ≤ w.ssize →
      ∃ t, exec (.copyGranule id g) s = .next t ∧ left t x g ∧ t.gmem = s.gmem ∧ t.cmem = s.cmem ∧
        (∀ o ∈ os, s.protects w (off + o) = false → t.smem.byte (s.crewKey w + (off + o)) = f o) ∧
        ∀ k, (∀ o ∈ os, s.crewKey w + (off + o) ≠ k) → t.smem.byte k = s.smem.byte k
    (x.kind = .g2s → s.engFail cr (os.map (x.src + ·)) .read = none → toSpad cr x.dst fun o => (s.engByte cr (x.src + o)).1) ∧
    (x.kind = .s2s → toSpad cr x.dst fun o => s.smem.byte (base + (x.src + o))) ∧
    (x.kind = .s2c → ∀ w, s.windowTarget cr x.dst = some w →
      toSpad w (x.dst % 2 ^ 28) fun o => s.smem.byte (base + (x.src + o))) ∧
    (x.kind = .c2s → ∀ w, s.windowTarget cr x.src = some w →
      toSpad cr x.dst fun o => s.smem.byte (s.crewKey w + (x.src % 2 ^ 28 + o))) ∧
    (x.kind = .s2g → s.engFail cr (os.map (x.dst + ·)) .write = none →
      ∃ t, exec (.copyGranule id g) s = .next t ∧ left t x g ∧ t.smem = s.smem ∧ t.cmem = s.cmem ∧
        (∀ o ∈ os, ∀ pa, s.translate cr.core cr.jd (x.dst + o) .write = .ok pa →
          (∀ o' ∈ os, s.translate cr.core cr.jd (x.dst + o') .write = .ok pa → o' = o) →
            t.gmem.byte pa = s.smem.byte (base + (x.src + o))) ∧
        ∀ pa, (∀ o ∈ os, s.translate cr.core cr.jd (x.dst + o) .write ≠ .ok pa) → t.gmem.byte pa = s.gmem.byte pa)) ∧
  (∀ (s : State) (id g : Nat) (x : Copy) (cr : Crew) (c : Cohort) (b : Batch) (r : TRec), s.MemWf → runs s id x cr c b →
    g ∈ x.granules → x.trec = some r → r.boxOk = true →
    let ys := granOf (r.pitch * r.rows) g
    let base := s.crewKey cr
    let place := fun (y : Nat) => swizzle r.swz y (y / r.pitch)
    let wide := 8 ≤ elemBits r.fmt
    let byteOf := fun (y : Nat) => r.addr4 (r.at_ x.coord y 0) / 2 + y % r.pitch % (elemBits r.fmt / 8)
    let half := fun (y i : Nat) => r.addr4 (r.at_ x.coord y i)
    let isIn := fun (y i : Nat) => r.inside (r.at_ x.coord y i)
    let vas := ys.flatMap fun y => (r.bitsAt x.coord y).map (·.1)
    (x.kind = .tld → x.dst + r.pitch * r.rows ≤ cr.ssize → s.engFail cr vas .read = none →
      ∃ t, exec (.copyGranule id g) s = .next t ∧ left t x g ∧ t.gmem = s.gmem ∧ t.cmem = s.cmem ∧
        (∀ y ∈ ys, s.protects cr (x.dst + place y) = false →
          (wide → t.smem.byte (base + (x.dst + place y)) = if isIn y 0 then (s.engByte cr (byteOf y)).1 else 0) ∧
          (¬ wide → ∀ i, i < 2 → (t.smem.byte (base + (x.dst + place y))).toNat / 16 ^ i % 16 =
            if isIn y i then (s.engByte cr (half y i / 2)).1.toNat / 16 ^ (half y i % 2) % 16 else 0)) ∧
        ∀ k, (∀ y ∈ ys, base + (x.dst + place y) ≠ k) → t.smem.byte k = s.smem.byte k) ∧
    (x.kind = .tst → x.src + r.pitch * r.rows ≤ cr.ssize → s.engFail cr vas .write = none →
      ∃ t, exec (.copyGranule id g) s = .next t ∧ left t x g ∧ t.smem = s.smem ∧ t.cmem = s.cmem ∧
        (wide → ∀ y ∈ ys, isIn y 0 = true → ∀ pa, s.translate cr.core cr.jd (byteOf y) .write = .ok pa →
          (∀ z ∈ ys, isIn z 0 = true → s.translate cr.core cr.jd (byteOf z) .write = .ok pa → z = y) →
            t.gmem.byte pa = s.smem.byte (base + (x.src + place y))) ∧
        (¬ wide → ∀ y ∈ ys, ∀ i, i < 2 → isIn y i = true →
          ∀ pa, s.translate cr.core cr.jd (half y i / 2) .write = .ok pa →
          (∀ z ∈ ys, ∀ j, j < 2 → isIn z j = true → s.translate cr.core cr.jd (half z j / 2) .write = .ok pa →
            half z j / 2 = half y i / 2 ∧ (half z j = half y i → z = y ∧ j = i)) →
            (t.gmem.byte pa).toNat / 16 ^ (half y i % 2) % 16 =
              (s.smem.byte (base + (x.src + place y))).toNat / 16 ^ i % 16) ∧
        ∀ pa, (∀ va ∈ vas, s.translate cr.core cr.jd va .write ≠ .ok pa) → t.gmem.byte pa = s.gmem.byte pa)) ∧
  (∀ (s : State) (id g : Nat) (x : Copy) (cr : Crew) (c : Cohort) (b : Batch) (r : TRec) (sc : Bool), runs s id x cr c b →
    g ∈ x.granules → x.trec = some r → x.kind = .tslot sc → c.stream = [] →
    let ix := unitIx cr.core c.sub x.slot
    let saved := if cr.out.isSome then cr.savedSlots.find? (fun e => e.1 == ix) else none
    let z := (saved.map (·.2)).getD (Tab.read {} s.slots ix)
    let reads := fun (vas : List Nat) => s.engFail cr vas .read = none
    let filled := fun (z' : Slot) => ∃ t, exec (.copyGranule id g) s = .next t ∧ left t x g ∧ t.gmem = s.gmem ∧
      t.cmem = s.cmem ∧ t.smem = s.smem ∧ t.slots = (if z.lastCrew = x.crew ∧ saved = none then Tab.put {} s.slots ix z' else s.slots) ∧
      (z.lastCrew = x.crew → saved ≠ none → ∃ d, t.crew x.crew = some d ∧
        d.savedSlots = cr.savedSlots.map fun e => if e.1 = ix then (ix, z') else e)
    let data := z.setData ((List.range 256).map fun j => (256 * g + j, s.gatherByte cr (r.slotBits x.coord g j)))
    let bytes := (List.range 256).flatMap fun j => (r.slotBits x.coord g j).map (·.1)
    let scales := (List.range 64).filterMap (r.sideAt x.coord g)
    (g < 32 → sc = false → reads bytes → filled data) ∧
    (g < 32 → sc = true → reads (bytes ++ scales) → filled (data.setSide ((List.range 64).map fun q => (64 * g + q,
      match r.sideAt x.coord g q with
      | some a => s.engByte cr a
      | none => (0x80, false))))) ∧
    (g = 32 → r.bandAt x.coord = none → filled (z.setBand 0x3F80 false)) ∧
    (g = 32 → ∀ a, r.bandAt x.coord = some a → reads [a, a + 1] →
      filled (z.setBand ((s.engByte cr a).1.toNat + 256 * (s.engByte cr (a + 1)).1.toNat)
        ((s.engByte cr a).2 || (s.engByte cr (a + 1)).2)))) ∧
  (∀ (len g o : Nat), o ∈ granOf len g ↔ 256 * g ≤ o ∧ o < 256 * g + 256 ∧ o < len) ∧
  ∀ (s : State) (id g : Nat) (x : Copy) (cr : Crew) (c : Cohort) (b : Batch), runs s id x cr c b → b.ended = false →
    s.recordTurn x = true → x.kind = .tld → x.trec = none → x.src % 64 ≠ 0 →
      ∃ t r, exec (.copyGranule id g) s = .next t ∧ t.gmem = s.gmem ∧ t.smem = s.smem ∧ t.cmem = s.cmem ∧
        t.repIn = s.repIn ++ [r] ∧ r.cohort = b.cohort ∧ r.report.code = 0x11 ∧ r.report.detail = 4 ∧
        r.report.ipc = x.ipc ∧ ∀ y ∈ t.copies, y.batch = x.batch → y.done = true

/-- O35. Queue operations move one element in one step, changing it and the control word alone, or wait, or report. On a declared
queue, with a 4-byte-aligned offset inside the allocation, no acquire under way, no store of the cohort to its core's
scratchpad that its release still holds, for a push the ack counter 0, and no waiter of the queue that can be served (else they
hold): qpush and qpop of a queue without waiters of their side move one element; with a waiter, or full, without allowance or
empty, the active threads join the waiters and wait; qpushn and qpopn write the status predicate and reason 0, 1 or 2 to sD;
qallow adds to ALLOW with saturation, holding as the others for a waiter that can be served, qlen writes COUNT and ALLOW; each
of them raises QID of an undeclared queue, and those with an offset ALIGN of a misaligned one and RANGE of one outside the
allocation; a guarded one whose guard is false does nothing. QUEUE_WAITER_RETRY of the oldest waiter of a side, which can be
served, moves its element and lets its own threads go on, and changes nothing where it cannot be served, where no thread waits,
and of a crew in the shadow context or swapped out. In a canonical memory, a push of a queue with room and allowance puts ELEM
bytes from the source offset at the slot COUNT places after HEAD, adds 1 to COUNT and takes 1 from ALLOW; a pop of a nonempty
queue puts the oldest element at the destination offset, moves HEAD on by 1 modulo DEPTH and takes 1 from COUNT; protected
bytes keep their values, and no byte of memory outside the element written and the control word changes. (R298, R299, R302,
R303, R304, R305, R193, R44, R300, R301) -/
def Obligations.QueueInstructions : Prop :=
  ((∀ (s : State) (c : Cohort) (push : Bool) (d n a g off : Nat),
    let cr := s.crewOf c
    let x := c.sr a
    let w := s.qword cr off
    let move := if push then Instr.qpush n a g else .qpop n a g
    let try_ := if push then Instr.qpushn d n a g else .qpopn d n a g
    let f := if push then 0 else 1
    let inside := 0 ≤ x.toInt ∧ x.toInt + w.elem ≤ cr.ssize
    let fine := cr.qoff n = some off ∧ x.toNat % 4 = 0 ∧ inside
    let free := c.acquiring = false ∧ (push = true → c.acks = 0) ∧ s.ownPending c cr.core = false ∧ s.retryDue cr n off = false
    let hold := fun (i : Instr) => exec i s = .next s.unheld.stall
    let qid := fun (i : Instr) (sub : Nat) => cr.qoff n = none → Raises i s c (c.every 13 0 (n + sub * 256))
    let checks := fun (i : Instr) (sub : Nat) => qid i sub ∧
      (cr.qoff n = some off → x.toNat % 4 ≠ 0 → Raises i s c (c.every 4 0 (opInfo x sub 1))) ∧
      (cr.qoff n = some off → x.toNat % 4 = 0 → ¬ inside → Raises i s c (c.every 7 0 (opInfo x sub 1)))
    (Issues s { infoQa 43 f 1 n a g with long := true } c →
      (c.guard g = false → Completes move s c id) ∧ (c.guard g = true →
        (fine → free → w.refuses push = 0 → cr.queued n push = false →
          Performs move s c fun s => (s.qMove cr off push x.toNat).quickOp c.key 1 { id := 0 }) ∧
        (fine → free → w.refuses push ≠ 0 ∨ cr.queued n push = true →
          Suspends move s c (.queue n push) fun s => s.onCrew cr.key fun cr =>
            { cr with qwait := cr.qwait ++
              [{ cohort := c.key, tids := c.actives.map (·.tid), q := n, push := push, off := x.toNat }] }) ∧
        (fine → ¬ free → hold move) ∧ checks move f)) ∧
    (Issues s { infoQda 43 (f + 2) 0 d n a g with long := true, g := 7, ps := [g] } c →
      (fine → ¬ free → hold try_) ∧ checks try_ (f + 2) ∧ (fine → free →
        Performs try_ s c fun s =>
          (if w.refuses push = 0 then s.qMove cr off push x.toNat else s.meetCrew cr off 16).quickOp c.key 1
            { id := 0, regsS := dst d, regsP := if g = 7 then [] else [g], left := 0,
              res := (c.actives.map fun t => RegWrite.p t.tid g (w.refuses push == 0)) ++
                [.s d (BitVec.ofNat 64 (w.refuses push))] })) ∧
    (Issues s (infoQa 43 4 0 n a g) c → (c.guard g = false → Completes (.qallow n a g) s c id) ∧ (c.guard g = true →
      qid (.qallow n a g) 4 ∧
      (cr.qoff n = some off → s.retryDue cr n off = true → hold (.qallow n a g)) ∧
      (cr.qoff n = some off → s.retryDue cr n off = false → Performs (.qallow n a g) s c fun s => s.setQ cr off
        { w with allow := (min (max ((w.allow : Int) + x.toInt) 0) (2 ^ 32 - 1)).toNat }))) ∧
    (Issues s (infoQlen 43 5 0 d n g) c → (c.guard g = false → Completes (.qlen d n g) s c id) ∧ (c.guard g = true →
      qid (.qlen d n g) 5 ∧
      (cr.qoff n = some off → Performs (.qlen d n g) s c fun s => (s.meetCrew cr off 16).onCohort c.key fun c =>
        c.setS d (BitVec.ofNat 64 (w.count + w.allow * 2 ^ 32)))))) ∧
  ∀ (s : State) (k n : Nat) (push : Bool),
    let none_ := exec (.queueWaiterRetry k n push) s = .next s
    (s.crew k = none → none_) ∧ ∀ cr, s.crew k = some cr →
      let first := (cr.qwait.filter fun w => w.q == n && w.push == push).head?
      (first = none → none_) ∧ (cr.qoff n = none → none_) ∧ (cr.shadow = true ∨ cr.out ≠ none → none_) ∧
      ∀ off w, cr.qoff n = some off → first = some w →
        ((s.qword cr off).refuses push = 0 → cr.shadow = false → cr.out = none →
          exec (.queueWaiterRetry k n push) s = .next (((s.qMove cr off push w.off).onCrew k fun cr =>
            { cr with qwait := cr.qwait.erase w }).onCohort w.cohort fun c =>
              (c.mapT (fun t => w.tids.contains t.tid && decide (t.st = .waiting (.queue n push))) fun t =>
                { t with st := .eligible, pc := t.pc + 4 }).settle)) ∧
        ((s.qword cr off).refuses push ≠ 0 → none_)) ∧
  (∀ (s : State) (cr : Crew) (n off a : Nat) (push : Bool), s.MemWf → n < 64 → cr.qoff n = some off →
    let w := s.qword cr off
    let t := s.qMove cr off push a
    let key := s.crewKey cr
    let from_ := if push then a else w.elemAt 0
    let to_ := if push then w.elemAt w.count else a
    0 < w.depth → w.count ≤ w.depth → w.refuses push = 0 →
      t.gmem = s.gmem ∧ t.cmem = s.cmem ∧ t.cohorts = s.cohorts ∧
      t.qword cr off = (if push then { w with count := w.count + 1, allow := w.allow - 1 }
        else { w with head := (w.head + 1) % w.depth, count := w.count - 1 }) ∧
      (∀ j, j < w.elem → to_ + j < cr.ssize → s.protects cr (to_ + j) = false →
        t.smem.byte (key + (to_ + j)) = s.smem.byte (key + (from_ + j))) ∧
      ∀ k, (∀ j, j < w.elem → key + (to_ + j) ≠ k) → k < key + off + 8 ∨ key + off + 16 ≤ k →
        t.smem.byte k = s.smem.byte k)

/-- O36. A message leaves with its bytes and sequence number, fills its slot, and frees it with a credit. On a declared channel of
a crew that is not speculative, at an aligned offset inside the allocation and with no acquire under way, for a receive also no
store of the cohort to its core's scratchpad that its release still holds (else they hold): chsend and chsendn with the peer
placed, credit left and the ack counter 0 put one message with the slot's bytes on its way and add 1 to SSEQ; without peer or
credit chsend waits and chsendn reports status false with its reason; chrecv and chrecvn of a full slot copy it to the offset,
clear its FULLMAP bit, add 1 to RSEQ and return a credit; of an empty slot chrecv waits and chrecvn reports; CHANNEL_DELIVERY
writes the slot and sets its bit, and CREDIT_PACKET replaces an older CRSEQ. (R298, R306, R307, R308, R309) -/
def Obligations.Channels : Prop :=
  (∀ (s : State) (c : Cohort) (d n a g : Nat) (ch : Chan), s.MemWf →
    let cr := s.crewOf c
    let x := c.sr a
    let key := s.crewKey cr
    let status := fun (o : Op) (ok : Bool) (r : Nat) => o.regsS = dst d ∧ o.regsP = (if g = 7 then [] else [g]) ∧
      o.res = (c.actives.map fun t => RegWrite.p t.tid g ok) ++ [.s d (BitVec.ofNat 64 r)]
    let ready := cr.spec = false ∧ s.chan cr n = some ch ∧ x.toNat % 16 = 0 ∧ 0 ≤ x.toInt ∧ x.toInt + ch.ss ≤ cr.ssize ∧
      c.acquiring = false ∧ 0 < ch.sc ∧ ch.sc ≤ 64
    let peer := s.peer cr ((cr.index : Int) + ch.delta)
    let credit := (s.chSseq cr ch + 2 ^ 16 - s.chCrseq cr ch) % 2 ^ 16 < ch.sc
    let sent := fun (t : State) => ∃ m, t.msgs = s.msgs ++ [m] ∧ m.launch = cr.launch ∧
      (m.dest : Int) = (((cr.index : Int) + ch.delta).toNat : Int) ∧ m.chan = n ∧ m.seq = s.chSseq cr ch ∧
      m.data = s.crewBytes cr x.toNat ch.ss ∧ t.gmem = s.gmem ∧ t.chSseq cr ch = (s.chSseq cr ch + 1) % 2 ^ 16 ∧
      ∀ k, k < key + ch.ro + 10 ∨ key + ch.ro + 12 ≤ k → t.smem.byte k = s.smem.byte k
    let src := s.peer cr ((cr.index : Int) - ch.delta)
    let k := s.chRseq cr ch % ch.sc
    let took := fun (t : State) => t.gmem = s.gmem ∧ t.chFull cr ch k = false ∧
      (∀ m, m < 64 → m ≠ k → t.chFull cr ch m = s.chFull cr ch m) ∧ t.chRseq cr ch = (s.chRseq cr ch + 1) % 2 ^ 16 ∧
      (∀ j, j < ch.ss → s.protects cr (x.toNat + j) = false →
        t.smem.byte (key + (x.toNat + j)) = s.smem.byte (key + (ch.ro + 16 + k * ch.ss + j))) ∧
      (ch.delta ≤ cr.index → ∃ m, t.credits = s.credits ++ [m] ∧ m.launch = cr.launch ∧
        (m.dest : Int) = cr.index - ch.delta ∧ m.chan = n ∧ m.value = (s.chRseq cr ch + 1) % 2 ^ 16)
    (Issues s { infoCha 43 6 1 n a g with long := true } c → c.guard g = true → ready →
      (peer = .placed → credit → c.acks = 0 → ∃ t, Starts (.chsend n a g) s c t ∧ sent t ∧
        t.newOp c.key fun o => o.left = 1 ∧ o.res = []) ∧
      (peer = .placed → credit → c.acks ≠ 0 → exec (.chsend n a g) s = .next s.unheld.stall) ∧
      (peer = .unplaced ∨ peer = .placed ∧ ¬ credit → Waits (.chsend n a g) s c (.chSend n)) ∧
      (peer = .gone → Raises (.chsend n a g) s c (c.every 13 0 (n + 6 * 256)))) ∧
    (Issues s { infoChda 43 8 0 d n a g with long := true, g := 7, ps := [g] } c → ready →
      (peer = .placed → credit → c.acks = 0 → ∃ t, Starts (.chsendn d n a g) s c t ∧ sent t ∧
        t.newOp c.key fun o => o.left = 1 ∧ status o true 0) ∧
      (peer = .placed → ¬ credit → ∃ t, Begins (.chsendn d n a g) s c t ∧ t.msgs = s.msgs ∧
        t.newOp c.key fun o => o.left = 0 ∧ status o false 1) ∧
      (peer = .unplaced → ∃ t, Begins (.chsendn d n a g) s c t ∧ t.msgs = s.msgs ∧
        t.newOp c.key fun o => o.left = 0 ∧ status o false 2)) ∧
    let held := s.ownPending c cr.core = true
    (Issues s { infoCha 43 7 1 n a g with long := true } c → c.guard g = true → ready → src ≠ .gone → held →
      exec (.chrecv n a g) s = .next s.unheld.stall) ∧
    (Issues s { infoCha 43 7 1 n a g with long := true } c → c.guard g = true → ready → ¬ held →
      (s.chFull cr ch k = true → ∃ t, Starts (.chrecv n a g) s c t ∧ took t ∧
        t.newOp c.key fun o => o.left = 0 ∧ o.res = []) ∧
      (s.chFull cr ch k = false → src ≠ .gone → Waits (.chrecv n a g) s c (.chRecv n))) ∧
    (Issues s { infoChda 43 9 0 d n a g with long := true, g := 7, ps := [g] } c → ready → ¬ held →
      (s.chFull cr ch k = true → ∃ t, Starts (.chrecvn d n a g) s c t ∧ took t ∧
        t.newOp c.key fun o => o.left = 0 ∧ status o true 0) ∧
      (s.chFull cr ch k = false → src = .placed → ∃ t, Begins (.chrecvn d n a g) s c t ∧ t.credits = s.credits ∧
        t.newOp c.key fun o => o.left = 0 ∧ status o false 1))) ∧
  (∀ (s : State) (before after : List Msg) (m : Msg) (cr : Crew) (ch : Chan), s.MemWf → s.msgs = before ++ m :: after →
    s.crewAt m.launch m.dest = some cr → ((s.launch m.launch).bind fun l => l.chans[m.chan]?) = some ch →
    cr.migrating = false → 0 < ch.sc → ch.sc ≤ 64 →
      let k := m.seq % ch.sc
      ∃ t, exec (.channelDelivery before.length) s = .next t ∧ t.msgs = before ++ after ∧ t.gmem = s.gmem ∧
        t.chFull cr ch k = true ∧ (∀ j, j < 64 → j ≠ k → t.chFull cr ch j = s.chFull cr ch j) ∧
        (∀ j b, m.data[j]? = some b → t.smem.byte (s.crewKey cr + (ch.ro + 16 + k * ch.ss) + j) = b) ∧
        ∀ c o, s.cohort m.cohort = some c → c.op m.op = some o → ∃ d q, t.cohort m.cohort = some d ∧ d.op m.op = some q ∧
          q = { o with left := 0 }) ∧
  ∀ (s : State) (before after : List Credit) (m : Credit) (cr : Crew) (ch : Chan), s.MemWf → s.credits = before ++ m :: after →
    s.crewAt m.launch m.dest = some cr → ((s.launch m.launch).bind fun l => l.chans[m.chan]?) = some ch →
    cr.migrating = false → m.value < 2 ^ 16 →
      ((m.value + 2 ^ 16 - s.chCrseq cr ch) % 2 ^ 16 < 2 ^ 15 → ∃ t, exec (.creditPacket before.length) s = .next t ∧
        t.credits = before ++ after ∧ t.gmem = s.gmem ∧ t.cohorts = s.cohorts ∧ t.chCrseq cr ch = m.value) ∧
      (2 ^ 15 ≤ (m.value + 2 ^ 16 - s.chCrseq cr ch) % 2 ^ 16 →
        exec (.creditPacket before.length) s = .next { s with credits := before ++ after })

/-- O37. Memory rings, copy completion rings and join counters. With an aligned address of a readable and writable page, no acquire
under way, room in the ack counter and, for renq, the ack counter 0, else they hold, renq and rdeq of a crew that is not
speculative raise POISON of a poisoned word in the block or the slot that the operation reaches, hold for a ninth outstanding
miss, and otherwise send one acknowledged ring operation to the block's home, their status predicate and destination held until
it returns; a failed translation raises its cause, a misaligned address ALIGN; at its home the operation writes the status of
its step to the predicate of its threads, answers false on a full or empty ring with nothing changed, and rdeq takes the oldest
value; a poisoned word first met there changes nothing and faults the threads of the issue, with the issuing word as %tpc
(notes/assumptions/36.md); rawait gives the offset of the oldest filled slot, or waits; rrel adds 1 to RSEQ of a ring with a
filled slot and changes nothing of an empty one; both raise QID of a malformed ring object and hold for a store of the cohort
to its core's scratchpad that its release still holds; jinc with the ack counter 0 sends one addition to the counter of its
selector, and parks in a speculative crew. (R310, R311, R314, R348) -/
def Obligations.RingInstructions : Prop :=
  (∀ (s : State) (c : Cohort) (push : Bool) (d a g pa page size : Nat),
    let cr := s.crewOf c
    let x := c.sr a
    let i := if push then Instr.renq d a g else .rdeq d a g
    Issues s { (if push then infoRenq 43 10 0 d a g else infoRdeq 43 11 0 d a g) with long := true, g := 7, ps := [g] } c →
      cr.spec = false →
      let free := c.acquiring = false ∧ c.acks < 4095 ∧ (push = true → c.acks = 0)
      let there := x.toNat % 64 = 0 ∧ s.ringPage cr x.toNat = .ok (pa, page, size)
      let pages := [x.toNat / 65536 * 65536]
      (there → ¬ free → exec i s = .next s.unheld.stall) ∧
      (there → free → ∀ b, s.ringPoison push pa page size = some b →
        Raises i s c (c.every 12 0 (x.toNat + (b - pa) / 8 * 8))) ∧
      (there → free → s.ringPoison push pa page size = none → s.missHeld cr.core cr.jd pages = true →
        exec i s = .next (s.unheld.startWalks cr.core cr.jd pages).stall) ∧
      (there → free → s.ringPoison push pa page size = none → s.missHeld cr.core cr.jd pages = false →
        ∃ t p, Begins i s c t ∧ t.fabric = s.fabric ++ [p] ∧ p.addr = pa ∧ p.space = .glob ∧ p.cohort = c.key ∧ p.acked = true ∧
          p.kind = .ring push (c.sr d) (page, size) x.toNat g d ∧ t.newOp c.key fun o => o.id = p.op ∧ o.left = 1 ∧
            o.regsP = (if g = 7 then [] else [g]) ∧ o.regsS = (if push then [] else dst d) ∧
            o.statusTids = c.actives.map (·.tid)) ∧
      (x.toNat % 64 = 0 → ∀ e, s.ringPage cr x.toNat = .error e → Raises i s c (c.every e 3 x.toNat)) ∧
      (x.toNat % 64 ≠ 0 → Raises i s c (c.every 4 0 (opInfo x (if push then 10 else 11) 1)))) ∧
  (∀ (s : State) (n : Nat) (p : Packet) (push : Bool) (x : BitVec 64) (page : Nat × Nat) (va pS d : Nat) (c : Cohort) (o : Op),
    s.fabric.find? (fun q => q.id == n) = some p → p.nacked = false → s.needMet p = true → p.space = .glob →
    s.domOf p.addr = p.dom → Tab.read 0 s.gens p.dom = p.gen → s.changing.contains p.dom = false → s.latent = [] →
    p.kind = .ring push x page va pS d → s.cohort p.cohort = some c → c.op p.op = some o →
      (s.ringPoison push p.addr page.1 page.2 = none → ∃ t k q, exec (.homeRequest n) s = .next t ∧
        let r := s.ringOp push p.addr page.1 page.2 x.toNat
        t.gmem = r.1.gmem ∧ t.cmem = s.cmem ∧ t.smem = s.smem ∧ t.cohort p.cohort = some k ∧ k.op p.op = some q ∧
          q = { o with acq := q.acq, res := (o.statusTids.map fun t => RegWrite.p t pS r.2.1) ++
            if push = false ∧ r.2.1 = true then [.s d (BitVec.ofNat 64 r.2.2)] else [] }) ∧
      (∀ a, s.ringPoison push p.addr page.1 page.2 = some a → c.tmode = false → s.trapRefused (s.crewOf c) = false →
        (s.crewOf c).saving = false → ∃ t k, exec (.homeRequest n) s = .next t ∧ t.gmem = s.gmem ∧ t.cmem = s.cmem ∧
          t.smem = s.smem ∧ t.cohort p.cohort = some k ∧ ∀ u ∈ c.threads, u.tid ∈ o.statusTids → u.st ≠ .exited →
            ∃ v ∈ k.threads, v.tid = u.tid ∧ v.inH = true ∧ v.tpc = BitVec.ofNat 64 p.ipc ∧
              v.tinfo = BitVec.ofNat 64 (va + (a - p.addr) / 8 * 8))) ∧
  (∀ (s : State) (pa page size x : Nat) (push : Bool), s.ringBad pa page size = false →
    let r := s.ringOp push pa page size x
    (push = true → s.ringFill pa = s.ringDepth pa → r = (s, false, 0)) ∧
    (push = false → s.ringFill pa = 0 → r = (s, false, 0)) ∧
    (push = false → s.ringFill pa ≠ 0 → s.MemWf → r.2 = (true, s.gmem.nat (s.ringSlot pa (s.ringHead pa)) 8) ∧
      r.1.ringHead pa = (s.ringHead pa + 1) % 2 ^ 64 ∧ r.1.ringTail pa = s.ringTail pa) ∧
    (push = true → s.ringFill pa ≠ s.ringDepth pa → s.MemWf → x < 2 ^ 64 → r.2.1 = true ∧
      r.1.ringTail pa = (s.ringTail pa + 1) % 2 ^ 64 ∧ r.1.ringHead pa = s.ringHead pa ∧
      r.1.gmem.nat (s.ringSlot pa (s.ringTail pa)) 8 = x)) ∧
  (∀ (s : State) (c : Cohort) (d a g : Nat), s.MemWf →
    let cr := s.crewOf c
    let x := c.sr a
    let r := s.cring cr x.toNat
    let held := s.ownPending c cr.core = true
    c.guard g = true → x.toNat % 16 = 0 → 0 ≤ x.toInt → x.toInt + 16 ≤ cr.ssize →
      (Issues s { infoRdeq 43 12 1 d a g with long := true } c → r.bad = true →
        Raises (.rawait d a g) s c (c.every 13 0 (12 * 256))) ∧
      (Issues s { infoRrel 43 13 0 a g with long := true } c → r.bad = true →
        Raises (.rrel a g) s c (c.every 13 0 (13 * 256))) ∧
      (Issues s { infoRdeq 43 12 1 d a g with long := true } c → r.bad = false → held →
        exec (.rawait d a g) s = .next s.unheld.stall) ∧
      (Issues s { infoRrel 43 13 0 a g with long := true } c → r.bad = false → held →
        exec (.rrel a g) s = .next s.unheld.stall) ∧
      (Issues s { infoRdeq 43 12 1 d a g with long := true } c → r.bad = false → ¬ held →
        (r.fill ≠ 0 → ∃ t, Begins (.rawait d a g) s c t ∧ t.newOp c.key fun o => o.left = 0 ∧ o.regsS = dst d ∧
          o.res = [.s d (BitVec.ofNat 64 (r.rseq % r.nslot * r.slotsz))]) ∧
        (r.fill = 0 → Waits (.rawait d a g) s c (.ring x.toNat))) ∧
      (Issues s { infoRrel 43 13 0 a g with long := true } c → r.bad = false → ¬ held →
        (r.fill ≠ 0 → ∃ t, Starts (.rrel a g) s c t ∧ t.gmem = s.gmem ∧ (t.cring cr x.toNat).rseq = (r.rseq + 1) % 2 ^ 32 ∧
          ∀ k, k < s.crewKey cr + x.toNat + 4 ∨ s.crewKey cr + x.toNat + 8 ≤ k → t.smem.byte k = s.smem.byte k) ∧
        (r.fill = 0 → ∃ t, Begins (.rrel a g) s c t))) ∧
  ∀ (s : State) (c : Cohort) (a g : Nat), Issues s (infoRrel 44 4 0 a g) c → c.guard g = true →
    ((s.crewOf c).spec = true → SpecParks (.jinc a g) s c) ∧ ((s.crewOf c).spec = false →
    (c.acks = 0 → ∃ t p, Begins (.jinc a g) s c t ∧ t.fabric = s.fabric ++ [p] ∧ p.cohort = c.key ∧ p.acked = true ∧
      p.kind = .joinAdd ((c.sr a).toNat / 2 ^ 16) (((c.sr a).truncate 16 : BitVec 16).toInt)) ∧
    (c.acks ≠ 0 → exec (.jinc a g) s = .next s.unheld.stall))

/-- O38. Barriers count arrivals, complete at EXPECT, and hold or pass their threads; wflag waits for a flag. In a canonical memory
with declared barrier words: barinit of 1 to 1,024 sets EXPECT and completes, of another count raises RANGE; bararr with the
ack counter 0 adds the acting threads to ARRIVED, completes, and returns the phase read, and holds while the counter is
nonzero; barwait passes when PHASE differs from sA and waits when not; a first barsync adds the acting threads and lets every
active thread go on at the next header when that completes the phase, and otherwise the acting threads wait at it; each of them
raises QID in a crew without barrier words, and bararr, barwait and a first barsync of a barrier with EXPECT 0; a first barsync
holds while the ack counter is nonzero, and one whose guard lets no thread act changes nothing; no byte outside the word
changes; wflag passes a clear flag and waits for a raised one. (R345, R346, R347, R348) -/
def Obligations.BarrierInstructions : Prop :=
  (∀ (b : Bar), b.complete =
    if 0 < b.expect ∧ b.expect ≤ b.arrived then ⟨b.expect, b.arrived - b.expect, (b.phase + 1) % 2 ^ 32⟩ else b) ∧
  (∀ (s : State) (c : Cohort) (d n a g : Nat), s.MemWf → (s.crewOf c).hasBars = true →
    let cr := s.crewOf c
    let b := s.bar cr n
    let k := (c.actors g).length
    let x := (c.sr a).toNat
    let after := fun (t : State) (b : Bar) => t.bar cr n = b.complete ∧ t.gmem = s.gmem ∧ t.cmem = s.cmem ∧
      ∀ m, m < s.crewKey cr + cr.hdr.boff + 8 * n ∨ s.crewKey cr + cr.hdr.boff + 8 * n + 8 ≤ m →
        t.smem.byte m = s.smem.byte m
    (Issues s (infoBari 44 0 0 n a g) c → c.guard g = true →
      (1 ≤ x → x ≤ 1024 → ∃ t, Starts (.barinit n a g) s c t ∧ after t { b with expect := x }) ∧
      (x = 0 ∨ 1024 < x → Raises (.barinit n a g) s c (c.every 7 0 x))) ∧
    (Issues s { infoBararr 44 1 0 d n g with long := true } c → 0 < k →
      (b.expect ≠ 0 → c.acks = 0 → b.arrived + k < 2 ^ 16 →
        ∃ t, Starts (.bararr d n g) s c t ∧ after t { b with arrived := b.arrived + k } ∧
          t.newOp c.key fun o => o.regsS = dst d ∧ o.res = [.s d (BitVec.ofNat 64 b.phase)] ∧ o.left = 0) ∧
      (b.expect ≠ 0 → c.acks ≠ 0 → exec (.bararr d n g) s = .next s.unheld.stall)) ∧
    (Issues s { infoBars 44 3 1 n g with long := true } c → 0 < k → b.expect ≠ 0 → c.acks ≠ 0 →
      (∃ t ∈ c.actors g, t.counted c.pc = none) → exec (.barsync n g) s = .next s.unheld.stall) ∧
    (Issues s { infoBari 44 2 1 n a g with long := true } c → c.guard g = true → b.expect ≠ 0 →
      (b.phase ≠ x % 2 ^ 32 → ∃ t, Begins (.barwait n a g) s c t ∧ t.newOp c.key fun o => o.res = [] ∧ o.left = 0) ∧
      (b.phase = x % 2 ^ 32 → Waits (.barwait n a g) s c (.barrier n b.phase))) ∧
    (Issues s { infoBars 44 3 1 n g with long := true } c → 0 < k → b.expect ≠ 0 → c.acks = 0 → b.arrived + k < 2 ^ 16 →
      (∀ t ∈ c.actors g, t.counted c.pc = none) →
        ∃ t e, exec (.barsync n g) s = .next t ∧ t.cohort c.key = some e ∧ after t { b with arrived := b.arrived + k } ∧
          (∀ j, j ≠ c.key → t.cohort j = s.cohort j) ∧
          (b.expect ≤ b.arrived + k → List.Forall₂ (fun x y : Thread => x.act = true →
            y.pc = BitVec.ofNat 64 c.nextHeader ∧ y.act = false ∧ ∀ w, y.st = .waiting w → x.st = .waiting w)
            c.threads e.threads) ∧
          (b.arrived + k < b.expect → List.Forall₂ (fun x y : Thread => x.acts g = true →
            y.pc = x.pc ∧ y.st = .waiting (.barsync n b.phase) ∧ y.counted c.pc = some b.phase) c.threads e.threads))) ∧
  (∀ (s : State) (c : Cohort) (d n a g : Nat),
    let cr := s.crewOf c
    let empty := cr.hasBars = false ∨ (s.bar cr n).expect = 0
    let qid := fun (i : Instr) (sub : Nat) => Raises i s c (c.every 13 0 (n + sub * 256))
    let fresh := ∃ t ∈ c.actors g, t.counted c.pc = none
    (Issues s (infoBari 44 0 0 n a g) c → (c.guard g = false → Completes (.barinit n a g) s c id) ∧
      (c.guard g = true → cr.hasBars = false → qid (.barinit n a g) 0)) ∧
    (Issues s { infoBararr 44 1 0 d n g with long := true } c → (c.actors g = [] → Completes (.bararr d n g) s c id) ∧
      (c.actors g ≠ [] → empty → qid (.bararr d n g) 1)) ∧
    (Issues s { infoBari 44 2 1 n a g with long := true } c → (c.guard g = false → Completes (.barwait n a g) s c id) ∧
      (c.guard g = true → empty → qid (.barwait n a g) 2)) ∧
    (Issues s { infoBars 44 3 1 n g with long := true } c → (c.actors g = [] → Completes (.barsync n g) s c id) ∧
      (c.actors g ≠ [] → cr.hasBars = false ∨ empty ∧ fresh → qid (.barsync n g) 3))) ∧
  ∀ (s : State) (c : Cohort) (n g : Nat), Issues s { infoWflag 44 9 1 n g with long := true } c → c.guard g = true →
    (c.flag n = 0 → ∃ t, Begins (.wflag n g) s c t ∧ t.newOp c.key fun o => o.res = [] ∧ o.left = 0) ∧
    (c.flag n ≠ 0 → Waits (.wflag n g) s c (.flag n))

/-- O39. An MTX operation issues once, when all its threads stand at it, and joins the matrix stream with its operands. Each of the
MTX operations whose checks pass (a nonzero format, owned slots, a bound name, an aligned transfer inside the allocation, no
poison in what it reads) with CV = 7 and every non-exited thread active joins the end of the cohort's stream with its operands
as read then, the flags of its clause raised and the matrix counter one higher, and its threads go on; while that counter is 63
it holds; the first check that fails is raised, in this order: a zero format FMT, slot SA, slot SB or the slot of orel or oload
of another owner and then an unbound name SLOT, a misaligned base and then stride ALIGN, a transfer outside the allocation
RANGE; then poison in what it reads POISON; with CV = 7 and another thread it raises CONV; with CV 0 to 6 the active threads
sign while others are missing, CONV is raised where the signature is open at another word, and with the last thread the
operation joins the stream, holds while the counter is 63, or raises its first failing check in every thread that signed, which
otherwise go on at the word after it. (R35, R167, R169, R171, R172, R173, R176, R177, R187, R409) -/
def Obligations.MatrixIssue : Prop :=
  ∀ (s : State) (c : Cohort) (n sa sb fs cv out r xa xb : Nat) (keep : Bool) (imm : BitVec 20),
    let cr := s.crewOf c
    let fmt := match s.launch cr.launch with
      | some l => l.lrec.fs.getD fs 0
      | none => 0
    let own := fun (n : Nat) => s.owns c n = true
    let base := (c.sr xa).toInt + imm.toInt
    let d := (c.sr xb).toNat % 2 ^ 32
    let at_ := fun (x : Int) (sub field : Nat) => opInfo (BitVec.ofInt 64 x) sub field
    let out_ := fun (k bytes d : Nat) => base < 0 ∨ (cr.ssize : Int) < base + ((k - 1) * d + bytes : Nat)
    let elems := c.live.map fun t => (t, ((base + (t.lane : Nat)) % 1024).toNat)
    ∀ e ∈ ([(.mma n sa sb fs cv, { infoMma 0 n sa sb fs cv with long := true, late := true }, MtxKind.mma n sa sb fmt, 0, [(fmt = 0, 16, fs + 0), (¬ own sa, 14, sa + 0), (¬ own sb, 14, sb + 0), (c.bound n = false, 14, 16 + n + 0)]),
      (.mmaz n sa sb fs cv, { infoMma 1 n sa sb fs cv with long := true, late := true }, MtxKind.mmaz n sa sb fmt, 1, [(fmt = 0, 16, fs + 256), (¬ own sa, 14, sa + 256), (¬ own sb, 14, sb + 256)]),
      (.accz n cv, { infoAccz 2 n cv with long := true, late := true }, MtxKind.accz n, 2, []),
      (.accst n out keep cv xa xb imm, { infoAccst 3 n out keep cv xa xb imm with long := true, late := true }, MtxKind.accst n base.toNat d out keep, 3, [(c.bound n = false, 14, 16 + n + 768), (base % 4 ≠ 0, 4, at_ base 3 1), (d % 4 ≠ 0, 4, at_ d 3 2), (out_ 32 (if out = 0 then 128 else 64) d, 7, at_ base 3 1)]),
      (.accld n cv xa xb imm, { infoAccld 4 n cv xa xb imm with long := true, late := true }, MtxKind.accld n base.toNat d, 4, [(base % 4 ≠ 0, 4, at_ base 4 1), (d % 4 ≠ 0, 4, at_ d 4 2), (out_ 32 128 d, 7, at_ base 4 1)]),
      (.accrd n r cv xa imm, { infoAccrd 5 n r cv xa imm with long := true, late := true }, MtxKind.accrd n r (elems.map fun e => (e.1.tid, e.2)), 5, [(c.bound n = false, 14, 16 + n + 1280)]),
      (.accwr n r cv xa imm, { infoAccwr 6 n r cv xa imm with long := true, late := true }, MtxKind.accwr n (elems.map fun e => (e.1.tid, e.2, e.1.vr r, Tab.read false e.1.vPoison r)), 6, []),
      (.oclaim n cv, { infoOclaim 7 n cv with long := true, late := true }, MtxKind.oclaim n, 7, []),
      (.orel n cv, { infoOclaim 8 n cv with long := true, late := true }, MtxKind.orel n, 8, [(¬ own n, 14, n + 2048)]),
      (.oloadData n cv xa xb imm, { infoOload 9 8 n cv xa xb imm with long := true, late := true }, MtxKind.oload n 0 base.toNat d, 9, [(¬ own n, 14, n + 2304), (base % 4 ≠ 0, 4, at_ base 9 1), (d % 4 ≠ 0, 4, at_ d 9 2), (out_ 32 256 d, 7, at_ base 9 1)]),
      (.oloadSide n cv xa xb imm, { infoOload 9 10 n cv xa xb imm with long := true, late := true }, MtxKind.oload n 1 base.toNat d, 9, [(¬ own n, 14, n + 2304), (base % 4 ≠ 0, 4, at_ base 9 1), (d % 4 ≠ 0, 4, at_ d 9 2), (out_ 32 64 d, 7, at_ base 9 1)]),
      (.oloadBand n cv xa imm, { infoOband 9 n cv xa imm with long := true, late := true }, MtxKind.oload n 2 base.toNat 0, 9, [(¬ own n, 14, n + 2304), (base % 2 ≠ 0, 4, at_ base 9 1), (0 % 2 ≠ 0, 4, at_ 0 9 2), (out_ 1 2 0, 7, at_ base 9 1)]),
      (.accsclF32 n cv xa, { infoAccscl 10 8 n cv xa with long := true, late := true }, MtxKind.accscl n 0 ((c.sr xa).truncate 32), 10, [(c.bound n = false, 14, 16 + n + 2560)]),
      (.accsclI2f n cv xa, { infoAccscl 10 9 n cv xa with long := true, late := true }, MtxKind.accscl n 1 ((c.sr xa).truncate 32), 10, [(c.bound n = false, 14, 16 + n + 2560)]),
      (.accsclF2i n cv xa, { infoAccscl 10 10 n cv xa with long := true, late := true }, MtxKind.accscl n 2 ((c.sr xa).truncate 32), 10, [(c.bound n = false, 14, 16 + n + 2560)])]
      : List (Instr × Info × MtxKind × Nat × List (Prop × Nat × Nat))),
      Issues s e.2.1 c → s.latent = [] →
      let kind := e.2.2.1
      let fine := ∀ x ∈ e.2.2.2.2, ¬ x.1
      let refused := fun (x : Prop × Nat × Nat) => ∃ j : Nat, e.2.2.2.2[j]? = some x ∧ x.1 ∧
        ∀ i y, i < j → e.2.2.2.2[i]? = some y → ¬ y.1
      let clean := s.mtxPoison c c.stream kind = none
      let joined := fun (c' k : Cohort) => ∃ m, k.stream = c.stream ++ [m] ∧ m.kind = kind ∧ m.tile = none ∧
        m.admitted = false ∧ k.count .mtx = c.count .mtx + 1 ∧ ∃ o, k.ops.getLast? = some o ∧ o.id = m.op ∧ o.cls = .mtx ∧
        o.left = 1 ∧ o.regsV = e.2.1.vd ∧ o.flags = c'.opFlags (encode e.1).length
      let conv := c.every 15 0 (cv + e.2.2.2.1 * 256 + 42 * 65536)
      (cv = 7 →
        (c.live.length = c.actives.length →
          (63 ≤ c.count .mtx → exec e.1 s = .next s.unheld.stall) ∧
          (c.count .mtx < 63 →
            (∀ x, refused x → Raises e.1 s c (c.every x.2.1 0 x.2.2)) ∧
            (fine → c.badRegs e.2.1 = [] → ∀ x, s.mtxPoison c c.stream kind = some x → Raises e.1 s c (c.every 12 0 x)) ∧
            (fine → clean → c.badRegs e.2.1 ≠ [] → Raises e.1 s c (c.badRegs e.2.1)) ∧
            (fine → clean → c.badRegs e.2.1 = [] → ∃ t k, Begins e.1 s c t ∧ t.cohort c.key = some k ∧ joined c k))) ∧
        (c.live.length ≠ c.actives.length → Raises e.1 s c conv)) ∧
      (cv < 7 →
        (∀ g, c.sig cv = some g → g.pc ≠ BitVec.ofNat 64 c.pc → Raises e.1 s c conv) ∧
        ((∀ g, c.sig cv = some g → g.pc = BitVec.ofNat 64 c.pc) →
          (c.live.all (signsWith cv) = false → Completes e.1 s c (·.signMtx cv)) ∧
          (c.live.all (signsWith cv) = true → 63 ≤ c.count .mtx → exec e.1 s = .next s.unheld.stall) ∧
          (c.live.all (signsWith cv) = true → c.count .mtx < 63 → ∀ x, refused x →
            exec e.1 s = .next ((s.unheld.onCohort c.key fun c => c.gather cv).takeFault c.key (·.act) c.pc c.pc
              ((c.gather cv).every x.2.1 0 x.2.2))) ∧
          (c.live.all (signsWith cv) = true → c.count .mtx < 63 → fine → clean → (c.gather cv).badRegs e.2.1 = [] →
            ∃ t k, exec e.1 s = .next t ∧ t.cohort c.key = some k ∧ joined (c.gather cv) k ∧
            t.gmem = s.gmem ∧ t.smem = s.smem ∧ (∀ j, j ≠ c.key → t.cohort j = s.cohort j) ∧ k.sig cv = none ∧
            List.Forall₂ (fun x y : Thread => if signsWith cv x then
              y.pc = BitVec.ofNat 64 (x.pc.toNat + 4 * (encode e.1).length) ∧ y.v = x.v ∧ y.cv.getLsbD cv = false
              else x.act = false → y.pc = x.pc ∧ y.v = x.v ∧ y.cv = x.cv) c.threads k.threads)))

/-- O40. The head of a stream takes its tile or slot, is admitted, and completes in order. TILE_BIND gives the head that binds a
name the first free tile of its sub-core, zero and owned by the cohort, and changes nothing without a free tile; SLOT_CLAIM
gives the head's slot to the cohort, cleared when another crew used it last and kept when not, and changes nothing while
another cohort owns it; MATRIX_START_ADMISSION starts the head product that is first in cluster, core and sub-core order among
the new starts of its sector on an idle array while the sector's window counts fewer than 8 starts, or fewer than 4 in a
condition other than normal, each counted, and queues it otherwise, starts one that continues on a busy array without counting
it, and changes nothing of one that is not first (which starts count as of one clk, and which continue the work of an array, is
the model's choice, notes/assumptions/31.md); ADMISSION_WINDOW resets its sector's count alone; MTX_COMPLETION of a ready head
takes its effect, removes it from the stream and completes its operation, an admitted one leaving its array idle unless another
product waits for it alone, and of a head that is not ready, or that waits for an earlier release, changes nothing. (R166,
R169, R170, R172, R173, R184, R275, R430, R431) -/
def Obligations.MatrixStream : Prop :=
  ∀ (s : State) (k : Nat) (c : Cohort) (m : MtxOp) (rest : List MtxOp), s.cohort k = some c → c.stream = m :: rest →
    k ≠ 0 → Tab.wf {} s.tiles = true → Tab.wf {} s.slots = true → s.mtxHolds c = false →
    let core := (s.crewOf c).core
    (∀ n t, m.binds c = some n → m.tile = none → c.tileOf n = none →
      ((List.range 16).find? fun t => (s.tile core c.sub t).owner == 0) = some t →
        ∃ u d, exec (.tileBind k) s = .next u ∧ u.cohort k = some d ∧ d.tileOf n = some t ∧
          d.stream = { m with tile := some t } :: rest ∧ u.tile core c.sub t = { owner := k } ∧
          ∀ j, j < 16 → j ≠ t → u.tile core c.sub j = s.tile core c.sub j) ∧
    ((∀ t, t < 16 → (s.tile core c.sub t).owner ≠ 0) → exec (.tileBind k) s = .next s) ∧
    (∀ n, m.kind = .oclaim n →
      let z := s.slot core c.sub n
      (z.owner = 0 ∨ z.owner = k → ∃ u d, exec (.slotClaim k) s = .next u ∧ u.cohort k = some d ∧
        d.stream = { m with claimed := true } :: rest ∧
        u.slot core c.sub n = if z.lastCrew = c.crew then { z with owner := k } else { owner := k, lastCrew := c.crew }) ∧
      (z.owner ≠ 0 → z.owner ≠ k → exec (.slotClaim k) s = .next s)) ∧
    (∀ n a b fs, (m.kind = .mma n a b fs ∨ m.kind = .mmaz n a b fs ∧ m.tile ≠ none) → m.admitted = false →
      s.arrayRuns core c.sub = false → s.opMayHead c = true → s.admWait = [] →
      let limit := if s.thermal = .normal then 8 else 4
      let started := Tab.read 0 s.admitted (sectorOf core)
      let idle := Tab.read false s.busy (subIx core c.sub) = false
      let first := (s.newStarts (sectorOf core)).head? = some k
      (¬ idle → ∃ u d, exec (.matrixStartAdmission k) s = .next u ∧ u.cohort k = some d ∧
        d.stream = { m with admitted := true } :: rest ∧ u.admitted = s.admitted) ∧
      (idle → ¬ first → exec (.matrixStartAdmission k) s = .next s) ∧
      (idle → first → started < limit → ∃ u d, exec (.matrixStartAdmission k) s = .next u ∧ u.cohort k = some d ∧
        d.stream = { m with admitted := true } :: rest ∧ Tab.read 0 u.admitted (sectorOf core) = started + 1 ∧
        ∀ j, j ≠ sectorOf core → Tab.read 0 u.admitted j = Tab.read 0 s.admitted j) ∧
      (idle → first → limit ≤ started → exec (.matrixStartAdmission k) s = .next { s with admWait := [(sectorOf core, k)] })) ∧
    (∀ sec, Tab.wf 0 s.admitted = true → ∃ u, exec (.admissionWindow sec) s = .next u ∧ Tab.read 0 u.admitted sec = 0 ∧
      (∀ j, j ≠ sec → Tab.read 0 u.admitted j = Tab.read 0 s.admitted j) ∧
      u = { s with admitted := u.admitted, busy := u.busy }) ∧
    (m.ready c = true → s.opMayHead c = true →
      let u := (s.mtxEffect c m).onCohort k fun c => ({ c with stream := rest } : Cohort).completeOp m.op
      exec (.mtxCompletion k) s = .next (if m.admitted then u.coolArrays (· == subIx (u.crewOf c).core c.sub) else u)) ∧
    (m.ready c = false ∨ s.opMayHead c = false → exec (.mtxCompletion k) s = .next s)

/-- O41. What each MTX operation leaves in tiles, slots, registers and scratchpad. At its completion: accz leaves a tile of 1,024
zero words; a product leaves its 1,024 words as the elements of its slots and the old words (none for mmaz), an INT8 element
being the saturated sum of the old word and 256 signed products; accscl replaces each word by its scaled value, each of these
three setting the sticky bits of %mstat that its elements raise and no other; accld fills a tile with 32 rows of 32 words from
scratchpad; accrd gives each lane the word of its index; accwr writes the lanes' words and no other; orel clears the owner and
keeps the contents; oclaim changes nothing more; oload.data writes 32 rows of 256 bytes, oload.side 32 rows of 64 scales,
oload.band the band scale, each nothing else of the slot; accst writes each row, raw or converted to BF16 or FP16, to
scratchpad, changes no byte outside the rows, and keeps the tile with .keep or else frees it and unbinds the name. (R83, R99,
R165, R178, R179, R180, R181, R182, R183, R184, R185, R186) -/
def Obligations.MatrixEffects : Prop :=
  (∀ (s : State) (c : Cohort) (m : MtxOp) (n tn : Nat), c.key ≠ 0 → c.tileOf n = some tn → Tab.wf {} s.tiles = true →
    s.latent = [] →
    let cr := s.crewOf c
    let z := s.tile cr.core c.sub tn
    let u := s.mtxEffect c m
    let y := u.tile cr.core c.sub tn
    let others := ∀ j, j < 16 → j ≠ tn → u.tile cr.core c.sub j = s.tile cr.core c.sub j
    let sticky := fun (bits : Nat → BitVec 3) => ∀ d, s.cohort c.key = some d → ∃ e, u.cohort c.key = some e ∧
      e = { d with mstat := e.mstat } ∧ ∀ b, b < 3 →
        e.mstat.getLsbD b = (d.mstat.getLsbD b || (List.range 1024).any fun i => (bits i).getLsbD b)
    tn < 16 →
    (m.kind = .accz n → y = { owner := c.key } ∧ others ∧ ∀ i, Tab.read 0 y.words i = 0) ∧
    (∀ a b fs, m.kind = .mma n a b fs → others ∧ y.owner = c.key ∧
      (sticky fun i => (mmaElem fs (s.slot cr.core c.sub a) (s.slot cr.core c.sub b) (i / 32) (i % 32)
        (Tab.read 0 z.words i).toNat).2) ∧ ∀ i j, i < 32 → j < 32 →
      Tab.read 0 y.words (32 * i + j) = BitVec.ofNat 32 (mmaElem fs (s.slot cr.core c.sub a) (s.slot cr.core c.sub b) i j
        (Tab.read 0 z.words (32 * i + j)).toNat).1) ∧
    (∀ a b fs, m.kind = .mmaz n a b fs → others ∧ y.owner = c.key ∧
      (sticky fun i => (mmaElem fs (s.slot cr.core c.sub a) (s.slot cr.core c.sub b) (i / 32) (i % 32) 0).2) ∧ ∀ i j, i < 32 → j < 32 →
      Tab.read 0 y.words (32 * i + j) =
        BitVec.ofNat 32 (mmaElem fs (s.slot cr.core c.sub a) (s.slot cr.core c.sub b) i j 0).1) ∧
    (∀ mode f, m.kind = .accscl n mode f → z.owner ≠ 0 → others ∧ y.owner = z.owner ∧
      (sticky fun i => (scaleWord mode (Tab.read 0 z.words i).toNat f.toNat).2) ∧ ∀ i, i < 1024 →
      Tab.read 0 y.words i = BitVec.ofNat 32 (scaleWord mode (Tab.read 0 z.words i).toNat f.toNat).1) ∧
    (∀ reg ix, m.kind = .accrd n reg ix → u.tiles = s.tiles ∧ ∀ d o, s.cohort c.key = some d → d.op m.op = some o →
      ∃ e q, u.cohort c.key = some e ∧ e.op m.op = some q ∧
        q = { o with res := ix.map fun e => .v e.1 reg (Tab.read 0 z.words e.2) (Tab.read false z.poison e.2) }) ∧
    (∀ vals, m.kind = .accwr n vals → z.owner ≠ 0 → Tab.wf 0 z.words = true → others ∧ y.owner = z.owner ∧
      (∀ i, (∀ v ∈ vals, v.2.1 ≠ i) → Tab.read 0 y.words i = Tab.read 0 z.words i) ∧
      ∀ v ∈ vals, (∀ w ∈ vals, w.2.1 = v.2.1 → w = v) → Tab.read 0 y.words v.2.1 = v.2.2.1) ∧
    (∀ a d, m.kind = .accld n a d → others ∧ y.owner = c.key ∧ ∀ i j, i < 32 → j < 32 →
      Tab.read 0 y.words (32 * i + j) = BitVec.ofNat 32 (s.smem.nat (s.crewKey cr + (a + i * d + 4 * j)) 4)) ∧
    (∀ a d out keep, m.kind = .accst n a d out keep → s.MemWf →
      let w := if out = 0 then 4 else 2
      let value := fun (i j : Nat) =>
        let x := (Tab.read 0 z.words (32 * i + j)).toNat
        if out = 0 then x else (cvtFloat fp32 (if out = 1 then bf16 else fp16) x).1
      32 * w ≤ d →
      u.gmem = s.gmem ∧ u.cmem = s.cmem ∧ others ∧
      (keep = true → u.tiles = s.tiles ∧ u.cohorts = s.cohorts) ∧
      (keep = false → y = {} ∧ ∀ e, s.cohort c.key = some e → Tab.wf 0 e.acc = true → ∃ f, u.cohort c.key = some f ∧
        f.tileOf n = none ∧ ∀ k, k ≠ n → f.tileOf k = e.tileOf k) ∧
      (∀ i j b, i < 32 → j < 32 → b < w → a + i * d + w * j + b < cr.ssize → s.protects cr (a + i * d + w * j + b) = false →
        u.smem.byte (s.crewKey cr + (a + i * d + (w * j + b))) = BitVec.ofNat 8 (value i j / 256 ^ b)) ∧
      ∀ k, (∀ i o, i < 32 → o < 32 * w → s.crewKey cr + (a + i * d + o) ≠ k) → u.smem.byte k = s.smem.byte k)) ∧
  (∀ (s : State) (c : Cohort) (m : MtxOp) (n : Nat), Tab.wf {} s.slots = true → s.latent = [] →
    let cr := s.crewOf c
    let z := s.slot cr.core c.sub n
    let u := s.mtxEffect c m
    (m.kind = .orel n → u.slot cr.core c.sub n = { z with owner := 0 } ∧ u.tiles = s.tiles) ∧
    (m.kind = .oclaim n → u = s) ∧
    (∀ a d, m.kind = .oload n 1 a d → Tab.wf 0x80 z.side = true → u.tiles = s.tiles ∧
      (let y := u.slot cr.core c.sub n
      y.owner = z.owner ∧ y.data = z.data ∧ y.band = z.band ∧ ∀ r j, r < 32 → j < 64 →
        Tab.read 0x80 y.side (64 * r + j) = s.smem.byte (s.crewKey cr + (a + r * d + j)))) ∧
    (∀ a d, m.kind = .oload n 2 a d → u.tiles = s.tiles ∧
      (let y := u.slot cr.core c.sub n
      y.owner = z.owner ∧ y.data = z.data ∧ y.side = z.side ∧ y.band = s.smem.nat (s.crewKey cr + a) 2)) ∧
    (∀ a d, m.kind = .oload n 0 a d → Tab.wf 0 z.data = true → u.tiles = s.tiles ∧
      (u.slot cr.core c.sub n).owner = z.owner ∧ (u.slot cr.core c.sub n).side = z.side ∧
      ∀ r j, r < 32 → j < 256 → Tab.read 0 (u.slot cr.core c.sub n).data (256 * r + j) =
        s.smem.byte (s.crewKey cr + (a + r * d + j)))) ∧
  ∀ (za zb : Slot) (i j c : Nat), c < 2 ^ 32 → (mmaElem 0x6640 za zb i j c).1 = (BitVec.ofInt 32
    (max (-2 ^ 31) (min (2 ^ 31 - 1) ((BitVec.ofNat 32 c).toInt + ((List.range 256).map fun k =>
      (Tab.read 0 za.data (256 * i + k)).toInt * (Tab.read 0 zb.data (256 * j + k)).toInt).sum)))).toNat

/-- O42. tbpub and tbrel record a crew's publication and release, tbstat and spchk report, spbar waits for the resolution. tbpub of
a buffer that the launch writes, with the ack counter 0, records the crew's publication once and publishes when it was the
last; of another buffer it raises QID, and it holds while the counter is nonzero; tbrel of a buffer that the launch reads
records the release in a crew that is not speculative and parks in one that is, and of another buffer raises QID, as tbstat
does of one that is not bound; tbstat gives the view address, CONF, SPECV and STATE, its predicate true for committed data;
spchk gives %spec, the depth and the number of awaited resolutions, its predicate true outside speculation; spbar completes at
once outside speculation and parks inside; where the guard is false tbpub, tbrel and spbar do nothing. (R357, R365, R366, R367,
R368, R369) -/
def Obligations.OpalInstructions : Prop :=
  ∀ (s : State) (c : Cohort) (d n g : Nat),
    let cr := s.crewOf c
    let status := fun (t : State) (ok : Bool) (x : Nat) => t.newOp c.key fun o => o.left = 0 ∧ o.regsS = dst d ∧
      o.regsP = (if g = 7 then [] else [g]) ∧
      o.res = (c.actives.map fun t => RegWrite.p t.tid g ok) ++ [.s d (BitVec.ofNat 64 x)]
    (Issues s { infoTb 45 0 0 n g with long := true } c → c.guard g = true →
      (s.tbBind cr n = some true → c.acks = 0 → Performs (.tbpub n g) s c fun s =>
        (if n ∈ cr.pubs then s
          else (s.onCrew cr.key fun cr => { cr with pubs := cr.pubs ++ [n] }).tbPublish cr.launch n).quickOp c.key 1 { id := 0 }) ∧
      (s.tbBind cr n = some true → c.acks ≠ 0 → exec (.tbpub n g) s = .next s.unheld.stall) ∧
      (s.tbBind cr n ≠ some true → Raises (.tbpub n g) s c (c.every 13 0 n))) ∧
    (c.guard g = false →
      (Issues s { infoTb 45 0 0 n g with long := true } c → Completes (.tbpub n g) s c id) ∧
      (Issues s { infoTb 45 1 0 n g with long := true } c → Completes (.tbrel n g) s c id) ∧
      (Issues s { infoSpbar 45 4 1 g with long := true } c → Completes (.spbar g) s c id)) ∧
    (s.tbBind cr n = none → Issues s { infoTbstat 45 2 0 d n g with long := true, g := 7, ps := [g] } c →
      Raises (.tbstat d n g) s c (c.every 13 0 (n + 512))) ∧
    (Issues s { infoTb 45 1 0 n g with long := true } c → c.guard g = true →
      (cr.spec = false → s.tbBind cr n = some false → Performs (.tbrel n g) s c fun s =>
        ((s.onCrew cr.key fun cr => { cr with rels := if n ∈ cr.rels then cr.rels else cr.rels ++ [n] }).tbRelease
          cr.launch n).quickOp c.key 1 { id := 0 }) ∧
      (cr.spec = false → s.tbBind cr n ≠ some false → Raises (.tbrel n g) s c (c.every 13 0 (n + 256))) ∧
      (cr.spec = true → SpecParks (.tbrel n g) s c)) ∧
    (Issues s { infoTbstat 45 2 0 d n g with long := true, g := 7, ps := [g] } c → s.tbBind cr n ≠ none →
      let b := s.tb cr.jd n
      let specv := (s.tbProducer cr.jd.job n b).isSome
      let pred := decide (n ∈ cr.views)
      ∃ t, Begins (.tbstat d n g) s c t ∧ status t (!pred && !specv)
        ((if pred then b.pred else b.base) / 256 * 256 + b.conf * 8 + specv.toNat * 4 + b.state)) ∧
    (∀ l, s.launch cr.launch = some l → Issues s { infoSpchk 45 3 0 d g with long := true, g := 7, ps := [g] } c →
      ∃ t, Begins (.spchk d g) s c t ∧ status t (!cr.spec) (cr.spec.toNat + l.depth * 2 + l.awaits.length * 256)) ∧
    (Issues s { infoSpbar 45 4 1 g with long := true } c → c.guard g = true →
      (cr.spec = false → ∃ t, Begins (.spbar g) s c t ∧ t.newOp c.key fun o => o.left = 0 ∧ o.res = []) ∧
      (cr.spec = true → SpecParks (.spbar g) s c))

/-- O43. Verdicts, history copies, resolutions and commits change descriptors, launches and crews as their tables say. While no
domain is in the change state, HISTORY_COPY_COMPLETE of an EMPTY buffer makes it FULL with SPECV 0 and the next version, HCNT
counted up to 3 when the copy was made and 0 when not; VERDICT of a PREDICTED buffer makes it FULL with the next version, CONF,
LASTV and the statistics by the outcome of all elements (a SQUASH with HCNT 0 when a part does not translate), and tells every
launch that started on the prediction; RESOLUTION_ARRIVAL takes an awaited COMMIT off the list, the last one ending the
launch's speculation with its crews committing, and a SQUASH tears its crews down and gives the launch its whole interval back,
for placements after these crews have retired; COMMIT of a crew at its boundaries sends the held stores in order, one packet
each, leaves the crew committing until they are acknowledged (notes/assumptions/81.md), and ends its speculation then, and
changes nothing while a clause is under way. (R353, R360, R361, R362, R363, R464) -/
def Obligations.OpalEvents : Prop :=
  (∀ (s : State) (n : Nat) (c : Compare) (jd : JobDesc), s.MemWf → s.history[n]? = some c → s.jobCtx c.job = some jd →
    s.tierOk (jd.tbAddr c.tb) 64 = true → s.changing = [] →
    let b := s.tb jd c.tb
    let made := ((s.tbVer jd c.tb (b.ver + 1)).histCopy jd c.tb).isSome
    b.state = 0 → b.hcx = true → ∃ t, exec (.historyCopyComplete n) s = .next t ∧ t.smem = s.smem ∧
      let e := t.tb jd c.tb
      e.state = 1 ∧ e.specv = false ∧ e.ver = (b.ver + 1) % 2 ^ 32 ∧ e.conf = b.conf ∧ e.refs = b.refs ∧
        e.hcnt = if made then min (b.hcnt + 1) 3 else 0) ∧
  (∀ (s : State) (n : Nat) (c : Compare) (jd : JobDesc), s.MemWf → s.compares[n]? = some c → s.jobCtx c.job = some jd →
    s.tierOk (jd.tbAddr c.tb) 64 = true → s.changing = [] →
    let b := s.tb jd c.tb
    let h := s.tbHome c.job c.tb
    let u := s.tbUnit jd c.tb
    let ends := fun (t : State) (commit : Bool) =>
      let e := t.tb jd c.tb
      e.state = 1 ∧ e.specv = false ∧ e.ver = (b.ver + 1) % 2 ^ 32 ∧ e.conf = (if commit then min (b.conf + 1) 7 else 0) ∧
        e.lastv = b.lastv % 2 * 2 + commit.toNat ∧
        e.commits = (if commit then min (b.commits + 1) (2 ^ 32 - 1) else b.commits) ∧
        e.squashes = (if commit then b.squashes else min (b.squashes + 1) (2 ^ 32 - 1)) ∧
        t.resols = s.resols ++ h.starters.map fun l => { launch := l, what := .verdict c.tb, commit := commit }
    b.state = 2 → b.hcx = true →
      (∀ pb pp, s.tileParts u jd false b.base (256 * h.predSize) .read = some pb →
        s.tileParts u jd false b.pred (256 * h.predSize) .read = some pp →
        (s.histParts u jd b ((b.ver + 1) % 2 ^ 32) .write).isSome = true →
        let w := efmtBytes h.predFmt
        let es := (List.zip (codesOf w (s.partBytes pb)) (codesOf w (s.partBytes pp))).map fun e =>
          compareElem (efmtOf h.predFmt) b.atol b.rtol e.1 e.2
        ∃ t, exec (.verdict n) s = .next t ∧ ends t (es.all Prod.fst)) ∧
      (s.tileParts u jd false b.pred (256 * h.predSize) .read = none →
        ∃ t, exec (.verdict n) s = .next t ∧ ends t false ∧ (t.tb jd c.tb).hcnt = 0)) ∧
  (∀ (s : State) (before after : List Resol) (r : Resol) (l : Launch), s.resols = before ++ r :: after →
    s.inShadow r.launch = false → s.launch r.launch = some l → l.spec = true → r.what ∈ l.awaits →
    let rest := l.awaits.filter fun a => decide (a ≠ r.what)
    (r.commit = true → rest ≠ [] → exec (.resolutionArrival before.length) s =
      .next (({ s with resols := before ++ after } : State).onLaunch r.launch fun l => { l with awaits := rest })) ∧
    (r.commit = true → rest = [] → ∃ t l', exec (.resolutionArrival before.length) s = .next t ∧
      t.launch r.launch = some l' ∧ l'.spec = false ∧ l'.awaits = [] ∧
      ∀ cr ∈ t.crews, cr.launch = r.launch → cr.torn = false → cr.committing = true) ∧
    (r.commit = false → ∃ t l', exec (.resolutionArrival before.length) s = .next t ∧ t.launch r.launch = some l' ∧
      l'.spec = false ∧ l'.awaits = [] ∧ l'.depth = 0 ∧ l'.tasks = [(l.lrec.lo, l.lrec.hi)] ∧ l'.age = l.age ∧
      ∀ cr ∈ t.crews, cr.launch = r.launch → cr.torn = true ∧ (cr.squashed = true → cr.key ∈ l'.after))) ∧
  ∀ (s : State) (k : Nat) (cr : Crew), s.crew k = some cr → cr.committing = true → cr.shadow = false →
    ((∃ c ∈ s.cohorts, c.crew = k ∧ c.clause ≠ none) → exec (.commit k) s = .next s) ∧
    let quiet := ∀ c ∈ s.cohorts, c.clause = none ∧ c.drainFault = none ∧ c.drainPark = none
    (quiet → cr.effects ≠ [] → (∀ e ∈ cr.effects, ∃ c pa, s.cohort e.cohort = some c ∧ c.crew = k ∧
        c.acks + cr.effects.length ≤ 4095 ∧ s.translate cr.core cr.jd e.va .write = .ok pa) →
      ∃ t ps, exec (.commit k) s = .next t ∧ t.gmem = s.gmem ∧ t.fabric = s.fabric ++ ps ∧
        List.Forall₂ (fun e (p : Packet) => s.translate cr.core cr.jd e.va .write = .ok p.addr ∧ p.cohort = e.cohort ∧
          p.kind = .store (atAddr p.addr e.data) ∧ p.acked = true ∧ p.space = .glob) cr.effects ps ∧
        t.crew k = some { cr with effects := [] }) ∧
    (quiet → cr.effects = [] → (∃ c ∈ s.cohortsOf k, c.acks ≠ 0) → exec (.commit k) s = .next s) ∧
    (quiet → cr.effects = [] → (∀ c ∈ s.cohortsOf k, c.acks = 0) → cr.heldKill = none →
      ∃ t d, exec (.commit k) s = .next t ∧ t.gmem = s.gmem ∧ t.fabric = s.fabric ∧
        t.crew k = some d ∧ d.spec = false ∧ d.committing = false ∧ d.effects = [] ∧
        ∀ c ∈ t.cohorts, c.crew = k → ∀ x ∈ c.threads, x.st ≠ .parked .spec)

/-- O44. spawn and spawnw take an entry of the store for a checked record, done closes spawning, cancel tears down. With a
readable, clean record at a multiple of 128, no domain of it in the change state, no acquire under way and, for spawn and
spawnw, the ack counter 0 (else they hold), spawn of a crew that is not speculative creates a launch of the record's interval,
counted as a child, and writes its handle with a true predicate; it reports 3 for a record that breaks a rule and 1 for a full
store or one with requests before it; spawnw writes the handle or 3, and waits for an entry; done of 0 closes the crew's
spawning, done of a record creates the continuation, which takes over the join counter, and holds while the store is full, done
of a refused record closes spawning, and a done that follows one taken or held is ignored; that done does not wait for the ack
counter is notes/assumptions/39.md; a misaligned record raises ALIGN, one that does not translate its cause and a poisoned one
POISON; cancel of level 0 tears the crew down, of level 1 its launch and of levels 2 to 5 the launches of the job in its graph,
in its phase, all, or the one with the handle, ends a launch with no crew placed at once, and does nothing of another level, at
any ack counter; all park in a speculative crew. (R319, R320, R321, R322, R323, R324, R230, R234, R357) -/
def Obligations.LaunchInstructions : Prop :=
  ∀ (s : State) (c : Cohort) (cr : Crew) (d a g : Nat), s.crew c.crew = some cr →
    let x := c.sr a
    let status := fun (t : State) (ok : Bool) (x : Nat) => t.newOp c.key fun o => o.left = 0 ∧ o.regsS = dst d ∧
      o.regsP = (if g = 7 then [] else [g]) ∧
      o.res = (c.actives.map fun t => RegWrite.p t.tid g ok) ++ [.s d (BitVec.ofNat 64 x)]
    let wrote := fun (t : State) (x : Nat) => t.newOp c.key fun o => o.left = 0 ∧ o.regsS = dst d ∧
      o.res = [.s d (BitVec.ofNat 64 x)]
    let homes := s.vaHomes cr.core cr.jd x.toNat 128
    let readable := fun (w : Nat) => x.toNat % 128 = 0 ∧ c.acquiring = false ∧ s.mustReplay homes = false ∧
      ∃ bs, s.readVa cr.core cr.jd x.toNat 128 = .ok bs ∧ (bs.any (·.2)) = false ∧ w = leNat (bs.map (·.1))
    let checks := fun (i : Instr) (sub : Nat) (acks : Nat) =>
      (x.toNat % 128 ≠ 0 → Raises i s c (c.every 4 0 (opInfo x sub 1))) ∧ (x.toNat % 128 = 0 →
        (acks ≠ 0 ∨ c.acquiring = true → exec i s = .next s.unheld.stall) ∧ (acks = 0 → c.acquiring = false →
          (∀ e, s.readVa cr.core cr.jd x.toNat 128 = .error e → Raises i s c (c.every e.1 1 e.2)) ∧
          ∀ bs, s.readVa cr.core cr.jd x.toNat 128 = .ok bs →
            (s.mustReplay homes = true → exec i s = .next (s.unheld.nack cr.core (.copy, c.key)).stall) ∧
            ∀ j b, s.mustReplay homes = false → bs[j]? = some (b, true) → (∀ k y, k < j → bs[k]? = some y → y.2 = false) →
              Raises i s c (c.every 12 0 ((x.toNat + j) / 8 * 8))))
    let child := fun (t : State) (e : LRec × List Chan × List (Nat × Bool)) => ∃ l k, t.launches = s.launches ++ [l] ∧
      l.handle = s.nextHandle ∧ l.lrec = e.1 ∧ l.tasks = [(e.1.lo, e.1.hi)] ∧ l.left = e.1.hi - e.1.lo ∧
      l.parent = .crew cr.key ∧ l.inStore = true ∧ t.crew cr.key = some k ∧ k.join = min (cr.join + 1) (2 ^ 32 - 1)
    (Issues s { infoRdeq 44 5 0 d a g with long := true, g := 7, ps := [g] } c →
      (cr.spec = true → SpecParks (.spawn d a g) s c) ∧
      (∀ w, cr.spec = false → readable w → c.acks = 0 →
        (s.checkRecord w (some (s.jobOf cr)) = none →
          ∃ t, Begins (.spawn d a g) s c t ∧ t.launches = s.launches ∧ status t false 3) ∧
        (∀ e, s.checkRecord w (some (s.jobOf cr)) = some e →
          (s.storeFree = false ∨ s.storeWait ≠ [] →
            ∃ t, Begins (.spawn d a g) s c t ∧ t.launches = s.launches ∧ status t false 1) ∧
          (s.storeFree = true → s.storeWait = [] →
            ∃ t, Begins (.spawn d a g) s c t ∧ child t e ∧ status t true (s.nextHandle * 65536)))) ∧
      (cr.spec = false → checks (.spawn d a g) 5 c.acks)) ∧
    (Issues s { infoRdeq 44 6 1 d a g with long := true } c → c.guard g = true →
      (cr.spec = true → SpecParks (.spawnw d a g) s c) ∧ (cr.spec = false → checks (.spawnw d a g) 6 c.acks) ∧
      let req := StoreReq.spawnw c.key (c.actives.map (·.tid))
      ∀ w, cr.spec = false → readable w → c.acks = 0 →
        (s.checkRecord w (some (s.jobOf cr)) = none → ∃ t, Begins (.spawnw d a g) s c t ∧ wrote t 3) ∧
        ∀ e, s.checkRecord w (some (s.jobOf cr)) = some e →
          (s.mayTake req = true →
            ∃ t, Begins (.spawnw d a g) s c t ∧ child t e ∧ wrote t (s.nextHandle * 65536)) ∧
          (s.mayTake req = false →
            Suspends (.spawnw d a g) s c .spawn fun s => (s.recordRead c a).request req)) ∧
    (Issues s { infoRrel 44 7 0 a g with long := true } c → c.guard g = true →
      (cr.spec = true → SpecParks (.doneCrew a g) s c) ∧ (cr.spec = false → x ≠ 0 → checks (.doneCrew a g) 7 0) ∧
      (cr.spec = false → x = 0 → ∃ t k, Begins (.doneCrew a g) s c t ∧ t.crew cr.key = some k ∧
        k = (if s.doneTaken cr c.key then cr else { cr with doneUsed := true }) ∧ t.newOp c.key fun o => o.left = 0 ∧ o.res = []) ∧
      (∀ w, cr.spec = false → x ≠ 0 → readable w → s.doneTaken cr c.key = true →
        ∃ t, Begins (.doneCrew a g) s c t ∧ t.launches = s.launches ∧ t.crews = s.crews) ∧
      (∀ w, cr.spec = false → x ≠ 0 → readable w → s.doneTaken cr c.key = false →
        s.checkRecord w (some (s.jobOf cr)) = none → ∃ t k, Begins (.doneCrew a g) s c t ∧ t.launches = s.launches ∧
          t.crew cr.key = some k ∧ k = { cr with doneUsed := true }) ∧
      let req := StoreReq.done c.key (c.actives.map (·.tid))
      ∀ w e, cr.spec = false → x ≠ 0 → readable w → s.doneTaken cr c.key = false →
        s.checkRecord w (some (s.jobOf cr)) = some e →
          (s.mayTake req = true → ∃ t l k, Begins (.doneCrew a g) s c t ∧ t.launches.getLast? = some l ∧
            l.handle = s.nextHandle ∧ l.lrec = e.1 ∧ l.join = cr.join ∧ t.crew cr.key = some k ∧ k.join = 0 ∧
            k.cont = some s.nextHandle ∧ k.doneUsed = true) ∧
          (s.mayTake req = false →
            exec (.doneCrew a g) s = .next ((s.unheld.recordRead c a).request req).stall)) ∧
    (Issues s { infoRrel 44 8 0 a g with long := true } c → c.guard g = true → cr.torn = false →
      let level := x.toNat % 8
      let own := s.launch cr.launch
      let ids := if level = 1 then [cr.launch] else (s.launches.filter fun l => l.lrec.job == s.jobOf cr &&
        ((level == 2 && l.lrec.graph == (own.map (·.lrec.graph)).getD 0) ||
          (level == 3 && l.lrec.phase == (own.map (·.lrec.phase)).getD 0) || level == 4 ||
          (level == 5 && l.handle == x.toNat / 2 ^ 16))).map (·.handle)
      let tear := fun (s : State) => ids.foldl (fun s h => s.tearLaunch h) s
      (cr.spec = false → level ≠ 0 → ((tear s.unheld).crew cr.key).all (·.torn) = false →
        Performs (.cancel a g) s c fun s => (tear s).quickOp c.key 1 { id := 0 }) ∧
      (cr.spec = false → level ≠ 0 → ((tear s.unheld).crew cr.key).all (·.torn) = true → Moves (.cancel a g) s c tear) ∧
      (cr.spec = true → SpecParks (.cancel a g) s c) ∧
      (cr.spec = false → x.toNat % 8 = 0 → ∃ t k e, exec (.cancel a g) s = .next t ∧ t.gmem = s.gmem ∧ t.smem = s.smem ∧
        t.crew cr.key = some k ∧ k.torn = true ∧ k.cancelled = true ∧ t.cohort c.key = some e ∧
        ∀ y ∈ e.threads, y.st = .exited) ∧
      (∀ l, cr.spec = false → x.toNat % 8 = 5 → s.launch (x.toNat / 2 ^ 16) = some l → l.lrec.job = s.jobOf cr →
        l.torn = false → l.spec = false → (∀ k ∈ s.crews, k.launch ≠ l.handle) →
          ∃ t, Starts (.cancel a g) s c t ∧ t.launch l.handle = none))

/-- O45. Cohorts retire, freed entries go to the oldest request, idle cores take tasks and place crews. COHORT_RETIRE of a cohort
that may retire removes it and frees its tiles and slots, the last one of a crew that may retire taking the crew along unless
the crew has threads in bins (notes/assumptions/44.md), and changes nothing of one that may not, as it does by the key of a
crew with no cohort left; STORE_ENTRY_GRANT lets the oldest request that can be served issue again, if it is a spawnw, once an
entry is free, and changes nothing while none is (which requests cannot be served is notes/assumptions/106.md);
IDLE_CORE_REQUEST gives an idle core the only launch's task, or its upper part when it exceeds GRAIN, and changes nothing for a
core with a task; CREW_PLACEMENT of a task that fits adds one crew of the lowest index, its cohorts with s0 = ARG and their
eligible threads at the role's entry, and the core keeps the rest of the task. (R76, R159, R190, R289, R319, R326, R327, R72) -/
def Obligations.LaunchEvents : Prop :=
  (∀ (s : State) (k : Nat) (c : Cohort), s.cohort k = some c → k ≠ 0 →
    let cr := s.crewOf c
    (s.mayRetire c cr = true → 2 ≤ (s.cohortsOf c.crew).length ∨ s.crewMay cr = true ∨ s.crewBinned cr = true →
      ∃ t, exec (.cohortRetire k) s = .next t ∧ t.cohort k = none ∧ (∀ n, (Tab.read {} t.tiles n).owner ≠ k) ∧
        (∀ n, (Tab.read {} t.slots n).owner ≠ k) ∧
        ((s.cohortsOf c.crew).length ≤ 1 → s.crewBinned cr = false → t.crew c.crew = none) ∧
        (s.crewBinned cr = true → ∀ x, s.crew c.crew = some x → ∃ y, t.crew c.crew = some y ∧ y = { x with rays := y.rays })) ∧
    (s.mayRetire c cr = false ∨ (s.cohortsOf c.crew).length ≤ 1 ∧ s.crewBinned cr = false ∧ s.crewMay cr = false → exec (.cohortRetire k) s = .next s)) ∧
  (∀ (s : State) (k : Nat) (cr : Crew), s.cohort k = none → s.crew k = some cr →
    (s.cohortsOf k = [] → s.crewMay cr = true → ∃ t, exec (.cohortRetire k) s = .next t ∧ t.crew k = none) ∧
    (s.cohortsOf k ≠ [] ∨ s.crewMay cr = false → exec (.cohortRetire k) s = .next s)) ∧
  (∀ (s : State), (s.storeFree = false → exec .storeEntryGrant s = .next s) ∧
    (s.storeWait.find? s.mayServe = none → exec .storeEntryGrant s = .next s) ∧
    ∀ k ts, s.storeFree = true → s.storeWait.find? s.mayServe = some (.spawnw k ts) →
      exec .storeEntryGrant s = .next (s.onCohort k fun c =>
        (c.mapT (fun t => decide (t.st = .waiting .spawn) && ts.contains t.tid) fun t => { t with st := .eligible }).settle)) ∧
  (∀ (s : State) (k : Nat) (ts : List Nat) (c : Cohort), s.cohort k = some c → (s.mayServe (.spawnw k ts) = true ↔
    (s.crewOf c).shadow = false ∧ ∃ t ∈ c.threads, t.tid ∈ ts ∧ (c.tmode = false ∨ t.inH = true))) ∧
  (∀ (s : State) (core : Nat),
    ((s.core core).task ≠ none → exec (.idleCoreRequest core) s = .next s) ∧
    ∀ l a b, (s.core core).task = none → s.launches = [l] → l.tasks = [(a, b)] → l.lrec.cosched = false →
      (s.placeOne l.handle core a).isSome = true → a < b → 0 < l.lrec.grain →
        ∃ t l', exec (.idleCoreRequest core) s = .next t ∧ t.crews = s.crews ∧ t.launches = [l'] ∧
          if b - a ≤ l.lrec.grain then l' = l ∧ (t.core core).task = some (l.handle, a, b)
          else
            let m := max ((b - a) / 2) l.lrec.grain
            l' = { l with tasks := [(a, b - m), (b - m, b)] } ∧ (t.core core).task = some (l.handle, b - m, b)) ∧
  ∀ (s : State) (core h a b : Nat) (l : Launch), Tab.wf {} s.cores = true → (s.core core).task = some (h, a, b) →
    s.launch h = some l → (a, b) ∈ l.tasks →
    (s.placeOne h core a = none → exec (.crewPlacement core) s = .next s) ∧
    ((s.placeOne h core a).isSome = true → ∃ t cr cs, exec (.crewPlacement core) s = .next t ∧ t.crews = s.crews ++ [cr] ∧
      cr.launch = h ∧ cr.index = a ∧ cr.core = core ∧ t.cohorts = s.cohorts ++ cs ∧
      (t.core core).task = (if a + 1 < b then some (h, a + 1, b) else none) ∧
      ∀ c ∈ cs, c.crew = cr.key ∧ c.sr 0 = BitVec.ofNat 64 l.lrec.arg ∧ c.fpst = 0 ∧ c.mstat = 0 ∧ c.tmode = false ∧
        ∀ t ∈ c.threads, t.st = .eligible ∧ t.v = [] ∧ t.p = 0 ∧
          t.pc = BitVec.ofNat 64 (cr.hdr.text + (cr.role c.role).entry))

/-- O46. Privileged instructions read and write the device's registers in a privileged crew, and raise PRIV in another. In a
privileged crew: crd of a legal index writes the register that CORE and ITEM select, all ones for a selector out of range; cwr,
freply, carve and pjob write the register and nothing for a selector out of range, a register of storage reading back the
written bits; the carve-out change clears exactly the bytes of the ways between the two counts, global memory keeping every
byte, and adds no dirty line, of which each slice keeps what its other ways hold (notes/assumptions/13.md); tlbinv drops
exactly the entries that its mode names and keeps the walks under way for them from being installed, holds for the packets
under way of the cohorts of its ASID and completes once they are performed and acknowledged (notes/assumptions/47.md); slsync
of a valid domain holds while another domain changes, then puts the affected domains in the change state and holds, and then
makes the pending fields current, ends the change state and writes the number of dirty lines, at most those there are, and of
an invalid domain it writes all ones, that one domain changes at a time and in two steps being the model's choice
(notes/assumptions/47.md); halt writes 1, 2 or 3 for a partition without cores, halting or its own, exchanges the PJOB items at
once of one no core of which has left reset, and otherwise begins the swap and holds until it ends. In a crew that is not
privileged each, crd and cwr of every legal index among them, raises PRIV with the word; an index that names no register raises
ILLEGAL_OP in any crew. (R54, R193, R198, R215, R228, R231, R285, R337, R338, R341, R342) -/
def Obligations.SystemInstructions : Prop :=
  (∀ (s : State) (c : Cohort) (d a idx : Nat), s.privileged c = true →
    let sel := cfgSel idx (c.sr a)
    (Issues s (infoCrd 0 d a idx) c → crdLegal idx = true → Completes (.crd d a idx) s c fun c => c.setS d (match sel with
      | some (core, item) => BitVec.ofNat 64 (s.cfg idx core item)
      | none => BitVec.allOnes 64)) ∧
    (Issues s (infoCwr 1 d a idx) c → cwrLegal idx = true → Performs (.cwr d a idx) s c fun s => match sel with
      | some (core, item) => s.cfgSet idx core item (c.sr d).toNat
      | none => s) ∧
    (∀ e ∈ ([(Instr.freplyResume d a, 1), (.freplyReject d a, 1), (.carve d a, 10), (.pjob d a, 12)] : List (Instr × Nat)),
      Issues s (infoCwri 1 e.2 d a) c → Performs e.1 s c fun s => match cfgSel e.2 (c.sr a) with
        | some (core, item) => s.cfgSet e.2 core item (c.sr d).toNat
        | none => s)) ∧
  (∀ (s : State) (core item x : Nat), x < 2 ^ 64 → ∀ idx ∈ [2, 3, 4, 5, 6, 7, 9, 14, 15, 16], x &&& cfgMask idx ≠ 0 →
    (s.cfgSet idx core item x).cfg idx core item = x &&& cfgMask idx) ∧
  (∀ (s : State) (w a : Nat), w < 7 → (s.carveSet w).carve = w ∧ (s.carveSet w).cmem.byte a =
    (if min s.carve w * 2 ^ 24 ≤ a ∧ a < max s.carve w * 2 ^ 24 then 0 else s.cmem.byte a) ∧
    (s.carveSet w).gmem = s.gmem ∧ ∀ e ∈ (s.carveSet w).l2dirty, e ∈ s.l2dirty) ∧
  (∀ (s : State) (c : Cohort) (a : Nat), s.privileged c = true →
    let x := (c.sr a).toNat
    ∀ e ∈ ([(.tlbinvPage a, 0, fun e => e.asid == x % 65536 &&
          decide (e.vpage ≤ bitsOf x 16 41 * 65536 ∧ bitsOf x 16 41 * 65536 < e.vpage + e.size)),
        (.tlbinvAsid a, 1, fun e => e.asid == x % 65536), (.tlbinvAll a, 2, fun _ => true)] : List (Instr × Nat × (TlbE → Bool))),
      Issues s (infoTlbinv 2 e.2.1 a) c →
        (s.tlbDrop e.2.1 x = { s with
          tlb := s.tlb.filter fun t => !(e.2.2 t),
          walks := s.walks.map fun k => { k with
            install := k.install && !(e.2.2 ⟨k.core, k.asid, k.vpage, k.size, k.ppage, k.r, k.w, k.x⟩) } }) ∧
        (c.tlbWait = none → s.tlbUsers e.2.1 x = [] → Performs e.1 s c fun s => s.tlbDrop e.2.1 x) ∧
        (c.tlbWait = none → s.tlbUsers e.2.1 x ≠ [] → exec e.1 s = .next (((s.unheld.tlbDrop e.2.1 x).onCohort
          c.key fun k => { k with tlbWait := some (s.tlbUsers e.2.1 x) }).stall)) ∧
        ∀ ids, c.tlbWait = some ids →
          ((∀ n ∈ ids, s.packetOver n = true) → Completes e.1 s c fun c => { c with tlbWait := none }) ∧
          ((∃ n ∈ ids, s.packetOver n = false) → exec e.1 s = .next s.unheld.stall)) ∧
  (∀ (s : State) (c : Cohort) (d a : Nat), s.privileged c = true → Issues s (infoSysda 3 d a) c →
    let n := (c.sr a).toNat % 8
    let new := Tab.read {} s.domsNew n
    (c.sync = none →
      (s.domInvalid n = true → Completes (.slsync d a) s c fun c => c.setS d (BitVec.allOnes 64)) ∧
      (s.domInvalid n = false → s.changing ≠ [] → exec (.slsync d a) s = .next s.unheld.stall) ∧
      (s.domInvalid n = false → s.changing = [] → n ∈ s.domAffected n new ∧ exec (.slsync d a) s = .next
        ((({ s.unheld with changing := s.domAffected n new } : State).onCohort c.key fun k =>
          { k with sync := some (n, new) }).stall))) ∧
    ∀ m dom, c.sync = some (m, dom) → Tab.wf {} s.doms = true → ∃ t k x, exec (.slsync d a) s = .next t ∧
      t.gmem = s.gmem ∧ t.changing = [] ∧ Tab.read {} t.doms m = dom ∧
      (∀ q, q ≠ m → Tab.read {} t.doms q = Tab.read {} s.doms q) ∧
      t.cohort c.key = some k ∧ k.sync = none ∧
      ((({ c with sync := none } : Cohort).setS d (BitVec.ofNat 64 x)).passes 1).flow k ∧ x ≤ s.l2dirty.length) ∧
  (∀ (s : State) (c : Cohort) (d a : Nat), s.privileged c = true → Issues s (infoSysda 4 d a) c →
    let p := (c.sr a).toNat % 8
    (∀ q, c.haltP = some q →
      (s.partHalting q = true → exec (.halt d a) s = .next s.unheld.stall) ∧
      (s.partHalting q = false → Completes (.halt d a) s c fun c => ({ c with haltP := none } : Cohort).setS d 0)) ∧
    (c.haltP = none →
      (Tab.read 0 s.part p % 2 ^ 40 = 0 → Completes (.halt d a) s c fun c => c.setS d 1) ∧
      (Tab.read 0 s.part p % 2 ^ 40 ≠ 0 →
        (s.partHalting p = true → Completes (.halt d a) s c fun c => c.setS d 2) ∧
        (s.partHalting p = false → s.partOf (s.crewOf c).core = p → Completes (.halt d a) s c fun c => c.setS d 3) ∧
        (s.partHalting p = false → s.partOf (s.crewOf c).core ≠ p → s.liveCores p = [] →
          Performs (.halt d a) s c fun s => (s.swapJobs p).onCohort c.key fun c => ({ c with haltP := none } : Cohort).setS d 0) ∧
        (s.partHalting p = false → s.partOf (s.crewOf c).core ≠ p → s.liveCores p ≠ [] →
          exec (.halt d a) s = .next (((s.unheld.beginSwap p).onCohort c.key fun c => { c with haltP := some p }).stall))))) ∧
  (∀ (s : State) (c : Cohort) (d a idx : Nat),
    (Issues s (infoCrd 0 d a idx) c →
      (crdLegal idx = false → Raises (.crd d a idx) s c (c.every 1 0 (((infoCrd 0 d a idx).words.headD 0).toNat))) ∧
      (crdLegal idx = true → s.privileged c = false →
        Raises (.crd d a idx) s c (c.every 3 0 (((infoCrd 0 d a idx).words.headD 0).toNat)))) ∧
    (Issues s (infoCwr 1 d a idx) c →
      (cwrLegal idx = false → Raises (.cwr d a idx) s c (c.every 1 0 (((infoCwr 1 d a idx).words.headD 0).toNat))) ∧
      (cwrLegal idx = true → s.privileged c = false →
        Raises (.cwr d a idx) s c (c.every 3 0 (((infoCwr 1 d a idx).words.headD 0).toNat))))) ∧
  ∀ (s : State) (c : Cohort) (d a : Nat), s.privileged c = false →
    ∀ e ∈ ([(.freplyResume d a, infoCwri 1 1 d a),
      (.freplyReject d a, infoCwri 1 1 d a),
      (.carve d a, infoCwri 1 10 d a),
      (.pjob d a, infoCwri 1 12 d a),
      (.tlbinvPage a, infoTlbinv 2 0 a),
      (.tlbinvAsid a, infoTlbinv 2 1 a),
      (.tlbinvAll a, infoTlbinv 2 2 a),
      (.slsync d a, infoSysda 3 d a),
      (.halt d a, infoSysda 4 d a),
      (.wbr a d true, { infoWbr 40 2 a d true with long := true }),
      (.invr a d false true, { infoInvr 40 3 a d false true with long := true })]
      : List (Instr × Info)), Issues s e.2 c → Raises e.1 s c (c.every 3 0 ((e.2.words.headD 0).toNat))

/-- O47. Halts, swaps, long-wait swap-outs and migrations move crews as their conditions allow. CORE_HALTED of a halting core that
is ready makes it halted, the last of its partition exchanging the PJOB items (notes/assumptions/45.md); SWAP of a halted core,
none of its partition still halting, turns each of its crews between active and shadow, flips the bank and runs again, but for
a partition that the hot condition keeps out, which holds (notes/assumptions/45.md), and waits where the change state of a
domain keeps a private line from its home; LONG_WAIT_SWAP_OUT marks a crew out when its rule holds and a run of frames is free;
CREW_RETURN brings a crew that is ready and fits back with its threads and scalars as they were; MIGRATION_REQUEST asks for a
core of the partition that has left reset, MIGRATION_WITHDRAW ends the request and frees the parked threads, SAVE_STEP sends
every thread to the SAVE of its safe point, or releases the parked threads where one stands at none or the crew holds what a
migration does not keep (notes/assumptions/46.md), MIGRATION_RECORD moves the crew's seat, copies its allocation whole and
drops its suspended rays, RESTORE_STEP gives it its grant on the new core, whose clean lines drop; each changes nothing while
its conditions, which the clauses name, do not hold. (R281, R282, R283, R286, R287, R289, R291, R292, R293, R431) -/
def Obligations.ContextEvents : Prop :=
  (∀ (s : State) (core : Nat), Tab.wf {} s.cores = true → Tab.wf 0 s.pjob = true →
    ((s.core core).phase ≠ .halting ∨ s.haltReady core = false → exec (.coreHalted core) s = .next s) ∧
    ((s.core core).phase = .halting → s.haltReady core = true → ∃ t, exec (.coreHalted core) s = .next t ∧
      (t.core core).phase = .halted ∧ (∀ n, n ≠ core → t.core n = s.core n) ∧ t.cohorts = s.cohorts ∧
      let p := s.partOf core
      ((∀ n ∈ s.liveCores p, n = core ∨ (s.core n).phase ≠ .halting) →
        Tab.read 0 t.pjob (2 * p) = Tab.read 0 s.pjob (2 * p + 1) ∧ Tab.read 0 t.pjob (2 * p + 1) = Tab.read 0 s.pjob (2 * p))) ∧
    ((s.core core).phase ≠ .halted ∨ (∃ n ∈ s.liveCores (s.partOf core), (s.core n).phase = .halting) →
      exec (.swap core) s = .next s) ∧
    let out := (s.crews.filter fun cr => cr.core == core && !cr.shadow).map (·.key)
    (∀ k, (s.core core).phase = .halted → (∀ n ∈ s.liveCores (s.partOf core), (s.core n).phase ≠ .halting) →
      s.privStuck out = some k → exec (.swap core) s = .next (s.nack core (.writeBack, k))) ∧
    ((s.core core).phase = .halted → (∀ n ∈ s.liveCores (s.partOf core), (s.core n).phase ≠ .halting) → s.heatSwaps = [] →
      s.privStuck out = none → s.latent = [] →
      ∃ t, exec (.swap core) s = .next t ∧ (t.core core).phase = (if s.heatOut.contains (s.partOf core) then CorePhase.held else .running) ∧ (t.core core).bank = 1 - (s.core core).bank ∧
        (∀ n, n ≠ core → t.core n = s.core n) ∧ List.Forall₂ (fun x y : Crew => y.key = x.key ∧ y.core = x.core ∧
          y.shadow = if x.core = core then !x.shadow else x.shadow) s.crews t.crews)) ∧
  (∀ (s : State) (k : Nat) (cr : Crew), s.crew k = some cr →
    (s.spinsOut cr = false ∨ s.freeRun cr.jd (s.imageBytes cr) = none → exec (.longWaitSwapOut k) s = .next s) ∧
    (∀ run, s.spinsOut cr = true → s.freeRun cr.jd (s.imageBytes cr) = some run →
      ∃ t d, exec (.longWaitSwapOut k) s = .next t ∧ t.crew k = some d ∧ d.out = some run ∧
        t.cohorts = (s.meet (s.imageSites cr)).cohorts) ∧
    (cr.out = none ∨ s.readyBack cr = false ∨ cr.shadow = true ∨ cr.torn = true ∨ s.partHalting (s.partOf cr.core) = true ∨
      s.sitsBack cr = false → exec (.crewReturn k) s = .next s) ∧
    (∀ run, cr.out = some run → s.readyBack cr = true → cr.shadow = false → cr.torn = false →
      s.partHalting (s.partOf cr.core) = false → s.sitsBack cr = true → (s.cohorts.map (·.key)).Nodup →
      ∃ t d, exec (.crewReturn k) s = .next t ∧ t.crew k = some d ∧ d.out = none ∧
        ∀ j c, s.cohort j = some c → ∃ e, t.cohort j = some e ∧ e.threads = c.threads ∧ e.s = c.s ∧ e.fpst = c.fpst) ∧
    (∀ core, (cr.torn = true ∨ cr.migrating = true ∨ s.partOf core ≠ cr.jd.part ∨ (s.core core).released = false) →
      exec (.migrationRequest k core) s = .next s) ∧
    (∀ core, cr.torn = false → cr.migrating = false → s.partOf core = cr.jd.part → (s.core core).released = true →
      ∃ t d, exec (.migrationRequest k core) s = .next t ∧ t.crew k = some d ∧ d = { cr with mig := .requested core }) ∧
    (∀ core, cr.mig = .requested core → ∃ t d, exec (.migrationWithdraw k) s = .next t ∧ t.crew k = some d ∧
      d = { cr with mig := .none } ∧ ∀ c ∈ t.cohorts, c.crew = k → ∀ x ∈ c.threads, x.st ≠ .parked .safePoint) ∧
    ((∀ core, cr.mig ≠ .requested core) → exec (.migrationWithdraw k) s = .next s ∧ exec (.saveStep k) s = .next s) ∧
    (∀ core, cr.mig = .requested core →
      let cs := s.cohortsOf k
      let live := cs.flatMap (·.live)
      let gone := cr.shadow = true ∨ cr.torn = true ∨ cr.spec = true ∨ cr.out ≠ none ∨ live = []
      let judged := (∀ c ∈ cs, c.live.any c.elig = false) ∧ ∀ e ∈ s.bins, e.2.held = false ∨ e.2.crew ≠ k
      let fails := (∃ t ∈ live, s.standsAt cr (s.safePts cr) t = none) ∨ (∃ c ∈ cs, c.tmode = true) ∨
        s.crewHolds k = true ∨ cr.rays ≠ []
      let busy := ∃ c ∈ cs, c.flags ≠ [] ∨ c.outst ≠ [] ∨ c.unacked ≠ [] ∨ s.batchesOf c.key ≠ []
      (gone ∨ (∃ c ∈ cs, c.live.any c.elig = true) → exec (.saveStep k) s = .next s) ∧
      (¬ gone → judged → fails → exec (.saveStep k) s = .next (s.unparkSafe k)) ∧
      (¬ gone → judged → ¬ fails → busy ∨ s.freeRun cr.jd cr.recordBytes = none → exec (.saveStep k) s = .next s) ∧
      ∀ run, cr.shadow = false → cr.torn = false → cr.spec = false → cr.out = none → live ≠ [] →
        (∀ c ∈ cs, c.live.any c.elig = false) → (∀ e ∈ s.bins, e.2.held = false ∨ e.2.crew ≠ k) →
        (∀ t ∈ live, s.standsAt cr (s.safePts cr) t ≠ none) → s.crewHolds k = false → cr.rays = [] →
        (∀ c ∈ cs, c.tmode = false ∧ c.flags = [] ∧ c.outst = [] ∧ c.unacked = [] ∧ s.batchesOf c.key = []) →
        s.freeRun cr.jd cr.recordBytes = some run →
        ∃ t d, exec (.saveStep k) s = .next t ∧ t.crew k = some d ∧ d.mig = .saving core ∧ d.frames = some run ∧
          ∀ j c, s.cohort j = some c → c.crew = k → ∃ e, t.cohort j = some e ∧ List.Forall₂ (fun x y : Thread =>
            x.st ≠ .exited → ∀ p, s.standsAt cr (s.safePts cr) x = some p →
              y.pc = BitVec.ofNat 64 p.save ∧ y.label = some p.label ∧ (y.waited = true ↔ ∃ w, x.st = .waiting w) ∧
              y.p = x.p ∧ y.v = x.v) c.threads e.threads) ∧
    ((∀ core, cr.mig ≠ .saving core) → exec (.migrationRecord k) s = .next s) ∧
    (∀ core, cr.mig = .saving core →
      let ready := cr.shadow = false ∧ cr.torn = false ∧ cr.out = none ∧ s.savedAll k = true ∧ s.crewHolds k = false ∧
        s.partHalting (s.partOf core) = false ∧ s.freeSlot core ≠ none ∧ s.spadFit core cr.ssize ≠ none
      (¬ ready → exec (.migrationRecord k) s = .next s) ∧
      (ready → s.mustReplay (s.privHomes k fun _ => true) = true →
        exec (.migrationRecord k) s = .next (s.nack cr.core (.writeBack, k)))) ∧
    (∀ core slot sb, s.MemWf → s.mustReplay (s.privHomes k fun _ => true) = false → cr.mig = .saving core → cr.shadow = false → cr.torn = false → cr.out = none → s.savedAll k = true →
      s.crewHolds k = false → s.partHalting (s.partOf core) = false → s.freeSlot core = some slot →
      s.spadFit core cr.ssize = some sb → ∃ t d, exec (.migrationRecord k) s = .next t ∧ t.crew k = some d ∧
        d.mig = .moving core ∧ d.core = core ∧ d.slot = slot ∧ d.sbase = sb ∧ d.rays = [] ∧
        List.Forall₂ (fun c e : Cohort => e = { c with sPoison := e.sPoison }) s.cohorts t.cohorts ∧
        ∀ i, i < cr.ssize → t.smem.byte (spadKey core (s.core core).bank sb + i) = s.smem.byte (s.crewKey cr + i)) ∧
    (∀ core, cr.mig ≠ .moving core ∨ cr.shadow = true ∨ cr.torn = true ∨ s.partHalting (s.partOf core) = true →
      exec (.restoreStep k core) s = .next s) ∧
    ∀ core, cr.mig = .moving core → cr.shadow = false → cr.torn = false → s.partHalting (s.partOf core) = false →
      let cut := fun (g : Nat) => (sliceAll { cr with gw := g, base := s.baseSub core } (s.cohortsOf k) g 0
        (slicesOf cr.hdr g)).map fun c => (c.cid, c.role)
      (s.grant core (s.baseSub core) cr.lastReq cr.hdr cut k = none → exec (.restoreStep k core) s = .next s) ∧
      ∀ g, s.grant core (s.baseSub core) cr.lastReq cr.hdr cut k = some g →
        ∃ t d, exec (.restoreStep k core) s = .next t ∧ t.crew k = some d ∧ d.mig = .none ∧ d.gw = g ∧ d.frames = none ∧ (∀ l ∈ t.l1, l.core ≠ core ∨ l.priv ≠ 0) ∧
          ∀ c ∈ t.cohorts, c.crew = k → ∀ x ∈ c.threads, x.st ≠ .saved)

/-- O48. march and trace hand rays to their units, marchr and tracer resume stopped ones, fprep, bfetch, tex and texq deliver their
results at completion. Each of the eight raises ALIGN for a misaligned operand and holds at a full gather counter, and while a
release that covers its reads is not performed (notes/assumptions/87.md), and those that read memory at issue hold for a ninth
outstanding miss of their core, and, NACKed, while a domain that they reach is in the change state; march raises RANGE for a
program outside scratchpad, march and trace hold for a ray in flight or for slots, and otherwise put one ray per active thread
into the unit with the inputs read then, a poisoned program header as a failed read where the descriptor is well-formed; marchr
and tracer give their replies to the stopped rays of the active threads, other rays stay; fprep gives the status of a record
that cannot be used and, of one that can, L with NOHIT and ALLIN, the output bytes written, and for a value that is not finite
one of the results that the table has; bfetch, tex and texq give each lane its results; of a malformed image descriptor tex
gives four canonical NaNs and texq bit 18, with no level resident tex gives zeros, and of a malformed map bfetch gives
canonical NaNs. (R383, R384, R390, R391, R392, R393, R394, R400, R407, R408, R227) -/
def Obligations.FieldInstructions : Prop :=
  (∀ (s : State) (c : Cohort) (cr : Crew) (d a b mode : Nat) (sp : Bool), s.crew c.crew = some cr →
    let gath := fun (t : State) (n left : Nat) (p : Op → Prop) => t.newOp c.key fun o =>
      o.cls = .gath ∧ o.left = left ∧ o.regsV = grp d n ∧ p o
    let busy := fun (u : RayUnit) => ∃ t ∈ c.actives, (cr.rayOf u t.tid).any (fun r => !r.stopped) = true
    let slots := fun (u : RayUnit) => s.raySlots cr.core u + (c.actives.filter fun t => (cr.rayOf u t.tid).isNone).length
    let started := fun (t : State) (u : RayUnit) (p : Thread → Ray → Prop) => ∃ k, t.crew cr.key = some k ∧
      (∀ x ∈ c.actives, ∃ r ∈ k.rays, r.unit = u ∧ r.tid = x.tid ∧ r.stopped = false ∧ r.reply = none ∧ r.dest = d ∧
        r.ipc = c.pc ∧ r.input = (upto 8).map (fun j => x.vr (a + j)) ∧ p x r) ∧
      ∀ r ∈ cr.rays, (r.unit = u → ∀ x ∈ c.actives, r.tid ≠ x.tid) → r ∈ k.rays
    let x := c.sr b
    let o := c.sr (b + 1)
    let held := 63 ≤ c.count .gath ∨ s.landed (s.releaseNeeds c.key) = false
    let u := s.unheld
    let reaches := fun (i : Instr) (done : Prop) =>
      let pages := distinct (pagesVa x.toNat 64)
      let homes := s.vaHomes cr.core cr.jd x.toNat 64
      (s.missHeld cr.core cr.jd pages = true → exec i s = .next (u.startWalks cr.core cr.jd pages).stall) ∧
      (s.missHeld cr.core cr.jd pages = false → s.mustReplay homes = true →
        exec i s = .next (u.nack cr.core (.ray, c.key)).stall) ∧
      (s.missHeld cr.core cr.jd pages = false → s.mustReplay homes = false → done)
    let torn := s.spBad cr o.toNat = true
    let fits := o.toNat + 8 ≤ cr.ssize ∧ (¬ torn → o.toNat + 8 + s.crewNat cr (o.toNat + 4) 4 ≤ cr.ssize)
    (Issues s { infoMarch 46 0 d a b sp mode with long := true } c → mode ≠ 3 →
      (x.toNat % 64 ≠ 0 → Raises (.march d a b sp mode) s c (c.every 4 0 (opInfo x 0 2))) ∧
      (x.toNat % 64 = 0 → sp = true → o.toNat % 8 ≠ 0 → Raises (.march d a b sp mode) s c (c.every 4 0 (opInfo o 0 2))) ∧
      (x.toNat % 64 = 0 → sp = true → o.toNat % 8 = 0 → ¬ fits →
        Raises (.march d a b sp mode) s c (c.every 7 0 (opInfo o 0 2))) ∧
      (x.toNat % 64 = 0 → (sp = true → o.toNat % 8 = 0 ∧ fits) →
        (held → exec (.march d a b sp mode) s = .next u.stall) ∧
        (¬ held → reaches (.march d a b sp mode)
          ((busy .marcher ∨ 256 < slots .marcher → exec (.march d a b sp mode) s = .next u.stall) ∧
          (¬ busy .marcher → slots .marcher ≤ 256 → ∃ t, Begins (.march d a b sp mode) s c t ∧
            gath t 4 c.actives.length (fun _ => True) ∧ started t .marcher fun _ r =>
              r.mode = mode ∧ r.spOff = (if sp then some o.toNat else none) ∧
              let z := u.readScene cr x.toNat 1
              r.scene = z.1 ∧
              r.bad = if sp = true ∧ torn ∧ (sceneOf z.1).isSome = true then z.2.or (some (9, 4)) else z.2))))) ∧
    (Issues s { infoTrace 46 4 d a b with long := true } c →
      (x.toNat % 64 ≠ 0 → Raises (.trace d a b) s c (c.every 4 0 (opInfo x 4 2))) ∧
      (x.toNat % 64 = 0 →
        (held → exec (.trace d a b) s = .next u.stall) ∧
        (¬ held → reaches (.trace d a b)
          ((busy .traverser ∨ 256 < slots .traverser → exec (.trace d a b) s = .next u.stall) ∧
          (¬ busy .traverser → slots .traverser ≤ 256 → ∃ t, Begins (.trace d a b) s c t ∧
            gath t 5 c.actives.length (fun _ => True) ∧ started t .traverser fun _ r =>
              (r.scene, r.bad) = u.readScene cr x.toNat 5))))) ∧
    (∀ e ∈ ([(.marchr d a, infoMarchr 46 1 d a, RayUnit.marcher, 4, fun (t : Thread) => (t.vr a, t.vr (a + 1))),
        (.tracer d a, infoTracer 46 5 d a, .traverser, 5, fun (t : Thread) => (t.vr a, 0))] :
        List (Instr × Info × RayUnit × Nat × (Thread → Word × Word))),
      Issues s { e.2.1 with long := true } c →
      let resumed := c.actives.filter fun t => (cr.rayOf e.2.2.1 t.tid).any (·.stopped)
      (held → exec e.1 s = .next s.unheld.stall) ∧
      (¬ held → ∃ t k, Begins e.1 s c t ∧ gath t e.2.2.2.1 resumed.length (fun _ => True) ∧
        t.crew cr.key = some k ∧ List.Forall₂ (fun r q : Ray =>
          (r.unit = e.2.2.1 → ∀ x ∈ resumed, r.tid = x.tid → (∀ y ∈ resumed, y.tid = x.tid → y = x) →
            q.stopped = false ∧ q.reply = some (e.2.2.2.2 x) ∧ q.dest = d) ∧
          ((r.unit ≠ e.2.2.1 ∨ ∀ x ∈ resumed, r.tid ≠ x.tid) → q = r)) cr.rays k.rays))) ∧
  (∀ (s : State) (c : Cohort) (d a b : Nat), Issues s { infoFprep 46 2 d a b with long := true } c →
    let cr := s.crewOf c
    let xa := c.sr a
    let xb := c.sr b
    let held := 63 ≤ c.count .gath ∨ s.landed (s.releaseNeeds c.key) = false
    let gives := fun (t : State) (n : Nat) => t.newOp c.key fun o => o.cls = .gath ∧ o.left = 0 ∧ o.regsS = dst d ∧
      o.res = [.s d (BitVec.ofNat 64 n)]
    let cells := (upto 80).map fun k => s.unheld.spadByte cr (xb.toNat + k)
    let u := s.unheld.meetCrew cr xb.toNat 80
    let run := u.prepRun cr (leNat (cells.map (·.1)))
    let fits := xa.toNat + 4104 ≤ cr.ssize ∧ xb.toNat + 80 ≤ cr.ssize
    (xa.toNat % 8 ≠ 0 → Raises (.fprep d a b) s c (c.every 4 0 (opInfo xa 2 1))) ∧
    (xa.toNat % 8 = 0 → xb.toNat % 16 ≠ 0 → Raises (.fprep d a b) s c (c.every 4 0 (opInfo xb 2 2))) ∧
    (xa.toNat % 8 = 0 → xb.toNat % 16 = 0 →
      (cr.ssize < xa.toNat + 4104 → Raises (.fprep d a b) s c (c.every 7 0 (opInfo xa 2 1))) ∧
      (xa.toNat + 4104 ≤ cr.ssize → cr.ssize < xb.toNat + 80 →
        Raises (.fprep d a b) s c (c.every 7 0 (opInfo xb 2 2))) ∧
      (fits → held → exec (.fprep d a b) s = .next s.unheld.stall) ∧
      (fits → ¬ held →
        (cells.any (·.2) = true → ∃ t, Begins (.fprep d a b) s c t ∧ gives t (9 * 2 ^ 32)) ∧
        (cells.any (·.2) = false →
          (run = none →
            ∃ t n, Starts (.fprep d a b) s c t ∧ gives t n ∧ n < 2 ^ 42 ∧ t.gmem = s.gmem ∧ t.cmem = s.cmem ∧
              (bitsOf n 32 8 = 0 ∧ 1 ≤ n % 2 ^ 32 ∧ n % 2 ^ 32 ≤ 4096 ∨
                bitsOf n 32 8 ∈ [5, 6, 9, 10] ∧ n % 2 ^ 32 = 0 ∧ t.smem = s.smem)) ∧
          (∀ m, run = some m →
            let pages := distinct (m.out.2.mem.flatMap fun e => pagesVa e.1 e.2)
            let homes := u.readHomes cr m.out.2
            (u.missHeld cr.core cr.jd pages = true →
              exec (.fprep d a b) s = .next (u.startWalks cr.core cr.jd pages).stall) ∧
            (u.missHeld cr.core cr.jd pages = false → u.mustReplay homes = true →
              exec (.fprep d a b) s = .next (u.nack cr.core (.ray, c.key)).stall) ∧
            (∀ e, u.missHeld cr.core cr.jd pages = false → u.mustReplay homes = false → m.out.1 = .error e →
              ∃ t, Begins (.fprep d a b) s c t ∧ gives t (e.1 * 2 ^ 32)) ∧
            (∀ v code, u.missHeld cr.core cr.jd pages = false → u.mustReplay homes = false → m.out.1 = .ok (v, code) →
            let out := keptCode code v.2
            let bytes := leBytes 4 (leNat (((cells.drop 68).take 4).map (·.1))) ++ leBytes 4 out.length ++
              out.map (BitVec.ofNat 8)
            ∃ t, Starts (.fprep d a b) s c t ∧ t.gmem = s.gmem ∧ t.cmem = s.cmem ∧
              t.smem = (u.engSpad cr ((atAddr xa.toNat bytes).map fun e => (e.1, e.2, false))).smem ∧
              gives t (out.length + (if ex0.lt (ex v.1.1) then 2 ^ 40 else 0) +
                (if (ex v.1.2).lt ex0 then 2 ^ 41 else 0)))))))) ∧
  (∀ (s : State) (c : Cohort) (d a b : Nat),
    let cr := s.crewOf c
    let x := c.sr b
    let lane := fun (t : Thread) => (upto 3).map fun k => (t.vr (a + k)).toNat
    let u := s.unheld
    let img := u.readImg cr x.toNat
    let fetch := fun (t : Thread) => match u.fieldRead cr x.toNat 64 3 with
      | .ok z => u.bfetchLane cr (bmapOf z) none (lane t)
      | .error e => u.bfetchLane cr none (some e) (lane t)
    let held := 63 ≤ c.count .gath ∨ s.landed (s.releaseNeeds c.key) = false
    let words := fun (t : Thread) (r : List Nat) (po : Nat → Bool) =>
      (List.zip (upto 4) r).map fun e => RegWrite.v t.tid (d + e.1) (BitVec.ofNat 32 e.2) (po e.1)
    let given := fun (t : State) (regs : List Nat) (f : Thread → Nat → List RegWrite) => t.newOp c.key fun o =>
      o.cls = .gath ∧ o.left = 0 ∧ o.regsV = regs ∧
      o.res = (List.zip c.actives (upto c.actives.length)).flatMap fun e => f e.1 (s.fresh + e.2)
    ∀ e ∈ ([(.bfetch d a b, infoBfetch 46 3 d a b, 3, grp d 4, fun t _ =>
          (words t (fetch t).1.1 fun k => (fetch t).1.2.2.getD k false, (fetch t).2)),
        (.tex d a b, infoTex 46 6 d a b, 6, grp d 4, fun t n =>
          let r := u.texLane cr n img (lane t)
          (words t r.1.1 fun _ => r.1.2.2, r.2)),
        (.texq d a b, infoTexq 46 7 d a b, 7, dst d, fun t n =>
          let r := u.texqLane cr n img (lane t)
          ([.v t.tid d (BitVec.ofNat 32 r.1.1) r.1.2.2], r.2))] :
        List (Instr × Info × Nat × List Nat × (Thread → Nat → List RegWrite × Reads))),
      Issues s { e.2.1 with long := true } c →
        (x.toNat % 64 ≠ 0 → Raises e.1 s c (c.every 4 0 (opInfo x e.2.2.1 2))) ∧
        let rd : Reads := { mem := (x.toNat, 64) :: (List.zip c.actives (upto c.actives.length)).flatMap fun z =>
          (e.2.2.2.2 z.1 (s.fresh + z.2)).2.mem }
        let pages := distinct (rd.mem.flatMap fun z => pagesVa z.1 z.2)
        (x.toNat % 64 = 0 → held → exec e.1 s = .next u.stall) ∧
        (x.toNat % 64 = 0 → ¬ held →
          (s.missHeld cr.core cr.jd pages = true → exec e.1 s = .next (u.startWalks cr.core cr.jd pages).stall) ∧
          (s.missHeld cr.core cr.jd pages = false → s.mustReplay (s.readHomes cr rd) = true →
            exec e.1 s = .next (u.nack cr.core (.ray, c.key)).stall) ∧
          (s.missHeld cr.core cr.jd pages = false → s.mustReplay (s.readHomes cr rd) = false →
            ∃ t, Begins e.1 s c t ∧ given t e.2.2.2.1 fun z n => (e.2.2.2.2 z n).1))) ∧
  ∀ (s : State) (cr : Crew) (n : Nat) (p : List Nat),
    let nans := List.replicate 4 fp32.nan
    (s.texLane cr n (.ok none) p).1 = (nans, 0, false) ∧
    (∀ m, (p.take 2).all cfin = false → (s.texLane cr n (.ok (some m)) p).1 = (nans, 0, false)) ∧
    (∀ m, (p.take 2).all cfin = true →
      (s.usedLevel cr m (fp32.val (p.getD 0 0)).x (fp32.val (p.getD 1 0)).x 16 (m.request (p.getD 2 0))).out.1 = .ok none →
      (s.texLane cr n (.ok (some m)) p).1 = ([0, 0, 0, 0], 0, false)) ∧
    bit (s.texqLane cr n (.ok none) p).1.1 18 = true ∧
    (s.bfetchLane cr none none p).1 = (nans, 0, [])

/-- O49. Rays end in their result words, and a raster engine takes one draw after another and reports its end. A ray whose
descriptor could not be read, or with a malformed scene, a program header that is poisoned when its loop begins, bad inputs,
tmin > tmax or a reply that is no value ends with the words of FAULT, BADSCENE, FAULT, BADRAY, MISS or NUMERIC; RAY_END of a
ray in flight waits for a ninth outstanding miss, and, NACKed, while a domain that its reads reach is in the change state, and
otherwise adds its words to its operation at the registers of its lane, keeps the ray stopped at CALL and drops it otherwise,
and changes no memory; of a stopped ray it changes nothing; DRAW_TAKE of an idle engine takes the next slot of the first ready
ring in turn, and a record that breaks the rules, cannot be read or holds no triangle gives STATUS 5, 9 or 1 with no further
byte written; it changes nothing while a draw is under way, and it and DRAW_END are NACKed while a domain that they reach is in
the change state; DRAW_END frees the engine and writes STATUS, then FLUSHES and DONE unless STATUS is 5. (R381, R382, R383,
R384, R400, R402, R403, R405, R227, R230) -/
def Obligations.RaysAndDraws : Prop :=
  (∀ (s : State) (cr : Crew) (r : Ray),
    let c := r.input.map (·.toNat)
    let tmin := c.getD 6 0
    let tmax := c.getD 7 0
    (∀ b, r.bad = some b → (s.marchRay cr r).words = [tmin, 0xFFFFFFFF, b.1, 0] ∧ (s.marchRay cr r).det = b.2) ∧
    (r.bad = none → sceneOf r.scene = none → (s.marchRay cr r).words = [tmin, 0xFFFFFFFF, 10, 0]) ∧
    (∀ z, r.bad = none → sceneOf r.scene = some z →
      (r.reply = none → r.spOff.any (s.spBad cr) = true →
        (s.marchRay cr r).words = [tmin, 0xFFFFFFFF, 9, 0] ∧ (s.marchRay cr r).det = 4) ∧
      (r.reply = none → r.spOff.any (s.spBad cr) = false →
        (badRay c = true → (s.marchRay cr r).words = [tmin, 0xFFFFFFFF, 7, 0]) ∧
        (badRay c = false → (ex tmax).lt (ex tmin) = true → (s.marchRay cr r).words = [tmax, 0xFFFFFFFF, 0, 0])) ∧
      ∀ w, r.reply = some w → replyVal r.mode w = none →
        (s.marchRay cr r).words = [r.march.a, 0xFFFFFFFF, 8, r.march.steps]) ∧
    (∀ z n, r.bad = none → tsceneOf r.scene = some z → badRay c = false → (ex tmax).lt (ex tmin) = true →
      (s.traceRay cr r n).words = [tmax, 0xFFFF0000, 0, 0, 0])) ∧
  (∀ (s : State) (k tid : Nat) (cr : Crew) (c : Cohort) (o : Op),
    (∀ u r, s.crew k = some cr → cr.rayOf u tid = some r → r.stopped = true →
      exec (.rayEnd k tid (if u = .marcher then 0 else 1)) s = .next s) ∧
    ∀ r, s.crew k = some cr → cr.shadow = false → s.engineHolds cr.core = false → r.stopped = false →
      s.cohort c.key = some c → ((s.cohortsOf k).find? fun c => (c.op r.op).isSome) = some c → c.op r.op = some o →
      let ends := fun (t : State) (u : RayUnit) (words : List Nat) (kept : Bool) => t.gmem = s.gmem ∧ t.cmem = s.cmem ∧
        t.smem = s.smem ∧ (∃ d, t.cohort c.key = some d ∧
          let res := (List.zip (upto words.length) words).map fun e => RegWrite.v tid (r.dest + e.1) (BitVec.ofNat 32 e.2) false
          d.op r.op = some { o with left := o.left - 1, res := o.res ++ res }) ∧
        ∃ q, t.crew k = some q ∧ (kept = false → q.rayOf u tid = none) ∧
          (kept = true → ∃ x, q.rayOf u tid = some x ∧ x.stopped = true ∧ x.reply = none)
      let reaches := fun (unit : Nat) (rd : Reads) (done : Prop) =>
        let pages := distinct (rd.mem.flatMap fun e => pagesVa e.1 e.2)
        (s.missHeld cr.core cr.jd pages = true → exec (.rayEnd k tid unit) s = .next (s.startWalks cr.core cr.jd pages)) ∧
        (s.missHeld cr.core cr.jd pages = false → s.mustReplay (s.readHomes cr rd) = true →
          exec (.rayEnd k tid unit) s = .next (s.nack cr.core (.ray, (k * 128 + tid) * 2 + unit))) ∧
        (s.missHeld cr.core cr.jd pages = false → s.mustReplay (s.readHomes cr rd) = false → done)
      let m := s.marchRay cr r
      let z := s.traceRay cr r s.fresh
      (cr.rayOf .marcher tid = some r → reaches 0 m.reads (∃ t, exec (.rayEnd k tid 0) s = .next t ∧
        ends t .marcher m.words m.kept.isSome)) ∧
      (cr.rayOf .traverser tid = some r → reaches 1 z.reads (∃ t, exec (.rayEnd k tid 1) s = .next t ∧
        ends t .traverser z.words z.kept.isSome))) ∧
  (∀ (s : State) (k p : Nat) (jd : JobDesc), k < 4 →
    ((∃ d ∈ s.draws, d.engine = k) → exec (.drawTake k) s = .next s) ∧
    ((∀ d ∈ s.draws, d.engine ≠ k) →
      ((upto 8).map fun j => (Tab.read 0 s.rasterNext k + j) % 8).find? (s.rasterReady k) = some p → s.activeJob p = some jd →
      let pa := rasterRing k p
      let homes := pa :: s.drawHomes k jd (s.gmem.nat (s.ringSlot pa (s.ringHead pa)) 8)
      let y := (s.replayed (.raster, k)).meet (s.sites .glob pa 64 ++ s.sites .glob (s.ringSlot pa (s.ringHead pa)) 8)
      let z := (y.slPost false ((upto 8).map (pa + 16 + ·))).ringPop pa
      let u := ({ z.2 with rasterNext := Tab.put 0 z.2.rasterNext k ((p + 1) % 8) } : State).meetVa (rasterUnit k) jd z.1 128
      (s.mustReplay homes = true → exec (.drawTake k) s = .next (s.nack 640 (.raster, k))) ∧
      (s.mustReplay homes = false → ∃ t d, exec (.drawTake k) s = .next t ∧ t.draws = s.draws ++ [d] ∧ d.engine = k ∧ d.jd = jd ∧ d.drec = z.1 ∧
        (p < 7 → Tab.read 0 t.rasterNext k = p + 1) ∧
        (u.rasterRead k jd z.1 128 = none → d.status = 9 ∧ t.gmem = z.2.gmem) ∧
        (∀ x, u.rasterRead k jd z.1 128 = some x → drecOf x = none → d.status = 5 ∧ t.gmem = z.2.gmem) ∧
        (∀ x r, u.rasterRead k jd z.1 128 = some x → drecOf x = some r → r.ntri = 0 →
          d.status = 1 ∧ d.flushes = 0 ∧ t.gmem = z.2.gmem)))) ∧
  ∀ (s : State) (k : Nat) (d : Draw), s.draws.find? (fun d => d.engine == k) = some d →
    let homes := s.vaHomes (rasterUnit k) d.jd d.drec 64 .write
    let u : State := { s.replayed (.raster, k) with draws := s.draws.filter fun x => x.engine != k }
    let v := u.drawWrite k d.jd (d.drec + 52) d.status
    (∀ e ∈ u.draws, e.engine ≠ k) ∧
    (∀ pa, s.MemWf → u.translate (rasterUnit k) d.jd (d.drec + 52) .write = .ok pa → d.status < 2 ^ 32 →
      v.gmem.nat pa 4 = d.status ∧ ∀ a, a < pa ∨ pa + 4 ≤ a → v.gmem.byte a = s.gmem.byte a) ∧
    (s.mustReplay homes = true → exec (.drawEnd k) s = .next (s.nack 640 (.raster, k))) ∧
    (s.mustReplay homes = false → exec (.drawEnd k) s = .next (if d.status = 5 then v else
      (v.drawAdd k d.jd (d.drec + 56) d.flushes).drawAdd k d.jd (d.drec + 60) 1))

/-- O50. A collective goes to the engine at issue, pairs with its ranks, and completes with their contributions; a failed path ends
it. Each of the seven COLL instructions parks in a speculative crew, raises ALIGN for a misaligned operand and RANGE for more
than 2^24 elements or an absent peer, holds behind an acquire, at a full counter or, NACKed, while a domain of its record is in
the change state, and otherwise joins the engine with the record as read; SEQ is raised by 1 except for csend and crecv, and
the operation of one that moves nothing is complete at once, while its contributions leave and it stays to pair with those of
the other ranks, after its crew has retired too (notes/assumptions/88.md); COLLECTIVE_COMPLETE is NACKed while a domain that it
reaches is in the change state, does nothing while a rank is missing, writes the result and ends the collective when all pair,
and leaves the destination unwritten with DETAIL 4 when they do not; sums fold in rank order; a queue-pair failure, which sets
LINKERR of the communicators that the engine knows, and an on-die failure end the collectives that use the path, and congestion
halves the rate of the pair and changes nothing else. (R414, R415, R416, R417, R418, R420, R421) -/
def Obligations.Collectives : Prop :=
  (∀ (s : State) (c : Cohort) (d a b rop : Nat) (w : Bool),
    let cr := s.crewOf c
    ∀ e ∈ ([(.cred d a b rop w, { infoCred 47 0 d a b rop w with long := true, late := true }, 0, [(0, d), (1, a), (2, b)], 4 * w.toNat + rop),
      (.cgat d a b, { infoCgat 47 1 d a b with long := true, late := true }, 1, [(0, d), (1, a), (2, b)], 0),
      (.crsc d a b rop w, { infoCred 47 2 d a b rop w with long := true, late := true }, 2, [(0, d), (1, a), (2, b)], 4 * w.toNat + rop),
      (.ca2a d a b, { infoCgat 47 3 d a b with long := true, late := true }, 3, [(0, d), (1, a), (2, b)], 0),
      (.csend a b, { infoCsend 47 4 a b with long := true, late := true }, 4, [(1, a), (2, b)], 0),
      (.crecv d b, { infoCrecv 47 5 d b with long := true, late := true }, 5, [(0, d), (2, b)], 0),
      (.cwait b, { infoCwait 47 6 b with long := true, late := true }, 6, [(2, b)], 0)]
      : List (Instr × Info × Nat × List (Nat × Nat) × Nat)),
      Issues s e.2.1 c →
      let kind := e.2.2.1
      let pair := kind = 4 ∨ kind = 5
      let word := (c.sr (b + 1)).toNat
      let count := if kind = 6 then 0 else if pair then word % 2 ^ 32 else word
      let x0 := collOf c cr (s.jobOf cr) kind (if kind = 4 ∨ kind = 6 then 0 else d)
        (if kind = 5 ∨ kind = 6 then 0 else a) b e.2.2.2.2
      let homes := s.collHomes cr (s.commRanges cr x0)
      let y := s.unheld.readComm cr x0
      let empty := y.bad = 0 ∧ kind ≠ 6 ∧ count = 0
      let bad := e.2.2.2.1.find? fun r => decide ((c.sr r.2).toNat % 16 ≠ 0)
      let range := 2 ^ 24 < count ∨ pair ∧ y.bad = 0 ∧ y.nrank ≤ bitsOf word 32 16
      (cr.spec = true → SpecParks e.1 s c) ∧
      (cr.spec = false → (∀ r, bad = some r → Raises e.1 s c (c.every 4 0 (opInfo (c.sr r.2) kind r.1))) ∧
        (bad = none → (range → Raises e.1 s c (c.every 7 0 (opInfo (c.sr (b + 1)) kind 2))) ∧
          (¬ range → (c.acquiring = true ∨ 63 ≤ c.count .coll → exec e.1 s = .next s.unheld.stall) ∧
            (c.acquiring = false → c.count .coll < 63 → s.mustReplay homes = true →
              exec e.1 s = .next (s.unheld.nack cr.core (.collective, c.key)).stall) ∧
            (c.acquiring = false → c.count .coll < 63 → s.mustReplay homes = false → ∃ t, Starts e.1 s c t ∧
              (t.newOp c.key fun o => o.cls = .coll ∧ o.res = [] ∧ ((∀ q ∈ s.qpairs, q.failed = false) →
                o.left = (if empty then 0 else 1) ∧
                ∃ x ∈ t.colls, t.colls.map (·.id) = s.colls.map (·.id) ++ [x.id] ∧
                  x = { y with id := x.id, op := o.id, sent := x.sent } ∧ (x.sent = true ↔ empty))) ∧
              ((∀ q ∈ s.qpairs, q.failed = false) →
                (pair ∨ y.comm % 64 ≠ 0 → t.gmem = s.gmem) ∧
                (¬ pair → y.comm % 64 = 0 → ∀ n, s.collNat cr (y.comm + 32) 4 = .ok n →
                  t.gmem = (s.unheld.commWrite cr y (y.comm + 32) ((n + 1) % 2 ^ 32)).gmem))))))) ∧
  (∀ (s : State) (n : Nat) (x : Coll) (cr : Crew), s.colls.find? (fun x => x.id == n) = some x → s.crew x.crew = some cr →
    s.collTurn x = true → (∀ c, s.cohort x.cohort = some c → s.opMay c x.op = true) → x.sent = true → x.bad = 0 →
    let ranks := (upto x.nrank).filter x.needs
    let homes := s.collHomes cr (s.collRanges x)
    (s.mustReplay homes = true → exec (.collectiveComplete n) s = .next (s.nack 640 (.collective, n))) ∧
    (s.mustReplay homes = false → ranks.mapM (s.partFrom x) = none →
      exec (.collectiveComplete n) s = .next (s.replayed (.collective, n))) ∧
    ∀ ps, s.mustReplay homes = false → ranks.mapM (s.partFrom x) = some ps → ∃ t, exec (.collectiveComplete n) s = .next t ∧
      (∀ y ∈ t.colls, y ∈ s.colls ∧ y.id ≠ n) ∧ (∀ p ∈ t.peerIn, p ∈ s.peerIn) ∧
      (∀ c, s.cohort x.cohort = some c → ∃ e, t.cohort x.cohort = some e ∧ ∀ o ∈ e.ops, o.id = x.op → o.left = 0) ∧
      ((∃ p ∈ ps, x.pairs p = false) → t.gmem = s.gmem ∧ t.repIn = (s.collReport x 4).repIn) ∧
      ((∀ p ∈ ps, x.pairs p = true) → cr.torn = false →
        ∀ ws, (x.result ps).mapM (fun b => (s.translate 640 cr.jd (x.dst + b.1) .write).toOption.map fun pa => (pa, b.2)) =
          some ws → t.gmem = (s.engWrite .glob ws).gmem)) ∧
  (∀ (s : State) (n : Nat) (x : Coll), s.colls.find? (fun x => x.id == n) = some x → s.crew x.crew = none →
    (s.collTurn x = false ∨ x.sent = false → exec (.collectiveComplete n) s = .next s) ∧
    ∀ ps, s.collTurn x = true → x.sent = true → x.bad = 0 → ((upto x.nrank).filter x.needs).mapM (s.partFrom x) = some ps →
      ∃ t, exec (.collectiveComplete n) s = .next t ∧ t.gmem = s.gmem ∧ (∀ y ∈ t.colls, y ∈ s.colls ∧ y.id ≠ n) ∧
        t.posts = (if ps.all x.pairs then s else s.collReport x 4).posts) ∧
  (∀ x y z : Nat, foldElem 0 4 [x, y, z] =
    (let r := (fp32.addV .ne (fp32.val (fp32.addV .ne (fp32.val x) (fp32.val y)).1) (fp32.val z)).1
     if (fp32.val r).isNan then fp32.nan else r)) ∧
  (∀ (s : State) (port qp : Nat),
    (s.hasQp port qp = false → exec (.queuePairFatalError port qp) s = .next s) ∧
    (s.hasQp port qp = true → ∃ t, exec (.queuePairFatalError port qp) s = .next t ∧
      t.qpairs = s.qpairs.map (fun q => if q.port = port ∧ q.qp = qp then { q with failed := true } else q) ∧
      t.gmem = ((s.comms.filter fun m => m.peers.any fun e => e.path == port && e.lqpn == qp).foldl
        (fun (s : State) m => s.linkErr m.pa port) s).gmem ∧
      (∀ x ∈ t.colls, x ∈ s.colls ∧ x.uses (fun e => e.path == port && e.lqpn == qp) = false) ∧
      ∀ x ∈ s.colls, x.uses (fun e => e.path == port && e.lqpn == qp) = true → ∀ c, s.cohort x.cohort = some c →
        ∃ d, t.cohort x.cohort = some d ∧ ∀ o ∈ d.ops, o.id = x.op → o.left = 0) ∧
    exec (.congestionNotification port qp) s = .next { s with
      qpairs := s.qpairs.map fun q => if q.port = port ∧ q.qp = qp then { q with rate := q.rate / 2 } else q }) ∧
  ∀ (s : State) (n pa : Nat) (x : Coll) (cr : Crew), s.colls.find? (fun x => x.id == n) = some x →
    s.crew x.crew = some cr → s.translate 640 cr.jd x.comm .write = .ok pa → x.peers.any (·.path == 0xFFFF) = true →
    ∃ t, exec (.onDiePathFailure n) s = .next t ∧ t.gmem = (s.linkErr pa 4).gmem ∧ t.qpairs = s.qpairs ∧
      ∀ y ∈ t.colls, y ∈ s.colls ∧ (y.job = x.job → y.comm = x.comm → y.uses (·.path == 0xFFFF) = false)

/-- O51. Hosts write and read registered memory, and a submission ring takes its packets in order, each with one record. With the
ports open, a part of a registered RDMA WRITE stores its bytes and the last one acknowledges the message, a registered READ
returns the bytes, and a message outside every region of its connection is refused with memory unchanged, and a request to a
home that changes its domain is NACKed, to be done later; a kick behind NEXT is ignored, one within NSLOT is announced, one
beyond stops the ring with SUBMIT_TORN; the reset kick restarts the ring with NEXT 0; a passing packet raises NEXT by 1 with
one record, REFUSED of a LAUNCH that breaks a rule, ACCEPTED of one that takes an entry for a launch of the ring's job, or of a
CANCEL; a failing packet is read again, and its 64th failed read stops the ring; a record is sent to slot P mod NC of the
completion ring of its connection when (P - C) mod 2^32 < NC and waits otherwise; a connection holds the highest version that
both masks have, and one with no common version gets an empty mask and no ring. (A ring is not stopped, and no more than 256 of
its records do not fit its completion ring, in the clauses on packets; a record that would make 257 stops the ring with
SUBMIT_TORN, and a restarted ring goes on until no more than 256 wait, notes/assumptions/85.md.) (R277, R316, R317, R318, R325,
R422, R423) -/
def Obligations.HostRings : Prop :=
  (∀ (s : State) (n port : Nat), s.boot.portsOpen = true →
    (∀ conn part parts done p, s.inbox[n]? = some (.write port conn parts done) → parts[part]? = some p → part ∉ done →
      let u := s.writeBytes .glob (atAddr p.1 p.2)
      ((∃ q ∈ parts, s.registered conn q.1 q.2.length = false) → ∃ t, exec (.rdmaWrite n part) s = .next t ∧ t.gmem = s.gmem ∧
        t.inbox = (s.inDone n).inbox ∧ t.outbox = s.outbox ++ [.nak port]) ∧
      ((∀ q ∈ parts, s.registered conn q.1 q.2.length = true) → s.domOf p.1 ∈ s.changing →
        exec (.rdmaWrite n part) s = .next (s.nack 640 (.rdma port, p.1))) ∧
      ((∀ q ∈ parts, s.registered conn q.1 q.2.length = true) → s.domOf p.1 ∉ s.changing → ∃ t, exec (.rdmaWrite n part) s = .next t ∧ t.gmem = u.gmem ∧
        ((∀ k < parts.length, k = part ∨ k ∈ done) → t.inbox = (s.inDone n).inbox ∧ t.outbox = s.outbox ++ [.ack port]) ∧
        ((∃ k < parts.length, k ≠ part ∧ k ∉ done) → t.outbox = s.outbox ∧
          t.inbox = s.inbox.set n (.write port conn parts (part :: done))))) ∧
    ∀ conn a k, s.inbox[n]? = some (.read port conn a k) →
      (s.registered conn a k = false → exec (.rdmaRead n) s = .next ((s.inDone n).tell (.nak port))) ∧
      (s.registered conn a k = true → (∃ j ≤ k / 64, s.domOf (a + 64 * j) ∈ s.changing) →
        exec (.rdmaRead n) s = .next (s.nack 640 (.rdma port, a))) ∧
      (s.registered conn a k = true → (∀ j ≤ k / 64, s.domOf (a + 64 * j) ∉ s.changing) →
        ∃ t, exec (.rdmaRead n) s = .next t ∧ t.gmem = s.gmem ∧ t.inbox = (s.inDone n).inbox ∧
          t.outbox = s.outbox ++ [.data (s.gmem.bytes a k)])) ∧
  (∀ (s : State) (n : Nat) (r : Ring), s.ring n = some r →
    let k := s.kickWord r
    let d := (k.1 + 2 ^ 32 - r.next) % 2 ^ 32
    let bound := fun (r : Ring) => r.unfit (r.waiting.length + 1) ≤ 256
    (r.kicked = false → exec (.ringKick n) s = .next s ∧ exec (.resetKick n) s = .next s) ∧
    (r.kicked = true → k ≠ resetKickWord → ∃ t q, exec (.ringKick n) s = .next t ∧ t.gmem = s.gmem ∧ t.ring n = some q ∧
      q.kicked = false ∧ q.next = r.next ∧
      (r.stopped = true ∨ 2 ^ 31 ≤ d → q = { r with kicked := false }) ∧
      (r.stopped = false → d < r.nslot → d < 2 ^ 31 → q.kicks = k :: r.kicks ∧ q.stopped = false ∧
        (r.target = none → q.target = some k.1)) ∧
      (r.stopped = false → r.nslot ≤ d → d < 2 ^ 31 → q.stopped = true ∧ q.target = none ∧
        q.waiting = r.waiting ++ [(r.next, 2, r.n)])) ∧
    (r.kicked = true → k = resetKickWord → ∃ t q, exec (.resetKick n) s = .next t ∧ t.gmem = s.gmem ∧ t.ring n = some q ∧
      q.stopped = false ∧ q.next = 0 ∧ q.target = none ∧ q.waiting = r.waiting) ∧
    ∀ bs, s.packet r = some bs →
      let x := leNat bs
      let lrec := bitsOf x 1024 1024
      let kind := bitsOf x 64 16
      let tag := bitsOf x 128 64
      let good := bitsOf x 80 48 = 0 ∧ bitsOf x 192 832 = 0 ∧ (lrecOf lrec).job = r.job
      let passed := fun (t : State) (status : Nat) => ∃ q, t.ring n = some q ∧ q.next = (r.next + 1) % 2 ^ 32 ∧
        q.stopped = false ∧ q.waiting = r.waiting ++ [(tag, status, r.n)]
      (r.passes s bs = true → bound r →
        (kind ≠ 2 → (kind = 1 → good → s.checkRecord lrec none = none) →
          ∃ t, exec (.launchPacket n) s = .next t ∧ passed t 3 ∧ t.launches = s.launches ∧ t.gmem = s.gmem) ∧
        (∀ e, kind = 1 → good → s.checkRecord lrec none = some e →
          (s.mayTake (.ring n) = true → ∃ t l, exec (.launchPacket n) s = .next t ∧ passed t 4 ∧
            t.launches = s.launches ++ [l] ∧ l.lrec = e.1 ∧ l.host = some (n, tag) ∧ l.handle = s.nextHandle ∧
            l.tasks = [(e.1.lo, e.1.hi)]) ∧
          (s.mayTake (.ring n) = false → exec (.launchPacket n) s = .next ((s.frontRead r).request (.ring n)))) ∧
        (kind = 2 → bitsOf x 80 48 = 0 → bitsOf x 320 704 = 0 → ∃ u, exec (.cancelPacket n) s =
          .next (u.hostCancel r.job n (bitsOf x 192 64) (bitsOf x 256 64)) ∧ passed u 4 ∧ u.launches = s.launches)) ∧
      (r.passes s bs = false →
        exec (.launchPacket n) s = .next s ∧ exec (.cancelPacket n) s = .next s ∧
        (r.reads < 63 → ∃ t q, exec (.packetReread n) s = .next t ∧ t.ring n = some q ∧ q.reads = r.reads + 1 ∧
          q.next = r.next ∧ q.stopped = false) ∧
        (63 ≤ r.reads → ∃ t q, exec (.packetReread n) s = .next t ∧ t.ring n = some q ∧ q.stopped = true ∧
          q.waiting = r.waiting ++ [(r.next, 2, r.n)]))) ∧
  (∀ (s : State) (n : Nat) (r : Ring) (e : Nat × Nat × Nat) (rest : List (Nat × Nat × Nat)), s.ring n = some r →
    r.waiting = e :: rest →
    ((r.p + 2 ^ 32 - r.c) % 2 ^ 32 < r.nc → ∃ t q, exec (.completionRecord n) s = .next t ∧ t.gmem = s.gmem ∧
      t.outbox = s.outbox ++ [.record r.conn (r.cq + 16 * (r.p % r.nc)) r.rkey e.1 e.2.1 e.2.2] ∧ t.ring n = some q ∧
      q = { r with waiting := rest, p := (r.p + 1) % 2 ^ 32 } ∧ ∀ m x, m ≠ n → s.ring m = some x →
        t.ring m = some (if x.conn = r.conn then { x with p := (x.p + 1) % 2 ^ 32 } else x)) ∧
    (r.nc ≤ (r.p + 2 ^ 32 - r.c) % 2 ^ 32 → exec (.completionRecord n) s = .next s)) ∧
  (∀ (r : Ring) (tag status num : Nat), r.full = false →
    (r.stopped = true ∨ r.unfit (r.waiting.length + 1) ≤ 256 →
      r.postAs tag status num = { r with waiting := r.waiting ++ [(tag, status, num)] }) ∧
    (r.stopped = false → 256 < r.unfit (r.waiting.length + 1) →
      (r.postAs tag status num).stopped = true ∧ (r.postAs tag status num).full = true ∧
      (r.postAs tag status num).torn = min (r.torn + 1) (2 ^ 32 - 1) ∧
      (r.postAs tag status num).waiting = r.waiting ++ [(tag, status, num), (r.next, 2, r.n)])) ∧
  ∀ (s : State) (n mask : Nat) (rings : List Ring) (regs : List (Nat × Nat)), s.boot.portsOpen = true →
    s.inbox[n]? = some (.open_ mask rings regs) →
    (mask % 4 = 0 → ∃ t, exec (.connectionOpen n) s = .next t ∧ t.outbox = s.outbox ++ [.mask 0] ∧ t.rings = s.rings ∧
      t.conns = s.conns) ∧
    (mask % 4 ≠ 0 → ∃ t, exec (.connectionOpen n) s = .next t ∧ t.outbox = s.outbox ++ [.mask 3] ∧
      ∃ id l, t.conns = s.conns ++ [{ id := id, version := if bit mask 1 = true then 1 else 0 }] ∧
        t.regions = s.regions ++ regs.map (fun g => { conn := id, base := g.1, len := g.2 }) ∧ t.rings = s.rings ++ l ∧
        ∀ q ∈ l, q.conn = id ∧ q.next = 0 ∧ q.stopped = false ∧ q.p = 0 ∧ 16 ≤ q.nslot ∧ q.nslot ≤ 4096 ∧ 16 ≤ q.nc ∧ q.nc ≤ 65536 ∧
          ∃ r ∈ rings, q.n = r.n ∧ q.region = r.region ∧ q.nslot = r.nslot ∧ q.job = r.job ∧ q.nc = r.nc ∧ q.cq = r.cq ∧ q.rkey = r.rkey)

/-- O52. The device boots only an accepted image, releases its clusters in order, attests its state, and follows its sensors.
POWER_ON_RESET of a device whose flash image the ROM accepts and whose tier-1 memory trains runs firmware, with EMUL item 0
nonzero and every cluster in reset, and otherwise is in recovery; an image is accepted when it has the header's MAGIC, a LEN
and ENTRY within the table, a key of the fused hash, an ECDSA signature of its header that verifies under that key (the
arithmetic of SHA-256 and ECDSA is taken from its standards, notes/assumptions/10.md), a digest that matches its body and at
least the fused SVN, and not otherwise; a signature that verifies has r and s from 1 to the order less 1 and a key on the
curve; RECOVERY_IMAGE on port 0 in recovery (notes/assumptions/63.md) boots the image in the same way and changes nothing on
another port; CLUSTER_RELEASE releases the 16 cores of the next cluster and opens the ports after cluster 39;
ATTESTATION_REQUEST is answered with 288 bytes that begin with the nonce; a THERMAL_CHANGE above 105 degrees is hot and halts
every partition with a mask, to be put out, which comes back when hot ends (notes/assumptions/65.md), one above 115 removes
power, one above 95 or an inlet above 45 is warm, each change posts its record with what caused it (the same entry, as for the
wait of a change until firmware runs; above 115 degrees power is removed without it), and a reading that changes no condition
changes only the readings. (R318, R424, R425, R426, R427, R428, R429, R431) -/
def Obligations.BootAndThermal : Prop :=
  (∀ (s : State), ∃ t, exec .powerOnReset s = .next t ∧ t.gmem = [] ∧ t.cohorts = [] ∧ t.launches = [] ∧
    t.boot.released = 0 ∧ t.boot.portsOpen = false ∧ t.boot.flash = s.boot.flash ∧ t.boot.fuseKey = s.boot.fuseKey ∧
    t.boot.fuseBoots = min (s.boot.fuseBoots + 1) (2 ^ 32 - 1) ∧
    (imgOk s.boot s.boot.flash = true → s.boot.tier1Ok = true → t.boot.running = true ∧ t.boot.recovery = false ∧
      Tab.read 0 t.emul 0 ≠ 0 ∧ t.boot.svn = imgNat s.boot.flash 4 4 ∧
      t.boot.pubKey = publicKey (identityKey s.boot.fuseSecret (beNat (imgBytes s.boot.flash 32 32)))) ∧
    (imgOk s.boot s.boot.flash = false ∨ s.boot.tier1Ok = false → t.boot.running = false ∧ t.boot.recovery = true)) ∧
  (∀ (b : Boot) (img : List Byte), imgOk b img = true ↔ imgNat img 0 4 = 0x4E465749 ∧ imgNat img 8 8 % 4096 = 0 ∧
    imgNat img 8 8 ≤ 64 * 2 ^ 20 - 4096 ∧ imgNat img 192 64 = 0 ∧ imgNat img 16 8 ≤ imgNat img 24 8 ∧ imgNat img 24 8 < imgNat img 16 8 + imgNat img 8 8 ∧
    b.fuseSvn ≤ imgNat img 4 4 ∧ sha256 (imgBytes img 64 64) = b.fuseKey ∧
    ecdsaOk (beNat (imgBytes img 64 32)) (beNat (imgBytes img 96 32)) (sha256 (imgBytes img 0 128))
      (beNat (imgBytes img 128 32)) (beNat (imgBytes img 160 32)) = true ∧
    sha256 (imgBytes img 4096 (imgNat img 8 8)) = beNat (imgBytes img 32 32)) ∧
  (∀ x y h r w : Nat, ecdsaOk x y h r w = true → 0 < r ∧ r < n256 ∧ 0 < w ∧ w < n256 ∧ x < p256 ∧ y < p256 ∧
    y * y % p256 = (x * x * x + (p256 - 3) * x + b256) % p256) ∧
  (∀ (s : State) (n port : Nat) (img : List Byte), s.inbox[n]? = some (.image port img) →
    (s.boot.recovery = true → port = 0 → ∃ t, exec (.recoveryImage n) s = .next t ∧ t.inbox = (s.inDone n).inbox ∧
      (imgOk s.boot img = true → s.boot.tier1Ok = true → t.boot.running = true ∧ t.boot.recovery = false ∧
        t.boot.fwDigest = beNat (imgBytes img 32 32)) ∧
      (imgOk s.boot img = false ∨ s.boot.tier1Ok = false → t.boot.running = false ∧ t.boot.recovery = true)) ∧
    (s.boot.recovery = false ∨ port ≠ 0 → exec (.recoveryImage n) s = .next s)) ∧
  (∀ (s : State), s.boot.running = true → s.boot.released < 40 → ∃ t, exec .clusterRelease s = .next t ∧ t.gmem = s.gmem ∧
    t.boot = { s.boot with released := s.boot.released + 1, portsOpen := decide (s.boot.released = 39) } ∧
    ∀ k, t.core k = if k / 16 = s.boot.released then { s.core k with released := true, cyc := 0 } else s.core k) ∧
  (∀ (s : State) (n nonce : Nat), s.inbox[n]? = some (.attest nonce) → s.boot.portsOpen = true →
    ∃ t bs, exec (.attestationRequest n) s = .next t ∧ t.outbox = s.outbox ++ [.report bs] ∧ bs.length = 288 ∧
      bs.take 32 = leBytes 32 nonce ∧ (bs.drop 32).take 32 = beBytes 32 s.boot.fwDigest ∧
      (bs.drop 64).take 32 = beBytes 32 (sha256 s.cfgString) ∧ s.cfgString.length = 9356 ∧
      (bs.drop 96).take 8 = leBytes 4 s.boot.svn ++ leBytes 4 s.boot.fuseBoots ∧
      (bs.drop 104).take 120 = List.replicate 120 0) ∧
  (∀ (s : State) (die inlet : Int), s.boot.running = false →
    (115 < die → ∃ t, exec (.thermalChange die inlet) s = .next t ∧ t.boot.powered = false ∧ t.cohorts = [] ∧ t.gmem = []) ∧
    (die ≤ 115 → exec (.thermalChange die inlet) s = .next { s with dieTemp := die, inletTemp := inlet })) ∧
  ∀ (s : State) (die inlet : Int), s.boot.running = true → ∃ t, exec (.thermalChange die inlet) s = .next t ∧
    t.dieTemp = die ∧ t.inletTemp = inlet ∧
    (115 < die → s.thermal ≠ .critical → t.boot.powered = false ∧ t.boot.running = false ∧ t.cohorts = [] ∧ t.gmem = []) ∧
    (105 < die → die ≤ 115 → t.thermal = .hot ∧ (s.thermal ≠ .hot → (∀ p ∈ s.heatOut, p ∈ t.heatOut) ∧
      ∀ p < 8, Tab.read 0 s.part p % 2 ^ 40 ≠ 0 → p ∉ s.heatOut →
        (s.partHalting p = true → p ∈ t.heatSwaps) ∧
        (s.partHalting p = false → p ∈ t.heatOut ∧ ∀ k ∈ s.liveCores p, (t.core k).phase = .halting))) ∧
    (95 ≤ die → die ≤ 105 → s.thermal = .hot → t.thermal = .hot) ∧
    (die < 95 → s.thermal = .hot → (t.thermal = .warm ∨ t.thermal = .normal) ∧ ∀ p ∈ s.heatOut,
      let swapping := ∃ k ∈ s.liveCores p, (s.core k).phase = .halting ∨ (s.core k).phase = .halted
      (swapping → p ∈ t.heatOut ∧ p ∈ t.heatSwaps) ∧
      (¬ swapping → p ∉ t.heatOut ∧ ∀ k ∈ s.liveCores p, (t.core k).phase = .halting)) ∧
    (die ≤ 105 → s.thermal = .normal ∨ s.thermal = .warm → (95 < die ∨ 45 < inlet → t.thermal = .warm) ∧
      (die < 90 → inlet ≤ 45 → t.thermal = .normal)) ∧
    (let new := thermalOf s.thermal die inlet
     new ≠ s.thermal → new ≠ .critical → t.rings = (s.thermalRecord
      (thermalTag new (thermalCause s.thermal new s.dieTemp s.inletTemp die inlet) die inlet)).rings) ∧
    (s.thermal = .normal → die ≤ 105 → thermalCause s.thermal .warm s.dieTemp s.inletTemp die inlet =
      if 95 < die ∧ 45 < inlet then 2 else if 45 < inlet then 1 else 0) ∧
    (thermalOf s.thermal die inlet = s.thermal → t = { s with dieTemp := die, inletTemp := inlet })

/-- O53. A free port goes to the foremost ready cohort; at a boundary the threads at the lowest PC begin its clause, or the missing
line is fetched. RUN_START of a port that a run holds, or that a missing line freezes, changes nothing; of a free port of a
running core it grants the port, after the satisfied waits of its cohorts have ended, to a ready cohort that no ready cohort of
the port precedes by priority, least recent run and place; CLAUSE_ISSUE begins the clause at the lowest PC for exactly the
eligible threads that stand there, their PC then at its first word, with the words of the instruction cache; with a word of it
not cached it freezes the port, and with WAIT not clear it ends the run; ICACHE_FILL ends the freeze with the words of memory
of the line that was missed in the cache, and keeps it while no miss slot is free or its request is NACKed. (Which cohort
counts as least recent is the model's fresh keys: notes/assumptions/6.md.) (R26, R30, R31, R37, R38, R41, R114, R328, R329) -/
def Obligations.Sequencer : Prop :=
  (∀ (s : State) (core sub port : Nat), sub < 4 → port < 2 →
    let k := portIx core sub port
    (Tab.read 0 s.running k ≠ 0 ∨ Tab.read none s.frozen k ≠ none → exec (.runStart core sub port) s = .next s) ∧
    (Tab.read 0 s.running k = 0 → Tab.read none s.frozen k = none → (s.core core).phase = .running → (s.core core).released = true →
      let u := (s.portCohorts core sub port).foldl (fun (s : State) c => s.setCohort (s.wake c)) s
      let ready := (u.portCohorts core sub port).filter u.ready
      (ready = [] → exec (.runStart core sub port) s = .next u) ∧
      (ready ≠ [] → (∀ c ∈ ready, c.key ≠ 0 ∧ c.place < 16 ∧ c.lastRun < 2 ^ 128) →
        ∃ t c, exec (.runStart core sub port) s = .next t ∧ c ∈ ready ∧ Tab.read 0 t.running k = c.key ∧
          t.gmem = s.gmem ∧ (∀ j, j ≠ k → Tab.read 0 t.running j = Tab.read 0 s.running j) ∧
          ∀ d ∈ ready, u.prioOf c < u.prioOf d ∨ u.prioOf c = u.prioOf d ∧
            (c.lastRun < d.lastRun ∨ c.lastRun = d.lastRun ∧ c.place ≤ d.place)))) ∧
  (∀ (s : State) (core sub port : Nat) (c0 : Cohort),
    let k := portIx core sub port
    s.cohort (Tab.read 0 s.running k) = some c0 →
    (c0.clause ≠ none ∨ Tab.read none s.frozen k ≠ none → exec (.clauseIssue core sub port) s = .next s) ∧
    (c0.clause = none → Tab.read none s.frozen k = none →
      let c := s.wake c0.settle
      let u := s.setCohort c
      let cr := u.crewOf c
      (u.core core).phase = .running → u.keptBack c = false → c.reportDue = false → cr.mig = .none →
      ∀ pc, c.lowPc = some pc →
        (∀ a, u.missing cr pc = some a → ∃ t, exec (.clauseIssue core sub port) s = .next t ∧
          Tab.read none t.frozen k = some (pc, a) ∧
          t.cohorts = u.cohorts ∧ t.gmem = s.gmem) ∧
        (u.missing cr pc = none → u.isHeader cr pc = true → (u.fetchAddrs cr pc).any (u.iwordBad cr) = false →
          ∀ w, u.iword cr pc = some w →
          let words := (upto (hCount w)).map fun j => (u.iword cr (pc + 4 * (j + 1))).getD 0
          clauseFault w words = none →
          (c.waitClear (hWait w) = false → ∃ t d, exec (.clauseIssue core sub port) s = .next t ∧ t.cohort c.key = some d ∧
            d.clause = none ∧ d.threads = c.threads ∧ t.running = Tab.put 0 s.running k 0) ∧
          (c.waitClear (hWait w) = true → c.run = 0 ∨ c.chain = true ∧ c.run + hCount w ≤ 24 →
            ∃ t d, exec (.clauseIssue core sub port) s = .next t ∧ t.cohort c.key = some d ∧ t.gmem = s.gmem ∧
              (∀ j, j ≠ c.key → t.cohort j = s.cohort j) ∧ d.clause = some { hdr := pc, word := w, words := words } ∧
              d.run = c.run + hCount w ∧ d.s = c.s ∧
              (∀ x ∈ c.threads, c.elig x = true → pc ≤ x.pc.toNat) ∧
              List.Forall₂ (fun x y : Thread => y.st = x.st ∧ y.v = x.v ∧ y.p = x.p ∧
                y.pc = (if c.elig x && x.pc.toNat == pc then BitVec.ofNat 64 (pc + 4) else x.pc) ∧
                y.act = (x.act || c.elig x && x.pc.toNat == pc)) c.threads d.threads)))) ∧
  ∀ (s : State) (core sub port : Nat),
    let k := portIx core sub port
    (Tab.read none s.frozen k = none → exec (.icacheFill core sub port) s = .next s) ∧
    ∀ c pc a, Tab.read none s.frozen k = some (pc, a) → s.cohort (Tab.read 0 s.running k) = some c →
      let cr := s.crewOf c
      let held := s.missHeld cr.core cr.jd (s.fetchPages cr (a / 64)) = true
      let turned := ∃ pa ∈ s.fetchHomes cr (a / 64), s.domOf pa ∈ s.changing
      (held ∨ turned → ∃ t, exec (.icacheFill core sub port) s = .next t ∧ t.frozen = s.frozen ∧ t.icache = s.icache) ∧
      ∀ pa, ¬ held → ¬ turned → s.translate cr.core cr.jd (a / 64 * 64) .fetch = .ok pa →
        ∃ t l, exec (.icacheFill core sub port) s = .next t ∧ t.frozen = Tab.put none s.frozen k none ∧
          t.gmem = s.gmem ∧ t.cohorts = s.cohorts ∧ t.icache.getLast? = some l ∧ l.core = (s.crewOf c).core ∧
          l.line = a / 64 ∧ l.words = (upto 16).map fun j => BitVec.ofNat 32 (s.gmem.nat (pa + 4 * j) 4)

/-- O54. A step runs the decoded instruction, a chosen event, or the instruction of the chosen port. With no move chosen and the
port in focus not held, when the fetched words of its cohort begin with an instruction, the step is exec of it; a chosen port
is put in focus and issues so; a chosen event of the table is its exec. (The agenda and the focus are the model's:
notes/assumptions/5.md.) (R20, R31, R41) -/
def Obligations.StepRunsDecoded : Prop :=
  ∀ (s : State) (i : Instr) (rest : List Word),
    (∀ c, s.agenda = [] → s.stalled = false → s.issuer = some c → decode c.fetched = .ok (i, rest) → step s = exec i s) ∧
    (∀ core sub port ms c,
      let u : State := { s with agenda := ms, focus := portIx core sub port % 5120, stalled := false }
      s.agenda = .issue core sub port :: ms → u.issuer = some c → decode c.fetched = .ok (i, rest) → step s = exec i u) ∧
    ∀ ms, s.agenda = .event i :: ms → encode i = [] → step s = exec i { s with agenda := ms }

/-- O55. The words that the spec works out decode to their instructions. One or more words of each family, as the spec writes them
out, decode to the instruction that the spec encodes there, with no word left over; and the two words of ldg.w64 v4, [s0+192]
to that load. (R45, R46, R47, R48, R49, R50) -/
def Obligations.DecodedWords : Prop :=
  (∀ e ∈ ([([0x384000FC], .rdsp 4 true 0 7),
      ([0x1C101001], .vandi 1 0 1),
      ([0x24007F70], .vcmpEq 0 1 (.v 63) 7),
      ([0x37800004], .meet 7 false 4),
      ([0x2C000006], .br 0 false 6),
      ([0x3C414673], .ffma 4 5 (.v 6) 7),
      ([0x4C20C472], .flt 2 3 (.v 4) 7),
      ([0x5C220076], .raddF32 2 8 7),
      ([0x60024070], .rgput (.r 9) 7),
      ([0x8C608900], .atg 6 2 false 4 true 0 0 false none),
      ([0x9C000473], .fenceSc 4),
      ([0xA0800830], .wbr 2 3 false),
      ([0xA4081050], .cpg2s 8 4 5),
      ([0xA8080410], .mma 2 0 1 0 1),
      ([0xAC00103F], .qpush 3 4 7),
      ([0xB043002E], .bararr 3 2 7),
      ([0xB1451002], .spawn 5 4 1),
      ([0xB4870042], .tbstat 7 4 1),
      ([0xB8100041], .march 16 0 4 false 1),
      ([0xB9981060], .tex 24 4 6),
      ([0xBC0824A4], .cred 8 9 10 0 true),
      ([0xF8000572], .mark 5 7),
      ([0xFC314200], .slsync 5 2)] : List (List Word × Instr)), decode e.1 = .ok (e.2, [])) ∧
  decode [0x64402C0F, 0x000000C0] = .ok (.ldg 4 0 true 3 0 0 7 (some 192), [])

/-- O56. Right after power-on reset every cluster is held in reset, nothing is placed, and the registers hold the values that the
spec gives, or that the model chooses. No cohort, crew, launch, packet, walk, collective, connection or queue pair exists, no
domain changes, every core is unreleased with %cyc 0, the watch entries, domains, CARVE, PART, PJOB, EMUL, SWRING, the counter
selects and counts and the error and replay counts read 0 through crd, FEAT is 0, the sequence words are 0, the ports are
closed, and every memory is in canonical form. (SWRING, CARVE, PART, PJOB, the counter selects and counts, the error and replay
counts, the sequence words and the normal thermal condition have no reset value in the spec: that they are 0, or normal, is the
model's choice, notes/assumptions/2.md. What else the spec leaves open is in notes/assumptions/1.md to 4.md, and not stated
here.) (R339, R341, R342, R343, R424) -/
def Obligations.ResetState : Prop :=
  let s := State.reset
  s.MemWf ∧ s.cohorts = [] ∧ s.crews = [] ∧ s.launches = [] ∧ s.fabric = [] ∧ s.copies = [] ∧ s.colls = [] ∧
  s.walks = [] ∧ s.changing = [] ∧ s.conns = [] ∧ s.regions = [] ∧ s.qpairs = [] ∧
  (∀ n, (s.core n).released = false ∧ (s.core n).cyc = 0 ∧ (s.core n).task = none) ∧
  (∀ idx core item, 2 ≤ idx → s.cfg idx core item = 0) ∧
  (∀ n, Tab.read 0 s.seqWords n = 0 ∧ Tab.read 0 s.running n = 0) ∧
  s.boot.portsOpen = false ∧ s.boot.released = 0 ∧ s.boot.running = false ∧ s.thermal = .normal

/-- O57. v63 and s63 read 0 and discard writes, p7 reads true and discards writes; other registers hold what is written. For every
thread and cohort: a read of v63 or s63 gives 0 and a write of either changes nothing; p7 is true and a write of it changes
nothing; a value written to another register reads back, 0 where the table of the registers is in canonical form, which a write
keeps (notes/assumptions/1.md), and no register but the one written changes; of p0 to p6 likewise. (R55, R72) -/
def Obligations.HardWired : Prop :=
  (∀ (t : Thread) (x : Word) (b : Bool), t.vr 63 = 0 ∧ t.setV 63 x = t ∧ t.pr 7 = true ∧ t.setP 7 b = t) ∧
  (∀ (c : Cohort) (x : Dword), c.sr 63 = 0 ∧ c.setS 63 x = c) ∧
  (∀ (t : Thread) (n m : Nat) (x : Word), n ≠ 63 → (x ≠ 0 ∨ Tab.wf 0 t.v = true → (t.setV n x).vr n = x) ∧
    (Tab.wf 0 t.v = true → Tab.wf 0 (t.setV n x).v = true) ∧
    (m ≠ n → (t.setV n x).vr m = t.vr m) ∧ ∀ k, (t.setV n x).pr k = t.pr k) ∧
  (∀ (c : Cohort) (n m : Nat) (x : Dword), n ≠ 63 → (x ≠ 0 ∨ Tab.wf 0 c.s = true → (c.setS n x).sr n = x) ∧
    (Tab.wf 0 c.s = true → Tab.wf 0 (c.setS n x).s = true) ∧ (m ≠ n → (c.setS n x).sr m = c.sr m)) ∧
  ∀ (t : Thread) (n m : Nat) (b : Bool), n < 7 → m < 8 → (t.setP n b).pr n = b ∧ (m ≠ n → (t.setP n b).pr m = t.pr m) ∧
    ∀ k, (t.setP n b).vr k = t.vr k

/-- O58. Decoding the encoding of a well-formed instruction gives it back. For every instruction with an encoding that is
well-formed, with every operand at every value that the encoding admits, decoding its words, whatever words follow, gives an
instruction of the same words and leaves the words that follow; and it gives that instruction itself, but for the two forms of
freply, which share their words (notes/assumptions/7.md). (R42, R44, R45, R46, R47, R48, R49, R50, R52, R55, R58) -/
def Obligations.RoundTrip : Prop :=
  ∀ (i : Instr) (rest : List Word), encode i ≠ [] → i.wellFormed = true →
    ∃ j, decode (encode i ++ rest) = .ok (j, rest) ∧ encode j = encode i ∧ ((∀ d a, i ≠ .freplyReject d a) → j = i)

/-- O59. Every step of every state answers a next state. For every state the step answers a next state: no instruction that the
sequencer issues, no event and no undecodable word stops the machine. (R58, R191) -/
def Obligations.StepTotal : Prop :=
  ∀ s : State, ∃ t, step s = .next t

/-- O60. Every step keeps every memory in canonical form. For every state whose memories (global, chip scratchpad, scratchpad
banks) are in canonical form, the state after a step has them so too: addresses strictly rising, and no entry equal to what an
unlisted address reads as. (R208, R214, R222) -/
def Obligations.MemInvariant : Prop :=
  ∀ s t : State, s.MemWf → step s = .next t → t.MemWf
end

