-- ==== Sys2Proof/Laws/Tab.lean ====
section
/-!
SUPPORT. Sys2Proof/Laws/Tab.lean: the laws of sparse tables and memories: every operation keeps the canonical form, and a read after a
write gives what was written there and leaves every other key alone.
-/

namespace Sys2Proof.Machine

variable {α : Type} [DecidableEq α]

/-! ### The canonical form is kept -/

theorem Tab.wfFrom_mono {d : α} {lo lo' : Nat} {t : Tab α} (h : Tab.wfFrom d lo t = true) (hl : lo' ≤ lo) :
    Tab.wfFrom d lo' t = true := by
  cases t with
  | nil => rfl
  | cons e t =>
    simp only [Tab.wfFrom, Bool.and_eq_true, decide_eq_true_eq] at h ⊢
    exact ⟨⟨by omega, h.1.2⟩, h.2⟩

theorem Tab.wfFrom_put {d : α} {lo a : Nat} {t : Tab α} (x : α) (h : Tab.wfFrom d lo t = true) (ha : lo ≤ a) :
    Tab.wfFrom d lo (Tab.put d t a x) = true := by
  induction t generalizing lo with
  | nil =>
    simp only [Tab.put]
    split
    · rfl
    · rename_i hx; simp [Tab.wfFrom, ha, hx]
  | cons e t ih =>
    obtain ⟨k, v⟩ := e
    simp only [Tab.wfFrom, Bool.and_eq_true, decide_eq_true_eq] at h
    obtain ⟨⟨h1, h2⟩, h3⟩ := h
    simp only [Tab.put]
    split
    · rename_i hk
      split
      · simp [Tab.wfFrom, h1, h2, h3]
      · rename_i hx
        have hk' : a + 1 ≤ k := hk
        simp [Tab.wfFrom, ha, hx, h2, h3, hk']
    · split
      · rename_i hk
        subst hk
        split
        · exact Tab.wfFrom_mono h3 (by omega)
        · rename_i hx; simp [Tab.wfFrom, ha, hx, h3]
      · rename_i hk hk'
        simp only [Tab.wfFrom, h1, h2, decide_true, Bool.true_and, ne_eq, not_false_eq_true]
        exact ih h3 (by omega)

/-- A write keeps the canonical form. -/
theorem Tab.wf_put {d : α} {t : Tab α} (a : Nat) (x : α) (h : Tab.wf d t = true) : Tab.wf d (Tab.put d t a x) = true :=
  Tab.wfFrom_put x h (Nat.zero_le a)

theorem Tab.wf_putAll {d : α} {t : Tab α} (l : List (Nat × α)) (h : Tab.wf d t = true) :
    Tab.wf d (Tab.putAll d t l) = true := by
  induction l generalizing t with
  | nil => exact h
  | cons e l ih => exact ih (Tab.wf_put _ _ h)

theorem Tab.wf_putN {d : α} {t : Tab α} (a : Nat) (l : List α) (h : Tab.wf d t = true) :
    Tab.wf d (Tab.putN d t a l) = true := by
  induction l generalizing t a with
  | nil => exact h
  | cons x l ih => exact ih _ (Tab.wf_put _ _ h)

theorem Tab.wfFrom_only {d : α} {lo : Nat} {t : Tab α} (p : Nat → Bool) (h : Tab.wfFrom d lo t = true) :
    Tab.wfFrom d lo (Tab.only p t) = true := by
  induction t generalizing lo with
  | nil => rfl
  | cons e t ih =>
    obtain ⟨k, v⟩ := e
    simp only [Tab.wfFrom, Bool.and_eq_true, decide_eq_true_eq] at h
    obtain ⟨⟨h1, h2⟩, h3⟩ := h
    simp only [Tab.only, List.filter_cons] at ih ⊢
    split
    · simp [Tab.wfFrom, h1, h2, ih h3]
    · exact Tab.wfFrom_mono (ih h3) (by omega)

/-- A selection of keys keeps the canonical form. -/
theorem Tab.wf_only {d : α} {t : Tab α} (p : Nat → Bool) (h : Tab.wf d t = true) : Tab.wf d (Tab.only p t) = true :=
  Tab.wfFrom_only p h

/-! ### Reads after writes -/

theorem Tab.read_below {d : α} {lo : Nat} {t : Tab α} (h : Tab.wfFrom d lo t = true) {a : Nat} (ha : a < lo) :
    Tab.read d t a = d := by
  induction t generalizing lo with
  | nil => rfl
  | cons e t ih =>
    obtain ⟨k, v⟩ := e
    simp only [Tab.wfFrom, Bool.and_eq_true, decide_eq_true_eq] at h
    have hk : a ≠ k := by omega
    simp only [Tab.read, hk, if_false]
    exact ih h.2 (by omega)

/-- A canonical table reads back what was put. -/
theorem Tab.read_put {d : α} {t : Tab α} {lo : Nat} (h : Tab.wfFrom d lo t = true) (a : Nat) (x : α) :
    Tab.read d (Tab.put d t a x) a = x := by
  induction t generalizing lo with
  | nil =>
    simp only [Tab.put]
    split
    · rename_i hx; simp [Tab.read, hx]
    · simp [Tab.read]
  | cons e t ih =>
    obtain ⟨k, v⟩ := e
    simp only [Tab.wfFrom, Bool.and_eq_true, decide_eq_true_eq] at h
    obtain ⟨⟨h1, h2⟩, h3⟩ := h
    simp only [Tab.put]
    split
    · rename_i hk
      split
      · rename_i hx
        have hk' : a ≠ k := by omega
        simp only [Tab.read, hk', if_false, hx]
        exact Tab.read_below h3 (by omega)
      · simp [Tab.read]
    · split
      · rename_i hk
        subst hk
        split
        · rename_i hx
          rw [hx]
          exact Tab.read_below h3 (by omega)
        · simp [Tab.read]
      · rename_i hk hk'
        simp only [Tab.read, hk', if_false]
        exact ih h3

/-- In any table a value that is not the default reads back. -/
theorem Tab.read_put_self (d : α) (t : Tab α) (a : Nat) (x : α) (h : x ≠ d) :
    Tab.read d (Tab.put d t a x) a = x := by
  induction t with
  | nil => simp [Tab.put, Tab.read, h]
  | cons e t ih =>
    obtain ⟨k, v⟩ := e
    simp only [Tab.put]
    split
    · simp [Tab.read]
    · split
      · simp [Tab.read]
      · rename_i h1 h2; simp [Tab.read, h2, ih]

/-- A put leaves every other key alone, in any table. -/
theorem Tab.read_put_other (d : α) (t : Tab α) (a b : Nat) (x : α) (h : b ≠ a) :
    Tab.read d (Tab.put d t a x) b = Tab.read d t b := by
  induction t with
  | nil => by_cases hx : x = d <;> simp [Tab.put, Tab.read, hx, h]
  | cons e t ih =>
    obtain ⟨k, v⟩ := e
    simp only [Tab.put]
    split
    · split <;> simp [Tab.read, h]
    · split
      · rename_i h1 h2
        subst h2
        split <;> simp [Tab.read, h]
      · simp only [Tab.read, ih]

/-- Writes at other keys leave a key alone. -/
theorem Tab.read_putAll_ne {d : α} (t : Tab α) (l : List (Nat × α)) {b : Nat} (h : ∀ e ∈ l, b ≠ e.1) :
    Tab.read d (Tab.putAll d t l) b = Tab.read d t b := by
  induction l generalizing t with
  | nil => rfl
  | cons e l ih =>
    simp only [Tab.putAll]
    rw [ih _ fun e he => h e (List.mem_cons_of_mem _ he)]
    exact Tab.read_put_other _ _ _ _ _ (h e (List.mem_cons_self ..))

theorem Tab.read_putN_lt {d : α} (t : Tab α) (a : Nat) (l : List α) {b : Nat} (h : b < a) :
    Tab.read d (Tab.putN d t a l) b = Tab.read d t b := by
  induction l generalizing t a with
  | nil => rfl
  | cons x l ih =>
    simp only [Tab.putN]
    rw [ih _ _ (by omega)]
    exact Tab.read_put_other _ _ _ _ _ (by omega)

/-- Consecutive keys read back what was put there. -/
theorem Tab.readN_putN {d : α} {t : Tab α} (h : Tab.wf d t = true) (a : Nat) (l : List α) :
    Tab.readN d (Tab.putN d t a l) a l.length = l := by
  induction l generalizing t a with
  | nil => rfl
  | cons x l ih =>
    have hw := Tab.wf_put a x h
    simp only [Tab.putN, List.length_cons, Tab.readN, ih hw (a + 1)]
    rw [Tab.read_putN_lt _ _ _ (by omega), Tab.read_put h]

/-- Bytes at consecutive addresses are a consecutive write. -/
theorem Tab.putAll_consec {d : α} (t : Tab α) (f : Nat → List α → List (Nat × α)) (h0 : ∀ a, f a [] = [])
    (h1 : ∀ a x l, f a (x :: l) = (a, x) :: f (a + 1) l) (a : Nat) (l : List α) :
    Tab.putAll d t (f a l) = Tab.putN d t a l := by
  induction l generalizing t a with
  | nil => simp [h0, Tab.putAll, Tab.putN]
  | cons x l ih => simp [h1, Tab.putAll, Tab.putN, ih]

/-! ### Numbers in bytes -/

theorem leBytes_length (n x : Nat) : (leBytes n x).length = n := by
  induction n generalizing x with
  | zero => rfl
  | succ n ih => simp [leBytes, ih]

/-- A number that fits its bytes reads back. -/
theorem leNat_leBytes (n x : Nat) : leNat (leBytes n x) = x % 256 ^ n := by
  induction n generalizing x with
  | zero => simp [leBytes, leNat, Nat.mod_one]
  | succ n ih =>
    have e : 256 ^ (n + 1) = 256 * 256 ^ n := by rw [Nat.pow_succ, Nat.mul_comm]
    rw [e, Nat.mod_mul]
    simp only [leBytes, leNat, ih, BitVec.toNat_ofNat]

theorem Memory.wf_setByte {m : Memory} (a : Nat) (b : Byte) (h : m.wf = true) : (m.setByte a b).wf = true := Tab.wf_put a b h
theorem Memory.wf_setBytes {m : Memory} (a : Nat) (bs : List Byte) (h : m.wf = true) : (m.setBytes a bs).wf = true :=
  Tab.wf_putN a bs h
theorem Memory.wf_setNat {m : Memory} (a n x : Nat) (h : m.wf = true) : (m.setNat a n x).wf = true := Tab.wf_putN a _ h

theorem Memory.wf_only {m : Memory} (p : Nat → Bool) (h : m.wf = true) : Memory.wf (Tab.only p m) = true := Tab.wf_only p h

/-- A number written is read back. -/
theorem Memory.nat_setNat {m : Memory} (a n x : Nat) (h : m.wf = true) : (m.setNat a n x).nat a n = x % 256 ^ n := by
  unfold Memory.nat Memory.setNat Memory.bytes Memory.setBytes
  have := Tab.readN_putN h a (leBytes n x)
  rw [leBytes_length] at this
  rw [this, leNat_leBytes]

end Sys2Proof.Machine
end

