-- ==== Sys2Proof/Laws/Frame.lean ====
section
/-!
SUPPORT. Sys2Proof/Laws/Frame.lean: what the frame of an instruction leaves alone: the boundaries of clauses, the counters, and one
lemma for each answer of a meaning, which says when `issue` gives a next state and which.
-/

namespace Sys2Proof.Machine

/-! ### Finding and replacing -/

/-- Finding an element by a number that a map keeps. -/
theorem find?_mapIf {α : Type} (key : α → Nat) (k j : Nat) (f : α → α) (h : ∀ x, key (f x) = key x) (l : List α) :
    (mapIf (fun x => key x == k) f l).find? (fun x => key x == j) =
      if j = k then (l.find? fun x => key x == k).map f else l.find? fun x => key x == j := by
  induction l with
  | nil => simp [mapIf]
  | cons x xs ih =>
    simp only [mapIf, List.map_cons, List.find?_cons] at ih ⊢
    by_cases hx : key x = k
    · by_cases hj : j = k
      · subst hj; simp [hx, h]
      · have hb : (k == j) = false := by simpa using fun e => hj e.symm
        have hb' : (key x == j) = false := by rw [hx]; exact hb
        simp only [hx, BEq.rfl, if_true, h, hb, hj, if_false] at ih ⊢
        exact ih
    · by_cases hj : j = k
      · subst hj
        have hb : (key x == j) = false := by simpa using hx
        simp only [hb, if_true, Bool.false_eq_true, if_false] at ih ⊢
        exact ih
      · by_cases hxj : key x = j <;> simp_all

/-- A cohort after a change of a cohort that keeps its key. -/
theorem State.cohort_onCohort (s : State) (k j : Nat) (f : Cohort → Cohort) (h : ∀ c, (f c).key = c.key) :
    (s.onCohort k f).cohort j = if j = k then (s.cohort k).map f else s.cohort j :=
  find?_mapIf Cohort.key k j f h s.cohorts

/-- A cohort that is found has the key asked for. -/
theorem State.key_of_cohort {s : State} {k : Nat} {c : Cohort} (h : s.cohort k = some c) : c.key = k := by
  have := List.find?_some h
  simpa using this

/-- The issuing cohort is the state's cohort of its key. -/
theorem State.cohort_of_issuer {s : State} {c : Cohort} (h : s.issuer = some c) : s.cohort c.key = some c := by
  unfold State.issuer at h
  split at h
  · rename_i c' hc
    split at h
    · cases h; rw [State.key_of_cohort hc]; exact hc
    · cases h
  · cases h

/-! ### Flow -/

theorem Thread.flow_refl (t : Thread) : t.flow t := ⟨rfl, .inl rfl⟩

theorem Thread.flow_trans {t u v : Thread} (h : t.flow u) (g : u.flow v) : t.flow v := by
  obtain ⟨h1, h2⟩ := h
  obtain ⟨g1, g2⟩ := g
  refine ⟨?_, ?_⟩
  · rw [g1, h1]
  · rcases g2 with g2 | g2
    · rw [g2]; exact h2
    · exact .inr g2

theorem Thread.flow_inH {t u : Thread} (h : t.flow u) : u.inH = t.inH := by rw [h.1]

theorem forall₂_refl {α : Type} {r : α → α → Prop} (h : ∀ x, r x x) (l : List α) : List.Forall₂ r l l := by
  induction l with
  | nil => exact .nil
  | cons x xs ih => exact .cons (h x) ih

theorem forall₂_map {α : Type} {r : α → α → Prop} (f : α → α) (h : ∀ x, r x (f x)) (l : List α) :
    List.Forall₂ r l (l.map f) := by
  induction l with
  | nil => exact .nil
  | cons x xs ih => exact .cons (h x) ih

theorem forall₂_trans {α : Type} {r : α → α → Prop} (h : ∀ x y z, r x y → r y z → r x z) {l m n : List α}
    (a : List.Forall₂ r l m) (b : List.Forall₂ r m n) : List.Forall₂ r l n := by
  induction a generalizing n with
  | nil => cases b; exact .nil
  | cons p _ ih => cases b with
    | cons q b => exact .cons (h _ _ _ p q) (ih b)

theorem any_inH_of_flow {l m : List Thread} (h : List.Forall₂ Thread.flow l m) : m.any (·.inH) = l.any (·.inH) := by
  induction h with
  | nil => rfl
  | cons p _ ih => simp [List.any_cons, ih, Thread.flow_inH p]

theorem Cohort.flow_refl (c : Cohort) : c.flow c := ⟨rfl, .inl rfl, forall₂_refl Thread.flow_refl _⟩

theorem Cohort.flow_trans {c d e : Cohort} (h : c.flow d) (g : d.flow e) : c.flow e := by
  obtain ⟨h1, h2, h3⟩ := h
  obtain ⟨g1, g2, g3⟩ := g
  refine ⟨by rw [g1, h1], ?_, forall₂_trans (r := Thread.flow) (fun _ _ _ a b => Thread.flow_trans a b) h3 g3⟩
  have e := any_inH_of_flow h3
  rcases g2 with g2 | ⟨g2, g4⟩
  · rw [g2]; exact h2
  · exact .inr ⟨g2, by rw [← e]; exact g4⟩

theorem Cohort.flow_key {c d : Cohort} (h : c.flow d) : d.key = c.key := by rw [h.1]

/-- A map over the threads that only goes on. -/
theorem Cohort.flow_map (c : Cohort) (f : Thread → Thread) (h : ∀ t : Thread, Thread.flow t (f t)) :
    c.flow { c with threads := c.threads.map f } := ⟨rfl, .inl rfl, forall₂_map f h _⟩

theorem Cohort.flow_mapT (c : Cohort) (p : Thread → Bool) (f : Thread → Thread) (h : ∀ t : Thread, p t = true → Thread.flow t (f t)) :
    c.flow (c.mapT p f) :=
  c.flow_map _ fun t => by
    by_cases hp : p t = true
    · simpa [hp] using h t hp
    · simpa [hp] using t.flow_refl

theorem Cohort.flow_release (c : Cohort) : c.flow c.release :=
  c.flow_mapT _ _ fun _ _ => ⟨rfl, .inr rfl⟩

theorem Cohort.flow_unyield (c : Cohort) : c.flow c.unyield :=
  c.flow_map _ fun t => by
    cases h : t.st <;> simp only <;> first
      | exact t.flow_refl
      | exact ⟨by split <;> rfl, .inl (by split <;> rfl)⟩

theorem Cohort.flow_settle (c : Cohort) : c.flow c.settle := by
  unfold Cohort.settle
  refine Cohort.flow_trans (d := { c with tmode := c.tmode && c.threads.any (·.inH) }) ?_ ?_
  · refine ⟨rfl, ?_, forall₂_refl Thread.flow_refl _⟩
    cases h : c.threads.any (·.inH)
    · cases ht : c.tmode
      · left; rfl
      · right; exact ⟨rfl, rfl⟩
    · left; simp
  · refine Cohort.flow_trans ?_ (Cohort.flow_trans (Cohort.flow_release _) (Cohort.flow_unyield _))
    split
    · exact Cohort.flow_mapT _ _ _ fun t _ => ⟨rfl, .inl rfl⟩
    · exact Cohort.flow_refl _

theorem Cohort.flow_endClause (c : Cohort) (r : Bool) : c.flow (c.endClause r) :=
  let d : Cohort := { c with
    clause := none, chain := (match c.clause with | some cl => hChain cl.word | none => false) && !r,
    threads := c.threads.map fun t => { t with act := false } }
  Cohort.flow_trans (d := d) ⟨rfl, .inl rfl, forall₂_map _ (fun _ => ⟨rfl, .inl rfl⟩) _⟩ (Cohort.flow_settle _)

theorem Cohort.flow_issued (c : Cohort) (ids : List Nat) : c.flow (c.issued ids) :=
  c.flow_map _ fun t => by
    cases ids.contains t.tid <;> cases hs : t.st <;> simp only [hs, if_true, Bool.false_eq_true, if_false] <;>
      exact ⟨rfl, .inl rfl⟩

theorem Cohort.issued_act (c : Cohort) (ids : List Nat) : (c.issued ids).threads.map (·.act) = c.threads.map (·.act) := by
  simp only [Cohort.issued, List.map_map]
  congr 1; funext t
  simp only [Function.comp]
  cases ids.contains t.tid <;> cases hs : t.st <;> simp only [hs, if_true, Bool.false_eq_true, if_false]

/-- The end of an instruction: its active threads pass its words, and go on. -/
theorem Cohort.flow_advance (c : Cohort) (n : Nat) : (c.passes n).flow (c.advance n) := by
  unfold Cohort.advance
  show (c.passes n).flow (if (c.passes n).actives = [] ∨ (c.passes n).nextHeader ≤ (c.passes n).pc then
    (c.passes n).endClause false else (c.passes n).unyield)
  split
  · exact Cohort.flow_endClause _ _
  · exact Cohort.flow_unyield _

/-- Going on, and passing words, in one order or the other. -/
theorem Cohort.flow_passes {c d : Cohort} (h : c.flow d) (ha : d.threads.map (·.act) = c.threads.map (·.act)) (n : Nat) :
    (c.passes n).flow (d.passes n) := by
  obtain ⟨h1, h2, h3⟩ := h
  refine ⟨?_, ?_, ?_⟩
  · unfold Cohort.passes Cohort.mapT
    rw [h1]
  · rcases h2 with h2 | ⟨h2, h4⟩
    · exact .inl h2
    · refine .inr ⟨h2, ?_⟩
      rw [← h4]
      simp only [Cohort.passes, Cohort.mapT, mapIf, List.any_map]
      congr 1; funext t; by_cases h : t.act <;> simp [h]
  · simp only [Cohort.passes, Cohort.mapT, mapIf]
    clear h1 h2
    generalize c.threads = l at *
    generalize d.threads = m at *
    induction h3 with
    | nil => exact .nil
    | @cons t u l m p _ ih =>
      simp only [List.map_cons, List.cons.injEq] at ha ⊢
      refine .cons ?_ (ih ha.2)
      obtain ⟨p1, p2⟩ := p
      have hact := ha.1
      by_cases hu : t.act = true
      · simp only [hact, hu, if_true]
        refine ⟨?_, p2⟩
        rw [p1]
      · simp only [hact, hu]
        exact ⟨p1, p2⟩

/-! ### Counters -/

theorem CoreSt.counted_refl (k : CoreSt) : k.counted k := rfl

theorem CoreSt.counted_trans {k l m : CoreSt} (a : k.counted l) (b : l.counted m) : k.counted m := by
  unfold CoreSt.counted at *
  rw [b, a]

/-- A count touches nothing but performance counters. -/
theorem State.countPm_only (s : State) (core sub ev n mark : Nat) :
    s.countPm core sub ev n mark = { s with cores := (s.countPm core sub ev n mark).cores } ∧
    ∀ j, (s.core j).counted ((s.countPm core sub ev n mark).core j) := by
  unfold State.countPm
  simp only
  split
  · exact ⟨rfl, fun _ => rfl⟩
  · rename_i hit
    refine ⟨rfl, fun j => ?_⟩
    simp only [State.onCore, State.core]
    by_cases hj : j = core
    · subst hj
      rw [Tab.read_put_self]
      · rfl
      · intro he
        have hp : (Tab.read {} s.cores j).pmsel = [] := by
          have := congrArg CoreSt.pmsel he
          simpa using this
        apply hit
        right
        simp only [State.core, hp]
        simp [pmHits, Tab.read, bit]
    · rw [Tab.read_put_other _ _ _ _ _ hj]; rfl

/-! ### Only one cohort -/

theorem State.onlyCohort_refl (s : State) (k : Nat) : s.onlyCohort s k := ⟨rfl, fun _ _ => rfl, fun _ => rfl⟩

theorem State.onlyCohort_trans {s t u : State} {k : Nat} (a : s.onlyCohort t k) (b : t.onlyCohort u k) : s.onlyCohort u k := by
  obtain ⟨a1, a2, a3⟩ := a
  obtain ⟨b1, b2, b3⟩ := b
  exact ⟨by rw [b1, a1], fun j hj => (b2 j hj).trans (a2 j hj), fun n => CoreSt.counted_trans (a3 n) (b3 n)⟩

theorem State.onlyCohort_onCohort (s : State) (k : Nat) (f : Cohort → Cohort) (h : ∀ c, (f c).key = c.key) :
    s.onlyCohort (s.onCohort k f) k :=
  ⟨rfl, fun j hj => by rw [State.cohort_onCohort _ _ _ _ h, if_neg hj], fun _ => rfl⟩

theorem State.onlyCohort_countPm (s : State) (core sub ev n mark k : Nat) : s.onlyCohort (s.countPm core sub ev n mark) k := by
  obtain ⟨h1, h2⟩ := s.countPm_only core sub ev n mark
  refine ⟨?_, fun j _ => ?_, h2⟩
  · conv_lhs => rw [h1]
    rw [h1]
  · unfold State.cohort; rw [h1]

theorem State.cohort_countPm (s : State) (core sub ev n mark j : Nat) :
    (s.countPm core sub ev n mark).cohort j = s.cohort j := by
  unfold State.cohort; rw [(s.countPm_only core sub ev n mark).1]

theorem State.onlyCohort_unheld (s : State) (k : Nat) : s.onlyCohort s.unheld k := ⟨rfl, fun _ _ => rfl, fun _ => rfl⟩

/-! ### The answers of a meaning -/

theorem Cohort.key_passes (c : Cohort) (n : Nat) : (c.passes n).key = c.key := rfl
theorem Cohort.key_issued (c : Cohort) (ids : List Nat) : (c.issued ids).key = c.key := rfl
theorem Cohort.key_advance (c : Cohort) (n : Nat) : (c.advance n).key = c.key :=
  (Cohort.flow_key (Cohort.flow_advance c n)).trans rfl
theorem Cohort.key_endClause (c : Cohort) (r : Bool) : (c.endClause r).key = c.key := Cohort.flow_key (Cohort.flow_endClause c r)

/-- A change of one cohort that goes on, as a step. -/
theorem State.goesOn_of {s t : State} {k : Nat} {c d : Cohort} (h : s.onlyCohort t k) (hc : s.cohort k = some c)
    (hd : t.cohort k = some d) (hf : c.flow d) : s.goesOn t k := ⟨h, c, d, hc, hd, hf⟩

/-- Two changes of the same cohort of one state, the second with counts: nothing else differs. -/
theorem State.onlyCohort_both {u t : State} {k : Nat} (f : Cohort → Cohort) (h : ∀ c, (f c).key = c.key)
    (ht : u.onlyCohort t k) : (u.onCohort k f).onlyCohort t k := by
  obtain ⟨h1, h2, h3⟩ := ht
  refine ⟨?_, fun j hj => ?_, h3⟩
  · rw [h1]; rfl
  · rw [h2 j hj, State.cohort_onCohort _ _ _ _ h, if_neg hj]

/-- After a word has issued, its cohort has gone on and the counters have counted. -/
theorem State.wordIssued_spec {u : State} {k : Nat} {d : Cohort} (ids : List Nat) (hd : u.cohort k = some d) :
    u.onlyCohort (u.wordIssued k ids) k ∧ (u.wordIssued k ids).cohort k = some (d.issued ids) := by
  have hk : ∀ c : Cohort, (c.issued ids).key = c.key := fun c => c.key_issued ids
  unfold State.wordIssued
  refine ⟨State.onlyCohort_trans (State.onlyCohort_onCohort _ _ _ hk) (State.onlyCohort_countPm _ _ _ _ _ _ _), ?_⟩
  rw [State.cohort_countPm, State.cohort_onCohort _ _ _ _ hk, if_pos rfl, hd]; rfl

/-- Where no word that is read has an error, reading meets none. -/
theorem State.meet_none {s : State} {ks : List Site} (h : ∀ e ∈ s.latent, e.1 ∉ ks) : s.meet ks = s := by
  have e : (s.latent.filter fun e => ks.contains e.1) = [] := by
    refine List.filter_eq_nil_iff.mpr fun e he => ?_
    simpa using h e he
  unfold State.meet
  rw [e]; rfl

/-- Where no word that is written has an error, writing drops none. -/
theorem State.rewrite_none {s : State} {ws : List Site} (h : ∀ e ∈ s.latent, e.1 ∉ ws) : s.rewrite ws = s := by
  have e : (s.latent.filter fun e => !(ws.contains e.1)) = s.latent :=
    List.filter_eq_self.mpr fun e he => by simpa using h e he
  unfold State.rewrite
  rw [e]; split <;> rfl

/-- A meaning's answer, where no register that it writes has an error. -/
theorem Cohort.answer_none {c : Cohort} {i : Info} {s : State} {body : Cohort → State → Res}
    (h : ∀ e ∈ s.latent, e.1 ∉ c.destSites i) : c.answer i s body = body c s := by
  unfold Cohort.answer
  rw [State.rewrite_none h]
  split
  · rfl
  · split <;> simp_all

/-- What the frame does with an answer, when nothing keeps the word from issuing. -/
theorem issue_eq {i : Info} {s : State} {c : Cohort} (h : Issues s i c) (body : Cohort → State → Res) :
    issue i s body = .next (s.unheld.finish c i.len [] (body c s.unheld)) := by
  have hc : s.unheld.cohort c.key = some c := State.cohort_of_issuer h.1
  obtain ⟨h1, h2, h3, h4, h5, h6⟩ := h
  have e1 : (({ s with stalled := false } : State).crewOf c) = s.crewOf c := rfl
  have e2 : s.unheld.meet (c.issueSites i) = s.unheld :=
    State.meet_none fun e he hm => h6 e he (List.mem_append_left _ hm)
  have e4 : c.answer i s.unheld body = body c s.unheld :=
    Cohort.answer_none fun e he hm => h6 e he (List.mem_append_right _ hm)
  have e3 : s.unheld.wordActs c i body = s.unheld.finish c i.len [] (body c s.unheld) := by
    unfold State.wordActs
    simp [e2, e4, hc, h4]
  rw [← e3]
  unfold issue
  rw [h1]
  simp only [e1, h2, h3, h5, Bool.not_true, Bool.false_or, Bool.false_eq_true, if_false]
  rfl

/-- A finished answer: the cohort of the new state passes the words of the instruction and goes on. -/
theorem issue_done {i : Info} {s u : State} {c d : Cohort} {body : Cohort → State → Res} (h : Issues s i c)
    (hb : body c s.unheld = .done u) (hd : u.cohort c.key = some d) :
    ∃ t, issue i s body = .next t ∧ (u.onCohort c.key fun c => c.passes i.len).goesOn t c.key := by
  refine ⟨_, issue_eq h body, ?_⟩
  rw [hb]
  let ids := c.actives.map (·.tid)
  obtain ⟨w1, w2⟩ := State.wordIssued_spec ids hd
  have hk := Cohort.key_advance
  refine State.goesOn_of (c := d.passes i.len) (d := (d.issued ids).advance i.len) ?_ ?_ ?_ ?_
  · exact State.onlyCohort_both _ (fun _ => rfl)
      (State.onlyCohort_trans w1 (State.onlyCohort_onCohort _ _ _ fun c => hk c i.len))
  · rw [State.cohort_onCohort _ _ _ _ (fun c => c.key_passes i.len), if_pos rfl, hd]; rfl
  · show ((u.wordIssued c.key ids).onCohort c.key fun c => c.advance i.len).cohort c.key = _
    rw [State.cohort_onCohort _ _ _ _ (fun c => hk c i.len), if_pos rfl, w2]; rfl
  · exact Cohort.flow_trans (Cohort.flow_passes (d.flow_issued ids) (d.issued_act ids) i.len) (Cohort.flow_advance _ _)

/-- An answer that has set the PCs: the clause ends and the cohort goes on. -/
theorem issue_moved {i : Info} {s u : State} {c d : Cohort} {r : Bool} {body : Cohort → State → Res} (h : Issues s i c)
    (hb : body c s.unheld = .moved u r) (hd : u.cohort c.key = some d) :
    ∃ t, issue i s body = .next t ∧ u.goesOn t c.key := by
  refine ⟨_, issue_eq h body, ?_⟩
  rw [hb]
  let ids := c.actives.map (·.tid)
  obtain ⟨w1, w2⟩ := State.wordIssued_spec ids hd
  refine State.goesOn_of (c := d) (d := (d.issued ids).endClause r) ?_ hd ?_
    (Cohort.flow_trans (d.flow_issued ids) (Cohort.flow_endClause _ _))
  · exact State.onlyCohort_trans w1 (State.onlyCohort_onCohort _ _ _ fun c => Cohort.key_endClause c r)
  · show ((u.wordIssued c.key ids).onCohort c.key fun c => c.endClause r).cohort c.key = _
    rw [State.cohort_onCohort _ _ _ _ (fun c => Cohort.key_endClause c r), if_pos rfl, w2]; rfl

/-- An instruction that acts on its cohort alone completes with that effect. -/
theorem completes_of {i : Instr} {n : Info} {s : State} {c : Cohort} {body : Cohort → State → Res} {f : Cohort → Cohort}
    (he : exec i s = issue n s body) (hn : n.len = (encode i).length) (hf : ∀ c, (f c).key = c.key) (h : Issues s n c)
    (hb : body c s.unheld = .done (s.unheld.onCohort c.key f)) : Completes i s c f := by
  have hc := State.cohort_of_issuer h.1
  have hd : (s.unheld.onCohort c.key f).cohort c.key = some (f c) := by
    rw [State.cohort_onCohort _ _ _ _ hf, if_pos rfl]
    show Option.map f (s.cohort c.key) = _
    rw [hc]; rfl
  obtain ⟨t, h1, h2, a, d, h3, h4, h5⟩ := issue_done h hb hd
  refine ⟨t, d, he.trans h1, ?_, h4, ?_⟩
  · obtain ⟨g1, g2, g3⟩ := h2
    refine ⟨by rw [g1]; rfl, fun j hj => ?_, g3⟩
    rw [g2 j hj, State.cohort_onCohort _ _ _ _ (fun c => c.key_passes n.len), if_neg hj,
      State.cohort_onCohort _ _ _ _ hf, if_neg hj]; rfl
  · rw [State.cohort_onCohort _ _ _ _ (fun c => c.key_passes n.len), if_pos rfl, hd] at h3
    cases h3
    rw [← hn]; exact h5

/-- An instruction with no effect on its cohort's registers completes. -/
theorem completes_id {i : Instr} {n : Info} {s : State} {c : Cohort} {body : Cohort → State → Res}
    (he : exec i s = issue n s body) (hn : n.len = (encode i).length) (h : Issues s n c)
    (hb : body c s.unheld = .done s.unheld) : Completes i s c id := by
  have hc := State.cohort_of_issuer h.1
  obtain ⟨t, h1, h2, a, d, h3, h4, h5⟩ := issue_done h hb (d := c) hc
  refine ⟨t, d, he.trans h1, ?_, h4, ?_⟩
  · obtain ⟨g1, g2, g3⟩ := h2
    refine ⟨by rw [g1]; rfl, fun j hj => ?_, g3⟩
    rw [g2 j hj, State.cohort_onCohort _ _ _ _ (fun c => c.key_passes n.len), if_neg hj]; rfl
  · rw [State.cohort_onCohort _ _ _ _ (fun c => c.key_passes n.len), if_pos rfl] at h3
    have : s.unheld.cohort c.key = some c := hc
    rw [this] at h3
    cases h3
    rw [← hn]; exact h5

/-- An instruction with an effect on the state performs it. -/
theorem performs_of {i : Instr} {n : Info} {s : State} {c d : Cohort} {body : Cohort → State → Res} {e : State → State}
    (he : exec i s = issue n s body) (hn : n.len = (encode i).length) (h : Issues s n c)
    (hb : body c s.unheld = .done (e s.unheld)) (hd : (e s.unheld).cohort c.key = some d) : Performs i s c e := by
  obtain ⟨t, h1, h2⟩ := issue_done h hb hd
  exact ⟨t, he.trans h1, by rw [← hn]; exact h2⟩

/-- An instruction that sets the PCs moves its threads. -/
theorem moves_of {i : Instr} {n : Info} {s : State} {c d : Cohort} {r : Bool} {body : Cohort → State → Res} {e : State → State}
    (he : exec i s = issue n s body) (h : Issues s n c)
    (hb : body c s.unheld = .moved (e s.unheld) r) (hd : (e s.unheld).cohort c.key = some d) : Moves i s c e := by
  obtain ⟨t, h1, h2⟩ := issue_moved h hb hd
  exact ⟨t, he.trans h1, h2⟩

end Sys2Proof.Machine
end

