-- ==== Sys2Proof/Laws/State.lean ====
section
/-!
SUPPORT. Sys2Proof/Laws/State.lean: what each named update of the state, of a cohort and of a thread leaves in each field, so that no
proof unfolds a record update.
-/

namespace Sys2Proof.Machine

/-! `State.unheld` -/

@[simp] theorem State.unheld_gmem (s : State) : (s.unheld).gmem = s.gmem := rfl
@[simp] theorem State.unheld_cmem (s : State) : (s.unheld).cmem = s.cmem := rfl
@[simp] theorem State.unheld_smem (s : State) : (s.unheld).smem = s.smem := rfl
@[simp] theorem State.unheld_gPoison (s : State) : (s.unheld).gPoison = s.gPoison := rfl
@[simp] theorem State.unheld_cPoison (s : State) : (s.unheld).cPoison = s.cPoison := rfl
@[simp] theorem State.unheld_sPoison (s : State) : (s.unheld).sPoison = s.sPoison := rfl
@[simp] theorem State.unheld_latent (s : State) : (s.unheld).latent = s.latent := rfl
@[simp] theorem State.unheld_l2dirty (s : State) : (s.unheld).l2dirty = s.l2dirty := rfl
@[simp] theorem State.unheld_l1 (s : State) : (s.unheld).l1 = s.l1 := rfl
@[simp] theorem State.unheld_bricks (s : State) : (s.unheld).bricks = s.bricks := rfl
@[simp] theorem State.unheld_icache (s : State) : (s.unheld).icache = s.icache := rfl
@[simp] theorem State.unheld_tlb (s : State) : (s.unheld).tlb = s.tlb := rfl
@[simp] theorem State.unheld_walks (s : State) : (s.unheld).walks = s.walks := rfl
@[simp] theorem State.unheld_cores (s : State) : (s.unheld).cores = s.cores := rfl
@[simp] theorem State.unheld_slots (s : State) : (s.unheld).slots = s.slots := rfl
@[simp] theorem State.unheld_tiles (s : State) : (s.unheld).tiles = s.tiles := rfl
@[simp] theorem State.unheld_bins (s : State) : (s.unheld).bins = s.bins := rfl
@[simp] theorem State.unheld_cohorts (s : State) : (s.unheld).cohorts = s.cohorts := rfl
@[simp] theorem State.unheld_crews (s : State) : (s.unheld).crews = s.crews := rfl
@[simp] theorem State.unheld_launches (s : State) : (s.unheld).launches = s.launches := rfl
@[simp] theorem State.unheld_storeWait (s : State) : (s.unheld).storeWait = s.storeWait := rfl
@[simp] theorem State.unheld_groups (s : State) : (s.unheld).groups = s.groups := rfl
@[simp] theorem State.unheld_running (s : State) : (s.unheld).running = s.running := rfl
@[simp] theorem State.unheld_frozen (s : State) : (s.unheld).frozen = s.frozen := rfl
@[simp] theorem State.unheld_busy (s : State) : (s.unheld).busy = s.busy := rfl
@[simp] theorem State.unheld_admitted (s : State) : (s.unheld).admitted = s.admitted := rfl
@[simp] theorem State.unheld_admWait (s : State) : (s.unheld).admWait = s.admWait := rfl
@[simp] theorem State.unheld_fabric (s : State) : (s.unheld).fabric = s.fabric := rfl
@[simp] theorem State.unheld_acks (s : State) : (s.unheld).acks = s.acks := rfl
@[simp] theorem State.unheld_repIn (s : State) : (s.unheld).repIn = s.repIn := rfl
@[simp] theorem State.unheld_posts (s : State) : (s.unheld).posts = s.posts := rfl
@[simp] theorem State.unheld_copies (s : State) : (s.unheld).copies = s.copies := rfl
@[simp] theorem State.unheld_batches (s : State) : (s.unheld).batches = s.batches := rfl
@[simp] theorem State.unheld_msgs (s : State) : (s.unheld).msgs = s.msgs := rfl
@[simp] theorem State.unheld_credits (s : State) : (s.unheld).credits = s.credits := rfl
@[simp] theorem State.unheld_doms (s : State) : (s.unheld).doms = s.doms := rfl
@[simp] theorem State.unheld_domsNew (s : State) : (s.unheld).domsNew = s.domsNew := rfl
@[simp] theorem State.unheld_gens (s : State) : (s.unheld).gens = s.gens := rfl
@[simp] theorem State.unheld_changing (s : State) : (s.unheld).changing = s.changing := rfl
@[simp] theorem State.unheld_nacked (s : State) : (s.unheld).nacked = s.nacked := rfl
@[simp] theorem State.unheld_replays (s : State) : (s.unheld).replays = s.replays := rfl
@[simp] theorem State.unheld_slEcc (s : State) : (s.unheld).slEcc = s.slEcc := rfl
@[simp] theorem State.unheld_seqWords (s : State) : (s.unheld).seqWords = s.seqWords := rfl
@[simp] theorem State.unheld_swatchA (s : State) : (s.unheld).swatchA = s.swatchA := rfl
@[simp] theorem State.unheld_swatchC (s : State) : (s.unheld).swatchC = s.swatchC := rfl
@[simp] theorem State.unheld_swring (s : State) : (s.unheld).swring = s.swring := rfl
@[simp] theorem State.unheld_carve (s : State) : (s.unheld).carve = s.carve := rfl
@[simp] theorem State.unheld_part (s : State) : (s.unheld).part = s.part := rfl
@[simp] theorem State.unheld_pjob (s : State) : (s.unheld).pjob = s.pjob := rfl
@[simp] theorem State.unheld_emul (s : State) : (s.unheld).emul = s.emul := rfl
@[simp] theorem State.unheld_tbHomes (s : State) : (s.unheld).tbHomes = s.tbHomes := rfl
@[simp] theorem State.unheld_compares (s : State) : (s.unheld).compares = s.compares := rfl
@[simp] theorem State.unheld_history (s : State) : (s.unheld).history = s.history := rfl
@[simp] theorem State.unheld_resols (s : State) : (s.unheld).resols = s.resols := rfl
@[simp] theorem State.unheld_draws (s : State) : (s.unheld).draws = s.draws := rfl
@[simp] theorem State.unheld_rasterNext (s : State) : (s.unheld).rasterNext = s.rasterNext := rfl
@[simp] theorem State.unheld_colls (s : State) : (s.unheld).colls = s.colls := rfl
@[simp] theorem State.unheld_comms (s : State) : (s.unheld).comms = s.comms := rfl
@[simp] theorem State.unheld_peerIn (s : State) : (s.unheld).peerIn = s.peerIn := rfl
@[simp] theorem State.unheld_qpairs (s : State) : (s.unheld).qpairs = s.qpairs := rfl
@[simp] theorem State.unheld_rings (s : State) : (s.unheld).rings = s.rings := rfl
@[simp] theorem State.unheld_conns (s : State) : (s.unheld).conns = s.conns := rfl
@[simp] theorem State.unheld_inbox (s : State) : (s.unheld).inbox = s.inbox := rfl
@[simp] theorem State.unheld_outbox (s : State) : (s.unheld).outbox = s.outbox := rfl
@[simp] theorem State.unheld_regions (s : State) : (s.unheld).regions = s.regions := rfl
@[simp] theorem State.unheld_thermal (s : State) : (s.unheld).thermal = s.thermal := rfl
@[simp] theorem State.unheld_dieTemp (s : State) : (s.unheld).dieTemp = s.dieTemp := rfl
@[simp] theorem State.unheld_inletTemp (s : State) : (s.unheld).inletTemp = s.inletTemp := rfl
@[simp] theorem State.unheld_heatOut (s : State) : (s.unheld).heatOut = s.heatOut := rfl
@[simp] theorem State.unheld_heatSwaps (s : State) : (s.unheld).heatSwaps = s.heatSwaps := rfl
@[simp] theorem State.unheld_boot (s : State) : (s.unheld).boot = s.boot := rfl
@[simp] theorem State.unheld_fwPackets (s : State) : (s.unheld).fwPackets = s.fwPackets := rfl
@[simp] theorem State.unheld_fwHalt (s : State) : (s.unheld).fwHalt = s.fwHalt := rfl
@[simp] theorem State.unheld_nextHandle (s : State) : (s.unheld).nextHandle = s.nextHandle := rfl
@[simp] theorem State.unheld_nextAge (s : State) : (s.unheld).nextAge = s.nextAge := rfl
@[simp] theorem State.unheld_agenda (s : State) : (s.unheld).agenda = s.agenda := rfl
@[simp] theorem State.unheld_focus (s : State) : (s.unheld).focus = s.focus := rfl
@[simp] theorem State.unheld_turns (s : State) : (s.unheld).turns = s.turns := rfl
@[simp] theorem State.unheld_fresh (s : State) : (s.unheld).fresh = s.fresh := rfl

/-! `State.onCohort` -/

@[simp] theorem State.onCohort_gmem (s : State) (k : Nat) (f : Cohort → Cohort) : (s.onCohort k f).gmem = s.gmem := rfl
@[simp] theorem State.onCohort_cmem (s : State) (k : Nat) (f : Cohort → Cohort) : (s.onCohort k f).cmem = s.cmem := rfl
@[simp] theorem State.onCohort_smem (s : State) (k : Nat) (f : Cohort → Cohort) : (s.onCohort k f).smem = s.smem := rfl
@[simp] theorem State.onCohort_gPoison (s : State) (k : Nat) (f : Cohort → Cohort) : (s.onCohort k f).gPoison = s.gPoison := rfl
@[simp] theorem State.onCohort_cPoison (s : State) (k : Nat) (f : Cohort → Cohort) : (s.onCohort k f).cPoison = s.cPoison := rfl
@[simp] theorem State.onCohort_sPoison (s : State) (k : Nat) (f : Cohort → Cohort) : (s.onCohort k f).sPoison = s.sPoison := rfl
@[simp] theorem State.onCohort_latent (s : State) (k : Nat) (f : Cohort → Cohort) : (s.onCohort k f).latent = s.latent := rfl
@[simp] theorem State.onCohort_l2dirty (s : State) (k : Nat) (f : Cohort → Cohort) : (s.onCohort k f).l2dirty = s.l2dirty := rfl
@[simp] theorem State.onCohort_l1 (s : State) (k : Nat) (f : Cohort → Cohort) : (s.onCohort k f).l1 = s.l1 := rfl
@[simp] theorem State.onCohort_bricks (s : State) (k : Nat) (f : Cohort → Cohort) : (s.onCohort k f).bricks = s.bricks := rfl
@[simp] theorem State.onCohort_icache (s : State) (k : Nat) (f : Cohort → Cohort) : (s.onCohort k f).icache = s.icache := rfl
@[simp] theorem State.onCohort_tlb (s : State) (k : Nat) (f : Cohort → Cohort) : (s.onCohort k f).tlb = s.tlb := rfl
@[simp] theorem State.onCohort_walks (s : State) (k : Nat) (f : Cohort → Cohort) : (s.onCohort k f).walks = s.walks := rfl
@[simp] theorem State.onCohort_cores (s : State) (k : Nat) (f : Cohort → Cohort) : (s.onCohort k f).cores = s.cores := rfl
@[simp] theorem State.onCohort_slots (s : State) (k : Nat) (f : Cohort → Cohort) : (s.onCohort k f).slots = s.slots := rfl
@[simp] theorem State.onCohort_tiles (s : State) (k : Nat) (f : Cohort → Cohort) : (s.onCohort k f).tiles = s.tiles := rfl
@[simp] theorem State.onCohort_bins (s : State) (k : Nat) (f : Cohort → Cohort) : (s.onCohort k f).bins = s.bins := rfl
@[simp] theorem State.onCohort_crews (s : State) (k : Nat) (f : Cohort → Cohort) : (s.onCohort k f).crews = s.crews := rfl
@[simp] theorem State.onCohort_launches (s : State) (k : Nat) (f : Cohort → Cohort) : (s.onCohort k f).launches = s.launches := rfl
@[simp] theorem State.onCohort_storeWait (s : State) (k : Nat) (f : Cohort → Cohort) : (s.onCohort k f).storeWait = s.storeWait := rfl
@[simp] theorem State.onCohort_groups (s : State) (k : Nat) (f : Cohort → Cohort) : (s.onCohort k f).groups = s.groups := rfl
@[simp] theorem State.onCohort_running (s : State) (k : Nat) (f : Cohort → Cohort) : (s.onCohort k f).running = s.running := rfl
@[simp] theorem State.onCohort_frozen (s : State) (k : Nat) (f : Cohort → Cohort) : (s.onCohort k f).frozen = s.frozen := rfl
@[simp] theorem State.onCohort_busy (s : State) (k : Nat) (f : Cohort → Cohort) : (s.onCohort k f).busy = s.busy := rfl
@[simp] theorem State.onCohort_admitted (s : State) (k : Nat) (f : Cohort → Cohort) : (s.onCohort k f).admitted = s.admitted := rfl
@[simp] theorem State.onCohort_admWait (s : State) (k : Nat) (f : Cohort → Cohort) : (s.onCohort k f).admWait = s.admWait := rfl
@[simp] theorem State.onCohort_fabric (s : State) (k : Nat) (f : Cohort → Cohort) : (s.onCohort k f).fabric = s.fabric := rfl
@[simp] theorem State.onCohort_acks (s : State) (k : Nat) (f : Cohort → Cohort) : (s.onCohort k f).acks = s.acks := rfl
@[simp] theorem State.onCohort_repIn (s : State) (k : Nat) (f : Cohort → Cohort) : (s.onCohort k f).repIn = s.repIn := rfl
@[simp] theorem State.onCohort_posts (s : State) (k : Nat) (f : Cohort → Cohort) : (s.onCohort k f).posts = s.posts := rfl
@[simp] theorem State.onCohort_copies (s : State) (k : Nat) (f : Cohort → Cohort) : (s.onCohort k f).copies = s.copies := rfl
@[simp] theorem State.onCohort_batches (s : State) (k : Nat) (f : Cohort → Cohort) : (s.onCohort k f).batches = s.batches := rfl
@[simp] theorem State.onCohort_msgs (s : State) (k : Nat) (f : Cohort → Cohort) : (s.onCohort k f).msgs = s.msgs := rfl
@[simp] theorem State.onCohort_credits (s : State) (k : Nat) (f : Cohort → Cohort) : (s.onCohort k f).credits = s.credits := rfl
@[simp] theorem State.onCohort_doms (s : State) (k : Nat) (f : Cohort → Cohort) : (s.onCohort k f).doms = s.doms := rfl
@[simp] theorem State.onCohort_domsNew (s : State) (k : Nat) (f : Cohort → Cohort) : (s.onCohort k f).domsNew = s.domsNew := rfl
@[simp] theorem State.onCohort_gens (s : State) (k : Nat) (f : Cohort → Cohort) : (s.onCohort k f).gens = s.gens := rfl
@[simp] theorem State.onCohort_changing (s : State) (k : Nat) (f : Cohort → Cohort) : (s.onCohort k f).changing = s.changing := rfl
@[simp] theorem State.onCohort_nacked (s : State) (k : Nat) (f : Cohort → Cohort) : (s.onCohort k f).nacked = s.nacked := rfl
@[simp] theorem State.onCohort_replays (s : State) (k : Nat) (f : Cohort → Cohort) : (s.onCohort k f).replays = s.replays := rfl
@[simp] theorem State.onCohort_slEcc (s : State) (k : Nat) (f : Cohort → Cohort) : (s.onCohort k f).slEcc = s.slEcc := rfl
@[simp] theorem State.onCohort_seqWords (s : State) (k : Nat) (f : Cohort → Cohort) : (s.onCohort k f).seqWords = s.seqWords := rfl
@[simp] theorem State.onCohort_swatchA (s : State) (k : Nat) (f : Cohort → Cohort) : (s.onCohort k f).swatchA = s.swatchA := rfl
@[simp] theorem State.onCohort_swatchC (s : State) (k : Nat) (f : Cohort → Cohort) : (s.onCohort k f).swatchC = s.swatchC := rfl
@[simp] theorem State.onCohort_swring (s : State) (k : Nat) (f : Cohort → Cohort) : (s.onCohort k f).swring = s.swring := rfl
@[simp] theorem State.onCohort_carve (s : State) (k : Nat) (f : Cohort → Cohort) : (s.onCohort k f).carve = s.carve := rfl
@[simp] theorem State.onCohort_part (s : State) (k : Nat) (f : Cohort → Cohort) : (s.onCohort k f).part = s.part := rfl
@[simp] theorem State.onCohort_pjob (s : State) (k : Nat) (f : Cohort → Cohort) : (s.onCohort k f).pjob = s.pjob := rfl
@[simp] theorem State.onCohort_emul (s : State) (k : Nat) (f : Cohort → Cohort) : (s.onCohort k f).emul = s.emul := rfl
@[simp] theorem State.onCohort_tbHomes (s : State) (k : Nat) (f : Cohort → Cohort) : (s.onCohort k f).tbHomes = s.tbHomes := rfl
@[simp] theorem State.onCohort_compares (s : State) (k : Nat) (f : Cohort → Cohort) : (s.onCohort k f).compares = s.compares := rfl
@[simp] theorem State.onCohort_history (s : State) (k : Nat) (f : Cohort → Cohort) : (s.onCohort k f).history = s.history := rfl
@[simp] theorem State.onCohort_resols (s : State) (k : Nat) (f : Cohort → Cohort) : (s.onCohort k f).resols = s.resols := rfl
@[simp] theorem State.onCohort_draws (s : State) (k : Nat) (f : Cohort → Cohort) : (s.onCohort k f).draws = s.draws := rfl
@[simp] theorem State.onCohort_rasterNext (s : State) (k : Nat) (f : Cohort → Cohort) : (s.onCohort k f).rasterNext = s.rasterNext := rfl
@[simp] theorem State.onCohort_colls (s : State) (k : Nat) (f : Cohort → Cohort) : (s.onCohort k f).colls = s.colls := rfl
@[simp] theorem State.onCohort_comms (s : State) (k : Nat) (f : Cohort → Cohort) : (s.onCohort k f).comms = s.comms := rfl
@[simp] theorem State.onCohort_peerIn (s : State) (k : Nat) (f : Cohort → Cohort) : (s.onCohort k f).peerIn = s.peerIn := rfl
@[simp] theorem State.onCohort_qpairs (s : State) (k : Nat) (f : Cohort → Cohort) : (s.onCohort k f).qpairs = s.qpairs := rfl
@[simp] theorem State.onCohort_rings (s : State) (k : Nat) (f : Cohort → Cohort) : (s.onCohort k f).rings = s.rings := rfl
@[simp] theorem State.onCohort_conns (s : State) (k : Nat) (f : Cohort → Cohort) : (s.onCohort k f).conns = s.conns := rfl
@[simp] theorem State.onCohort_inbox (s : State) (k : Nat) (f : Cohort → Cohort) : (s.onCohort k f).inbox = s.inbox := rfl
@[simp] theorem State.onCohort_outbox (s : State) (k : Nat) (f : Cohort → Cohort) : (s.onCohort k f).outbox = s.outbox := rfl
@[simp] theorem State.onCohort_regions (s : State) (k : Nat) (f : Cohort → Cohort) : (s.onCohort k f).regions = s.regions := rfl
@[simp] theorem State.onCohort_thermal (s : State) (k : Nat) (f : Cohort → Cohort) : (s.onCohort k f).thermal = s.thermal := rfl
@[simp] theorem State.onCohort_dieTemp (s : State) (k : Nat) (f : Cohort → Cohort) : (s.onCohort k f).dieTemp = s.dieTemp := rfl
@[simp] theorem State.onCohort_inletTemp (s : State) (k : Nat) (f : Cohort → Cohort) : (s.onCohort k f).inletTemp = s.inletTemp := rfl
@[simp] theorem State.onCohort_heatOut (s : State) (k : Nat) (f : Cohort → Cohort) : (s.onCohort k f).heatOut = s.heatOut := rfl
@[simp] theorem State.onCohort_heatSwaps (s : State) (k : Nat) (f : Cohort → Cohort) : (s.onCohort k f).heatSwaps = s.heatSwaps := rfl
@[simp] theorem State.onCohort_boot (s : State) (k : Nat) (f : Cohort → Cohort) : (s.onCohort k f).boot = s.boot := rfl
@[simp] theorem State.onCohort_fwPackets (s : State) (k : Nat) (f : Cohort → Cohort) : (s.onCohort k f).fwPackets = s.fwPackets := rfl
@[simp] theorem State.onCohort_fwHalt (s : State) (k : Nat) (f : Cohort → Cohort) : (s.onCohort k f).fwHalt = s.fwHalt := rfl
@[simp] theorem State.onCohort_nextHandle (s : State) (k : Nat) (f : Cohort → Cohort) : (s.onCohort k f).nextHandle = s.nextHandle := rfl
@[simp] theorem State.onCohort_nextAge (s : State) (k : Nat) (f : Cohort → Cohort) : (s.onCohort k f).nextAge = s.nextAge := rfl
@[simp] theorem State.onCohort_agenda (s : State) (k : Nat) (f : Cohort → Cohort) : (s.onCohort k f).agenda = s.agenda := rfl
@[simp] theorem State.onCohort_focus (s : State) (k : Nat) (f : Cohort → Cohort) : (s.onCohort k f).focus = s.focus := rfl
@[simp] theorem State.onCohort_stalled (s : State) (k : Nat) (f : Cohort → Cohort) : (s.onCohort k f).stalled = s.stalled := rfl
@[simp] theorem State.onCohort_turns (s : State) (k : Nat) (f : Cohort → Cohort) : (s.onCohort k f).turns = s.turns := rfl
@[simp] theorem State.onCohort_fresh (s : State) (k : Nat) (f : Cohort → Cohort) : (s.onCohort k f).fresh = s.fresh := rfl

/-! `State.setCohort` -/

@[simp] theorem State.setCohort_gmem (s : State) (c : Cohort) : (s.setCohort c).gmem = s.gmem := rfl
@[simp] theorem State.setCohort_cmem (s : State) (c : Cohort) : (s.setCohort c).cmem = s.cmem := rfl
@[simp] theorem State.setCohort_smem (s : State) (c : Cohort) : (s.setCohort c).smem = s.smem := rfl
@[simp] theorem State.setCohort_gPoison (s : State) (c : Cohort) : (s.setCohort c).gPoison = s.gPoison := rfl
@[simp] theorem State.setCohort_cPoison (s : State) (c : Cohort) : (s.setCohort c).cPoison = s.cPoison := rfl
@[simp] theorem State.setCohort_sPoison (s : State) (c : Cohort) : (s.setCohort c).sPoison = s.sPoison := rfl
@[simp] theorem State.setCohort_latent (s : State) (c : Cohort) : (s.setCohort c).latent = s.latent := rfl
@[simp] theorem State.setCohort_l2dirty (s : State) (c : Cohort) : (s.setCohort c).l2dirty = s.l2dirty := rfl
@[simp] theorem State.setCohort_l1 (s : State) (c : Cohort) : (s.setCohort c).l1 = s.l1 := rfl
@[simp] theorem State.setCohort_bricks (s : State) (c : Cohort) : (s.setCohort c).bricks = s.bricks := rfl
@[simp] theorem State.setCohort_icache (s : State) (c : Cohort) : (s.setCohort c).icache = s.icache := rfl
@[simp] theorem State.setCohort_tlb (s : State) (c : Cohort) : (s.setCohort c).tlb = s.tlb := rfl
@[simp] theorem State.setCohort_walks (s : State) (c : Cohort) : (s.setCohort c).walks = s.walks := rfl
@[simp] theorem State.setCohort_cores (s : State) (c : Cohort) : (s.setCohort c).cores = s.cores := rfl
@[simp] theorem State.setCohort_slots (s : State) (c : Cohort) : (s.setCohort c).slots = s.slots := rfl
@[simp] theorem State.setCohort_tiles (s : State) (c : Cohort) : (s.setCohort c).tiles = s.tiles := rfl
@[simp] theorem State.setCohort_bins (s : State) (c : Cohort) : (s.setCohort c).bins = s.bins := rfl
@[simp] theorem State.setCohort_crews (s : State) (c : Cohort) : (s.setCohort c).crews = s.crews := rfl
@[simp] theorem State.setCohort_launches (s : State) (c : Cohort) : (s.setCohort c).launches = s.launches := rfl
@[simp] theorem State.setCohort_storeWait (s : State) (c : Cohort) : (s.setCohort c).storeWait = s.storeWait := rfl
@[simp] theorem State.setCohort_groups (s : State) (c : Cohort) : (s.setCohort c).groups = s.groups := rfl
@[simp] theorem State.setCohort_running (s : State) (c : Cohort) : (s.setCohort c).running = s.running := rfl
@[simp] theorem State.setCohort_frozen (s : State) (c : Cohort) : (s.setCohort c).frozen = s.frozen := rfl
@[simp] theorem State.setCohort_busy (s : State) (c : Cohort) : (s.setCohort c).busy = s.busy := rfl
@[simp] theorem State.setCohort_admitted (s : State) (c : Cohort) : (s.setCohort c).admitted = s.admitted := rfl
@[simp] theorem State.setCohort_admWait (s : State) (c : Cohort) : (s.setCohort c).admWait = s.admWait := rfl
@[simp] theorem State.setCohort_fabric (s : State) (c : Cohort) : (s.setCohort c).fabric = s.fabric := rfl
@[simp] theorem State.setCohort_acks (s : State) (c : Cohort) : (s.setCohort c).acks = s.acks := rfl
@[simp] theorem State.setCohort_repIn (s : State) (c : Cohort) : (s.setCohort c).repIn = s.repIn := rfl
@[simp] theorem State.setCohort_posts (s : State) (c : Cohort) : (s.setCohort c).posts = s.posts := rfl
@[simp] theorem State.setCohort_copies (s : State) (c : Cohort) : (s.setCohort c).copies = s.copies := rfl
@[simp] theorem State.setCohort_batches (s : State) (c : Cohort) : (s.setCohort c).batches = s.batches := rfl
@[simp] theorem State.setCohort_msgs (s : State) (c : Cohort) : (s.setCohort c).msgs = s.msgs := rfl
@[simp] theorem State.setCohort_credits (s : State) (c : Cohort) : (s.setCohort c).credits = s.credits := rfl
@[simp] theorem State.setCohort_doms (s : State) (c : Cohort) : (s.setCohort c).doms = s.doms := rfl
@[simp] theorem State.setCohort_domsNew (s : State) (c : Cohort) : (s.setCohort c).domsNew = s.domsNew := rfl
@[simp] theorem State.setCohort_gens (s : State) (c : Cohort) : (s.setCohort c).gens = s.gens := rfl
@[simp] theorem State.setCohort_changing (s : State) (c : Cohort) : (s.setCohort c).changing = s.changing := rfl
@[simp] theorem State.setCohort_nacked (s : State) (c : Cohort) : (s.setCohort c).nacked = s.nacked := rfl
@[simp] theorem State.setCohort_replays (s : State) (c : Cohort) : (s.setCohort c).replays = s.replays := rfl
@[simp] theorem State.setCohort_slEcc (s : State) (c : Cohort) : (s.setCohort c).slEcc = s.slEcc := rfl
@[simp] theorem State.setCohort_seqWords (s : State) (c : Cohort) : (s.setCohort c).seqWords = s.seqWords := rfl
@[simp] theorem State.setCohort_swatchA (s : State) (c : Cohort) : (s.setCohort c).swatchA = s.swatchA := rfl
@[simp] theorem State.setCohort_swatchC (s : State) (c : Cohort) : (s.setCohort c).swatchC = s.swatchC := rfl
@[simp] theorem State.setCohort_swring (s : State) (c : Cohort) : (s.setCohort c).swring = s.swring := rfl
@[simp] theorem State.setCohort_carve (s : State) (c : Cohort) : (s.setCohort c).carve = s.carve := rfl
@[simp] theorem State.setCohort_part (s : State) (c : Cohort) : (s.setCohort c).part = s.part := rfl
@[simp] theorem State.setCohort_pjob (s : State) (c : Cohort) : (s.setCohort c).pjob = s.pjob := rfl
@[simp] theorem State.setCohort_emul (s : State) (c : Cohort) : (s.setCohort c).emul = s.emul := rfl
@[simp] theorem State.setCohort_tbHomes (s : State) (c : Cohort) : (s.setCohort c).tbHomes = s.tbHomes := rfl
@[simp] theorem State.setCohort_compares (s : State) (c : Cohort) : (s.setCohort c).compares = s.compares := rfl
@[simp] theorem State.setCohort_history (s : State) (c : Cohort) : (s.setCohort c).history = s.history := rfl
@[simp] theorem State.setCohort_resols (s : State) (c : Cohort) : (s.setCohort c).resols = s.resols := rfl
@[simp] theorem State.setCohort_draws (s : State) (c : Cohort) : (s.setCohort c).draws = s.draws := rfl
@[simp] theorem State.setCohort_rasterNext (s : State) (c : Cohort) : (s.setCohort c).rasterNext = s.rasterNext := rfl
@[simp] theorem State.setCohort_colls (s : State) (c : Cohort) : (s.setCohort c).colls = s.colls := rfl
@[simp] theorem State.setCohort_comms (s : State) (c : Cohort) : (s.setCohort c).comms = s.comms := rfl
@[simp] theorem State.setCohort_peerIn (s : State) (c : Cohort) : (s.setCohort c).peerIn = s.peerIn := rfl
@[simp] theorem State.setCohort_qpairs (s : State) (c : Cohort) : (s.setCohort c).qpairs = s.qpairs := rfl
@[simp] theorem State.setCohort_rings (s : State) (c : Cohort) : (s.setCohort c).rings = s.rings := rfl
@[simp] theorem State.setCohort_conns (s : State) (c : Cohort) : (s.setCohort c).conns = s.conns := rfl
@[simp] theorem State.setCohort_inbox (s : State) (c : Cohort) : (s.setCohort c).inbox = s.inbox := rfl
@[simp] theorem State.setCohort_outbox (s : State) (c : Cohort) : (s.setCohort c).outbox = s.outbox := rfl
@[simp] theorem State.setCohort_regions (s : State) (c : Cohort) : (s.setCohort c).regions = s.regions := rfl
@[simp] theorem State.setCohort_thermal (s : State) (c : Cohort) : (s.setCohort c).thermal = s.thermal := rfl
@[simp] theorem State.setCohort_dieTemp (s : State) (c : Cohort) : (s.setCohort c).dieTemp = s.dieTemp := rfl
@[simp] theorem State.setCohort_inletTemp (s : State) (c : Cohort) : (s.setCohort c).inletTemp = s.inletTemp := rfl
@[simp] theorem State.setCohort_heatOut (s : State) (c : Cohort) : (s.setCohort c).heatOut = s.heatOut := rfl
@[simp] theorem State.setCohort_heatSwaps (s : State) (c : Cohort) : (s.setCohort c).heatSwaps = s.heatSwaps := rfl
@[simp] theorem State.setCohort_boot (s : State) (c : Cohort) : (s.setCohort c).boot = s.boot := rfl
@[simp] theorem State.setCohort_fwPackets (s : State) (c : Cohort) : (s.setCohort c).fwPackets = s.fwPackets := rfl
@[simp] theorem State.setCohort_fwHalt (s : State) (c : Cohort) : (s.setCohort c).fwHalt = s.fwHalt := rfl
@[simp] theorem State.setCohort_nextHandle (s : State) (c : Cohort) : (s.setCohort c).nextHandle = s.nextHandle := rfl
@[simp] theorem State.setCohort_nextAge (s : State) (c : Cohort) : (s.setCohort c).nextAge = s.nextAge := rfl
@[simp] theorem State.setCohort_agenda (s : State) (c : Cohort) : (s.setCohort c).agenda = s.agenda := rfl
@[simp] theorem State.setCohort_focus (s : State) (c : Cohort) : (s.setCohort c).focus = s.focus := rfl
@[simp] theorem State.setCohort_stalled (s : State) (c : Cohort) : (s.setCohort c).stalled = s.stalled := rfl
@[simp] theorem State.setCohort_turns (s : State) (c : Cohort) : (s.setCohort c).turns = s.turns := rfl
@[simp] theorem State.setCohort_fresh (s : State) (c : Cohort) : (s.setCohort c).fresh = s.fresh := rfl

/-! `State.onCrew` -/

@[simp] theorem State.onCrew_gmem (s : State) (k : Nat) (f : Crew → Crew) : (s.onCrew k f).gmem = s.gmem := rfl
@[simp] theorem State.onCrew_cmem (s : State) (k : Nat) (f : Crew → Crew) : (s.onCrew k f).cmem = s.cmem := rfl
@[simp] theorem State.onCrew_smem (s : State) (k : Nat) (f : Crew → Crew) : (s.onCrew k f).smem = s.smem := rfl
@[simp] theorem State.onCrew_gPoison (s : State) (k : Nat) (f : Crew → Crew) : (s.onCrew k f).gPoison = s.gPoison := rfl
@[simp] theorem State.onCrew_cPoison (s : State) (k : Nat) (f : Crew → Crew) : (s.onCrew k f).cPoison = s.cPoison := rfl
@[simp] theorem State.onCrew_sPoison (s : State) (k : Nat) (f : Crew → Crew) : (s.onCrew k f).sPoison = s.sPoison := rfl
@[simp] theorem State.onCrew_latent (s : State) (k : Nat) (f : Crew → Crew) : (s.onCrew k f).latent = s.latent := rfl
@[simp] theorem State.onCrew_l2dirty (s : State) (k : Nat) (f : Crew → Crew) : (s.onCrew k f).l2dirty = s.l2dirty := rfl
@[simp] theorem State.onCrew_l1 (s : State) (k : Nat) (f : Crew → Crew) : (s.onCrew k f).l1 = s.l1 := rfl
@[simp] theorem State.onCrew_bricks (s : State) (k : Nat) (f : Crew → Crew) : (s.onCrew k f).bricks = s.bricks := rfl
@[simp] theorem State.onCrew_icache (s : State) (k : Nat) (f : Crew → Crew) : (s.onCrew k f).icache = s.icache := rfl
@[simp] theorem State.onCrew_tlb (s : State) (k : Nat) (f : Crew → Crew) : (s.onCrew k f).tlb = s.tlb := rfl
@[simp] theorem State.onCrew_walks (s : State) (k : Nat) (f : Crew → Crew) : (s.onCrew k f).walks = s.walks := rfl
@[simp] theorem State.onCrew_cores (s : State) (k : Nat) (f : Crew → Crew) : (s.onCrew k f).cores = s.cores := rfl
@[simp] theorem State.onCrew_slots (s : State) (k : Nat) (f : Crew → Crew) : (s.onCrew k f).slots = s.slots := rfl
@[simp] theorem State.onCrew_tiles (s : State) (k : Nat) (f : Crew → Crew) : (s.onCrew k f).tiles = s.tiles := rfl
@[simp] theorem State.onCrew_bins (s : State) (k : Nat) (f : Crew → Crew) : (s.onCrew k f).bins = s.bins := rfl
@[simp] theorem State.onCrew_cohorts (s : State) (k : Nat) (f : Crew → Crew) : (s.onCrew k f).cohorts = s.cohorts := rfl
@[simp] theorem State.onCrew_launches (s : State) (k : Nat) (f : Crew → Crew) : (s.onCrew k f).launches = s.launches := rfl
@[simp] theorem State.onCrew_storeWait (s : State) (k : Nat) (f : Crew → Crew) : (s.onCrew k f).storeWait = s.storeWait := rfl
@[simp] theorem State.onCrew_groups (s : State) (k : Nat) (f : Crew → Crew) : (s.onCrew k f).groups = s.groups := rfl
@[simp] theorem State.onCrew_running (s : State) (k : Nat) (f : Crew → Crew) : (s.onCrew k f).running = s.running := rfl
@[simp] theorem State.onCrew_frozen (s : State) (k : Nat) (f : Crew → Crew) : (s.onCrew k f).frozen = s.frozen := rfl
@[simp] theorem State.onCrew_busy (s : State) (k : Nat) (f : Crew → Crew) : (s.onCrew k f).busy = s.busy := rfl
@[simp] theorem State.onCrew_admitted (s : State) (k : Nat) (f : Crew → Crew) : (s.onCrew k f).admitted = s.admitted := rfl
@[simp] theorem State.onCrew_admWait (s : State) (k : Nat) (f : Crew → Crew) : (s.onCrew k f).admWait = s.admWait := rfl
@[simp] theorem State.onCrew_fabric (s : State) (k : Nat) (f : Crew → Crew) : (s.onCrew k f).fabric = s.fabric := rfl
@[simp] theorem State.onCrew_acks (s : State) (k : Nat) (f : Crew → Crew) : (s.onCrew k f).acks = s.acks := rfl
@[simp] theorem State.onCrew_repIn (s : State) (k : Nat) (f : Crew → Crew) : (s.onCrew k f).repIn = s.repIn := rfl
@[simp] theorem State.onCrew_posts (s : State) (k : Nat) (f : Crew → Crew) : (s.onCrew k f).posts = s.posts := rfl
@[simp] theorem State.onCrew_copies (s : State) (k : Nat) (f : Crew → Crew) : (s.onCrew k f).copies = s.copies := rfl
@[simp] theorem State.onCrew_batches (s : State) (k : Nat) (f : Crew → Crew) : (s.onCrew k f).batches = s.batches := rfl
@[simp] theorem State.onCrew_msgs (s : State) (k : Nat) (f : Crew → Crew) : (s.onCrew k f).msgs = s.msgs := rfl
@[simp] theorem State.onCrew_credits (s : State) (k : Nat) (f : Crew → Crew) : (s.onCrew k f).credits = s.credits := rfl
@[simp] theorem State.onCrew_doms (s : State) (k : Nat) (f : Crew → Crew) : (s.onCrew k f).doms = s.doms := rfl
@[simp] theorem State.onCrew_domsNew (s : State) (k : Nat) (f : Crew → Crew) : (s.onCrew k f).domsNew = s.domsNew := rfl
@[simp] theorem State.onCrew_gens (s : State) (k : Nat) (f : Crew → Crew) : (s.onCrew k f).gens = s.gens := rfl
@[simp] theorem State.onCrew_changing (s : State) (k : Nat) (f : Crew → Crew) : (s.onCrew k f).changing = s.changing := rfl
@[simp] theorem State.onCrew_nacked (s : State) (k : Nat) (f : Crew → Crew) : (s.onCrew k f).nacked = s.nacked := rfl
@[simp] theorem State.onCrew_replays (s : State) (k : Nat) (f : Crew → Crew) : (s.onCrew k f).replays = s.replays := rfl
@[simp] theorem State.onCrew_slEcc (s : State) (k : Nat) (f : Crew → Crew) : (s.onCrew k f).slEcc = s.slEcc := rfl
@[simp] theorem State.onCrew_seqWords (s : State) (k : Nat) (f : Crew → Crew) : (s.onCrew k f).seqWords = s.seqWords := rfl
@[simp] theorem State.onCrew_swatchA (s : State) (k : Nat) (f : Crew → Crew) : (s.onCrew k f).swatchA = s.swatchA := rfl
@[simp] theorem State.onCrew_swatchC (s : State) (k : Nat) (f : Crew → Crew) : (s.onCrew k f).swatchC = s.swatchC := rfl
@[simp] theorem State.onCrew_swring (s : State) (k : Nat) (f : Crew → Crew) : (s.onCrew k f).swring = s.swring := rfl
@[simp] theorem State.onCrew_carve (s : State) (k : Nat) (f : Crew → Crew) : (s.onCrew k f).carve = s.carve := rfl
@[simp] theorem State.onCrew_part (s : State) (k : Nat) (f : Crew → Crew) : (s.onCrew k f).part = s.part := rfl
@[simp] theorem State.onCrew_pjob (s : State) (k : Nat) (f : Crew → Crew) : (s.onCrew k f).pjob = s.pjob := rfl
@[simp] theorem State.onCrew_emul (s : State) (k : Nat) (f : Crew → Crew) : (s.onCrew k f).emul = s.emul := rfl
@[simp] theorem State.onCrew_tbHomes (s : State) (k : Nat) (f : Crew → Crew) : (s.onCrew k f).tbHomes = s.tbHomes := rfl
@[simp] theorem State.onCrew_compares (s : State) (k : Nat) (f : Crew → Crew) : (s.onCrew k f).compares = s.compares := rfl
@[simp] theorem State.onCrew_history (s : State) (k : Nat) (f : Crew → Crew) : (s.onCrew k f).history = s.history := rfl
@[simp] theorem State.onCrew_resols (s : State) (k : Nat) (f : Crew → Crew) : (s.onCrew k f).resols = s.resols := rfl
@[simp] theorem State.onCrew_draws (s : State) (k : Nat) (f : Crew → Crew) : (s.onCrew k f).draws = s.draws := rfl
@[simp] theorem State.onCrew_rasterNext (s : State) (k : Nat) (f : Crew → Crew) : (s.onCrew k f).rasterNext = s.rasterNext := rfl
@[simp] theorem State.onCrew_colls (s : State) (k : Nat) (f : Crew → Crew) : (s.onCrew k f).colls = s.colls := rfl
@[simp] theorem State.onCrew_comms (s : State) (k : Nat) (f : Crew → Crew) : (s.onCrew k f).comms = s.comms := rfl
@[simp] theorem State.onCrew_peerIn (s : State) (k : Nat) (f : Crew → Crew) : (s.onCrew k f).peerIn = s.peerIn := rfl
@[simp] theorem State.onCrew_qpairs (s : State) (k : Nat) (f : Crew → Crew) : (s.onCrew k f).qpairs = s.qpairs := rfl
@[simp] theorem State.onCrew_rings (s : State) (k : Nat) (f : Crew → Crew) : (s.onCrew k f).rings = s.rings := rfl
@[simp] theorem State.onCrew_conns (s : State) (k : Nat) (f : Crew → Crew) : (s.onCrew k f).conns = s.conns := rfl
@[simp] theorem State.onCrew_inbox (s : State) (k : Nat) (f : Crew → Crew) : (s.onCrew k f).inbox = s.inbox := rfl
@[simp] theorem State.onCrew_outbox (s : State) (k : Nat) (f : Crew → Crew) : (s.onCrew k f).outbox = s.outbox := rfl
@[simp] theorem State.onCrew_regions (s : State) (k : Nat) (f : Crew → Crew) : (s.onCrew k f).regions = s.regions := rfl
@[simp] theorem State.onCrew_thermal (s : State) (k : Nat) (f : Crew → Crew) : (s.onCrew k f).thermal = s.thermal := rfl
@[simp] theorem State.onCrew_dieTemp (s : State) (k : Nat) (f : Crew → Crew) : (s.onCrew k f).dieTemp = s.dieTemp := rfl
@[simp] theorem State.onCrew_inletTemp (s : State) (k : Nat) (f : Crew → Crew) : (s.onCrew k f).inletTemp = s.inletTemp := rfl
@[simp] theorem State.onCrew_heatOut (s : State) (k : Nat) (f : Crew → Crew) : (s.onCrew k f).heatOut = s.heatOut := rfl
@[simp] theorem State.onCrew_heatSwaps (s : State) (k : Nat) (f : Crew → Crew) : (s.onCrew k f).heatSwaps = s.heatSwaps := rfl
@[simp] theorem State.onCrew_boot (s : State) (k : Nat) (f : Crew → Crew) : (s.onCrew k f).boot = s.boot := rfl
@[simp] theorem State.onCrew_fwPackets (s : State) (k : Nat) (f : Crew → Crew) : (s.onCrew k f).fwPackets = s.fwPackets := rfl
@[simp] theorem State.onCrew_fwHalt (s : State) (k : Nat) (f : Crew → Crew) : (s.onCrew k f).fwHalt = s.fwHalt := rfl
@[simp] theorem State.onCrew_nextHandle (s : State) (k : Nat) (f : Crew → Crew) : (s.onCrew k f).nextHandle = s.nextHandle := rfl
@[simp] theorem State.onCrew_nextAge (s : State) (k : Nat) (f : Crew → Crew) : (s.onCrew k f).nextAge = s.nextAge := rfl
@[simp] theorem State.onCrew_agenda (s : State) (k : Nat) (f : Crew → Crew) : (s.onCrew k f).agenda = s.agenda := rfl
@[simp] theorem State.onCrew_focus (s : State) (k : Nat) (f : Crew → Crew) : (s.onCrew k f).focus = s.focus := rfl
@[simp] theorem State.onCrew_stalled (s : State) (k : Nat) (f : Crew → Crew) : (s.onCrew k f).stalled = s.stalled := rfl
@[simp] theorem State.onCrew_turns (s : State) (k : Nat) (f : Crew → Crew) : (s.onCrew k f).turns = s.turns := rfl
@[simp] theorem State.onCrew_fresh (s : State) (k : Nat) (f : Crew → Crew) : (s.onCrew k f).fresh = s.fresh := rfl

/-! `State.onLaunch` -/

@[simp] theorem State.onLaunch_gmem (s : State) (h : Nat) (f : Launch → Launch) : (s.onLaunch h f).gmem = s.gmem := rfl
@[simp] theorem State.onLaunch_cmem (s : State) (h : Nat) (f : Launch → Launch) : (s.onLaunch h f).cmem = s.cmem := rfl
@[simp] theorem State.onLaunch_smem (s : State) (h : Nat) (f : Launch → Launch) : (s.onLaunch h f).smem = s.smem := rfl
@[simp] theorem State.onLaunch_gPoison (s : State) (h : Nat) (f : Launch → Launch) : (s.onLaunch h f).gPoison = s.gPoison := rfl
@[simp] theorem State.onLaunch_cPoison (s : State) (h : Nat) (f : Launch → Launch) : (s.onLaunch h f).cPoison = s.cPoison := rfl
@[simp] theorem State.onLaunch_sPoison (s : State) (h : Nat) (f : Launch → Launch) : (s.onLaunch h f).sPoison = s.sPoison := rfl
@[simp] theorem State.onLaunch_latent (s : State) (h : Nat) (f : Launch → Launch) : (s.onLaunch h f).latent = s.latent := rfl
@[simp] theorem State.onLaunch_l2dirty (s : State) (h : Nat) (f : Launch → Launch) : (s.onLaunch h f).l2dirty = s.l2dirty := rfl
@[simp] theorem State.onLaunch_l1 (s : State) (h : Nat) (f : Launch → Launch) : (s.onLaunch h f).l1 = s.l1 := rfl
@[simp] theorem State.onLaunch_bricks (s : State) (h : Nat) (f : Launch → Launch) : (s.onLaunch h f).bricks = s.bricks := rfl
@[simp] theorem State.onLaunch_icache (s : State) (h : Nat) (f : Launch → Launch) : (s.onLaunch h f).icache = s.icache := rfl
@[simp] theorem State.onLaunch_tlb (s : State) (h : Nat) (f : Launch → Launch) : (s.onLaunch h f).tlb = s.tlb := rfl
@[simp] theorem State.onLaunch_walks (s : State) (h : Nat) (f : Launch → Launch) : (s.onLaunch h f).walks = s.walks := rfl
@[simp] theorem State.onLaunch_cores (s : State) (h : Nat) (f : Launch → Launch) : (s.onLaunch h f).cores = s.cores := rfl
@[simp] theorem State.onLaunch_slots (s : State) (h : Nat) (f : Launch → Launch) : (s.onLaunch h f).slots = s.slots := rfl
@[simp] theorem State.onLaunch_tiles (s : State) (h : Nat) (f : Launch → Launch) : (s.onLaunch h f).tiles = s.tiles := rfl
@[simp] theorem State.onLaunch_bins (s : State) (h : Nat) (f : Launch → Launch) : (s.onLaunch h f).bins = s.bins := rfl
@[simp] theorem State.onLaunch_cohorts (s : State) (h : Nat) (f : Launch → Launch) : (s.onLaunch h f).cohorts = s.cohorts := rfl
@[simp] theorem State.onLaunch_crews (s : State) (h : Nat) (f : Launch → Launch) : (s.onLaunch h f).crews = s.crews := rfl
@[simp] theorem State.onLaunch_storeWait (s : State) (h : Nat) (f : Launch → Launch) : (s.onLaunch h f).storeWait = s.storeWait := rfl
@[simp] theorem State.onLaunch_groups (s : State) (h : Nat) (f : Launch → Launch) : (s.onLaunch h f).groups = s.groups := rfl
@[simp] theorem State.onLaunch_running (s : State) (h : Nat) (f : Launch → Launch) : (s.onLaunch h f).running = s.running := rfl
@[simp] theorem State.onLaunch_frozen (s : State) (h : Nat) (f : Launch → Launch) : (s.onLaunch h f).frozen = s.frozen := rfl
@[simp] theorem State.onLaunch_busy (s : State) (h : Nat) (f : Launch → Launch) : (s.onLaunch h f).busy = s.busy := rfl
@[simp] theorem State.onLaunch_admitted (s : State) (h : Nat) (f : Launch → Launch) : (s.onLaunch h f).admitted = s.admitted := rfl
@[simp] theorem State.onLaunch_admWait (s : State) (h : Nat) (f : Launch → Launch) : (s.onLaunch h f).admWait = s.admWait := rfl
@[simp] theorem State.onLaunch_fabric (s : State) (h : Nat) (f : Launch → Launch) : (s.onLaunch h f).fabric = s.fabric := rfl
@[simp] theorem State.onLaunch_acks (s : State) (h : Nat) (f : Launch → Launch) : (s.onLaunch h f).acks = s.acks := rfl
@[simp] theorem State.onLaunch_repIn (s : State) (h : Nat) (f : Launch → Launch) : (s.onLaunch h f).repIn = s.repIn := rfl
@[simp] theorem State.onLaunch_posts (s : State) (h : Nat) (f : Launch → Launch) : (s.onLaunch h f).posts = s.posts := rfl
@[simp] theorem State.onLaunch_copies (s : State) (h : Nat) (f : Launch → Launch) : (s.onLaunch h f).copies = s.copies := rfl
@[simp] theorem State.onLaunch_batches (s : State) (h : Nat) (f : Launch → Launch) : (s.onLaunch h f).batches = s.batches := rfl
@[simp] theorem State.onLaunch_msgs (s : State) (h : Nat) (f : Launch → Launch) : (s.onLaunch h f).msgs = s.msgs := rfl
@[simp] theorem State.onLaunch_credits (s : State) (h : Nat) (f : Launch → Launch) : (s.onLaunch h f).credits = s.credits := rfl
@[simp] theorem State.onLaunch_doms (s : State) (h : Nat) (f : Launch → Launch) : (s.onLaunch h f).doms = s.doms := rfl
@[simp] theorem State.onLaunch_domsNew (s : State) (h : Nat) (f : Launch → Launch) : (s.onLaunch h f).domsNew = s.domsNew := rfl
@[simp] theorem State.onLaunch_gens (s : State) (h : Nat) (f : Launch → Launch) : (s.onLaunch h f).gens = s.gens := rfl
@[simp] theorem State.onLaunch_changing (s : State) (h : Nat) (f : Launch → Launch) : (s.onLaunch h f).changing = s.changing := rfl
@[simp] theorem State.onLaunch_nacked (s : State) (h : Nat) (f : Launch → Launch) : (s.onLaunch h f).nacked = s.nacked := rfl
@[simp] theorem State.onLaunch_replays (s : State) (h : Nat) (f : Launch → Launch) : (s.onLaunch h f).replays = s.replays := rfl
@[simp] theorem State.onLaunch_slEcc (s : State) (h : Nat) (f : Launch → Launch) : (s.onLaunch h f).slEcc = s.slEcc := rfl
@[simp] theorem State.onLaunch_seqWords (s : State) (h : Nat) (f : Launch → Launch) : (s.onLaunch h f).seqWords = s.seqWords := rfl
@[simp] theorem State.onLaunch_swatchA (s : State) (h : Nat) (f : Launch → Launch) : (s.onLaunch h f).swatchA = s.swatchA := rfl
@[simp] theorem State.onLaunch_swatchC (s : State) (h : Nat) (f : Launch → Launch) : (s.onLaunch h f).swatchC = s.swatchC := rfl
@[simp] theorem State.onLaunch_swring (s : State) (h : Nat) (f : Launch → Launch) : (s.onLaunch h f).swring = s.swring := rfl
@[simp] theorem State.onLaunch_carve (s : State) (h : Nat) (f : Launch → Launch) : (s.onLaunch h f).carve = s.carve := rfl
@[simp] theorem State.onLaunch_part (s : State) (h : Nat) (f : Launch → Launch) : (s.onLaunch h f).part = s.part := rfl
@[simp] theorem State.onLaunch_pjob (s : State) (h : Nat) (f : Launch → Launch) : (s.onLaunch h f).pjob = s.pjob := rfl
@[simp] theorem State.onLaunch_emul (s : State) (h : Nat) (f : Launch → Launch) : (s.onLaunch h f).emul = s.emul := rfl
@[simp] theorem State.onLaunch_tbHomes (s : State) (h : Nat) (f : Launch → Launch) : (s.onLaunch h f).tbHomes = s.tbHomes := rfl
@[simp] theorem State.onLaunch_compares (s : State) (h : Nat) (f : Launch → Launch) : (s.onLaunch h f).compares = s.compares := rfl
@[simp] theorem State.onLaunch_history (s : State) (h : Nat) (f : Launch → Launch) : (s.onLaunch h f).history = s.history := rfl
@[simp] theorem State.onLaunch_resols (s : State) (h : Nat) (f : Launch → Launch) : (s.onLaunch h f).resols = s.resols := rfl
@[simp] theorem State.onLaunch_draws (s : State) (h : Nat) (f : Launch → Launch) : (s.onLaunch h f).draws = s.draws := rfl
@[simp] theorem State.onLaunch_rasterNext (s : State) (h : Nat) (f : Launch → Launch) : (s.onLaunch h f).rasterNext = s.rasterNext := rfl
@[simp] theorem State.onLaunch_colls (s : State) (h : Nat) (f : Launch → Launch) : (s.onLaunch h f).colls = s.colls := rfl
@[simp] theorem State.onLaunch_comms (s : State) (h : Nat) (f : Launch → Launch) : (s.onLaunch h f).comms = s.comms := rfl
@[simp] theorem State.onLaunch_peerIn (s : State) (h : Nat) (f : Launch → Launch) : (s.onLaunch h f).peerIn = s.peerIn := rfl
@[simp] theorem State.onLaunch_qpairs (s : State) (h : Nat) (f : Launch → Launch) : (s.onLaunch h f).qpairs = s.qpairs := rfl
@[simp] theorem State.onLaunch_rings (s : State) (h : Nat) (f : Launch → Launch) : (s.onLaunch h f).rings = s.rings := rfl
@[simp] theorem State.onLaunch_conns (s : State) (h : Nat) (f : Launch → Launch) : (s.onLaunch h f).conns = s.conns := rfl
@[simp] theorem State.onLaunch_inbox (s : State) (h : Nat) (f : Launch → Launch) : (s.onLaunch h f).inbox = s.inbox := rfl
@[simp] theorem State.onLaunch_outbox (s : State) (h : Nat) (f : Launch → Launch) : (s.onLaunch h f).outbox = s.outbox := rfl
@[simp] theorem State.onLaunch_regions (s : State) (h : Nat) (f : Launch → Launch) : (s.onLaunch h f).regions = s.regions := rfl
@[simp] theorem State.onLaunch_thermal (s : State) (h : Nat) (f : Launch → Launch) : (s.onLaunch h f).thermal = s.thermal := rfl
@[simp] theorem State.onLaunch_dieTemp (s : State) (h : Nat) (f : Launch → Launch) : (s.onLaunch h f).dieTemp = s.dieTemp := rfl
@[simp] theorem State.onLaunch_inletTemp (s : State) (h : Nat) (f : Launch → Launch) : (s.onLaunch h f).inletTemp = s.inletTemp := rfl
@[simp] theorem State.onLaunch_heatOut (s : State) (h : Nat) (f : Launch → Launch) : (s.onLaunch h f).heatOut = s.heatOut := rfl
@[simp] theorem State.onLaunch_heatSwaps (s : State) (h : Nat) (f : Launch → Launch) : (s.onLaunch h f).heatSwaps = s.heatSwaps := rfl
@[simp] theorem State.onLaunch_boot (s : State) (h : Nat) (f : Launch → Launch) : (s.onLaunch h f).boot = s.boot := rfl
@[simp] theorem State.onLaunch_fwPackets (s : State) (h : Nat) (f : Launch → Launch) : (s.onLaunch h f).fwPackets = s.fwPackets := rfl
@[simp] theorem State.onLaunch_fwHalt (s : State) (h : Nat) (f : Launch → Launch) : (s.onLaunch h f).fwHalt = s.fwHalt := rfl
@[simp] theorem State.onLaunch_nextHandle (s : State) (h : Nat) (f : Launch → Launch) : (s.onLaunch h f).nextHandle = s.nextHandle := rfl
@[simp] theorem State.onLaunch_nextAge (s : State) (h : Nat) (f : Launch → Launch) : (s.onLaunch h f).nextAge = s.nextAge := rfl
@[simp] theorem State.onLaunch_agenda (s : State) (h : Nat) (f : Launch → Launch) : (s.onLaunch h f).agenda = s.agenda := rfl
@[simp] theorem State.onLaunch_focus (s : State) (h : Nat) (f : Launch → Launch) : (s.onLaunch h f).focus = s.focus := rfl
@[simp] theorem State.onLaunch_stalled (s : State) (h : Nat) (f : Launch → Launch) : (s.onLaunch h f).stalled = s.stalled := rfl
@[simp] theorem State.onLaunch_turns (s : State) (h : Nat) (f : Launch → Launch) : (s.onLaunch h f).turns = s.turns := rfl
@[simp] theorem State.onLaunch_fresh (s : State) (h : Nat) (f : Launch → Launch) : (s.onLaunch h f).fresh = s.fresh := rfl

/-! `State.onCore` -/

@[simp] theorem State.onCore_gmem (s : State) (n : Nat) (f : CoreSt → CoreSt) : (s.onCore n f).gmem = s.gmem := rfl
@[simp] theorem State.onCore_cmem (s : State) (n : Nat) (f : CoreSt → CoreSt) : (s.onCore n f).cmem = s.cmem := rfl
@[simp] theorem State.onCore_smem (s : State) (n : Nat) (f : CoreSt → CoreSt) : (s.onCore n f).smem = s.smem := rfl
@[simp] theorem State.onCore_gPoison (s : State) (n : Nat) (f : CoreSt → CoreSt) : (s.onCore n f).gPoison = s.gPoison := rfl
@[simp] theorem State.onCore_cPoison (s : State) (n : Nat) (f : CoreSt → CoreSt) : (s.onCore n f).cPoison = s.cPoison := rfl
@[simp] theorem State.onCore_sPoison (s : State) (n : Nat) (f : CoreSt → CoreSt) : (s.onCore n f).sPoison = s.sPoison := rfl
@[simp] theorem State.onCore_latent (s : State) (n : Nat) (f : CoreSt → CoreSt) : (s.onCore n f).latent = s.latent := rfl
@[simp] theorem State.onCore_l2dirty (s : State) (n : Nat) (f : CoreSt → CoreSt) : (s.onCore n f).l2dirty = s.l2dirty := rfl
@[simp] theorem State.onCore_l1 (s : State) (n : Nat) (f : CoreSt → CoreSt) : (s.onCore n f).l1 = s.l1 := rfl
@[simp] theorem State.onCore_bricks (s : State) (n : Nat) (f : CoreSt → CoreSt) : (s.onCore n f).bricks = s.bricks := rfl
@[simp] theorem State.onCore_icache (s : State) (n : Nat) (f : CoreSt → CoreSt) : (s.onCore n f).icache = s.icache := rfl
@[simp] theorem State.onCore_tlb (s : State) (n : Nat) (f : CoreSt → CoreSt) : (s.onCore n f).tlb = s.tlb := rfl
@[simp] theorem State.onCore_walks (s : State) (n : Nat) (f : CoreSt → CoreSt) : (s.onCore n f).walks = s.walks := rfl
@[simp] theorem State.onCore_slots (s : State) (n : Nat) (f : CoreSt → CoreSt) : (s.onCore n f).slots = s.slots := rfl
@[simp] theorem State.onCore_tiles (s : State) (n : Nat) (f : CoreSt → CoreSt) : (s.onCore n f).tiles = s.tiles := rfl
@[simp] theorem State.onCore_bins (s : State) (n : Nat) (f : CoreSt → CoreSt) : (s.onCore n f).bins = s.bins := rfl
@[simp] theorem State.onCore_cohorts (s : State) (n : Nat) (f : CoreSt → CoreSt) : (s.onCore n f).cohorts = s.cohorts := rfl
@[simp] theorem State.onCore_crews (s : State) (n : Nat) (f : CoreSt → CoreSt) : (s.onCore n f).crews = s.crews := rfl
@[simp] theorem State.onCore_launches (s : State) (n : Nat) (f : CoreSt → CoreSt) : (s.onCore n f).launches = s.launches := rfl
@[simp] theorem State.onCore_storeWait (s : State) (n : Nat) (f : CoreSt → CoreSt) : (s.onCore n f).storeWait = s.storeWait := rfl
@[simp] theorem State.onCore_groups (s : State) (n : Nat) (f : CoreSt → CoreSt) : (s.onCore n f).groups = s.groups := rfl
@[simp] theorem State.onCore_running (s : State) (n : Nat) (f : CoreSt → CoreSt) : (s.onCore n f).running = s.running := rfl
@[simp] theorem State.onCore_frozen (s : State) (n : Nat) (f : CoreSt → CoreSt) : (s.onCore n f).frozen = s.frozen := rfl
@[simp] theorem State.onCore_busy (s : State) (n : Nat) (f : CoreSt → CoreSt) : (s.onCore n f).busy = s.busy := rfl
@[simp] theorem State.onCore_admitted (s : State) (n : Nat) (f : CoreSt → CoreSt) : (s.onCore n f).admitted = s.admitted := rfl
@[simp] theorem State.onCore_admWait (s : State) (n : Nat) (f : CoreSt → CoreSt) : (s.onCore n f).admWait = s.admWait := rfl
@[simp] theorem State.onCore_fabric (s : State) (n : Nat) (f : CoreSt → CoreSt) : (s.onCore n f).fabric = s.fabric := rfl
@[simp] theorem State.onCore_acks (s : State) (n : Nat) (f : CoreSt → CoreSt) : (s.onCore n f).acks = s.acks := rfl
@[simp] theorem State.onCore_repIn (s : State) (n : Nat) (f : CoreSt → CoreSt) : (s.onCore n f).repIn = s.repIn := rfl
@[simp] theorem State.onCore_posts (s : State) (n : Nat) (f : CoreSt → CoreSt) : (s.onCore n f).posts = s.posts := rfl
@[simp] theorem State.onCore_copies (s : State) (n : Nat) (f : CoreSt → CoreSt) : (s.onCore n f).copies = s.copies := rfl
@[simp] theorem State.onCore_batches (s : State) (n : Nat) (f : CoreSt → CoreSt) : (s.onCore n f).batches = s.batches := rfl
@[simp] theorem State.onCore_msgs (s : State) (n : Nat) (f : CoreSt → CoreSt) : (s.onCore n f).msgs = s.msgs := rfl
@[simp] theorem State.onCore_credits (s : State) (n : Nat) (f : CoreSt → CoreSt) : (s.onCore n f).credits = s.credits := rfl
@[simp] theorem State.onCore_doms (s : State) (n : Nat) (f : CoreSt → CoreSt) : (s.onCore n f).doms = s.doms := rfl
@[simp] theorem State.onCore_domsNew (s : State) (n : Nat) (f : CoreSt → CoreSt) : (s.onCore n f).domsNew = s.domsNew := rfl
@[simp] theorem State.onCore_gens (s : State) (n : Nat) (f : CoreSt → CoreSt) : (s.onCore n f).gens = s.gens := rfl
@[simp] theorem State.onCore_changing (s : State) (n : Nat) (f : CoreSt → CoreSt) : (s.onCore n f).changing = s.changing := rfl
@[simp] theorem State.onCore_nacked (s : State) (n : Nat) (f : CoreSt → CoreSt) : (s.onCore n f).nacked = s.nacked := rfl
@[simp] theorem State.onCore_replays (s : State) (n : Nat) (f : CoreSt → CoreSt) : (s.onCore n f).replays = s.replays := rfl
@[simp] theorem State.onCore_slEcc (s : State) (n : Nat) (f : CoreSt → CoreSt) : (s.onCore n f).slEcc = s.slEcc := rfl
@[simp] theorem State.onCore_seqWords (s : State) (n : Nat) (f : CoreSt → CoreSt) : (s.onCore n f).seqWords = s.seqWords := rfl
@[simp] theorem State.onCore_swatchA (s : State) (n : Nat) (f : CoreSt → CoreSt) : (s.onCore n f).swatchA = s.swatchA := rfl
@[simp] theorem State.onCore_swatchC (s : State) (n : Nat) (f : CoreSt → CoreSt) : (s.onCore n f).swatchC = s.swatchC := rfl
@[simp] theorem State.onCore_swring (s : State) (n : Nat) (f : CoreSt → CoreSt) : (s.onCore n f).swring = s.swring := rfl
@[simp] theorem State.onCore_carve (s : State) (n : Nat) (f : CoreSt → CoreSt) : (s.onCore n f).carve = s.carve := rfl
@[simp] theorem State.onCore_part (s : State) (n : Nat) (f : CoreSt → CoreSt) : (s.onCore n f).part = s.part := rfl
@[simp] theorem State.onCore_pjob (s : State) (n : Nat) (f : CoreSt → CoreSt) : (s.onCore n f).pjob = s.pjob := rfl
@[simp] theorem State.onCore_emul (s : State) (n : Nat) (f : CoreSt → CoreSt) : (s.onCore n f).emul = s.emul := rfl
@[simp] theorem State.onCore_tbHomes (s : State) (n : Nat) (f : CoreSt → CoreSt) : (s.onCore n f).tbHomes = s.tbHomes := rfl
@[simp] theorem State.onCore_compares (s : State) (n : Nat) (f : CoreSt → CoreSt) : (s.onCore n f).compares = s.compares := rfl
@[simp] theorem State.onCore_history (s : State) (n : Nat) (f : CoreSt → CoreSt) : (s.onCore n f).history = s.history := rfl
@[simp] theorem State.onCore_resols (s : State) (n : Nat) (f : CoreSt → CoreSt) : (s.onCore n f).resols = s.resols := rfl
@[simp] theorem State.onCore_draws (s : State) (n : Nat) (f : CoreSt → CoreSt) : (s.onCore n f).draws = s.draws := rfl
@[simp] theorem State.onCore_rasterNext (s : State) (n : Nat) (f : CoreSt → CoreSt) : (s.onCore n f).rasterNext = s.rasterNext := rfl
@[simp] theorem State.onCore_colls (s : State) (n : Nat) (f : CoreSt → CoreSt) : (s.onCore n f).colls = s.colls := rfl
@[simp] theorem State.onCore_comms (s : State) (n : Nat) (f : CoreSt → CoreSt) : (s.onCore n f).comms = s.comms := rfl
@[simp] theorem State.onCore_peerIn (s : State) (n : Nat) (f : CoreSt → CoreSt) : (s.onCore n f).peerIn = s.peerIn := rfl
@[simp] theorem State.onCore_qpairs (s : State) (n : Nat) (f : CoreSt → CoreSt) : (s.onCore n f).qpairs = s.qpairs := rfl
@[simp] theorem State.onCore_rings (s : State) (n : Nat) (f : CoreSt → CoreSt) : (s.onCore n f).rings = s.rings := rfl
@[simp] theorem State.onCore_conns (s : State) (n : Nat) (f : CoreSt → CoreSt) : (s.onCore n f).conns = s.conns := rfl
@[simp] theorem State.onCore_inbox (s : State) (n : Nat) (f : CoreSt → CoreSt) : (s.onCore n f).inbox = s.inbox := rfl
@[simp] theorem State.onCore_outbox (s : State) (n : Nat) (f : CoreSt → CoreSt) : (s.onCore n f).outbox = s.outbox := rfl
@[simp] theorem State.onCore_regions (s : State) (n : Nat) (f : CoreSt → CoreSt) : (s.onCore n f).regions = s.regions := rfl
@[simp] theorem State.onCore_thermal (s : State) (n : Nat) (f : CoreSt → CoreSt) : (s.onCore n f).thermal = s.thermal := rfl
@[simp] theorem State.onCore_dieTemp (s : State) (n : Nat) (f : CoreSt → CoreSt) : (s.onCore n f).dieTemp = s.dieTemp := rfl
@[simp] theorem State.onCore_inletTemp (s : State) (n : Nat) (f : CoreSt → CoreSt) : (s.onCore n f).inletTemp = s.inletTemp := rfl
@[simp] theorem State.onCore_heatOut (s : State) (n : Nat) (f : CoreSt → CoreSt) : (s.onCore n f).heatOut = s.heatOut := rfl
@[simp] theorem State.onCore_heatSwaps (s : State) (n : Nat) (f : CoreSt → CoreSt) : (s.onCore n f).heatSwaps = s.heatSwaps := rfl
@[simp] theorem State.onCore_boot (s : State) (n : Nat) (f : CoreSt → CoreSt) : (s.onCore n f).boot = s.boot := rfl
@[simp] theorem State.onCore_fwPackets (s : State) (n : Nat) (f : CoreSt → CoreSt) : (s.onCore n f).fwPackets = s.fwPackets := rfl
@[simp] theorem State.onCore_fwHalt (s : State) (n : Nat) (f : CoreSt → CoreSt) : (s.onCore n f).fwHalt = s.fwHalt := rfl
@[simp] theorem State.onCore_nextHandle (s : State) (n : Nat) (f : CoreSt → CoreSt) : (s.onCore n f).nextHandle = s.nextHandle := rfl
@[simp] theorem State.onCore_nextAge (s : State) (n : Nat) (f : CoreSt → CoreSt) : (s.onCore n f).nextAge = s.nextAge := rfl
@[simp] theorem State.onCore_agenda (s : State) (n : Nat) (f : CoreSt → CoreSt) : (s.onCore n f).agenda = s.agenda := rfl
@[simp] theorem State.onCore_focus (s : State) (n : Nat) (f : CoreSt → CoreSt) : (s.onCore n f).focus = s.focus := rfl
@[simp] theorem State.onCore_stalled (s : State) (n : Nat) (f : CoreSt → CoreSt) : (s.onCore n f).stalled = s.stalled := rfl
@[simp] theorem State.onCore_turns (s : State) (n : Nat) (f : CoreSt → CoreSt) : (s.onCore n f).turns = s.turns := rfl
@[simp] theorem State.onCore_fresh (s : State) (n : Nat) (f : CoreSt → CoreSt) : (s.onCore n f).fresh = s.fresh := rfl

/-! `Cohort.mapT` -/

@[simp] theorem Cohort.mapT_key (c : Cohort) (p : Thread → Bool) (f : Thread → Thread) : (c.mapT p f).key = c.key := rfl
@[simp] theorem Cohort.mapT_crew (c : Cohort) (p : Thread → Bool) (f : Thread → Thread) : (c.mapT p f).crew = c.crew := rfl
@[simp] theorem Cohort.mapT_cid (c : Cohort) (p : Thread → Bool) (f : Thread → Thread) : (c.mapT p f).cid = c.cid := rfl
@[simp] theorem Cohort.mapT_role (c : Cohort) (p : Thread → Bool) (f : Thread → Thread) : (c.mapT p f).role = c.role := rfl
@[simp] theorem Cohort.mapT_sub (c : Cohort) (p : Thread → Bool) (f : Thread → Thread) : (c.mapT p f).sub = c.sub := rfl
@[simp] theorem Cohort.mapT_port (c : Cohort) (p : Thread → Bool) (f : Thread → Thread) : (c.mapT p f).port = c.port := rfl
@[simp] theorem Cohort.mapT_place (c : Cohort) (p : Thread → Bool) (f : Thread → Thread) : (c.mapT p f).place = c.place := rfl
@[simp] theorem Cohort.mapT_s (c : Cohort) (p : Thread → Bool) (f : Thread → Thread) : (c.mapT p f).s = c.s := rfl
@[simp] theorem Cohort.mapT_sPoison (c : Cohort) (p : Thread → Bool) (f : Thread → Thread) : (c.mapT p f).sPoison = c.sPoison := rfl
@[simp] theorem Cohort.mapT_flags (c : Cohort) (p : Thread → Bool) (f : Thread → Thread) : (c.mapT p f).flags = c.flags := rfl
@[simp] theorem Cohort.mapT_acc (c : Cohort) (p : Thread → Bool) (f : Thread → Thread) : (c.mapT p f).acc = c.acc := rfl
@[simp] theorem Cohort.mapT_fpst (c : Cohort) (p : Thread → Bool) (f : Thread → Thread) : (c.mapT p f).fpst = c.fpst := rfl
@[simp] theorem Cohort.mapT_mstat (c : Cohort) (p : Thread → Bool) (f : Thread → Thread) : (c.mapT p f).mstat = c.mstat := rfl
@[simp] theorem Cohort.mapT_tmode (c : Cohort) (p : Thread → Bool) (f : Thread → Thread) : (c.mapT p f).tmode = c.tmode := rfl
@[simp] theorem Cohort.mapT_sigs (c : Cohort) (p : Thread → Bool) (f : Thread → Thread) : (c.mapT p f).sigs = c.sigs := rfl
@[simp] theorem Cohort.mapT_clause (c : Cohort) (p : Thread → Bool) (f : Thread → Thread) : (c.mapT p f).clause = c.clause := rfl
@[simp] theorem Cohort.mapT_ops (c : Cohort) (p : Thread → Bool) (f : Thread → Thread) : (c.mapT p f).ops = c.ops := rfl
@[simp] theorem Cohort.mapT_unacked (c : Cohort) (p : Thread → Bool) (f : Thread → Thread) : (c.mapT p f).unacked = c.unacked := rfl
@[simp] theorem Cohort.mapT_outst (c : Cohort) (p : Thread → Bool) (f : Thread → Thread) : (c.mapT p f).outst = c.outst := rfl
@[simp] theorem Cohort.mapT_openBatch (c : Cohort) (p : Thread → Bool) (f : Thread → Thread) : (c.mapT p f).openBatch = c.openBatch := rfl
@[simp] theorem Cohort.mapT_reports (c : Cohort) (p : Thread → Bool) (f : Thread → Thread) : (c.mapT p f).reports = c.reports := rfl
@[simp] theorem Cohort.mapT_xpark (c : Cohort) (p : Thread → Bool) (f : Thread → Thread) : (c.mapT p f).xpark = c.xpark := rfl
@[simp] theorem Cohort.mapT_emul (c : Cohort) (p : Thread → Bool) (f : Thread → Thread) : (c.mapT p f).emul = c.emul := rfl
@[simp] theorem Cohort.mapT_stream (c : Cohort) (p : Thread → Bool) (f : Thread → Thread) : (c.mapT p f).stream = c.stream := rfl
@[simp] theorem Cohort.mapT_run (c : Cohort) (p : Thread → Bool) (f : Thread → Thread) : (c.mapT p f).run = c.run := rfl
@[simp] theorem Cohort.mapT_chain (c : Cohort) (p : Thread → Bool) (f : Thread → Thread) : (c.mapT p f).chain = c.chain := rfl
@[simp] theorem Cohort.mapT_lastRun (c : Cohort) (p : Thread → Bool) (f : Thread → Thread) : (c.mapT p f).lastRun = c.lastRun := rfl
@[simp] theorem Cohort.mapT_regrouped (c : Cohort) (p : Thread → Bool) (f : Thread → Thread) : (c.mapT p f).regrouped = c.regrouped := rfl
@[simp] theorem Cohort.mapT_drainPark (c : Cohort) (p : Thread → Bool) (f : Thread → Thread) : (c.mapT p f).drainPark = c.drainPark := rfl
@[simp] theorem Cohort.mapT_drainFault (c : Cohort) (p : Thread → Bool) (f : Thread → Thread) : (c.mapT p f).drainFault = c.drainFault := rfl
@[simp] theorem Cohort.mapT_haltP (c : Cohort) (p : Thread → Bool) (f : Thread → Thread) : (c.mapT p f).haltP = c.haltP := rfl
@[simp] theorem Cohort.mapT_tlbWait (c : Cohort) (p : Thread → Bool) (f : Thread → Thread) : (c.mapT p f).tlbWait = c.tlbWait := rfl
@[simp] theorem Cohort.mapT_fence (c : Cohort) (p : Thread → Bool) (f : Thread → Thread) : (c.mapT p f).fence = c.fence := rfl
@[simp] theorem Cohort.mapT_sync (c : Cohort) (p : Thread → Bool) (f : Thread → Thread) : (c.mapT p f).sync = c.sync := rfl

/-! `Cohort.passes` -/

@[simp] theorem Cohort.passes_key (c : Cohort) (n : Nat) : (c.passes n).key = c.key := rfl
@[simp] theorem Cohort.passes_crew (c : Cohort) (n : Nat) : (c.passes n).crew = c.crew := rfl
@[simp] theorem Cohort.passes_cid (c : Cohort) (n : Nat) : (c.passes n).cid = c.cid := rfl
@[simp] theorem Cohort.passes_role (c : Cohort) (n : Nat) : (c.passes n).role = c.role := rfl
@[simp] theorem Cohort.passes_sub (c : Cohort) (n : Nat) : (c.passes n).sub = c.sub := rfl
@[simp] theorem Cohort.passes_port (c : Cohort) (n : Nat) : (c.passes n).port = c.port := rfl
@[simp] theorem Cohort.passes_place (c : Cohort) (n : Nat) : (c.passes n).place = c.place := rfl
@[simp] theorem Cohort.passes_s (c : Cohort) (n : Nat) : (c.passes n).s = c.s := rfl
@[simp] theorem Cohort.passes_sPoison (c : Cohort) (n : Nat) : (c.passes n).sPoison = c.sPoison := rfl
@[simp] theorem Cohort.passes_flags (c : Cohort) (n : Nat) : (c.passes n).flags = c.flags := rfl
@[simp] theorem Cohort.passes_acc (c : Cohort) (n : Nat) : (c.passes n).acc = c.acc := rfl
@[simp] theorem Cohort.passes_fpst (c : Cohort) (n : Nat) : (c.passes n).fpst = c.fpst := rfl
@[simp] theorem Cohort.passes_mstat (c : Cohort) (n : Nat) : (c.passes n).mstat = c.mstat := rfl
@[simp] theorem Cohort.passes_tmode (c : Cohort) (n : Nat) : (c.passes n).tmode = c.tmode := rfl
@[simp] theorem Cohort.passes_sigs (c : Cohort) (n : Nat) : (c.passes n).sigs = c.sigs := rfl
@[simp] theorem Cohort.passes_clause (c : Cohort) (n : Nat) : (c.passes n).clause = c.clause := rfl
@[simp] theorem Cohort.passes_ops (c : Cohort) (n : Nat) : (c.passes n).ops = c.ops := rfl
@[simp] theorem Cohort.passes_unacked (c : Cohort) (n : Nat) : (c.passes n).unacked = c.unacked := rfl
@[simp] theorem Cohort.passes_outst (c : Cohort) (n : Nat) : (c.passes n).outst = c.outst := rfl
@[simp] theorem Cohort.passes_openBatch (c : Cohort) (n : Nat) : (c.passes n).openBatch = c.openBatch := rfl
@[simp] theorem Cohort.passes_reports (c : Cohort) (n : Nat) : (c.passes n).reports = c.reports := rfl
@[simp] theorem Cohort.passes_xpark (c : Cohort) (n : Nat) : (c.passes n).xpark = c.xpark := rfl
@[simp] theorem Cohort.passes_emul (c : Cohort) (n : Nat) : (c.passes n).emul = c.emul := rfl
@[simp] theorem Cohort.passes_stream (c : Cohort) (n : Nat) : (c.passes n).stream = c.stream := rfl
@[simp] theorem Cohort.passes_run (c : Cohort) (n : Nat) : (c.passes n).run = c.run := rfl
@[simp] theorem Cohort.passes_chain (c : Cohort) (n : Nat) : (c.passes n).chain = c.chain := rfl
@[simp] theorem Cohort.passes_lastRun (c : Cohort) (n : Nat) : (c.passes n).lastRun = c.lastRun := rfl
@[simp] theorem Cohort.passes_regrouped (c : Cohort) (n : Nat) : (c.passes n).regrouped = c.regrouped := rfl
@[simp] theorem Cohort.passes_drainPark (c : Cohort) (n : Nat) : (c.passes n).drainPark = c.drainPark := rfl
@[simp] theorem Cohort.passes_drainFault (c : Cohort) (n : Nat) : (c.passes n).drainFault = c.drainFault := rfl
@[simp] theorem Cohort.passes_haltP (c : Cohort) (n : Nat) : (c.passes n).haltP = c.haltP := rfl
@[simp] theorem Cohort.passes_tlbWait (c : Cohort) (n : Nat) : (c.passes n).tlbWait = c.tlbWait := rfl
@[simp] theorem Cohort.passes_fence (c : Cohort) (n : Nat) : (c.passes n).fence = c.fence := rfl
@[simp] theorem Cohort.passes_sync (c : Cohort) (n : Nat) : (c.passes n).sync = c.sync := rfl

/-! `Cohort.setS` -/

@[simp] theorem Cohort.setS_key (c : Cohort) (n : Nat) (x : Dword) : (c.setS n x).key = c.key := by
  unfold Cohort.setS; split <;> rfl
@[simp] theorem Cohort.setS_crew (c : Cohort) (n : Nat) (x : Dword) : (c.setS n x).crew = c.crew := by
  unfold Cohort.setS; split <;> rfl
@[simp] theorem Cohort.setS_cid (c : Cohort) (n : Nat) (x : Dword) : (c.setS n x).cid = c.cid := by
  unfold Cohort.setS; split <;> rfl
@[simp] theorem Cohort.setS_role (c : Cohort) (n : Nat) (x : Dword) : (c.setS n x).role = c.role := by
  unfold Cohort.setS; split <;> rfl
@[simp] theorem Cohort.setS_sub (c : Cohort) (n : Nat) (x : Dword) : (c.setS n x).sub = c.sub := by
  unfold Cohort.setS; split <;> rfl
@[simp] theorem Cohort.setS_port (c : Cohort) (n : Nat) (x : Dword) : (c.setS n x).port = c.port := by
  unfold Cohort.setS; split <;> rfl
@[simp] theorem Cohort.setS_place (c : Cohort) (n : Nat) (x : Dword) : (c.setS n x).place = c.place := by
  unfold Cohort.setS; split <;> rfl
@[simp] theorem Cohort.setS_threads (c : Cohort) (n : Nat) (x : Dword) : (c.setS n x).threads = c.threads := by
  unfold Cohort.setS; split <;> rfl
@[simp] theorem Cohort.setS_flags (c : Cohort) (n : Nat) (x : Dword) : (c.setS n x).flags = c.flags := by
  unfold Cohort.setS; split <;> rfl
@[simp] theorem Cohort.setS_acc (c : Cohort) (n : Nat) (x : Dword) : (c.setS n x).acc = c.acc := by
  unfold Cohort.setS; split <;> rfl
@[simp] theorem Cohort.setS_fpst (c : Cohort) (n : Nat) (x : Dword) : (c.setS n x).fpst = c.fpst := by
  unfold Cohort.setS; split <;> rfl
@[simp] theorem Cohort.setS_mstat (c : Cohort) (n : Nat) (x : Dword) : (c.setS n x).mstat = c.mstat := by
  unfold Cohort.setS; split <;> rfl
@[simp] theorem Cohort.setS_tmode (c : Cohort) (n : Nat) (x : Dword) : (c.setS n x).tmode = c.tmode := by
  unfold Cohort.setS; split <;> rfl
@[simp] theorem Cohort.setS_sigs (c : Cohort) (n : Nat) (x : Dword) : (c.setS n x).sigs = c.sigs := by
  unfold Cohort.setS; split <;> rfl
@[simp] theorem Cohort.setS_clause (c : Cohort) (n : Nat) (x : Dword) : (c.setS n x).clause = c.clause := by
  unfold Cohort.setS; split <;> rfl
@[simp] theorem Cohort.setS_ops (c : Cohort) (n : Nat) (x : Dword) : (c.setS n x).ops = c.ops := by
  unfold Cohort.setS; split <;> rfl
@[simp] theorem Cohort.setS_unacked (c : Cohort) (n : Nat) (x : Dword) : (c.setS n x).unacked = c.unacked := by
  unfold Cohort.setS; split <;> rfl
@[simp] theorem Cohort.setS_outst (c : Cohort) (n : Nat) (x : Dword) : (c.setS n x).outst = c.outst := by
  unfold Cohort.setS; split <;> rfl
@[simp] theorem Cohort.setS_openBatch (c : Cohort) (n : Nat) (x : Dword) : (c.setS n x).openBatch = c.openBatch := by
  unfold Cohort.setS; split <;> rfl
@[simp] theorem Cohort.setS_reports (c : Cohort) (n : Nat) (x : Dword) : (c.setS n x).reports = c.reports := by
  unfold Cohort.setS; split <;> rfl
@[simp] theorem Cohort.setS_xpark (c : Cohort) (n : Nat) (x : Dword) : (c.setS n x).xpark = c.xpark := by
  unfold Cohort.setS; split <;> rfl
@[simp] theorem Cohort.setS_emul (c : Cohort) (n : Nat) (x : Dword) : (c.setS n x).emul = c.emul := by
  unfold Cohort.setS; split <;> rfl
@[simp] theorem Cohort.setS_stream (c : Cohort) (n : Nat) (x : Dword) : (c.setS n x).stream = c.stream := by
  unfold Cohort.setS; split <;> rfl
@[simp] theorem Cohort.setS_run (c : Cohort) (n : Nat) (x : Dword) : (c.setS n x).run = c.run := by
  unfold Cohort.setS; split <;> rfl
@[simp] theorem Cohort.setS_chain (c : Cohort) (n : Nat) (x : Dword) : (c.setS n x).chain = c.chain := by
  unfold Cohort.setS; split <;> rfl
@[simp] theorem Cohort.setS_lastRun (c : Cohort) (n : Nat) (x : Dword) : (c.setS n x).lastRun = c.lastRun := by
  unfold Cohort.setS; split <;> rfl
@[simp] theorem Cohort.setS_regrouped (c : Cohort) (n : Nat) (x : Dword) : (c.setS n x).regrouped = c.regrouped := by
  unfold Cohort.setS; split <;> rfl
@[simp] theorem Cohort.setS_drainPark (c : Cohort) (n : Nat) (x : Dword) : (c.setS n x).drainPark = c.drainPark := by
  unfold Cohort.setS; split <;> rfl
@[simp] theorem Cohort.setS_drainFault (c : Cohort) (n : Nat) (x : Dword) : (c.setS n x).drainFault = c.drainFault := by
  unfold Cohort.setS; split <;> rfl
@[simp] theorem Cohort.setS_haltP (c : Cohort) (n : Nat) (x : Dword) : (c.setS n x).haltP = c.haltP := by
  unfold Cohort.setS; split <;> rfl
@[simp] theorem Cohort.setS_tlbWait (c : Cohort) (n : Nat) (x : Dword) : (c.setS n x).tlbWait = c.tlbWait := by
  unfold Cohort.setS; split <;> rfl
@[simp] theorem Cohort.setS_fence (c : Cohort) (n : Nat) (x : Dword) : (c.setS n x).fence = c.fence := by
  unfold Cohort.setS; split <;> rfl
@[simp] theorem Cohort.setS_sync (c : Cohort) (n : Nat) (x : Dword) : (c.setS n x).sync = c.sync := by
  unfold Cohort.setS; split <;> rfl

/-! `Cohort.onOp` -/

@[simp] theorem Cohort.onOp_key (c : Cohort) (id : Nat) (f : Op → Op) : (c.onOp id f).key = c.key := rfl
@[simp] theorem Cohort.onOp_crew (c : Cohort) (id : Nat) (f : Op → Op) : (c.onOp id f).crew = c.crew := rfl
@[simp] theorem Cohort.onOp_cid (c : Cohort) (id : Nat) (f : Op → Op) : (c.onOp id f).cid = c.cid := rfl
@[simp] theorem Cohort.onOp_role (c : Cohort) (id : Nat) (f : Op → Op) : (c.onOp id f).role = c.role := rfl
@[simp] theorem Cohort.onOp_sub (c : Cohort) (id : Nat) (f : Op → Op) : (c.onOp id f).sub = c.sub := rfl
@[simp] theorem Cohort.onOp_port (c : Cohort) (id : Nat) (f : Op → Op) : (c.onOp id f).port = c.port := rfl
@[simp] theorem Cohort.onOp_place (c : Cohort) (id : Nat) (f : Op → Op) : (c.onOp id f).place = c.place := rfl
@[simp] theorem Cohort.onOp_threads (c : Cohort) (id : Nat) (f : Op → Op) : (c.onOp id f).threads = c.threads := rfl
@[simp] theorem Cohort.onOp_s (c : Cohort) (id : Nat) (f : Op → Op) : (c.onOp id f).s = c.s := rfl
@[simp] theorem Cohort.onOp_sPoison (c : Cohort) (id : Nat) (f : Op → Op) : (c.onOp id f).sPoison = c.sPoison := rfl
@[simp] theorem Cohort.onOp_flags (c : Cohort) (id : Nat) (f : Op → Op) : (c.onOp id f).flags = c.flags := rfl
@[simp] theorem Cohort.onOp_acc (c : Cohort) (id : Nat) (f : Op → Op) : (c.onOp id f).acc = c.acc := rfl
@[simp] theorem Cohort.onOp_fpst (c : Cohort) (id : Nat) (f : Op → Op) : (c.onOp id f).fpst = c.fpst := rfl
@[simp] theorem Cohort.onOp_mstat (c : Cohort) (id : Nat) (f : Op → Op) : (c.onOp id f).mstat = c.mstat := rfl
@[simp] theorem Cohort.onOp_tmode (c : Cohort) (id : Nat) (f : Op → Op) : (c.onOp id f).tmode = c.tmode := rfl
@[simp] theorem Cohort.onOp_sigs (c : Cohort) (id : Nat) (f : Op → Op) : (c.onOp id f).sigs = c.sigs := rfl
@[simp] theorem Cohort.onOp_clause (c : Cohort) (id : Nat) (f : Op → Op) : (c.onOp id f).clause = c.clause := rfl
@[simp] theorem Cohort.onOp_unacked (c : Cohort) (id : Nat) (f : Op → Op) : (c.onOp id f).unacked = c.unacked := rfl
@[simp] theorem Cohort.onOp_outst (c : Cohort) (id : Nat) (f : Op → Op) : (c.onOp id f).outst = c.outst := rfl
@[simp] theorem Cohort.onOp_openBatch (c : Cohort) (id : Nat) (f : Op → Op) : (c.onOp id f).openBatch = c.openBatch := rfl
@[simp] theorem Cohort.onOp_reports (c : Cohort) (id : Nat) (f : Op → Op) : (c.onOp id f).reports = c.reports := rfl
@[simp] theorem Cohort.onOp_xpark (c : Cohort) (id : Nat) (f : Op → Op) : (c.onOp id f).xpark = c.xpark := rfl
@[simp] theorem Cohort.onOp_emul (c : Cohort) (id : Nat) (f : Op → Op) : (c.onOp id f).emul = c.emul := rfl
@[simp] theorem Cohort.onOp_stream (c : Cohort) (id : Nat) (f : Op → Op) : (c.onOp id f).stream = c.stream := rfl
@[simp] theorem Cohort.onOp_run (c : Cohort) (id : Nat) (f : Op → Op) : (c.onOp id f).run = c.run := rfl
@[simp] theorem Cohort.onOp_chain (c : Cohort) (id : Nat) (f : Op → Op) : (c.onOp id f).chain = c.chain := rfl
@[simp] theorem Cohort.onOp_lastRun (c : Cohort) (id : Nat) (f : Op → Op) : (c.onOp id f).lastRun = c.lastRun := rfl
@[simp] theorem Cohort.onOp_regrouped (c : Cohort) (id : Nat) (f : Op → Op) : (c.onOp id f).regrouped = c.regrouped := rfl
@[simp] theorem Cohort.onOp_drainPark (c : Cohort) (id : Nat) (f : Op → Op) : (c.onOp id f).drainPark = c.drainPark := rfl
@[simp] theorem Cohort.onOp_drainFault (c : Cohort) (id : Nat) (f : Op → Op) : (c.onOp id f).drainFault = c.drainFault := rfl
@[simp] theorem Cohort.onOp_haltP (c : Cohort) (id : Nat) (f : Op → Op) : (c.onOp id f).haltP = c.haltP := rfl
@[simp] theorem Cohort.onOp_tlbWait (c : Cohort) (id : Nat) (f : Op → Op) : (c.onOp id f).tlbWait = c.tlbWait := rfl
@[simp] theorem Cohort.onOp_fence (c : Cohort) (id : Nat) (f : Op → Op) : (c.onOp id f).fence = c.fence := rfl
@[simp] theorem Cohort.onOp_sync (c : Cohort) (id : Nat) (f : Op → Op) : (c.onOp id f).sync = c.sync := rfl

/-! `Thread.setV` -/

@[simp] theorem Thread.setV_tid (t : Thread) (n : Nat) (x : Word) : (t.setV n x).tid = t.tid := by
  unfold Thread.setV; split <;> rfl
@[simp] theorem Thread.setV_lane (t : Thread) (n : Nat) (x : Word) : (t.setV n x).lane = t.lane := by
  unfold Thread.setV; split <;> rfl
@[simp] theorem Thread.setV_st (t : Thread) (n : Nat) (x : Word) : (t.setV n x).st = t.st := by
  unfold Thread.setV; split <;> rfl
@[simp] theorem Thread.setV_act (t : Thread) (n : Nat) (x : Word) : (t.setV n x).act = t.act := by
  unfold Thread.setV; split <;> rfl
@[simp] theorem Thread.setV_pc (t : Thread) (n : Nat) (x : Word) : (t.setV n x).pc = t.pc := by
  unfold Thread.setV; split <;> rfl
@[simp] theorem Thread.setV_mr (t : Thread) (n : Nat) (x : Word) : (t.setV n x).mr = t.mr := by
  unfold Thread.setV; split <;> rfl
@[simp] theorem Thread.setV_lr (t : Thread) (n : Nat) (x : Word) : (t.setV n x).lr = t.lr := by
  unfold Thread.setV; split <;> rfl
@[simp] theorem Thread.setV_tpc (t : Thread) (n : Nat) (x : Word) : (t.setV n x).tpc = t.tpc := by
  unfold Thread.setV; split <;> rfl
@[simp] theorem Thread.setV_tmr (t : Thread) (n : Nat) (x : Word) : (t.setV n x).tmr = t.tmr := by
  unfold Thread.setV; split <;> rfl
@[simp] theorem Thread.setV_tinfo (t : Thread) (n : Nat) (x : Word) : (t.setV n x).tinfo = t.tinfo := by
  unfold Thread.setV; split <;> rfl
@[simp] theorem Thread.setV_tcause (t : Thread) (n : Nat) (x : Word) : (t.setV n x).tcause = t.tcause := by
  unfold Thread.setV; split <;> rfl
@[simp] theorem Thread.setV_inH (t : Thread) (n : Nat) (x : Word) : (t.setV n x).inH = t.inH := by
  unfold Thread.setV; split <;> rfl
@[simp] theorem Thread.setV_skipW (t : Thread) (n : Nat) (x : Word) : (t.setV n x).skipW = t.skipW := by
  unfold Thread.setV; split <;> rfl
@[simp] theorem Thread.setV_p (t : Thread) (n : Nat) (x : Word) : (t.setV n x).p = t.p := by
  unfold Thread.setV; split <;> rfl
@[simp] theorem Thread.setV_cv (t : Thread) (n : Nat) (x : Word) : (t.setV n x).cv = t.cv := by
  unfold Thread.setV; split <;> rfl
@[simp] theorem Thread.setV_arrived (t : Thread) (n : Nat) (x : Word) : (t.setV n x).arrived = t.arrived := by
  unfold Thread.setV; split <;> rfl
@[simp] theorem Thread.setV_label (t : Thread) (n : Nat) (x : Word) : (t.setV n x).label = t.label := by
  unfold Thread.setV; split <;> rfl
@[simp] theorem Thread.setV_waited (t : Thread) (n : Nat) (x : Word) : (t.setV n x).waited = t.waited := by
  unfold Thread.setV; split <;> rfl
@[simp] theorem Thread.setV_skipLabel (t : Thread) (n : Nat) (x : Word) : (t.setV n x).skipLabel = t.skipLabel := by
  unfold Thread.setV; split <;> rfl

/-! `Thread.setP` -/

@[simp] theorem Thread.setP_tid (t : Thread) (n : Nat) (b : Bool) : (t.setP n b).tid = t.tid := by
  unfold Thread.setP; split <;> rfl
@[simp] theorem Thread.setP_lane (t : Thread) (n : Nat) (b : Bool) : (t.setP n b).lane = t.lane := by
  unfold Thread.setP; split <;> rfl
@[simp] theorem Thread.setP_st (t : Thread) (n : Nat) (b : Bool) : (t.setP n b).st = t.st := by
  unfold Thread.setP; split <;> rfl
@[simp] theorem Thread.setP_act (t : Thread) (n : Nat) (b : Bool) : (t.setP n b).act = t.act := by
  unfold Thread.setP; split <;> rfl
@[simp] theorem Thread.setP_pc (t : Thread) (n : Nat) (b : Bool) : (t.setP n b).pc = t.pc := by
  unfold Thread.setP; split <;> rfl
@[simp] theorem Thread.setP_mr (t : Thread) (n : Nat) (b : Bool) : (t.setP n b).mr = t.mr := by
  unfold Thread.setP; split <;> rfl
@[simp] theorem Thread.setP_lr (t : Thread) (n : Nat) (b : Bool) : (t.setP n b).lr = t.lr := by
  unfold Thread.setP; split <;> rfl
@[simp] theorem Thread.setP_tpc (t : Thread) (n : Nat) (b : Bool) : (t.setP n b).tpc = t.tpc := by
  unfold Thread.setP; split <;> rfl
@[simp] theorem Thread.setP_tmr (t : Thread) (n : Nat) (b : Bool) : (t.setP n b).tmr = t.tmr := by
  unfold Thread.setP; split <;> rfl
@[simp] theorem Thread.setP_tinfo (t : Thread) (n : Nat) (b : Bool) : (t.setP n b).tinfo = t.tinfo := by
  unfold Thread.setP; split <;> rfl
@[simp] theorem Thread.setP_tcause (t : Thread) (n : Nat) (b : Bool) : (t.setP n b).tcause = t.tcause := by
  unfold Thread.setP; split <;> rfl
@[simp] theorem Thread.setP_inH (t : Thread) (n : Nat) (b : Bool) : (t.setP n b).inH = t.inH := by
  unfold Thread.setP; split <;> rfl
@[simp] theorem Thread.setP_skipW (t : Thread) (n : Nat) (b : Bool) : (t.setP n b).skipW = t.skipW := by
  unfold Thread.setP; split <;> rfl
@[simp] theorem Thread.setP_v (t : Thread) (n : Nat) (b : Bool) : (t.setP n b).v = t.v := by
  unfold Thread.setP; split <;> rfl
@[simp] theorem Thread.setP_vPoison (t : Thread) (n : Nat) (b : Bool) : (t.setP n b).vPoison = t.vPoison := by
  unfold Thread.setP; split <;> rfl
@[simp] theorem Thread.setP_cv (t : Thread) (n : Nat) (b : Bool) : (t.setP n b).cv = t.cv := by
  unfold Thread.setP; split <;> rfl
@[simp] theorem Thread.setP_arrived (t : Thread) (n : Nat) (b : Bool) : (t.setP n b).arrived = t.arrived := by
  unfold Thread.setP; split <;> rfl
@[simp] theorem Thread.setP_label (t : Thread) (n : Nat) (b : Bool) : (t.setP n b).label = t.label := by
  unfold Thread.setP; split <;> rfl
@[simp] theorem Thread.setP_waited (t : Thread) (n : Nat) (b : Bool) : (t.setP n b).waited = t.waited := by
  unfold Thread.setP; split <;> rfl
@[simp] theorem Thread.setP_skipLabel (t : Thread) (n : Nat) (b : Bool) : (t.setP n b).skipLabel = t.skipLabel := by
  unfold Thread.setP; split <;> rfl

end Sys2Proof.Machine
end

