-- ==== Sys2Proof/Laws/Answers.lean ====
section
/-!
SUPPORT. Sys2Proof/Laws/Answers.lean: one lemma for each answer of a meaning but completion (Laws/Frame.lean): a wait, a fault, an
interlock, a park by speculation; and what an instruction that starts an operation answers.
-/

namespace Sys2Proof.Machine

/-! ### Interlocks -/

/-- A held word changes nothing but the stall. -/
theorem holds_of {i : Instr} {n : Info} {s : State} {c : Cohort} {body : Cohort → State → Res} (he : exec i s = issue n s body)
    (h : Issues s n c) (hb : body c s.unheld = .hold) : exec i s = .next s.unheld.stall := by
  rw [he, issue_eq h body, hb]; rfl

/-- A held word whose request has left. -/
theorem held_of {i : Instr} {n : Info} {s u : State} {c : Cohort} {body : Cohort → State → Res} (he : exec i s = issue n s body)
    (h : Issues s n c) (hb : body c s.unheld = .held u) : exec i s = .next u.stall := by
  rw [he, issue_eq h body, hb]; rfl

/-! ### Faults -/

theorem leastD_of_all {d b : Nat} {l : List Nat} (h : ∀ x ∈ l, x = b) (hl : l ≠ []) : leastD d l = b := by
  induction l with
  | nil => exact absurd rfl hl
  | cons x l ih =>
    cases l with
    | nil => exact h x (List.mem_cons_self ..)
    | cons y l =>
      have e := ih (fun z hz => h z (List.mem_cons_of_mem _ hz)) (by simp)
      have ex := h x (List.mem_cons_self ..)
      show min x (leastD d (y :: l)) = b
      rw [e, ex]; simp

/-- The winning lanes are their own winners. -/
theorem winners_winners (l : List LCause) : winners (winners l) = winners l := by
  by_cases hn : winners l = []
  · rw [hn]; rfl
  have hr : ∀ c ∈ winners l, causeRank c.code = leastD 12 (l.map fun c => causeRank c.code) := by
    intro c hc
    simp only [winners, List.mem_filter] at hc
    exact eq_of_beq hc.1.2
  have hu : ∀ c ∈ winners l, ∀ d ∈ winners l, d.tid = c.tid → d = c := by
    intro c hc d hd e
    simp only [winners, List.mem_filter] at hc hd
    have h1 := eq_of_beq hc.2
    have h2 := eq_of_beq hd.2
    rw [e] at h2
    exact Option.some.inj (h2.symm.trans h1)
  have hb : leastD 12 ((winners l).map fun c => causeRank c.code) = leastD 12 (l.map fun c => causeRank c.code) := by
    refine leastD_of_all ?_ (by simpa using hn)
    intro x hx
    obtain ⟨c, hc, rfl⟩ := List.mem_map.mp hx
    exact hr c hc
  generalize hw : winners l = w at *
  unfold winners
  rw [hb]
  have h1 : (w.filter fun c => causeRank c.code == leastD 12 (l.map fun c => causeRank c.code)) = w := by
    refine List.filter_eq_self.mpr fun c hc => ?_
    simpa using hr c hc
  simp only [h1]
  refine List.filter_eq_self.mpr fun c hc => ?_
  have : (w.find? fun d => d.tid == c.tid).isSome := List.find?_isSome.mpr ⟨c, hc, by simp⟩
  obtain ⟨d, hd⟩ := Option.isSome_iff_exists.mp this
  have e : d.tid = c.tid := by simpa using List.find?_some hd
  rw [hd, hu c hc d (List.mem_of_find?_eq_some hd) e]; simp

/-- A fault is decided by its winning lanes. -/
theorem State.takeFault_winners (s : State) (k : Nat) (who : Thread → Bool) (w p : Nat) (l : List LCause) :
    s.takeFault k who w p (winners l) = s.takeFault k who w p l := by
  unfold State.takeFault
  rw [winners_winners]

/-- A meaning that answers a fault raises it. -/
theorem raises_of {i : Instr} {n : Info} {s : State} {c : Cohort} {l : List LCause} {body : Cohort → State → Res}
    (he : exec i s = issue n s body) (h : Issues s n c) (hb : body c s.unheld = .fault l) : Raises i s c l := by
  unfold Raises
  rw [he, issue_eq h body, hb]
  simp only [State.finish, List.nil_append]

/-! ### Waits and parks -/

/-- The active threads leave the port for a state, and the clause ends. -/
def Cohort.quits (c : Cohort) (st : TStat) : Cohort :=
  (c.mapT (·.act) fun t => { t with st := st, act := false }).endClause true

theorem Cohort.flow_quits (c : Cohort) (st : TStat) : c.flow (c.quits st) := by
  unfold Cohort.quits
  refine Cohort.flow_trans ?_ (Cohort.flow_endClause _ true)
  exact Cohort.flow_mapT c (·.act) (fun t => { t with st := st, act := false }) fun t _ => ⟨rfl, .inl rfl⟩

theorem Cohort.key_quits (c : Cohort) (st : TStat) : (c.quits st).key = c.key := Cohort.flow_key (c.flow_quits st)

/-- Going on keeps a state that is not eligible, held or yielded. -/
theorem Cohort.quits_st {st : TStat} (c : Cohort) (hr : st ≠ .eligible ∧ st ≠ .held ∧ ∀ w, st ≠ .yielded w) :
    List.Forall₂ (fun x y : Thread => x.act = true → y.st = st ∧ y.act = false) c.threads (c.quits st).threads := by
  obtain ⟨h1, h2, h3⟩ := hr
  simp only [Cohort.quits, Cohort.endClause, Cohort.settle, Cohort.mapT, mapIf, Cohort.release, Cohort.unyield, if_true,
    List.map_map]
  refine List.forall₂_map_right_iff.mpr (List.forall₂_same.mpr fun x _ hx => ?_)
  simp only [Function.comp, hx, if_true]
  have e1 : (decide (st = .eligible ∧ x.pc = x.mr)) = false := by simp [h1]
  simp only [e1, Bool.false_eq_true, if_false]
  have e2 : (decide (st = TStat.held)) = false := by simp [h2]
  simp only [e2, Bool.false_and, Bool.false_eq_true, if_false]
  cases st <;> simp_all

/-- A waiting instruction that is not satisfied waits. -/
theorem waits_of {i : Instr} {n : Info} {s : State} {c : Cohort} {w : Wait} {body : Cohort → State → Res}
    (he : exec i s = issue n s body) (h : Issues s n c) (hb : body c s.unheld = .wait s.unheld w) : Waits i s c w := by
  have hc : s.unheld.cohort c.key = some c := State.cohort_of_issuer h.1
  have hk : ∀ c : Cohort, (c.quits (.waiting w)).key = c.key := fun c => c.key_quits _
  refine ⟨s.unheld.onCohort c.key fun c => c.quits (.waiting w), c.quits (.waiting w), ?_, ?_, ?_, c.flow_quits _,
    c.quits_st ⟨by simp, by simp, by simp⟩⟩
  · rw [he, issue_eq h body, hb]; rfl
  · exact State.onlyCohort_trans (State.onlyCohort_unheld s c.key) (State.onlyCohort_onCohort _ _ _ hk)
  · rw [State.cohort_onCohort _ _ _ _ hk, if_pos rfl, hc]; rfl

/-- A word that may not issue in a speculative crew parks. -/
theorem specParks_of {i : Instr} {n : Info} {s : State} {c : Cohort} {body : Cohort → State → Res}
    (he : exec i s = issue n s body) (h : Issues s n c) (hb : body c s.unheld = .spec) : SpecParks i s c := by
  have hc : s.unheld.cohort c.key = some c := State.cohort_of_issuer h.1
  have hk : ∀ c : Cohort, (c.quits (.parked .spec)).key = c.key := fun c => c.key_quits _
  refine ⟨(s.unheld.onCohort c.key fun c => c.quits (.parked .spec)).countPm (s.focus / 8) (s.focus / 2 % 4) 13 1,
    c.quits (.parked .spec), ?_, ?_, ?_, c.flow_quits _, c.quits_st ⟨by simp, by simp, by simp⟩⟩
  · rw [he, issue_eq h body, hb]; rfl
  · exact State.onlyCohort_trans (State.onlyCohort_unheld s c.key)
      (State.onlyCohort_trans (State.onlyCohort_onCohort _ _ _ hk) (State.onlyCohort_countPm _ _ _ _ _ _ _))
  · rw [State.cohort_countPm, State.cohort_onCohort _ _ _ _ hk, if_pos rfl, hc]; rfl

/-! ### Starting an operation -/

theorem Cohort.raise_frame (c : Cohort) (l : List Nat) : c.raise l = { c with flags := (c.raise l).flags } := by
  induction l generalizing c with
  | nil => rfl
  | cons f l ih => simp only [Cohort.raise]; rw [ih]

/-- The cohort after an operation has started. -/
def Cohort.started (c : Cohort) (op : Op) (id len : Nat) : Cohort :=
  let fl := c.opFlags len
  let c := c.raise fl
  { c with ops := c.ops ++ [{ op with id := id, flags := fl }],
           outst := if op.cls = .none then c.outst else c.outst ++ [{ id := id, cls := op.cls }] }

theorem Cohort.started_frame (c : Cohort) (op : Op) (id len : Nat) : c.started op id len =
    { c with flags := (c.started op id len).flags, ops := c.ops ++ [{ op with id := id, flags := c.opFlags len }],
             outst := (c.started op id len).outst } := by
  unfold Cohort.started
  simp only
  rw [Cohort.raise_frame]

/-- An operation that starts: nothing but its cohort and the fresh keys change, and it is the last of the cohort's list. -/
theorem State.startOp_spec {s : State} {k len : Nat} {c : Cohort} (op : Op) (hc : s.cohort k = some c) :
    (s.startOp k len op).2 = s.fresh ∧
    (s.startOp k len op).1 = { s with cohorts := (s.startOp k len op).1.cohorts, fresh := s.fresh + 1 } ∧
    (∀ j, j ≠ k → (s.startOp k len op).1.cohort j = s.cohort j) ∧
    ∃ d, (s.startOp k len op).1.cohort k = some d ∧
      d = { c with flags := d.flags, ops := c.ops ++ [{ op with id := s.fresh, flags := c.opFlags len, need := s.releaseNeeds k }],
                   outst := d.outst } := by
  have e : (s.startOp k len op).1 =
      ({ s with fresh := s.fresh + 1 } : State).onCohort k fun c => c.started { op with need := s.releaseNeeds k } s.fresh len := rfl
  let op' : Op := { op with need := s.releaseNeeds k }
  have hk : ∀ c : Cohort, (c.started op' s.fresh len).key = c.key := fun c => by rw [c.started_frame]
  have hs : ({ s with fresh := s.fresh + 1 } : State).cohort k = some c := hc
  refine ⟨rfl, rfl, fun j hj => ?_, c.started op' s.fresh len, ?_, c.started_frame op' s.fresh len⟩
  · rw [e, State.cohort_onCohort _ _ _ _ hk, if_neg hj]; rfl
  · rw [e, State.cohort_onCohort _ _ _ _ hk, if_pos rfl, hs]; rfl

/-- Going on leaves an operation the last of the list. -/
theorem Cohort.flow_ops {c d : Cohort} (h : c.flow d) : d.ops = c.ops := by rw [h.1]

/-- An instruction that changes no memory and no cohort before it starts an operation begins, and its operation is the last. -/
theorem begins_of_quickOp {i : Instr} {n : Info} {s u : State} {c : Cohort} {op : Op} {body : Cohort → State → Res}
    (he : exec i s = issue n s body) (hn : n.len = (encode i).length) (h : Issues s n c)
    (hb : body c s.unheld = .done (u.quickOp c.key n.len op)) (hg : u.gmem = s.gmem) (hm : u.cmem = s.cmem)
    (hp : u.smem = s.smem) (hu : u.cohorts = s.cohorts) :
    ∃ t, Begins i s c t ∧ t.newOp c.key fun o =>
      o = { op with id := u.fresh, flags := c.opFlags n.len, need := u.releaseNeeds c.key } := by
  have hc : u.cohort c.key = some c := by
    have := State.cohort_of_issuer h.1
    unfold State.cohort at this ⊢
    rw [hu]; exact this
  obtain ⟨h1, h2, h3, d, h4, h5⟩ := State.startOp_spec (len := n.len) op hc
  obtain ⟨t, g1, ⟨g2, g3, g4⟩, a, b, g5, g6, g7⟩ := issue_done h hb h4
  rw [State.cohort_onCohort _ _ _ _ (fun c => c.key_passes n.len), if_pos rfl] at g5
  have g5' : some (d.passes n.len) = some a := by
    rw [← g5]; exact (congrArg (Option.map fun c : Cohort => c.passes n.len) h4).symm
  cases g5'
  have hops : b.ops = c.ops ++ [{ op with id := u.fresh, flags := c.opFlags n.len, need := u.releaseNeeds c.key }] := by
    rw [Cohort.flow_ops g7]
    show d.ops = _
    rw [h5]
  refine ⟨t, ⟨he.trans g1, ?_, ?_, ?_, ?_, b, g6, ?_⟩, b, _, g6, ?_, rfl⟩
  · rw [g2]; show (State.startOp u c.key n.len op).1.gmem = _; rw [h2]; exact hg
  · rw [g2]; show (State.startOp u c.key n.len op).1.cmem = _; rw [h2]; exact hm
  · rw [g2]; show (State.startOp u c.key n.len op).1.smem = _; rw [h2]; exact hp
  · intro j hj
    rw [g3 j hj, State.cohort_onCohort _ _ _ _ (fun c => c.key_passes n.len), if_neg hj]
    show (State.startOp u c.key n.len op).1.cohort j = _
    rw [h3 j hj]; unfold State.cohort; rw [hu]
  · obtain ⟨e1, e2, e3⟩ := g7
    rw [← hn]
    have e4 : d.threads = c.threads := by rw [h5]
    refine ⟨?_, ?_, ?_, ?_, ?_⟩
    · rw [e1]; show d.s = c.s; rw [h5]
    · rw [e1]; show d.sPoison = c.sPoison; rw [h5]
    · rw [e1]; show d.fpst = c.fpst; rw [h5]
    · rw [e1]; show d.mstat = c.mstat; rw [h5]
    · have e5 : (d.passes n.len).threads = (c.passes n.len).threads := by simp only [Cohort.passes, Cohort.mapT, e4]
      rw [← e5]; exact e3
  · rw [hops]; simp

end Sys2Proof.Machine
end

