-- ==== Sys2Proof/Laws/Memory.lean ====
section
/-!
SUPPORT. Sys2Proof/Laws/Memory.lean: the operations on the state's memories keep their canonical form, write what they are given, and
leave every other byte alone.
-/

namespace Sys2Proof.Machine

/-- Machines with the same memories have them in canonical form together. -/
theorem State.MemWf.of_eq {s t : State} (h : s.MemWf) (hg : t.gmem = s.gmem) (hc : t.cmem = s.cmem) (hs : t.smem = s.smem) :
    t.MemWf := ⟨hg ▸ h.1, hc ▸ h.2.1, hs ▸ h.2.2⟩

/-- Two machines hold the same bytes. -/
def State.sameMem (s t : State) : Prop := t.gmem = s.gmem ∧ t.cmem = s.cmem ∧ t.smem = s.smem

theorem State.sameMem_refl (s : State) : s.sameMem s := ⟨rfl, rfl, rfl⟩

theorem State.sameMem_trans {s t u : State} (a : s.sameMem t) (b : t.sameMem u) : s.sameMem u :=
  ⟨b.1.trans a.1, b.2.1.trans a.2.1, b.2.2.trans a.2.2⟩

theorem State.sameMem_mark (s : State) (k : Site) : s.sameMem (s.mark k) := by
  cases k <;> exact ⟨rfl, rfl, rfl⟩

theorem State.sameMem_countEcc (s : State) (k : Site) : s.sameMem (s.countEcc k) := by
  cases k <;> simp only [State.countEcc] <;> (try split) <;> exact ⟨rfl, rfl, rfl⟩

/-- Meeting errors changes no byte. -/
theorem State.sameMem_meet (s : State) (ks : List Site) : s.sameMem (s.meet ks) := by
  unfold State.meet
  generalize s.latent.filter (fun e => ks.contains e.1) = l
  induction l generalizing s with
  | nil => exact s.sameMem_refl
  | cons e l ih =>
    refine State.sameMem_trans ?_ (ih _)
    unfold State.meetOne
    let s' : State := { s with latent := s.latent.filter fun x => decide (x ≠ e) }
    change s.sameMem (if _ then s'.mark e.1 else s'.countEcc e.1)
    split
    · exact s'.sameMem_mark e.1
    · exact s'.sameMem_countEcc e.1

/-- Meeting errors changes marks, errors and counts alone. -/
theorem State.meet_eq (s : State) (ks : List Site) : ∃ la gp cp sp sl ti co cr cs ec, s.meet ks =
    { s with latent := la, gPoison := gp, cPoison := cp, sPoison := sp, slots := sl, tiles := ti, cohorts := co, crews := cr,
             cores := cs, slEcc := ec } := by
  unfold State.meet
  generalize s.latent.filter (fun e => ks.contains e.1) = l
  induction l generalizing s with
  | nil => exact ⟨_, _, _, _, _, _, _, _, _, _, rfl⟩
  | cons e l ih =>
    have one : ∃ la gp cp sp sl ti co cr cs ec, s.meetOne e =
        { s with latent := la, gPoison := gp, cPoison := cp, sPoison := sp, slots := sl, tiles := ti, cohorts := co, crews := cr,
                 cores := cs, slEcc := ec } := by
      unfold State.meetOne
      split
      · cases e with
        | mk k b => cases k <;> exact ⟨_, _, _, _, _, _, _, _, _, _, rfl⟩
      · cases e with
        | mk k b =>
          cases k <;> simp only [State.countEcc] <;> (try split) <;> exact ⟨_, _, _, _, _, _, _, _, _, _, rfl⟩
    obtain ⟨_, _, _, _, _, _, _, _, _, _, h1⟩ := one
    obtain ⟨_, _, _, _, _, _, _, _, _, _, h2⟩ := ih (s.meetOne e)
    rw [List.foldl_cons, h2, h1]
    exact ⟨_, _, _, _, _, _, _, _, _, _, rfl⟩

/-- Meeting errors keeps the canonical forms. -/
theorem State.MemWf.meet {s : State} (h : s.MemWf) (ks : List Site) : (s.meet ks).MemWf :=
  h.of_eq (s.sameMem_meet ks).1 (s.sameMem_meet ks).2.1 (s.sameMem_meet ks).2.2

theorem State.MemWf.setSpad {s : State} (h : s.MemWf) (key : Nat) (bs : List Byte) : (s.setSpad key bs).MemWf :=
  ⟨h.1, h.2.1, Memory.wf_setBytes _ _ h.2.2⟩

/-- A write keeps the canonical forms. -/
theorem State.MemWf.writeBytes {s : State} (h : s.MemWf) (sp : Space) (bs : List (Nat × Byte)) : (s.writeBytes sp bs).MemWf := by
  obtain ⟨h1, h2, h3⟩ := h
  cases sp <;> simp only [State.writeBytes]
  · obtain ⟨e1, e2, e3⟩ := s.sameMem_meet ((bs.map (·.1)).map fun a => .burst (a / 32))
    exact ⟨Tab.wf_putAll _ (e1 ▸ h1), e2 ▸ h2, e3 ▸ h3⟩
  · exact ⟨h1, Tab.wf_putAll _ h2, h3⟩
  · exact ⟨h1, h2, Tab.wf_putAll _ h3⟩
  · exact ⟨h1, h2, Tab.wf_putAll _ h3⟩
  · exact ⟨h1, h2, h3⟩

theorem State.MemWf.writeNat {s : State} (h : s.MemWf) (sp : Space) (a n x : Nat) : (s.writeNat sp a n x).MemWf :=
  h.writeBytes sp _

theorem State.MemWf.meetCrew {s : State} (h : s.MemWf) (cr : Crew) (off n : Nat) : (s.meetCrew cr off n).MemWf := by
  unfold State.meetCrew
  split
  · exact h
  · exact h.meet _

theorem State.MemWf.crewSet {s : State} (h : s.MemWf) (cr : Crew) (off n x : Nat) : (s.crewSet cr off n x).MemWf :=
  (h.meetCrew cr off n).setSpad _ _

theorem State.MemWf.crewPut {s : State} (h : s.MemWf) (cr : Crew) (off : Nat) (bs : List Byte) : (s.crewPut cr off bs).MemWf :=
  h.setSpad _ _

theorem State.MemWf.copySpad {s : State} (h : s.MemWf) (lo dst n : Nat) : (s.copySpad lo dst n).MemWf := by
  have m := h.meet ((s.latent.map (·.1)).filter (spadSite lo n))
  exact ⟨m.1, m.2.1, Tab.wf_putAll _ (Tab.wf_only _ m.2.2)⟩

theorem State.MemWf.carveSet {s : State} (h : s.MemWf) (w : Nat) : (s.carveSet w).MemWf := by
  exact ⟨h.1, Memory.wf_only (fun a => !(decide (min s.carve w * 2 ^ 24 ≤ a ∧ a < max s.carve w * 2 ^ 24))) h.2.1, h.2.2⟩

/-- A fold of steps that keep the canonical forms keeps them. -/
theorem State.MemWf.foldl {β : Type} {f : State → β → State} (hf : ∀ s b, State.MemWf s → State.MemWf (f s b)) {s : State}
    (h : s.MemWf) (l : List β) : (l.foldl f s).MemWf := by
  induction l generalizing s with
  | nil => exact h
  | cons b l ih => exact ih (hf s b h)

theorem State.MemWf.initSpad {s : State} (h : s.MemWf) (cr : Crew) : (s.initSpad cr).MemWf := by
  unfold State.initSpad
  simp only
  have h0 : ∀ t : State, t.MemWf →
      (if cr.hasBars then (upto 16).foldl (fun s n => s.crewSet cr (cr.hdr.boff + 8 * n) 8 (cr.hdr.bcnt.getD n 0)) t else t).MemWf := by
    intro t ht
    split
    · exact ht.foldl (fun s n hs => hs.crewSet cr _ _ _) _
    · exact ht
  have h1 : ∀ (s : State) (q : Nat), s.MemWf → State.MemWf (if bit cr.hdr.qmask q then
      let d := cr.hdr.qtab.getD q ⟨0, 0, 0⟩
      s.crewSet cr d.off 16 (cr.hdr.h + cr.hdr.queueBytes q + d.depth * 2 ^ 32 + d.elem * 2 ^ 48 + 0xFFFFFFFF * 2 ^ 96)
    else s) := by
    intro s q hs
    split
    · exact hs.crewSet cr _ _ _
    · exact hs
  refine h0 _ (State.MemWf.foldl h1 ?_ _)
  exact ⟨h.1, h.2.1, Memory.wf_only (fun a => !(decide (s.spadBase cr.core + cr.sbase ≤ a ∧
    a < s.spadBase cr.core + cr.sbase + cr.ssize))) h.2.2⟩

/-- Consecutive bytes of global memory after a write of a number: that number; every byte outside is as before. -/
theorem State.writeNat_glob {s : State} (h : s.MemWf) (a n x : Nat) :
    (s.writeNat .glob a n x).gmem.nat a n = x % 256 ^ n ∧
    ∀ b, b < a ∨ a + n ≤ b → (s.writeNat .glob a n x).gmem.byte b = s.gmem.byte b := by
  have e : (s.writeNat .glob a n x).gmem = s.gmem.setNat a n x := by
    show Tab.putAll 0 (s.meet _).gmem _ = _
    rw [(s.sameMem_meet _).1]
    exact Tab.putAll_consec s.gmem atAddr (fun _ => rfl) (fun _ _ _ => rfl) a (leBytes n x)
  refine ⟨by rw [e]; exact Memory.nat_setNat _ _ _ h.1, fun b hb => ?_⟩
  have mem : ∀ (l : List Byte) (a : Nat), ∀ p ∈ atAddr a l, a ≤ p.1 ∧ p.1 < a + l.length := by
    intro l
    induction l with
    | nil => intro a p hp; cases hp
    | cons y l ih =>
      intro a p hp
      simp only [atAddr, List.mem_cons] at hp
      rcases hp with hp | hp
      · subst hp; simp
      · have := ih (a + 1) p hp; simp only [List.length_cons]; omega
  have e0 : (s.writeNat .glob a n x).gmem = Tab.putAll 0 s.gmem (atAddr a (leBytes n x)) := by
    show Tab.putAll 0 (s.meet _).gmem _ = _
    rw [(s.sameMem_meet _).1]
  rw [e0]
  refine Tab.read_putAll_ne _ _ fun p hp => ?_
  have := mem _ _ p hp
  rw [leBytes_length] at this
  omega

/-! ### Reads through updates of other records -/

@[simp] theorem State.MemWf.onCohort (s : State) (k : Nat) (f : Cohort → Cohort) : (s.onCohort k f).MemWf ↔ s.MemWf := Iff.rfl
@[simp] theorem State.MemWf.onCrew (s : State) (k : Nat) (f : Crew → Crew) : (s.onCrew k f).MemWf ↔ s.MemWf := Iff.rfl
@[simp] theorem State.MemWf.onCore (s : State) (k : Nat) (f : CoreSt → CoreSt) : (s.onCore k f).MemWf ↔ s.MemWf := Iff.rfl
@[simp] theorem State.MemWf.onLaunch (s : State) (k : Nat) (f : Launch → Launch) : (s.onLaunch k f).MemWf ↔ s.MemWf := Iff.rfl
@[simp] theorem State.MemWf.unheld (s : State) : s.unheld.MemWf ↔ s.MemWf := Iff.rfl

end Sys2Proof.Machine
end

