-- ==== Sys2Proof/Laws/Operands.lean ====
section
/-!
SUPPORT. Sys2Proof/Laws/Operands.lean: one lemma for each shared frame of Operands.lean: what an instruction that acts once per
cohort, or in every acting lane, completes with.
-/

namespace Sys2Proof.Machine

/-- Only the effect on the cohort itself matters. -/
theorem completes_congr {i : Instr} {s : State} {c : Cohort} {f f' : Cohort → Cohort} (h : f c = f' c)
    (hc : Completes i s c f) : Completes i s c f' := by
  obtain ⟨t, d, h1, h2, h3, h4⟩ := hc
  exact ⟨t, d, h1, h2, h3, h ▸ h4⟩

theorem Cohort.key_setS (c : Cohort) (n : Nat) (x : Dword) : (c.setS n x).key = c.key := by
  unfold Cohort.setS; split <;> rfl

/-- An instruction that acts once per cohort. -/
theorem perCohort_completes {i : Instr} {n : Info} {s : State} {c : Cohort} {f : Cohort → Cohort}
    (he : exec i s = perCohort n s f) (hn : n.len = (encode i).length) (hf : ∀ c, (f c).key = c.key) (h : Issues s n c) :
    Completes i s c fun c => if c.guard n.g then f c else c := by
  by_cases hg : c.guard n.g = true
  · refine completes_congr (f := f) (by simp [hg]) (completes_of he hn hf h ?_)
    simp [hg]
  · refine completes_congr (f := id) (by simp [hg]) (completes_id he hn h ?_)
    simp [hg]

/-- A scalar result. -/
theorem scalarOp_completes {i : Instr} {n : Info} {d : Nat} {s : State} {c : Cohort} {f : Cohort → Dword}
    (he : exec i s = scalarOp n d s f) (hn : n.len = (encode i).length) (h : Issues s n c) :
    Completes i s c fun c => if c.guard n.g then c.setS d (f c) else c :=
  perCohort_completes he hn (fun c => c.key_setS d (f c)) h

/-- An instruction that acts in every acting lane. -/
theorem perLane_completes {i : Instr} {n : Info} {s : State} {c : Cohort} {f : Cohort → Thread → Thread}
    (he : exec i s = perLane n s f) (hn : n.len = (encode i).length) (h : Issues s n c) :
    Completes i s c fun c => c.mapT (·.acts n.g) (f c) :=
  completes_of he hn (fun _ => rfl) h rfl

/-- A cohort that issues has an active thread, so guard field 7 is true. -/
theorem Issues.guard7 {s : State} {i : Info} {c : Cohort} (h : Issues s i c) : c.guard 7 = true := by
  have h := h.1
  unfold State.issuer at h
  split at h
  · split at h
    · rename_i c' hc hh
      cases h
      simp only [Bool.and_eq_true, Bool.not_eq_true', List.isEmpty_eq_false_iff] at hh
      unfold Cohort.guard
      cases ha : c.actives with
      | nil => exact absurd ha hh.2
      | cons t l => simp [Thread.pr]
    · cases h
  · cases h

/-- Under guard field 7 every active thread acts. -/
theorem acts7 : (fun t : Thread => t.acts 7) = (·.act) := by funext t; simp [Thread.acts, Thread.pr]

/-- A scalar result of a form without a guard field. -/
theorem scalarOp_always {i : Instr} {n : Info} {d : Nat} {s : State} {c : Cohort} {f : Cohort → Dword}
    (he : exec i s = scalarOp n d s f) (hn : n.len = (encode i).length) (hg : n.g = 7) (h : Issues s n c) :
    Completes i s c fun c => c.setS d (f c) :=
  completes_congr (by simp only [hg, Issues.guard7 h, if_true]) (scalarOp_completes he hn h)

/-- A per-lane effect of a form without a guard field. -/
theorem perLane_always {i : Instr} {n : Info} {s : State} {c : Cohort} {f : Cohort → Thread → Thread}
    (he : exec i s = perLane n s f) (hn : n.len = (encode i).length) (hg : n.g = 7) (h : Issues s n c) :
    Completes i s c fun c => c.mapT (·.act) (f c) :=
  completes_congr (by simp only [hg, acts7]) (perLane_completes he hn h)

/-! ### The order of two's complement and of unsigned numbers, as the model and as a statement say it -/

theorem sle_toInt {w : Nat} (x y : BitVec w) : x.sle y = decide (x.toInt ≤ y.toInt) := by simp [BitVec.sle]
theorem slt_toInt {w : Nat} (x y : BitVec w) : x.slt y = decide (x.toInt < y.toInt) := by simp [BitVec.slt]
theorem ule_toNat {w : Nat} (x y : BitVec w) : x.ule y = decide (x.toNat ≤ y.toNat) := by simp [BitVec.ule]
theorem ult_toNat {w : Nat} (x y : BitVec w) : x.ult y = decide (x.toNat < y.toNat) := by simp [BitVec.ult]

end Sys2Proof.Machine
end

