-- ==== Sys2Proof/Laws/PerInstr.lean ====
section
/-!
SUPPORT. Sys2Proof/Laws/PerInstr.lean: for every constructor of Instr, the number of words of its encoding (02 R45, R46).
-/

namespace Sys2Proof.Laws.WordCount

/-- An encoding has at most three words: a word and up to two literal words, an offset word or an extension word; an event has none
(02 R45, R46). -/
def Statement (i : Instr) : Prop := (encode i).length ≤ 3

theorem sLits_length (a : SSrc) : a.lits.length ≤ 1 := by cases a <;> simp [SSrc.lits]
theorem vLits_length (a : VSrc) : a.lits.length ≤ 1 := by cases a <;> simp [VSrc.lits]

theorem cons_sLits (w : Word) (a : SSrc) : (w :: a.lits).length ≤ 3 := by have := sLits_length a; simp; omega
theorem cons_vLits (w : Word) (a : VSrc) : (w :: a.lits).length ≤ 3 := by have := vLits_length a; simp; omega
theorem cons_twoLits (w : Word) (a b : SSrc) : (w :: (a.lits ++ b.lits)).length ≤ 3 := by
  have := sLits_length a; have := sLits_length b; simp; omega
theorem cons_off (w : Word) (o : Option (BitVec 32)) : (w :: o.toList).length ≤ 3 := by cases o <;> simp

theorem sadd (d : Nat) (a b : SSrc) (g : Nat) : Statement (.sadd d a b g) :=
  cons_twoLits _ a b
theorem ssub (d : Nat) (a b : SSrc) (g : Nat) : Statement (.ssub d a b g) :=
  cons_twoLits _ a b
theorem smul (d : Nat) (a b : SSrc) (g : Nat) : Statement (.smul d a b g) :=
  cons_twoLits _ a b
theorem smulh (d : Nat) (a b : SSrc) (g : Nat) : Statement (.smulh d a b g) :=
  cons_twoLits _ a b
theorem smulhn (d : Nat) (a b : SSrc) (g : Nat) : Statement (.smulhn d a b g) :=
  cons_twoLits _ a b
theorem sand (d : Nat) (a b : SSrc) (g : Nat) : Statement (.sand d a b g) :=
  cons_twoLits _ a b
theorem sor (d : Nat) (a b : SSrc) (g : Nat) : Statement (.sor d a b g) :=
  cons_twoLits _ a b
theorem sxor (d : Nat) (a b : SSrc) (g : Nat) : Statement (.sxor d a b g) :=
  cons_twoLits _ a b
theorem sshl (d : Nat) (a b : SSrc) (g : Nat) : Statement (.sshl d a b g) :=
  cons_twoLits _ a b
theorem sshr (d : Nat) (a b : SSrc) (g : Nat) : Statement (.sshr d a b g) :=
  cons_twoLits _ a b
theorem ssra (d : Nat) (a b : SSrc) (g : Nat) : Statement (.ssra d a b g) :=
  cons_twoLits _ a b
theorem smin (d : Nat) (a b : SSrc) (g : Nat) : Statement (.smin d a b g) :=
  cons_twoLits _ a b
theorem smax (d : Nat) (a b : SSrc) (g : Nat) : Statement (.smax d a b g) :=
  cons_twoLits _ a b
theorem sminn (d : Nat) (a b : SSrc) (g : Nat) : Statement (.sminn d a b g) :=
  cons_twoLits _ a b
theorem smaxn (d : Nat) (a b : SSrc) (g : Nat) : Statement (.smaxn d a b g) :=
  cons_twoLits _ a b
theorem smov (d : Nat) (b : SSrc) (g : Nat) : Statement (.smov d b g) :=
  cons_sLits _ b
theorem saddi (d a : Nat) (imm : BitVec 12) : Statement (.saddi d a imm) :=
  Nat.le_of_ble_eq_true rfl
theorem sandi (d a : Nat) (imm : BitVec 12) : Statement (.sandi d a imm) :=
  Nat.le_of_ble_eq_true rfl
theorem sori (d a : Nat) (imm : BitVec 12) : Statement (.sori d a imm) :=
  Nat.le_of_ble_eq_true rfl
theorem sxori (d a : Nat) (imm : BitVec 12) : Statement (.sxori d a imm) :=
  Nat.le_of_ble_eq_true rfl
theorem sshli (d a c : Nat) : Statement (.sshli d a c) :=
  Nat.le_of_ble_eq_true rfl
theorem sshri (d a c : Nat) : Statement (.sshri d a c) :=
  Nat.le_of_ble_eq_true rfl
theorem ssrai (d a c : Nat) : Statement (.ssrai d a c) :=
  Nat.le_of_ble_eq_true rfl
theorem slui (d : Nat) (imm : BitVec 12) : Statement (.slui d imm) :=
  Nat.le_of_ble_eq_true rfl
theorem scmpEq (d : Nat) (a b : SSrc) (g : Nat) : Statement (.scmpEq d a b g) :=
  cons_twoLits _ a b
theorem scmpNe (d : Nat) (a b : SSrc) (g : Nat) : Statement (.scmpNe d a b g) :=
  cons_twoLits _ a b
theorem scmpLt (d : Nat) (a b : SSrc) (g : Nat) : Statement (.scmpLt d a b g) :=
  cons_twoLits _ a b
theorem scmpLe (d : Nat) (a b : SSrc) (g : Nat) : Statement (.scmpLe d a b g) :=
  cons_twoLits _ a b
theorem scmpGt (d : Nat) (a b : SSrc) (g : Nat) : Statement (.scmpGt d a b g) :=
  cons_twoLits _ a b
theorem scmpGe (d : Nat) (a b : SSrc) (g : Nat) : Statement (.scmpGe d a b g) :=
  cons_twoLits _ a b
theorem scmpLtn (d : Nat) (a b : SSrc) (g : Nat) : Statement (.scmpLtn d a b g) :=
  cons_twoLits _ a b
theorem scmpLen (d : Nat) (a b : SSrc) (g : Nat) : Statement (.scmpLen d a b g) :=
  cons_twoLits _ a b
theorem scmpGtn (d : Nat) (a b : SSrc) (g : Nat) : Statement (.scmpGtn d a b g) :=
  cons_twoLits _ a b
theorem scmpGen (d : Nat) (a b : SSrc) (g : Nat) : Statement (.scmpGen d a b g) :=
  cons_twoLits _ a b
theorem vadd (d a : Nat) (b : VSrc) (g : Nat) : Statement (.vadd d a b g) :=
  cons_vLits _ b
theorem vsub (d a : Nat) (b : VSrc) (g : Nat) : Statement (.vsub d a b g) :=
  cons_vLits _ b
theorem vmul (d a : Nat) (b : VSrc) (g : Nat) : Statement (.vmul d a b g) :=
  cons_vLits _ b
theorem vmulh (d a : Nat) (b : VSrc) (g : Nat) : Statement (.vmulh d a b g) :=
  cons_vLits _ b
theorem vmulhn (d a : Nat) (b : VSrc) (g : Nat) : Statement (.vmulhn d a b g) :=
  cons_vLits _ b
theorem vand (d a : Nat) (b : VSrc) (g : Nat) : Statement (.vand d a b g) :=
  cons_vLits _ b
theorem vor (d a : Nat) (b : VSrc) (g : Nat) : Statement (.vor d a b g) :=
  cons_vLits _ b
theorem vxor (d a : Nat) (b : VSrc) (g : Nat) : Statement (.vxor d a b g) :=
  cons_vLits _ b
theorem vshl (d a : Nat) (b : VSrc) (g : Nat) : Statement (.vshl d a b g) :=
  cons_vLits _ b
theorem vshr (d a : Nat) (b : VSrc) (g : Nat) : Statement (.vshr d a b g) :=
  cons_vLits _ b
theorem vsra (d a : Nat) (b : VSrc) (g : Nat) : Statement (.vsra d a b g) :=
  cons_vLits _ b
theorem vmin (d a : Nat) (b : VSrc) (g : Nat) : Statement (.vmin d a b g) :=
  cons_vLits _ b
theorem vmax (d a : Nat) (b : VSrc) (g : Nat) : Statement (.vmax d a b g) :=
  cons_vLits _ b
theorem vminn (d a : Nat) (b : VSrc) (g : Nat) : Statement (.vminn d a b g) :=
  cons_vLits _ b
theorem vmaxn (d a : Nat) (b : VSrc) (g : Nat) : Statement (.vmaxn d a b g) :=
  cons_vLits _ b
theorem vmov (d : Nat) (b : VSrc) (g : Nat) : Statement (.vmov d b g) :=
  cons_vLits _ b
theorem vabs (d a g : Nat) : Statement (.vabs d a g) :=
  Nat.le_of_ble_eq_true rfl
theorem vneg (d a g : Nat) : Statement (.vneg d a g) :=
  Nat.le_of_ble_eq_true rfl
theorem vclz (d a g : Nat) : Statement (.vclz d a g) :=
  Nat.le_of_ble_eq_true rfl
theorem vpopc (d a g : Nat) : Statement (.vpopc d a g) :=
  Nat.le_of_ble_eq_true rfl
theorem vbrev (d a g : Nat) : Statement (.vbrev d a g) :=
  Nat.le_of_ble_eq_true rfl
theorem vaddsat (d a : Nat) (b : VSrc) (g : Nat) : Statement (.vaddsat d a b g) :=
  cons_vLits _ b
theorem vsubsat (d a : Nat) (b : VSrc) (g : Nat) : Statement (.vsubsat d a b g) :=
  cons_vLits _ b
theorem vmad (d a : Nat) (b : VSrc) (g : Nat) : Statement (.vmad d a b g) :=
  cons_vLits _ b
theorem vsel (d a : Nat) (b : VSrc) (g : Nat) : Statement (.vsel d a b g) :=
  cons_vLits _ b
theorem vsext8 (d a g : Nat) : Statement (.vsext8 d a g) :=
  Nat.le_of_ble_eq_true rfl
theorem vsext16 (d a g : Nat) : Statement (.vsext16 d a g) :=
  Nat.le_of_ble_eq_true rfl
theorem vzext8 (d a g : Nat) : Statement (.vzext8 d a g) :=
  Nat.le_of_ble_eq_true rfl
theorem vzext16 (d a g : Nat) : Statement (.vzext16 d a g) :=
  Nat.le_of_ble_eq_true rfl
theorem vbfe (d a : Nat) (b : VSrc) (g : Nat) : Statement (.vbfe d a b g) :=
  cons_vLits _ b
theorem vbfi (d a : Nat) (b : VSrc) (g : Nat) : Statement (.vbfi d a b g) :=
  cons_vLits _ b
theorem vdp4 (d a : Nat) (b : VSrc) (g : Nat) : Statement (.vdp4 d a b g) :=
  cons_vLits _ b
theorem vaddi (d a : Nat) (imm : BitVec 12) : Statement (.vaddi d a imm) :=
  Nat.le_of_ble_eq_true rfl
theorem vandi (d a : Nat) (imm : BitVec 12) : Statement (.vandi d a imm) :=
  Nat.le_of_ble_eq_true rfl
theorem vori (d a : Nat) (imm : BitVec 12) : Statement (.vori d a imm) :=
  Nat.le_of_ble_eq_true rfl
theorem vxori (d a : Nat) (imm : BitVec 12) : Statement (.vxori d a imm) :=
  Nat.le_of_ble_eq_true rfl
theorem vshli (d a c : Nat) : Statement (.vshli d a c) :=
  Nat.le_of_ble_eq_true rfl
theorem vshri (d a c : Nat) : Statement (.vshri d a c) :=
  Nat.le_of_ble_eq_true rfl
theorem vsrai (d a c : Nat) : Statement (.vsrai d a c) :=
  Nat.le_of_ble_eq_true rfl
theorem vmovi (d : Nat) (imm : BitVec 12) : Statement (.vmovi d imm) :=
  Nat.le_of_ble_eq_true rfl
theorem vcmpEq (d a : Nat) (b : VSrc) (g : Nat) : Statement (.vcmpEq d a b g) :=
  cons_vLits _ b
theorem vcmpNe (d a : Nat) (b : VSrc) (g : Nat) : Statement (.vcmpNe d a b g) :=
  cons_vLits _ b
theorem vcmpLt (d a : Nat) (b : VSrc) (g : Nat) : Statement (.vcmpLt d a b g) :=
  cons_vLits _ b
theorem vcmpLe (d a : Nat) (b : VSrc) (g : Nat) : Statement (.vcmpLe d a b g) :=
  cons_vLits _ b
theorem vcmpGt (d a : Nat) (b : VSrc) (g : Nat) : Statement (.vcmpGt d a b g) :=
  cons_vLits _ b
theorem vcmpGe (d a : Nat) (b : VSrc) (g : Nat) : Statement (.vcmpGe d a b g) :=
  cons_vLits _ b
theorem vcmpLtn (d a : Nat) (b : VSrc) (g : Nat) : Statement (.vcmpLtn d a b g) :=
  cons_vLits _ b
theorem vcmpLen (d a : Nat) (b : VSrc) (g : Nat) : Statement (.vcmpLen d a b g) :=
  cons_vLits _ b
theorem vcmpGtn (d a : Nat) (b : VSrc) (g : Nat) : Statement (.vcmpGtn d a b g) :=
  cons_vLits _ b
theorem vcmpGen (d a : Nat) (b : VSrc) (g : Nat) : Statement (.vcmpGen d a b g) :=
  cons_vLits _ b
theorem pand (d a b g : Nat) : Statement (.pand d a b g) :=
  Nat.le_of_ble_eq_true rfl
theorem por (d a b g : Nat) : Statement (.por d a b g) :=
  Nat.le_of_ble_eq_true rfl
theorem pxor (d a b g : Nat) : Statement (.pxor d a b g) :=
  Nat.le_of_ble_eq_true rfl
theorem pandn (d a b g : Nat) : Statement (.pandn d a b g) :=
  Nat.le_of_ble_eq_true rfl
theorem pnot (d a g : Nat) : Statement (.pnot d a g) :=
  Nat.le_of_ble_eq_true rfl
theorem pmov (d a g : Nat) : Statement (.pmov d a g) :=
  Nat.le_of_ble_eq_true rfl
theorem br (g : Nat) (n : Bool) (off : BitVec 22) : Statement (.br g n off) :=
  Nat.le_of_ble_eq_true rfl
theorem call (g : Nat) (n : Bool) (off : BitVec 22) : Statement (.call g n off) :=
  Nat.le_of_ble_eq_true rfl
theorem meet (g : Nat) (n : Bool) (off : BitVec 22) : Statement (.meet g n off) :=
  Nat.le_of_ble_eq_true rfl
theorem ret (g : Nat) : Statement (.ret g) :=
  Nat.le_of_ble_eq_true rfl
theorem exit (g : Nat) : Statement (.exit g) :=
  Nat.le_of_ble_eq_true rfl
theorem yield (g : Nat) : Statement (.yield g) :=
  Nat.le_of_ble_eq_true rfl
theorem brx (a g : Nat) : Statement (.brx a g) :=
  Nat.le_of_ble_eq_true rfl
theorem callx (a g : Nat) : Statement (.callx a g) :=
  Nat.le_of_ble_eq_true rfl
theorem mrget (d g : Nat) : Statement (.mrget d g) :=
  Nat.le_of_ble_eq_true rfl
theorem mrset (a g : Nat) : Statement (.mrset a g) :=
  Nat.le_of_ble_eq_true rfl
theorem nop : Statement (.nop) :=
  Nat.le_of_ble_eq_true rfl
theorem csign (cv : Nat) : Statement (.csign cv) :=
  Nat.le_of_ble_eq_true rfl
theorem trap (n g : Nat) : Statement (.trap n g) :=
  Nat.le_of_ble_eq_true rfl
theorem tret : Statement (.tret) :=
  Nat.le_of_ble_eq_true rfl
theorem tretSkip : Statement (.tretSkip) :=
  Nat.le_of_ble_eq_true rfl
theorem wreq (d : Nat) (a : SSrc) : Statement (.wreq d a) :=
  cons_sLits _ a
theorem rdsp (d : Nat) (sc : Bool) (x g : Nat) : Statement (.rdsp d sc x g) :=
  Nat.le_of_ble_eq_true rfl
theorem wrsp (x : Nat) (a : VSrc) (g : Nat) : Statement (.wrsp x a g) :=
  cons_vLits _ a
theorem fadd (d a : Nat) (b : VSrc) (g : Nat) : Statement (.fadd d a b g) :=
  cons_vLits _ b
theorem fsub (d a : Nat) (b : VSrc) (g : Nat) : Statement (.fsub d a b g) :=
  cons_vLits _ b
theorem fmul (d a : Nat) (b : VSrc) (g : Nat) : Statement (.fmul d a b g) :=
  cons_vLits _ b
theorem ffma (d a : Nat) (b : VSrc) (g : Nat) : Statement (.ffma d a b g) :=
  cons_vLits _ b
theorem ffms (d a : Nat) (b : VSrc) (g : Nat) : Statement (.ffms d a b g) :=
  cons_vLits _ b
theorem fmin (d a : Nat) (b : VSrc) (g : Nat) : Statement (.fmin d a b g) :=
  cons_vLits _ b
theorem fmax (d a : Nat) (b : VSrc) (g : Nat) : Statement (.fmax d a b g) :=
  cons_vLits _ b
theorem fminnm (d a : Nat) (b : VSrc) (g : Nat) : Statement (.fminnm d a b g) :=
  cons_vLits _ b
theorem fmaxnm (d a : Nat) (b : VSrc) (g : Nat) : Statement (.fmaxnm d a b g) :=
  cons_vLits _ b
theorem fabs (d a g : Nat) : Statement (.fabs d a g) :=
  Nat.le_of_ble_eq_true rfl
theorem fneg (d a g : Nat) : Statement (.fneg d a g) :=
  Nat.le_of_ble_eq_true rfl
theorem fcpsgn (d a : Nat) (b : VSrc) (g : Nat) : Statement (.fcpsgn d a b g) :=
  cons_vLits _ b
theorem frndn (d a g : Nat) : Statement (.frndn d a g) :=
  Nat.le_of_ble_eq_true rfl
theorem frndz (d a g : Nat) : Statement (.frndz d a g) :=
  Nat.le_of_ble_eq_true rfl
theorem frndd (d a g : Nat) : Statement (.frndd d a g) :=
  Nat.le_of_ble_eq_true rfl
theorem frndu (d a g : Nat) : Statement (.frndu d a g) :=
  Nat.le_of_ble_eq_true rfl
theorem hadd (d a : Nat) (b : VSrc) (g : Nat) : Statement (.hadd d a b g) :=
  cons_vLits _ b
theorem hsub (d a : Nat) (b : VSrc) (g : Nat) : Statement (.hsub d a b g) :=
  cons_vLits _ b
theorem hmul (d a : Nat) (b : VSrc) (g : Nat) : Statement (.hmul d a b g) :=
  cons_vLits _ b
theorem hfma (d a : Nat) (b : VSrc) (g : Nat) : Statement (.hfma d a b g) :=
  cons_vLits _ b
theorem hmin (d a : Nat) (b : VSrc) (g : Nat) : Statement (.hmin d a b g) :=
  cons_vLits _ b
theorem hmax (d a : Nat) (b : VSrc) (g : Nat) : Statement (.hmax d a b g) :=
  cons_vLits _ b
theorem habs (d a g : Nat) : Statement (.habs d a g) :=
  Nat.le_of_ble_eq_true rfl
theorem hneg (d a g : Nat) : Statement (.hneg d a g) :=
  Nat.le_of_ble_eq_true rfl
theorem badd (d a : Nat) (b : VSrc) (g : Nat) : Statement (.badd d a b g) :=
  cons_vLits _ b
theorem bsub (d a : Nat) (b : VSrc) (g : Nat) : Statement (.bsub d a b g) :=
  cons_vLits _ b
theorem bmul (d a : Nat) (b : VSrc) (g : Nat) : Statement (.bmul d a b g) :=
  cons_vLits _ b
theorem bfma (d a : Nat) (b : VSrc) (g : Nat) : Statement (.bfma d a b g) :=
  cons_vLits _ b
theorem bmin (d a : Nat) (b : VSrc) (g : Nat) : Statement (.bmin d a b g) :=
  cons_vLits _ b
theorem bmax (d a : Nat) (b : VSrc) (g : Nat) : Statement (.bmax d a b g) :=
  cons_vLits _ b
theorem babs (d a g : Nat) : Statement (.babs d a g) :=
  Nat.le_of_ble_eq_true rfl
theorem bneg (d a g : Nat) : Statement (.bneg d a g) :=
  Nat.le_of_ble_eq_true rfl
theorem faddRd (d a : Nat) (b : VSrc) (g : Nat) : Statement (.faddRd d a b g) :=
  cons_vLits _ b
theorem faddRu (d a : Nat) (b : VSrc) (g : Nat) : Statement (.faddRu d a b g) :=
  cons_vLits _ b
theorem fsubRd (d a : Nat) (b : VSrc) (g : Nat) : Statement (.fsubRd d a b g) :=
  cons_vLits _ b
theorem fsubRu (d a : Nat) (b : VSrc) (g : Nat) : Statement (.fsubRu d a b g) :=
  cons_vLits _ b
theorem fmulRd (d a : Nat) (b : VSrc) (g : Nat) : Statement (.fmulRd d a b g) :=
  cons_vLits _ b
theorem fmulRu (d a : Nat) (b : VSrc) (g : Nat) : Statement (.fmulRu d a b g) :=
  cons_vLits _ b
theorem ffmaRd (d a : Nat) (b : VSrc) (g : Nat) : Statement (.ffmaRd d a b g) :=
  cons_vLits _ b
theorem ffmaRu (d a : Nat) (b : VSrc) (g : Nat) : Statement (.ffmaRu d a b g) :=
  cons_vLits _ b
theorem fsqrtRd (d a g : Nat) : Statement (.fsqrtRd d a g) :=
  Nat.le_of_ble_eq_true rfl
theorem fsqrtRu (d a g : Nat) : Statement (.fsqrtRu d a g) :=
  Nat.le_of_ble_eq_true rfl
theorem fdivRd (d a : Nat) (b : VSrc) (g : Nat) : Statement (.fdivRd d a b g) :=
  cons_vLits _ b
theorem fdivRu (d a : Nat) (b : VSrc) (g : Nat) : Statement (.fdivRu d a b g) :=
  cons_vLits _ b
theorem feq (d a : Nat) (b : VSrc) (g : Nat) : Statement (.feq d a b g) :=
  cons_vLits _ b
theorem fne (d a : Nat) (b : VSrc) (g : Nat) : Statement (.fne d a b g) :=
  cons_vLits _ b
theorem flt (d a : Nat) (b : VSrc) (g : Nat) : Statement (.flt d a b g) :=
  cons_vLits _ b
theorem fle (d a : Nat) (b : VSrc) (g : Nat) : Statement (.fle d a b g) :=
  cons_vLits _ b
theorem fgt (d a : Nat) (b : VSrc) (g : Nat) : Statement (.fgt d a b g) :=
  cons_vLits _ b
theorem fge (d a : Nat) (b : VSrc) (g : Nat) : Statement (.fge d a b g) :=
  cons_vLits _ b
theorem funord (d a : Nat) (b : VSrc) (g : Nat) : Statement (.funord d a b g) :=
  cons_vLits _ b
theorem ford (d a : Nat) (b : VSrc) (g : Nat) : Statement (.ford d a b g) :=
  cons_vLits _ b
theorem frcp (d a g : Nat) : Statement (.frcp d a g) :=
  Nat.le_of_ble_eq_true rfl
theorem frsq (d a g : Nat) : Statement (.frsq d a g) :=
  Nat.le_of_ble_eq_true rfl
theorem fsqrt (d a g : Nat) : Statement (.fsqrt d a g) :=
  Nat.le_of_ble_eq_true rfl
theorem fdiv (d a : Nat) (b : VSrc) (g : Nat) : Statement (.fdiv d a b g) :=
  cons_vLits _ b
theorem fexp2 (d a g : Nat) : Statement (.fexp2 d a g) :=
  Nat.le_of_ble_eq_true rfl
theorem flog2 (d a g : Nat) : Statement (.flog2 d a g) :=
  Nat.le_of_ble_eq_true rfl
theorem fsinpi (d a g : Nat) : Statement (.fsinpi d a g) :=
  Nat.le_of_ble_eq_true rfl
theorem fcospi (d a g : Nat) : Statement (.fcospi d a g) :=
  Nat.le_of_ble_eq_true rfl
theorem ftanh (d a g : Nat) : Statement (.ftanh d a g) :=
  Nat.le_of_ble_eq_true rfl
theorem fsigm (d a g : Nat) : Statement (.fsigm d a g) :=
  Nat.le_of_ble_eq_true rfl
theorem cvtI32F32 (d a g : Nat) : Statement (.cvtI32F32 d a g) :=
  Nat.le_of_ble_eq_true rfl
theorem cvtN32F32 (d a g : Nat) : Statement (.cvtN32F32 d a g) :=
  Nat.le_of_ble_eq_true rfl
theorem cvtF32I32 (d a g : Nat) : Statement (.cvtF32I32 d a g) :=
  Nat.le_of_ble_eq_true rfl
theorem cvtF32N32 (d a g : Nat) : Statement (.cvtF32N32 d a g) :=
  Nat.le_of_ble_eq_true rfl
theorem cvtF16F32 (d a g : Nat) : Statement (.cvtF16F32 d a g) :=
  Nat.le_of_ble_eq_true rfl
theorem cvtF32F16 (d a g : Nat) : Statement (.cvtF32F16 d a g) :=
  Nat.le_of_ble_eq_true rfl
theorem cvtBf16F32 (d a g : Nat) : Statement (.cvtBf16F32 d a g) :=
  Nat.le_of_ble_eq_true rfl
theorem cvtF32Bf16 (d a g : Nat) : Statement (.cvtF32Bf16 d a g) :=
  Nat.le_of_ble_eq_true rfl
theorem cvtE4m3F32 (d a g : Nat) : Statement (.cvtE4m3F32 d a g) :=
  Nat.le_of_ble_eq_true rfl
theorem cvtF32E4m3 (d a g : Nat) : Statement (.cvtF32E4m3 d a g) :=
  Nat.le_of_ble_eq_true rfl
theorem cvtE5m2F32 (d a g : Nat) : Statement (.cvtE5m2F32 d a g) :=
  Nat.le_of_ble_eq_true rfl
theorem cvtF32E5m2 (d a g : Nat) : Statement (.cvtF32E5m2 d a g) :=
  Nat.le_of_ble_eq_true rfl
theorem cvtE2m1F32 (d a g : Nat) : Statement (.cvtE2m1F32 d a g) :=
  Nat.le_of_ble_eq_true rfl
theorem cvtF32E2m1 (d a g : Nat) : Statement (.cvtF32E2m1 d a g) :=
  Nat.le_of_ble_eq_true rfl
theorem pk2Bf16 (d a : Nat) (b : VSrc) (g : Nat) : Statement (.pk2Bf16 d a b g) :=
  cons_vLits _ b
theorem pk2F16 (d a : Nat) (b : VSrc) (g : Nat) : Statement (.pk2F16 d a b g) :=
  cons_vLits _ b
theorem shfl (d a : Nat) (b : VSrc) (g : Nat) : Statement (.shfl d a b g) :=
  cons_vLits _ b
theorem shflup (d a : Nat) (b : VSrc) (g : Nat) : Statement (.shflup d a b g) :=
  cons_vLits _ b
theorem shfldn (d a : Nat) (b : VSrc) (g : Nat) : Statement (.shfldn d a b g) :=
  cons_vLits _ b
theorem shflx (d a : Nat) (b : VSrc) (g : Nat) : Statement (.shflx d a b g) :=
  cons_vLits _ b
theorem bcast (d a : Nat) (b : SSrc) (g : Nat) : Statement (.bcast d a b g) :=
  cons_sLits _ b
theorem vany (d a g : Nat) : Statement (.vany d a g) :=
  Nat.le_of_ble_eq_true rfl
theorem vall (d a g : Nat) : Statement (.vall d a g) :=
  Nat.le_of_ble_eq_true rfl
theorem ballot (d a g : Nat) : Statement (.ballot d a g) :=
  Nat.le_of_ble_eq_true rfl
theorem vpfxc (d a g : Nat) : Statement (.vpfxc d a g) :=
  Nat.le_of_ble_eq_true rfl
theorem vcomp (d a b g : Nat) : Statement (.vcomp d a b g) :=
  Nat.le_of_ble_eq_true rfl
theorem vexpd (d a b g : Nat) : Statement (.vexpd d a b g) :=
  Nat.le_of_ble_eq_true rfl
theorem vmrank (d a g : Nat) : Statement (.vmrank d a g) :=
  Nat.le_of_ble_eq_true rfl
theorem vmcnt (d a g : Nat) : Statement (.vmcnt d a g) :=
  Nat.le_of_ble_eq_true rfl
theorem vmlead (d a g : Nat) : Statement (.vmlead d a g) :=
  Nat.le_of_ble_eq_true rfl
theorem vtopk (d a : Nat) (b : SSrc) (g : Nat) : Statement (.vtopk d a b g) :=
  cons_sLits _ b
theorem vtopka (d a : Nat) (b : SSrc) (g : Nat) : Statement (.vtopka d a b g) :=
  cons_sLits _ b
theorem raddI32 (d a g : Nat) : Statement (.raddI32 d a g) :=
  Nat.le_of_ble_eq_true rfl
theorem rminI32 (d a g : Nat) : Statement (.rminI32 d a g) :=
  Nat.le_of_ble_eq_true rfl
theorem rmaxI32 (d a g : Nat) : Statement (.rmaxI32 d a g) :=
  Nat.le_of_ble_eq_true rfl
theorem rand (d a g : Nat) : Statement (.rand d a g) :=
  Nat.le_of_ble_eq_true rfl
theorem ror (d a g : Nat) : Statement (.ror d a g) :=
  Nat.le_of_ble_eq_true rfl
theorem rxor (d a g : Nat) : Statement (.rxor d a g) :=
  Nat.le_of_ble_eq_true rfl
theorem raddF32 (d a g : Nat) : Statement (.raddF32 d a g) :=
  Nat.le_of_ble_eq_true rfl
theorem raddF32Any (d a g : Nat) : Statement (.raddF32Any d a g) :=
  Nat.le_of_ble_eq_true rfl
theorem rminF32 (d a g : Nat) : Statement (.rminF32 d a g) :=
  Nat.le_of_ble_eq_true rfl
theorem rmaxF32 (d a g : Nat) : Statement (.rmaxF32 d a g) :=
  Nat.le_of_ble_eq_true rfl
theorem scanI32 (d a g : Nat) : Statement (.scanI32 d a g) :=
  Nat.le_of_ble_eq_true rfl
theorem scanF32 (d a g : Nat) : Statement (.scanF32 d a g) :=
  Nat.le_of_ble_eq_true rfl
theorem xscanI32 (d a g : Nat) : Statement (.xscanI32 d a g) :=
  Nat.le_of_ble_eq_true rfl
theorem rgput (a : SSrc) (g : Nat) : Statement (.rgput a g) :=
  cons_sLits _ a
theorem rgflush (g : Nat) : Statement (.rgflush g) :=
  Nat.le_of_ble_eq_true rfl
theorem rgqry (d g : Nat) : Statement (.rgqry d g) :=
  Nat.le_of_ble_eq_true rfl
theorem ldg (t a : Nat) (u : Bool) (size ord scope g : Nat) (off : Option (BitVec 32)) : Statement (.ldg t a u size ord scope g off) :=
  cons_off _ off
theorem stg (t a : Nat) (u : Bool) (size ord scope g : Nat) (off : Option (BitVec 32)) : Statement (.stg t a u size ord scope g off) :=
  cons_off _ off
theorem lds (t a : Nat) (u : Bool) (size ord scope g : Nat) (off : Option (BitVec 32)) : Statement (.lds t a u size ord scope g off) :=
  cons_off _ off
theorem sts (t a : Nat) (u : Bool) (size ord scope g : Nat) (off : Option (BitVec 32)) : Statement (.sts t a u size ord scope g off) :=
  cons_off _ off
theorem ldc (t a : Nat) (u : Bool) (size ord scope g : Nat) (off : Option (BitVec 32)) : Statement (.ldc t a u size ord scope g off) :=
  cons_off _ off
theorem stc (t a : Nat) (u : Bool) (size ord scope g : Nat) (off : Option (BitVec 32)) : Statement (.stc t a u size ord scope g off) :=
  cons_off _ off
theorem ldx (t a : Nat) (u : Bool) (size ord scope g : Nat) (off : Option (BitVec 32)) : Statement (.ldx t a u size ord scope g off) :=
  cons_off _ off
theorem stx (t a : Nat) (u : Bool) (size ord scope g : Nat) (off : Option (BitVec 32)) : Statement (.stx t a u size ord scope g off) :=
  cons_off _ off
theorem ldp (t a : Nat) (u : Bool) (size ord scope g : Nat) (off : Option (BitVec 32)) : Statement (.ldp t a u size ord scope g off) :=
  cons_off _ off
theorem stp (t a : Nat) (u : Bool) (size ord scope g : Nat) (off : Option (BitVec 32)) : Statement (.stp t a u size ord scope g off) :=
  cons_off _ off
theorem atg (t a : Nat) (u : Bool) (aop : Nat) (w : Bool) (ord scope : Nat) (rt : Bool) (off : Option (BitVec 32)) : Statement (.atg t a u aop w ord scope rt off) :=
  cons_off _ off
theorem ats (t a : Nat) (u : Bool) (aop : Nat) (w : Bool) (ord scope : Nat) (rt : Bool) (off : Option (BitVec 32)) : Statement (.ats t a u aop w ord scope rt off) :=
  cons_off _ off
theorem atc (t a : Nat) (u : Bool) (aop : Nat) (w : Bool) (ord scope : Nat) (rt : Bool) (off : Option (BitVec 32)) : Statement (.atc t a u aop w ord scope rt off) :=
  cons_off _ off
theorem atx (t a : Nat) (u : Bool) (aop : Nat) (w : Bool) (ord scope : Nat) (rt : Bool) (off : Option (BitVec 32)) : Statement (.atx t a u aop w ord scope rt off) :=
  cons_off _ off
theorem fenceAcq (sc : Nat) : Statement (.fenceAcq sc) :=
  Nat.le_of_ble_eq_true rfl
theorem fenceRel (sc : Nat) : Statement (.fenceRel sc) :=
  Nat.le_of_ble_eq_true rfl
theorem fenceAr (sc : Nat) : Statement (.fenceAr sc) :=
  Nat.le_of_ble_eq_true rfl
theorem fenceSc (sc : Nat) : Statement (.fenceSc sc) :=
  Nat.le_of_ble_eq_true rfl
theorem ackwait : Statement (.ackwait) :=
  Nat.le_of_ble_eq_true rfl
theorem pf (a : Nat) : Statement (.pf a) :=
  Nat.le_of_ble_eq_true rfl
theorem pf2 (a : Nat) : Statement (.pf2 a) :=
  Nat.le_of_ble_eq_true rfl
theorem wbr (a b : Nat) (phys : Bool) : Statement (.wbr a b phys) :=
  Nat.le_of_ble_eq_true rfl
theorem invr (a b : Nat) (l2 phys : Bool) : Statement (.invr a b l2 phys) :=
  Nat.le_of_ble_eq_true rfl
theorem icpf (a : Nat) : Statement (.icpf a) :=
  Nat.le_of_ble_eq_true rfl
theorem bpf (a : Nat) : Statement (.bpf a) :=
  Nat.le_of_ble_eq_true rfl
theorem cpg2s (d a b : Nat) : Statement (.cpg2s d a b) :=
  Nat.le_of_ble_eq_true rfl
theorem cps2g (d a b : Nat) : Statement (.cps2g d a b) :=
  Nat.le_of_ble_eq_true rfl
theorem cps2s (d a b : Nat) : Statement (.cps2s d a b) :=
  Nat.le_of_ble_eq_true rfl
theorem cps2c (d a b : Nat) : Statement (.cps2c d a b) :=
  Nat.le_of_ble_eq_true rfl
theorem cpc2s (d a b : Nat) : Statement (.cpc2s d a b) :=
  Nat.le_of_ble_eq_true rfl
theorem tld (d a b : Nat) : Statement (.tld d a b) :=
  Nat.le_of_ble_eq_true rfl
theorem tst (d a b : Nat) : Statement (.tst d a b) :=
  Nat.le_of_ble_eq_true rfl
theorem tslot (n a b : Nat) (sc : Bool) : Statement (.tslot n a b sc) :=
  Nat.le_of_ble_eq_true rfl
theorem cpclose : Statement (.cpclose) :=
  Nat.le_of_ble_eq_true rfl
theorem waitc (n cls : Nat) : Statement (.waitc n cls) :=
  Nat.le_of_ble_eq_true rfl
theorem cpring (a : Nat) : Statement (.cpring a) :=
  Nat.le_of_ble_eq_true rfl
theorem mma (n sa sb fs cv : Nat) : Statement (.mma n sa sb fs cv) :=
  Nat.le_of_ble_eq_true rfl
theorem mmaz (n sa sb fs cv : Nat) : Statement (.mmaz n sa sb fs cv) :=
  Nat.le_of_ble_eq_true rfl
theorem accz (n cv : Nat) : Statement (.accz n cv) :=
  Nat.le_of_ble_eq_true rfl
theorem accst (n out : Nat) (keep : Bool) (cv xa xb : Nat) (imm : BitVec 20) : Statement (.accst n out keep cv xa xb imm) :=
  Nat.le_of_ble_eq_true rfl
theorem accld (n cv xa xb : Nat) (imm : BitVec 20) : Statement (.accld n cv xa xb imm) :=
  Nat.le_of_ble_eq_true rfl
theorem accrd (n r cv xa : Nat) (imm : BitVec 20) : Statement (.accrd n r cv xa imm) :=
  Nat.le_of_ble_eq_true rfl
theorem accwr (n r cv xa : Nat) (imm : BitVec 20) : Statement (.accwr n r cv xa imm) :=
  Nat.le_of_ble_eq_true rfl
theorem oclaim (n cv : Nat) : Statement (.oclaim n cv) :=
  Nat.le_of_ble_eq_true rfl
theorem orel (n cv : Nat) : Statement (.orel n cv) :=
  Nat.le_of_ble_eq_true rfl
theorem oloadData (n cv xa xb : Nat) (imm : BitVec 20) : Statement (.oloadData n cv xa xb imm) :=
  Nat.le_of_ble_eq_true rfl
theorem oloadSide (n cv xa xb : Nat) (imm : BitVec 20) : Statement (.oloadSide n cv xa xb imm) :=
  Nat.le_of_ble_eq_true rfl
theorem oloadBand (n cv xa : Nat) (imm : BitVec 20) : Statement (.oloadBand n cv xa imm) :=
  Nat.le_of_ble_eq_true rfl
theorem accsclF32 (n cv xa : Nat) : Statement (.accsclF32 n cv xa) :=
  Nat.le_of_ble_eq_true rfl
theorem accsclI2f (n cv xa : Nat) : Statement (.accsclI2f n cv xa) :=
  Nat.le_of_ble_eq_true rfl
theorem accsclF2i (n cv xa : Nat) : Statement (.accsclF2i n cv xa) :=
  Nat.le_of_ble_eq_true rfl
theorem qpush (n a g : Nat) : Statement (.qpush n a g) :=
  Nat.le_of_ble_eq_true rfl
theorem qpop (n a g : Nat) : Statement (.qpop n a g) :=
  Nat.le_of_ble_eq_true rfl
theorem qpushn (d n a g : Nat) : Statement (.qpushn d n a g) :=
  Nat.le_of_ble_eq_true rfl
theorem qpopn (d n a g : Nat) : Statement (.qpopn d n a g) :=
  Nat.le_of_ble_eq_true rfl
theorem qallow (n a g : Nat) : Statement (.qallow n a g) :=
  Nat.le_of_ble_eq_true rfl
theorem qlen (d n g : Nat) : Statement (.qlen d n g) :=
  Nat.le_of_ble_eq_true rfl
theorem chsend (n a g : Nat) : Statement (.chsend n a g) :=
  Nat.le_of_ble_eq_true rfl
theorem chrecv (n a g : Nat) : Statement (.chrecv n a g) :=
  Nat.le_of_ble_eq_true rfl
theorem chsendn (d n a g : Nat) : Statement (.chsendn d n a g) :=
  Nat.le_of_ble_eq_true rfl
theorem chrecvn (d n a g : Nat) : Statement (.chrecvn d n a g) :=
  Nat.le_of_ble_eq_true rfl
theorem renq (d a g : Nat) : Statement (.renq d a g) :=
  Nat.le_of_ble_eq_true rfl
theorem rdeq (d a g : Nat) : Statement (.rdeq d a g) :=
  Nat.le_of_ble_eq_true rfl
theorem rawait (d a g : Nat) : Statement (.rawait d a g) :=
  Nat.le_of_ble_eq_true rfl
theorem rrel (a g : Nat) : Statement (.rrel a g) :=
  Nat.le_of_ble_eq_true rfl
theorem barinit (n a g : Nat) : Statement (.barinit n a g) :=
  Nat.le_of_ble_eq_true rfl
theorem bararr (d n g : Nat) : Statement (.bararr d n g) :=
  Nat.le_of_ble_eq_true rfl
theorem barwait (n a g : Nat) : Statement (.barwait n a g) :=
  Nat.le_of_ble_eq_true rfl
theorem barsync (n g : Nat) : Statement (.barsync n g) :=
  Nat.le_of_ble_eq_true rfl
theorem jinc (a g : Nat) : Statement (.jinc a g) :=
  Nat.le_of_ble_eq_true rfl
theorem spawn (d a g : Nat) : Statement (.spawn d a g) :=
  Nat.le_of_ble_eq_true rfl
theorem spawnw (d a g : Nat) : Statement (.spawnw d a g) :=
  Nat.le_of_ble_eq_true rfl
theorem doneCrew (a g : Nat) : Statement (.doneCrew a g) :=
  Nat.le_of_ble_eq_true rfl
theorem cancel (a g : Nat) : Statement (.cancel a g) :=
  Nat.le_of_ble_eq_true rfl
theorem wflag (n g : Nat) : Statement (.wflag n g) :=
  Nat.le_of_ble_eq_true rfl
theorem tbpub (n g : Nat) : Statement (.tbpub n g) :=
  Nat.le_of_ble_eq_true rfl
theorem tbrel (n g : Nat) : Statement (.tbrel n g) :=
  Nat.le_of_ble_eq_true rfl
theorem tbstat (d n g : Nat) : Statement (.tbstat d n g) :=
  Nat.le_of_ble_eq_true rfl
theorem spchk (d g : Nat) : Statement (.spchk d g) :=
  Nat.le_of_ble_eq_true rfl
theorem spbar (g : Nat) : Statement (.spbar g) :=
  Nat.le_of_ble_eq_true rfl
theorem march (d a b : Nat) (sp : Bool) (mode : Nat) : Statement (.march d a b sp mode) :=
  Nat.le_of_ble_eq_true rfl
theorem marchr (d a : Nat) : Statement (.marchr d a) :=
  Nat.le_of_ble_eq_true rfl
theorem fprep (d a b : Nat) : Statement (.fprep d a b) :=
  Nat.le_of_ble_eq_true rfl
theorem bfetch (d a b : Nat) : Statement (.bfetch d a b) :=
  Nat.le_of_ble_eq_true rfl
theorem trace (d a b : Nat) : Statement (.trace d a b) :=
  Nat.le_of_ble_eq_true rfl
theorem tracer (d a : Nat) : Statement (.tracer d a) :=
  Nat.le_of_ble_eq_true rfl
theorem tex (d a b : Nat) : Statement (.tex d a b) :=
  Nat.le_of_ble_eq_true rfl
theorem texq (d a b : Nat) : Statement (.texq d a b) :=
  Nat.le_of_ble_eq_true rfl
theorem cred (d a b rop : Nat) (w : Bool) : Statement (.cred d a b rop w) :=
  Nat.le_of_ble_eq_true rfl
theorem cgat (d a b : Nat) : Statement (.cgat d a b) :=
  Nat.le_of_ble_eq_true rfl
theorem crsc (d a b rop : Nat) (w : Bool) : Statement (.crsc d a b rop w) :=
  Nat.le_of_ble_eq_true rfl
theorem ca2a (d a b : Nat) : Statement (.ca2a d a b) :=
  Nat.le_of_ble_eq_true rfl
theorem csend (a b : Nat) : Statement (.csend a b) :=
  Nat.le_of_ble_eq_true rfl
theorem crecv (d b : Nat) : Statement (.crecv d b) :=
  Nat.le_of_ble_eq_true rfl
theorem cwait (b : Nat) : Statement (.cwait b) :=
  Nat.le_of_ble_eq_true rfl
theorem dadd (d a b g : Nat) : Statement (.dadd d a b g) :=
  Nat.le_of_ble_eq_true rfl
theorem dsub (d a b g : Nat) : Statement (.dsub d a b g) :=
  Nat.le_of_ble_eq_true rfl
theorem dmul (d a b g : Nat) : Statement (.dmul d a b g) :=
  Nat.le_of_ble_eq_true rfl
theorem dfma (d a b g : Nat) : Statement (.dfma d a b g) :=
  Nat.le_of_ble_eq_true rfl
theorem ddiv (d a b g : Nat) : Statement (.ddiv d a b g) :=
  Nat.le_of_ble_eq_true rfl
theorem dsqrt (d a g : Nat) : Statement (.dsqrt d a g) :=
  Nat.le_of_ble_eq_true rfl
theorem cvtF64F32 (d a g : Nat) : Statement (.cvtF64F32 d a g) :=
  Nat.le_of_ble_eq_true rfl
theorem cvtF32F64 (d a g : Nat) : Statement (.cvtF32F64 d a g) :=
  Nat.le_of_ble_eq_true rfl
theorem brk (n g : Nat) : Statement (.brk n g) :=
  Nat.le_of_ble_eq_true rfl
theorem rdcnt (d n g : Nat) : Statement (.rdcnt d n g) :=
  Nat.le_of_ble_eq_true rfl
theorem mark (n g : Nat) : Statement (.mark n g) :=
  Nat.le_of_ble_eq_true rfl
theorem crd (d a idx : Nat) : Statement (.crd d a idx) :=
  Nat.le_of_ble_eq_true rfl
theorem cwr (d a idx : Nat) : Statement (.cwr d a idx) :=
  Nat.le_of_ble_eq_true rfl
theorem freplyResume (d a : Nat) : Statement (.freplyResume d a) :=
  Nat.le_of_ble_eq_true rfl
theorem freplyReject (d a : Nat) : Statement (.freplyReject d a) :=
  Nat.le_of_ble_eq_true rfl
theorem carve (d a : Nat) : Statement (.carve d a) :=
  Nat.le_of_ble_eq_true rfl
theorem pjob (d a : Nat) : Statement (.pjob d a) :=
  Nat.le_of_ble_eq_true rfl
theorem tlbinvPage (a : Nat) : Statement (.tlbinvPage a) :=
  Nat.le_of_ble_eq_true rfl
theorem tlbinvAsid (a : Nat) : Statement (.tlbinvAsid a) :=
  Nat.le_of_ble_eq_true rfl
theorem tlbinvAll (a : Nat) : Statement (.tlbinvAll a) :=
  Nat.le_of_ble_eq_true rfl
theorem slsync (d a : Nat) : Statement (.slsync d a) :=
  Nat.le_of_ble_eq_true rfl
theorem halt (d a : Nat) : Statement (.halt d a) :=
  Nat.le_of_ble_eq_true rfl
theorem runStart (core sub port : Nat) : Statement (.runStart core sub port) :=
  Nat.zero_le 3
theorem clauseIssue (core sub port : Nat) : Statement (.clauseIssue core sub port) :=
  Nat.zero_le 3
theorem emulationReturn (cohort : Nat) (decline : Bool) : Statement (.emulationReturn cohort decline) :=
  Nat.zero_le 3
theorem icacheFill (core sub port : Nat) : Statement (.icacheFill core sub port) :=
  Nat.zero_le 3
theorem loadDataReturn (cohort op : Nat) : Statement (.loadDataReturn cohort op) :=
  Nat.zero_le 3
theorem longLatencyCompletion (cohort op : Nat) : Statement (.longLatencyCompletion cohort op) :=
  Nat.zero_le 3
theorem acknowledgement (n : Nat) : Statement (.acknowledgement n) :=
  Nat.zero_le 3
theorem homeRequest (n : Nat) : Statement (.homeRequest n) :=
  Nat.zero_le 3
theorem requestReplay (n : Nat) : Statement (.requestReplay n) :=
  Nat.zero_le 3
theorem translationWalk (core asid : Nat) (va : BitVec 64) : Statement (.translationWalk core asid va) :=
  Nat.zero_le 3
theorem impreciseReportArrival (n : Nat) : Statement (.impreciseReportArrival n) :=
  Nat.zero_le 3
theorem copyGranule (copy granule : Nat) : Statement (.copyGranule copy granule) :=
  Nat.zero_le 3
theorem copyBatchComplete (batch : Nat) : Statement (.copyBatchComplete batch) :=
  Nat.zero_le 3
theorem copyRingAdvance (batch : Nat) : Statement (.copyRingAdvance batch) :=
  Nat.zero_le 3
theorem mtxCompletion (cohort : Nat) : Statement (.mtxCompletion cohort) :=
  Nat.zero_le 3
theorem tileBind (cohort : Nat) : Statement (.tileBind cohort) :=
  Nat.zero_le 3
theorem slotClaim (cohort : Nat) : Statement (.slotClaim cohort) :=
  Nat.zero_le 3
theorem matrixStartAdmission (cohort : Nat) : Statement (.matrixStartAdmission cohort) :=
  Nat.zero_le 3
theorem admissionWindow (sector : Nat) : Statement (.admissionWindow sector) :=
  Nat.zero_le 3
theorem rayEnd (crew tid unit : Nat) : Statement (.rayEnd crew tid unit) :=
  Nat.zero_le 3
theorem wreqGrant (crew : Nat) : Statement (.wreqGrant crew) :=
  Nat.zero_le 3
theorem binFormation (core sub bin : Nat) : Statement (.binFormation core sub bin) :=
  Nat.zero_le 3
theorem autoFlush (crew : Nat) : Statement (.autoFlush crew) :=
  Nat.zero_le 3
theorem cohortRetire (cohort : Nat) : Statement (.cohortRetire cohort) :=
  Nat.zero_le 3
theorem queueWaiterRetry (crew q : Nat) (push : Bool) : Statement (.queueWaiterRetry crew q push) :=
  Nat.zero_le 3
theorem channelDelivery (n : Nat) : Statement (.channelDelivery n) :=
  Nat.zero_le 3
theorem creditPacket (n : Nat) : Statement (.creditPacket n) :=
  Nat.zero_le 3
theorem faultRecordPost (n : Nat) : Statement (.faultRecordPost n) :=
  Nat.zero_le 3
theorem rdmaWrite (n part : Nat) : Statement (.rdmaWrite n part) :=
  Nat.zero_le 3
theorem rdmaRead (n : Nat) : Statement (.rdmaRead n) :=
  Nat.zero_le 3
theorem ringKick (ring : Nat) : Statement (.ringKick ring) :=
  Nat.zero_le 3
theorem launchPacket (ring : Nat) : Statement (.launchPacket ring) :=
  Nat.zero_le 3
theorem cancelPacket (ring : Nat) : Statement (.cancelPacket ring) :=
  Nat.zero_le 3
theorem packetReread (ring : Nat) : Statement (.packetReread ring) :=
  Nat.zero_le 3
theorem resetKick (ring : Nat) : Statement (.resetKick ring) :=
  Nat.zero_le 3
theorem completionRecord (ring : Nat) : Statement (.completionRecord ring) :=
  Nat.zero_le 3
theorem storeEntryGrant : Statement (.storeEntryGrant) :=
  Nat.zero_le 3
theorem idleCoreRequest (core : Nat) : Statement (.idleCoreRequest core) :=
  Nat.zero_le 3
theorem crewPlacement (core : Nat) : Statement (.crewPlacement core) :=
  Nat.zero_le 3
theorem verdict (n : Nat) : Statement (.verdict n) :=
  Nat.zero_le 3
theorem resolutionArrival (n : Nat) : Statement (.resolutionArrival n) :=
  Nat.zero_le 3
theorem commit (crew : Nat) : Statement (.commit crew) :=
  Nat.zero_le 3
theorem coreHalted (core : Nat) : Statement (.coreHalted core) :=
  Nat.zero_le 3
theorem swap (core : Nat) : Statement (.swap core) :=
  Nat.zero_le 3
theorem longWaitSwapOut (crew : Nat) : Statement (.longWaitSwapOut crew) :=
  Nat.zero_le 3
theorem crewReturn (crew : Nat) : Statement (.crewReturn crew) :=
  Nat.zero_le 3
theorem migrationRequest (crew core : Nat) : Statement (.migrationRequest crew core) :=
  Nat.zero_le 3
theorem migrationWithdraw (crew : Nat) : Statement (.migrationWithdraw crew) :=
  Nat.zero_le 3
theorem saveStep (crew : Nat) : Statement (.saveStep crew) :=
  Nat.zero_le 3
theorem migrationRecord (crew : Nat) : Statement (.migrationRecord crew) :=
  Nat.zero_le 3
theorem restoreStep (crew core : Nat) : Statement (.restoreStep crew core) :=
  Nat.zero_le 3
theorem drawTake (engine : Nat) : Statement (.drawTake engine) :=
  Nat.zero_le 3
theorem drawEnd (engine : Nat) : Statement (.drawEnd engine) :=
  Nat.zero_le 3
theorem collectiveComplete (n : Nat) : Statement (.collectiveComplete n) :=
  Nat.zero_le 3
theorem queuePairFatalError (port qp : Nat) : Statement (.queuePairFatalError port qp) :=
  Nat.zero_le 3
theorem congestionNotification (port qp : Nat) : Statement (.congestionNotification port qp) :=
  Nat.zero_le 3
theorem connectionOpen (n : Nat) : Statement (.connectionOpen n) :=
  Nat.zero_le 3
theorem attestationRequest (n : Nat) : Statement (.attestationRequest n) :=
  Nat.zero_le 3
theorem recoveryImage (n : Nat) : Statement (.recoveryImage n) :=
  Nat.zero_le 3
theorem powerOnReset : Statement (.powerOnReset) :=
  Nat.zero_le 3
theorem clusterRelease : Statement (.clusterRelease) :=
  Nat.zero_le 3
theorem thermalChange (die inlet : Int) : Statement (.thermalChange die inlet) :=
  Nat.zero_le 3
theorem patrolScrub (n : Nat) : Statement (.patrolScrub n) :=
  Nat.zero_le 3
theorem dramRefresh (channel : Nat) : Statement (.dramRefresh channel) :=
  Nat.zero_le 3
theorem arithmeticClockCycle (core : Nat) : Statement (.arithmeticClockCycle core) :=
  Nat.zero_le 3
theorem onDiePathFailure (n : Nat) : Statement (.onDiePathFailure n) :=
  Nat.zero_le 3
theorem historyCopyComplete (n : Nat) : Statement (.historyCopyComplete n) :=
  Nat.zero_le 3

end Sys2Proof.Laws.WordCount
end

