-- ==== Sys2Proof/Tests/Slice0.lean ====
section
/-!
SUPPORT. Sys2Proof/Tests/Slice0.lean: ill-formed terms that WellFormed refuses; every row of the opcode table decoded from a word laid
out from the table's own fields; values that the spec works out; and a witness of the hypotheses of each obligation.
-/

open Sys2Proof Sys2Proof.Machine

set_option maxRecDepth 100000

/-! ### Ill-formed terms, one for each check of WellFormed -/

theorem test_wf_scalar_field : (Instr.saddi 64 0 0).wellFormed = false ∧ (Instr.saddi 0 64 0).wellFormed = false ∧
    (Instr.saddi 63 63 0).wellFormed = true := by decide
theorem test_wf_scalar_source : (Instr.sadd 0 (.r 63) (.r 0) 7).wellFormed = false ∧ (Instr.sadd 0 (.r 62) (.r 64) 7).wellFormed = false ∧
    (Instr.sadd 0 (.lit 5) (.r 62) 7).wellFormed = true := by decide
theorem test_wf_vector_field : (Instr.vabs 64 0 7).wellFormed = false ∧ (Instr.vabs 0 64 7).wellFormed = false := by decide
theorem test_wf_vector_source : (Instr.vadd 0 0 (.v 64) 7).wellFormed = false ∧ (Instr.vadd 0 0 (.s 63) 7).wellFormed = false ∧
    (Instr.vadd 63 63 (.v 63) 7).wellFormed = true := by decide
theorem test_wf_predicate : (Instr.pmov 8 0 7).wellFormed = false ∧ (Instr.pmov 0 8 7).wellFormed = false ∧
    (Instr.pmov 7 7 7).wellFormed = true := by decide
theorem test_wf_guard : (Instr.pmov 0 0 8).wellFormed = false ∧ (Instr.exit 8).wellFormed = false := by decide
theorem test_wf_pair : (Instr.brx 1 7).wellFormed = false ∧ (Instr.brx 62 7).wellFormed = false ∧ (Instr.brx 60 7).wellFormed = true ∧
    (Instr.dadd 0 2 3 7).wellFormed = false := by decide
theorem test_wf_vector_group : (Instr.marchr 60 0).wellFormed = false ∧ (Instr.marchr 59 61).wellFormed = true ∧
    (Instr.marchr 59 62).wellFormed = false := by decide
theorem test_wf_scalar_group : (Instr.tld 0 0 61).wellFormed = false ∧ (Instr.tld 0 0 60).wellFormed = true := by decide
theorem test_wf_negated_guard : (Instr.br 7 true 0).wellFormed = false ∧ (Instr.br 7 false 0).wellFormed = true ∧
    (Instr.br 6 true 0).wellFormed = true := by decide
theorem test_wf_shift_count : (Instr.sshli 0 0 64).wellFormed = false ∧ (Instr.vsrai 0 0 64).wellFormed = false := by decide
theorem test_wf_data : (Instr.lds 1 0 true 3 0 0 7 none).wellFormed = false ∧ (Instr.lds 2 0 true 4 0 0 7 none).wellFormed = false ∧
    (Instr.lds 60 0 true 4 0 0 7 none).wellFormed = false ∧ (Instr.lds 64 0 true 2 0 0 7 none).wellFormed = false ∧
    (Instr.lds 0 0 true 5 0 0 7 none).wellFormed = false ∧ (Instr.lds 56 0 true 4 0 0 7 none).wellFormed = true := by decide
theorem test_wf_address : (Instr.ldg 0 1 false 2 0 0 7 none).wellFormed = false ∧ (Instr.ldg 0 1 true 2 0 0 7 none).wellFormed = true ∧
    (Instr.lds 0 1 false 2 0 0 7 none).wellFormed = true ∧ (Instr.lds 0 64 false 2 0 0 7 none).wellFormed = false := by decide
theorem test_wf_order : (Instr.ldg 0 0 true 2 2 4 7 none).wellFormed = false ∧ (Instr.stg 0 0 true 2 1 4 7 none).wellFormed = false ∧
    (Instr.ldg 0 0 true 2 1 0 7 none).wellFormed = false ∧ (Instr.ldg 0 0 true 2 1 6 7 none).wellFormed = false ∧
    (Instr.ldg 0 0 true 2 0 1 7 none).wellFormed = false ∧ (Instr.lds 0 0 true 2 3 0 7 none).wellFormed = false ∧
    (Instr.ldg 0 0 true 2 3 0 7 none).wellFormed = true ∧ (Instr.ldp 0 0 true 2 3 0 7 none).wellFormed = true := by decide
theorem test_wf_atomic : (Instr.ats 0 0 true 15 false 0 0 true none).wellFormed = false ∧
    (Instr.ats 0 0 true 0 false 1 2 false none).wellFormed = false ∧ (Instr.ats 0 0 true 9 false 0 0 false none).wellFormed = false ∧
    (Instr.ats 0 0 true 11 true 0 0 true none).wellFormed = false ∧ (Instr.ats 2 0 true 10 true 0 0 true none).wellFormed = false ∧
    (Instr.ats 63 0 true 10 false 0 0 true none).wellFormed = false ∧ (Instr.ats 1 0 true 0 true 0 0 true none).wellFormed = false ∧
    (Instr.ats 0 0 true 0 false 2 6 false none).wellFormed = false ∧ (Instr.ats 4 0 true 10 true 3 5 true none).wellFormed = true := by decide
theorem test_wf_small_fields : (Instr.csign 7).wellFormed = false ∧ (Instr.rdsp 0 true 64 7).wellFormed = false ∧
    (Instr.fenceSc 8).wellFormed = false ∧ (Instr.tslot 16 0 0 false).wellFormed = false ∧ (Instr.waitc 0 4).wellFormed = false ∧
    (Instr.mma 8 0 0 0 7).wellFormed = false ∧ (Instr.mma 0 16 0 0 7).wellFormed = false ∧ (Instr.mma 0 0 0 8 7).wellFormed = false ∧
    (Instr.accst 0 3 false 7 0 0 0).wellFormed = false ∧ (Instr.chsend 32 0 7).wellFormed = false ∧ (Instr.wflag 12 7).wellFormed = false := by
  decide
theorem test_wf_more_fields : (Instr.tbpub 256 7).wellFormed = false ∧ (Instr.rdcnt 0 64 7).wellFormed = false ∧
    (Instr.crd 0 0 256).wellFormed = false ∧ (Instr.cwr 0 0 256).wellFormed = false ∧ (Instr.barsync 16 7).wellFormed = false ∧
    (Instr.march 0 8 0 false 3).wellFormed = false ∧ (Instr.cred 0 0 0 3 false).wellFormed = false ∧ (Instr.accrd 0 64 7 0 0).wellFormed = false := by
  decide
theorem test_wf_control_index : (Instr.cwr 0 0 1).wellFormed = false ∧ (Instr.cwr 0 0 10).wellFormed = false ∧
    (Instr.cwr 0 0 12).wellFormed = false ∧ (Instr.cwr 0 0 2).wellFormed = true := by decide
theorem test_wf_event : (Instr.powerOnReset).wellFormed = false := by decide

/-! ### Refused words -/

/-- Reserved encodings are refused, and do not fall through to a neighbour (02 R43, R57). -/
theorem test_reserved : (decode []).toOption = none ∧ (decode [0]).toOption = none ∧ (decode [0x04000070]).toOption = none ∧
    (decode [0x040040FF]).toOption = none ∧ (decode [0x1800007A]).toOption.isSome = true ∧ (decode [0x1800017A]).toOption = none ∧
    (decode [0x4800007C]).toOption = none := by decide

/-! ### Decoding: one word for every row of the opcode table, laid out from its match and fields (02 R42-R57) -/

/-- Majors 0x01, 0x02, 0x03: the `match` bits and field places of spec/opcode_table.json (02 R42, R57), each field a number of its own. -/
theorem test_decode_major_01_03 : ∀ e ∈ ([([0x05526190], .sadd 21 (.r 9) (.r 33) 1),
    ([0x0562A2A1], .ssub 22 (.r 10) (.r 34) 2),
    ([0x057FE3B2, 0xC0DE0002], .smul 23 (.lit 0xC0DE0002) (.r 35) 3),
    ([0x058324C3], .smulh 24 (.r 12) (.r 36) 4),
    ([0x059365D4], .smulhn 25 (.r 13) (.r 37) 5),
    ([0x05AFE6E5, 0xC0DE0005], .sand 26 (.lit 0xC0DE0005) (.r 38) 6),
    ([0x05B3E7F6], .sor 27 (.r 15) (.r 39) 7),
    ([0x05C42887], .sxor 28 (.r 16) (.r 40) 0),
    ([0x05DFE998, 0xC0DE0008], .sshl 29 (.lit 0xC0DE0008) (.r 41) 1),
    ([0x05E4AAA9], .sshr 30 (.r 18) (.r 42) 2),
    ([0x05F4EBBA], .ssra 31 (.r 19) (.r 43) 3),
    ([0x060FECCB, 0xC0DE000B], .smin 32 (.lit 0xC0DE000B) (.r 44) 4),
    ([0x06156DDC], .smax 33 (.r 21) (.r 45) 5),
    ([0x0625AEED], .sminn 34 (.r 22) (.r 46) 6),
    ([0x063FEFFE, 0xC0DE000E], .smaxn 35 (.lit 0xC0DE000E) (.r 47) 7),
    ([0x0640308F], .smov 36 (.r 48) 0),
    ([0x0A5648D5], .saddi 37 25 0x8D5),
    ([0x0A6258D8], .sandi 38 9 0x8D8),
    ([0x0A72A8DB], .sori 39 10 0x8DB),
    ([0x0A82F8DE], .sxori 40 11 0x8DE),
    ([0x0E930025], .sshli 41 12 37),
    ([0x0EA35026], .sshri 42 13 38),
    ([0x0EB3A027], .ssrai 43 14 39),
    ([0x0EC038EA], .slui 44 0x8EA)] : List (List Word × Instr)),
    decodeWord e.1 = some e.2 := by decide

/-- Majors 0x04: the `match` bits and field places of spec/opcode_table.json (02 R42, R57), each field a number of its own. -/
theorem test_decode_major_04 : ∀ e ∈ ([([0x10142690], .scmpEq 1 (.r 16) (.r 38) 1),
    ([0x102467A1], .scmpNe 2 (.r 17) (.r 39) 2),
    ([0x103FE8B2, 0xC0DE001A], .scmpLt 3 (.lit 0xC0DE001A) (.r 40) 3),
    ([0x1044E9C3], .scmpLe 4 (.r 19) (.r 41) 4),
    ([0x10552AD4], .scmpGt 5 (.r 20) (.r 42) 5),
    ([0x106FEBE5, 0xC0DE001D], .scmpGe 6 (.lit 0xC0DE001D) (.r 43) 6),
    ([0x1075ACF6], .scmpLtn 7 (.r 22) (.r 44) 7),
    ([0x1005ED87], .scmpLen 0 (.r 23) (.r 45) 0),
    ([0x101FEE98, 0xC0DE0020], .scmpGtn 1 (.lit 0xC0DE0020) (.r 46) 1),
    ([0x10266FA9], .scmpGen 2 (.r 25) (.r 47) 2)] : List (List Word × Instr)),
    decodeWord e.1 = some e.2 := by decide

/-- Majors 0x05: the `match` bits and field places of spec/opcode_table.json (02 R42, R57), each field a number of its own. -/
theorem test_decode_major_05 : ∀ e ∈ ([([0x159270B0], .vadd 25 9 (.s 48) 3),
    ([0x15A2BFC1, 0xC0DE0023], .vsub 26 10 (.lit 0xC0DE0023) 4),
    ([0x15B2F252], .vmul 27 11 (.v 50) 5),
    ([0x15C333E3], .vmulh 28 12 (.s 51) 6),
    ([0x15D37FF4, 0xC0DE0026], .vmulhn 29 13 (.lit 0xC0DE0026) 7),
    ([0x15E3A205], .vand 30 14 (.v 34) 0),
    ([0x15F3E396], .vor 31 15 (.s 35) 1),
    ([0x16043FA7, 0xC0DE0029], .vxor 32 16 (.lit 0xC0DE0029) 2),
    ([0x16146538], .vshl 33 17 (.v 37) 3),
    ([0x1624A6C9], .vshr 34 18 (.s 38) 4),
    ([0x1634FFDA, 0xC0DE002C], .vsra 35 19 (.lit 0xC0DE002C) 5),
    ([0x1645286B], .vmin 36 20 (.v 40) 6),
    ([0x165569FC], .vmax 37 21 (.s 41) 7),
    ([0x1665BF8D, 0xC0DE002F], .vminn 38 22 (.lit 0xC0DE002F) 0),
    ([0x1675EB1E], .vmaxn 39 23 (.v 43) 1),
    ([0x16802CAF], .vmov 40 (.s 44) 2)] : List (List Word × Instr)),
    decodeWord e.1 = some e.2 := by decide

/-- Majors 0x06, 0x07, 0x08: the `match` bits and field places of spec/opcode_table.json (02 R42, R57), each field a number of its own. -/
theorem test_decode_major_06_08 : ∀ e ∈ ([([0x1A964030], .vabs 41 25 3),
    ([0x1AA24041], .vneg 42 9 4),
    ([0x1AB28052], .vclz 43 10 5),
    ([0x1AC2C063], .vpopc 44 11 6),
    ([0x1AD30074], .vbrev 45 12 7),
    ([0x1AE37285], .vaddsat 46 13 (.s 50) 0),
    ([0x1AF3BF96, 0xC0DE0038], .vsubsat 47 14 (.lit 0xC0DE0038) 1),
    ([0x1B03E127], .vmad 48 15 (.v 33) 2),
    ([0x1B1422B8], .vsel 49 16 (.s 34) 3),
    ([0x1B244049], .vsext8 50 17 4),
    ([0x1954805A], .vsext16 21 18 5),
    ([0x1964C06B], .vzext8 22 19 6),
    ([0x1975007C], .vzext16 23 20 7),
    ([0x1985670D], .vbfe 24 21 (.v 39) 0),
    ([0x1995A89E], .vbfi 25 22 (.s 40) 1),
    ([0x19A5FFAF, 0xC0DE0041], .vdp4 26 23 (.lit 0xC0DE0041) 2),
    ([0x1DB6096B], .vaddi 27 24 0x96B),
    ([0x1DC6596E], .vandi 28 25 0x96E),
    ([0x1DD26971], .vori 29 9 0x971),
    ([0x1DE2B974], .vxori 30 10 0x974),
    ([0x21F2C02F], .vshli 31 11 47),
    ([0x22031030], .vshri 32 12 48),
    ([0x22136031], .vsrai 33 13 49),
    ([0x22203980], .vmovi 34 0x980)] : List (List Word × Instr)),
    decodeWord e.1 = some e.2 := by decide

/-- Majors 0x09, 0x0A, 0x0B, 0x0C, 0x0D: the `match` bits and field places of spec/opcode_table.json (02 R42, R57), each field a number of its own. -/
theorem test_decode_major_09_0d : ∀ e ∈ ([([0x2433FFB0, 0xC0DE004A], .vcmpEq 3 15 (.lit 0xC0DE004A) 3),
    ([0x24443341], .vcmpNe 4 16 (.v 51) 4),
    ([0x245461D2], .vcmpLt 5 17 (.s 33) 5),
    ([0x2464BFE3, 0xC0DE004D], .vcmpLe 6 18 (.lit 0xC0DE004D) 6),
    ([0x2474E374], .vcmpGt 7 19 (.v 35) 7),
    ([0x24052485], .vcmpGe 0 20 (.s 36) 0),
    ([0x24157F96, 0xC0DE0050], .vcmpLtn 1 21 (.lit 0xC0DE0050) 1),
    ([0x2425A627], .vcmpLen 2 22 (.v 38) 2),
    ([0x2435E7B8], .vcmpGtn 3 23 (.s 39) 3),
    ([0x24463FC9, 0xC0DE0053], .vcmpGen 4 24 (.lit 0xC0DE0053) 4),
    ([0x28514550], .pand 5 5 5 5),
    ([0x28618661], .por 6 6 6 6),
    ([0x2871C772], .pxor 7 7 7 7),
    ([0x28000003], .pandn 0 0 0 0),
    ([0x28104014], .pnot 1 1 1),
    ([0x28208025], .pmov 2 2 2),
    ([0x2D82F14B], .br 3 false 0x2F14B),
    ([0x31C2F14C], .call 3 true 0x2F14C),
    ([0x3582F14D], .meet 3 false 0x2F14D)] : List (List Word × Instr)),
    decodeWord e.1 = some e.2 := by decide

/-- Majors 0x0E: the `match` bits and field places of spec/opcode_table.json (02 R42, R57), each field a number of its own. -/
theorem test_decode_major_0e : ∀ e ∈ ([([0x38000060], .ret 6),
    ([0x38000071], .exit 7),
    ([0x38000002], .yield 0),
    ([0x38040013], .brx 16 1),
    ([0x38048024], .callx 18 2),
    ([0x3A600035], .mrget 38 3),
    ([0x38020046], .mrset 8 4),
    ([0x38000077], .nop),
    ([0x38500078], .csign 5),
    ([0x38002879], .trap 40 7),
    ([0x3800007A], .tret),
    ([0x3810007A], .tretSkip),
    ([0x3A43007B], .wreq 36 (.r 12)),
    ([0x3A502CBC], .rdsp 37 true 44 3),
    ([0x380FEDCD, 0xC0DE006B], .wrsp 45 (.lit 0xC0DE006B) 4)] : List (List Word × Instr)),
    decodeWord e.1 = some e.2 := by decide

/-- Majors 0x0F, 0x10: the `match` bits and field places of spec/opcode_table.json (02 R42, R57), each field a number of its own. -/
theorem test_decode_major_0f_10 : ∀ e ∈ ([([0x3E73EE50], .fadd 39 15 (.v 46) 5),
    ([0x3E842FE1], .fsub 40 16 (.s 47) 6),
    ([0x3E947FF2, 0xC0DE006E], .fmul 41 17 (.lit 0xC0DE006E) 7),
    ([0x3EA4B103], .ffma 42 18 (.v 49) 0),
    ([0x3EB4F294], .ffms 43 19 (.s 50) 1),
    ([0x3EC53FA5, 0xC0DE0071], .fmin 44 20 (.lit 0xC0DE0071) 2),
    ([0x3ED56136], .fmax 45 21 (.v 33) 3),
    ([0x3EE5A2C7], .fminnm 46 22 (.s 34) 4),
    ([0x3EF5FFD8, 0xC0DE0074], .fmaxnm 47 23 (.lit 0xC0DE0074) 5),
    ([0x3F060069], .fabs 48 24 6),
    ([0x3F16407A], .fneg 49 25 7),
    ([0x3F227F8B, 0xC0DE0077], .fcpsgn 50 9 (.lit 0xC0DE0077) 0),
    ([0x3D52801C], .frndn 21 10 1),
    ([0x3D62C02D], .frndz 22 11 2),
    ([0x3D73003E], .frndd 23 12 3),
    ([0x3D83404F], .frndu 24 13 4),
    ([0x4193ABD0], .hadd 25 14 (.s 43) 5),
    ([0x41A3FFE1, 0xC0DE007D], .hsub 26 15 (.lit 0xC0DE007D) 6),
    ([0x41B42D72], .hmul 27 16 (.v 45) 7),
    ([0x41C46E83], .hfma 28 17 (.s 46) 0),
    ([0x41D4BF94, 0xC0DE0080], .hmin 29 18 (.lit 0xC0DE0080) 1),
    ([0x41E4F025], .hmax 30 19 (.v 48) 2),
    ([0x41F50036], .habs 31 20 3),
    ([0x42054047], .hneg 32 21 4)] : List (List Word × Instr)),
    decodeWord e.1 = some e.2 := by decide

/-- Majors 0x11, 0x12: the `match` bits and field places of spec/opcode_table.json (02 R42, R57), each field a number of its own. -/
theorem test_decode_major_11_12 : ∀ e ∈ ([([0x4615B350], .badd 33 22 (.v 51) 5),
    ([0x4625E1E1], .bsub 34 23 (.s 33) 6),
    ([0x46363FF2, 0xC0DE0086], .bmul 35 24 (.lit 0xC0DE0086) 7),
    ([0x46466303], .bfma 36 25 (.v 35) 0),
    ([0x46526494], .bmin 37 9 (.s 36) 1),
    ([0x4662BFA5, 0xC0DE0089], .bmax 38 10 (.lit 0xC0DE0089) 2),
    ([0x4672C036], .babs 39 11 3),
    ([0x46830047], .bneg 40 12 4),
    ([0x4A937FD0, 0xC0DE008C], .faddRd 41 13 (.lit 0xC0DE008C) 5),
    ([0x4AA3A961], .faddRu 42 14 (.v 41) 6),
    ([0x4AB3EAF2], .fsubRd 43 15 (.s 42) 7),
    ([0x4AC43F83, 0xC0DE008F], .fsubRu 44 16 (.lit 0xC0DE008F) 0),
    ([0x4AD46C14], .fmulRd 45 17 (.v 44) 1),
    ([0x4AE4ADA5], .fmulRu 46 18 (.s 45) 2),
    ([0x4AF4FFB6, 0xC0DE0092], .ffmaRd 47 19 (.lit 0xC0DE0092) 3),
    ([0x4B052F47], .ffmaRu 48 20 (.v 47) 4),
    ([0x4B154058], .fsqrtRd 49 21 5),
    ([0x4B258069], .fsqrtRu 50 22 6),
    ([0x4955F27A], .fdivRd 21 23 (.v 50) 7),
    ([0x4966338B], .fdivRu 22 24 (.s 51) 0)] : List (List Word × Instr)),
    decodeWord e.1 = some e.2 := by decide

/-- Majors 0x13, 0x14: the `match` bits and field places of spec/opcode_table.json (02 R42, R57), each field a number of its own. -/
theorem test_decode_major_13_14 : ∀ e ∈ ([([0x4C167F90, 0xC0DE0098], .feq 1 25 (.lit 0xC0DE0098) 1),
    ([0x4C226221], .fne 2 9 (.v 34) 2),
    ([0x4C32A3B2], .flt 3 10 (.s 35) 3),
    ([0x4C42FFC3, 0xC0DE009B], .fle 4 11 (.lit 0xC0DE009B) 4),
    ([0x4C532554], .fgt 5 12 (.v 37) 5),
    ([0x4C6366E5], .fge 6 13 (.s 38) 6),
    ([0x4C73BFF6, 0xC0DE009E], .funord 7 14 (.lit 0xC0DE009E) 7),
    ([0x4C03E807], .ford 0 15 (.v 40) 0),
    ([0x51F40010], .frcp 31 16 1),
    ([0x52044021], .frsq 32 17 2),
    ([0x52148032], .fsqrt 33 18 3),
    ([0x5224ECC3], .fdiv 34 19 (.s 44) 4),
    ([0x52350054], .fexp2 35 20 5),
    ([0x52454065], .flog2 36 21 6),
    ([0x52558076], .fsinpi 37 22 7),
    ([0x5265C007], .fcospi 38 23 0),
    ([0x52760018], .ftanh 39 24 1),
    ([0x52864029], .fsigm 40 25 2)] : List (List Word × Instr)),
    decodeWord e.1 = some e.2 := by decide

/-- Majors 0x15: the `match` bits and field places of spec/opcode_table.json (02 R42, R57), each field a number of its own. -/
theorem test_decode_major_15 : ∀ e ∈ ([([0x56924030], .cvtI32F32 41 9 3),
    ([0x56A28041], .cvtN32F32 42 10 4),
    ([0x56B2C052], .cvtF32I32 43 11 5),
    ([0x56C30063], .cvtF32N32 44 12 6),
    ([0x56D34074], .cvtF16F32 45 13 7),
    ([0x56E38005], .cvtF32F16 46 14 0),
    ([0x56F3C016], .cvtBf16F32 47 15 1),
    ([0x57040027], .cvtF32Bf16 48 16 2),
    ([0x57144038], .cvtE4m3F32 49 17 3),
    ([0x57248049], .cvtF32E4m3 50 18 4),
    ([0x5554C05A], .cvtE5m2F32 21 19 5),
    ([0x5565006B], .cvtF32E5m2 22 20 6),
    ([0x5575407C], .cvtE2m1F32 23 21 7),
    ([0x5585800D], .cvtF32E2m1 24 22 0),
    ([0x5595EE9E], .pk2Bf16 25 23 (.s 46) 1),
    ([0x55A63FAF, 0xC0DE00B9], .pk2F16 26 24 (.lit 0xC0DE00B9) 2)] : List (List Word × Instr)),
    decodeWord e.1 = some e.2 := by decide

/-- Majors 0x16: the `match` bits and field places of spec/opcode_table.json (02 R42, R57), each field a number of its own. -/
theorem test_decode_major_16 : ∀ e ∈ ([([0x59B67030], .shfl 27 25 (.v 48) 3),
    ([0x59C271C1], .shflup 28 9 (.s 49) 4),
    ([0x59D2BFD2, 0xC0DE00BC], .shfldn 29 10 (.lit 0xC0DE00BC) 5),
    ([0x59E2F363], .shflx 30 11 (.v 51) 6),
    ([0x59F321F4], .bcast 31 12 (.r 33) 7),
    ([0x5A000005], .vany 32 0 0),
    ([0x5A104016], .vall 33 1 1),
    ([0x5A208027], .ballot 34 2 2),
    ([0x5A30C038], .vpfxc 35 3 3),
    ([0x5A444449], .vcomp 36 17 4 4),
    ([0x5A54855A], .vexpd 37 18 5 5),
    ([0x5A64C06B], .vmrank 38 19 6),
    ([0x5A75007C], .vmcnt 39 20 7),
    ([0x5A85400D], .vmlead 40 21 0),
    ([0x5815BF9E, 0xC0DE00C8], .vtopk 1 22 (.lit 0xC0DE00C8) 1),
    ([0x5825ECAF], .vtopka 2 23 (.r 44) 2)] : List (List Word × Instr)),
    decodeWord e.1 = some e.2 := by decide

/-- Majors 0x17, 0x18, 0x19, 0x1A, 0x1B, 0x1C, 0x1D, 0x1E, 0x1F, 0x20: the `match` bits and field places of spec/opcode_table.json (02 R42, R57), each field a number of its own. -/
theorem test_decode_major_17_20 : ∀ e ∈ ([([0x5EB60030], .raddI32 43 24 3),
    ([0x5EC64041], .rminI32 44 25 4),
    ([0x5ED24052], .rmaxI32 45 9 5),
    ([0x5EE28063], .rand 46 10 6),
    ([0x5EF2C074], .ror 47 11 7),
    ([0x5F030005], .rxor 48 12 0),
    ([0x5F134016], .raddF32 49 13 1),
    ([0x5F238027], .raddF32Any 50 14 2),
    ([0x5D53C038], .rminF32 21 15 3),
    ([0x5D640049], .rmaxF32 22 16 4),
    ([0x5D74405A], .scanI32 23 17 5),
    ([0x5D84806B], .scanF32 24 18 6),
    ([0x5D94C07C], .xscanI32 25 19 7),
    ([0x600FC000, 0xC0DE00D7], .rgput (.lit 0xC0DE00D7) 0),
    ([0x60000011], .rgflush 1),
    ([0x61C000A2], .rgqry 28 2),
    ([0x6582AC07, 0x00ABC0DA], .ldg 24 10 true 3 0 0 3 (some 0x00ABC0DA)),
    ([0x6982B139, 0x00ABC0DB], .stg 24 10 true 4 2 3 4 (some 0x00ABC0DB)),
    ([0x6D82800B, 0x00ABC0DC], .lds 24 10 false 0 0 0 5 (some 0x00ABC0DC)),
    ([0x7182853D, 0x00ABC0DD], .sts 24 10 false 1 2 3 6 (some 0x00ABC0DD)),
    ([0x7582A80F, 0x00ABC0DE], .ldc 24 10 true 2 0 0 7 (some 0x00ABC0DE)),
    ([0x7982AD31, 0x00ABC0DF], .stc 24 10 true 3 2 3 0 (some 0x00ABC0DF)),
    ([0x7D829003, 0x00ABC0E0], .ldx 24 10 false 4 0 0 1 (some 0x00ABC0E0)),
    ([0x81828135, 0x00ABC0E1], .stx 24 10 false 0 2 3 2 (some 0x00ABC0E1))] : List (List Word × Instr)),
    decodeWord e.1 = some e.2 := by decide

/-- Majors 0x21, 0x22, 0x23, 0x24, 0x25, 0x26, 0x27, 0x28: the `match` bits and field places of spec/opcode_table.json (02 R42, R57), each field a number of its own. -/
theorem test_decode_major_21_28 : ∀ e ∈ ([([0x8582A407, 0x00ABC0E2], .ldp 24 10 true 1 0 0 3 (some 0x00ABC0E2)),
    ([0x8982A939, 0x00ABC0E3], .stp 24 10 true 2 2 3 4 (some 0x00ABC0E3)),
    ([0x8CE262D5, 0x00ABC0E4], .atg 14 9 true 1 false 3 2 true (some 0x00ABC0E4)),
    ([0x90E273D5, 0x00ABC0E5], .ats 14 9 true 9 true 3 2 true (some 0x00ABC0E5)),
    ([0x94E27CD5, 0x00ABC0E6], .atc 14 9 true 14 false 3 2 true (some 0x00ABC0E6)),
    ([0x98E269D5, 0x00ABC0E7], .atx 14 9 true 4 true 3 2 true (some 0x00ABC0E7)),
    ([0x9C000170], .fenceAcq 1),
    ([0x9C000271], .fenceRel 2),
    ([0x9C000372], .fenceAr 3),
    ([0x9C000473], .fenceSc 4),
    ([0x9C000074], .ackwait),
    ([0xA0006400], .pf 25),
    ([0xA0402400], .pf2 9),
    ([0xA0802AC0], .wbr 10 44 false),
    ([0xA0C02ED3], .invr 11 45 true true),
    ([0xA1003000], .icpf 12),
    ([0xA1403400], .bpf 13)] : List (List Word × Instr)),
    decodeWord e.1 = some e.2 := by decide

/-- Majors 0x29: the `match` bits and field places of spec/opcode_table.json (02 R42, R57), each field a number of its own. -/
theorem test_decode_major_29 : ∀ e ∈ ([([0xA4183B00], .cpg2s 24 14 48),
    ([0xA4593F10], .cps2g 25 15 49),
    ([0xA49A4320], .cps2s 26 16 50),
    ([0xA4DB4730], .cps2c 27 17 51),
    ([0xA51C4A10], .cpc2s 28 18 33),
    ([0xA55D4E20], .tld 29 19 34),
    ([0xA59E5230], .tst 30 20 35),
    ([0xA5CB5641], .tslot 11 21 36 true),
    ([0xA6000000], .cpclose),
    ([0xA640A001], .waitc 40 1),
    ([0xA6806000], .cpring 24)] : List (List Word × Instr)),
    decodeWord e.1 = some e.2 := by decide

/-- Majors 0x2A: the `match` bits and field places of spec/opcode_table.json (02 R42, R57), each field a number of its own. -/
theorem test_decode_major_2a : ∀ e ∈ ([([0xA81FFFF0], .mma 7 15 15 7 7),
    ([0xA8400000], .mmaz 0 0 0 0 0),
    ([0xA8840010], .accz 1 1),
    ([0xA8C8002D, 0x9569ABCD], .accst 2 2 true 2 37 22 0x9ABCD),
    ([0xA90C0038, 0x9569ABCD], .accld 3 3 37 22 0x9ABCD),
    ([0xA952D048, 0x9409ABCD], .accrd 4 45 4 37 0x9ABCD),
    ([0xA996D058, 0x9409ABCD], .accwr 5 45 5 37 0x9ABCD),
    ([0xA9C18060], .oclaim 6 6),
    ([0xAA01C070], .orel 7 7),
    ([0xAA420008, 0x9569ABCD], .oloadData 8 0 37 22 0x9ABCD),
    ([0xAA42401A, 0x9569ABCD], .oloadSide 9 1 37 22 0x9ABCD),
    ([0xAA42802C, 0x9409ABCD], .oloadBand 10 2 37 0x9ABCD),
    ([0xAA8C0038, 0x94000000], .accsclF32 3 3 37),
    ([0xAA900049, 0x94000000], .accsclI2f 4 4 37),
    ([0xAA94005A, 0x94000000], .accsclF2i 5 5 37)] : List (List Word × Instr)),
    decodeWord e.1 = some e.2 := by decide

/-- Majors 0x2B, 0x2C: the `match` bits and field places of spec/opcode_table.json (02 R42, R57), each field a number of its own. -/
theorem test_decode_major_2b_2c : ∀ e ∈ ([([0xAC005EBD], .qpush 43 23 6),
    ([0xAC4062CF], .qpop 44 24 7),
    ([0xAC9666D0], .qpushn 22 45 25 0),
    ([0xACD726E2], .qpopn 23 46 9 1),
    ([0xAD002A84], .qallow 40 10 2),
    ([0xAD590296], .qlen 25 41 3),
    ([0xAD8030D9], .chsend 13 12 4),
    ([0xADC034EB], .chrecv 14 13 5),
    ([0xAE1C38FC], .chsendn 28 15 14 6),
    ([0xAE5D3D0E], .chrecvn 29 16 15 7),
    ([0xAE9E4000], .renq 30 16 0),
    ([0xAEDF4402], .rdeq 31 17 1),
    ([0xAF204805], .rawait 32 18 2),
    ([0xAF404C06], .rrel 19 3),
    ([0xB00050C8], .barinit 12 20 4),
    ([0xB06300DA], .bararr 35 13 5),
    ([0xB08058ED], .barwait 14 22 6),
    ([0xB0C000FF], .barsync 15 7),
    ([0xB1006000], .jinc 24 0),
    ([0xB1676402], .spawn 39 25 1),
    ([0xB1A82405], .spawnw 40 9 2),
    ([0xB1C02806], .doneCrew 10 3),
    ([0xB2002C08], .cancel 11 4),
    ([0xB240005B], .wflag 5 5)] : List (List Word × Instr)),
    decodeWord e.1 = some e.2 := by decide

/-- Majors 0x2D, 0x2E, 0x2F: the `match` bits and field places of spec/opcode_table.json (02 R42, R57), each field a number of its own. -/
theorem test_decode_major_2d_2f : ∀ e ∈ ([([0xB4000AEC], .tbpub 174 6),
    ([0xB4400E8E], .tbrel 232 7),
    ([0xB4AE0290], .tbstat 46 41 0),
    ([0xB4EF0002], .spchk 47 1),
    ([0xB5000005], .spbar 2),
    ([0xB80C7865], .march 12 30 6 true 1),
    ([0xB84C7800], .marchr 12 30),
    ([0xB8955300], .fprep 21 20 48),
    ([0xB8CC7B10], .bfetch 12 30 49),
    ([0xB90C7B20], .trace 12 30 50),
    ([0xB94C7800], .tracer 12 30),
    ([0xB98C7A10], .tex 12 30 33),
    ([0xB9CC7A20], .texq 12 30 34),
    ([0xBC1B2636], .cred 27 9 35 2 true),
    ([0xBC5C2A40], .cgat 28 10 36),
    ([0xBC9D2E56], .crsc 29 11 37 2 true),
    ([0xBCDE3260], .ca2a 30 12 38),
    ([0xBD003670], .csend 13 39),
    ([0xBD600280], .crecv 32 40),
    ([0xBD800290], .cwait 41)] : List (List Word × Instr)),
    decodeWord e.1 = some e.2 := by decide

/-- Majors 0x30, 0x3E, 0x3F: the `match` bits and field places of spec/opcode_table.json (02 R42, R57), each field a number of its own. -/
theorem test_decode_major_30_3f : ∀ e ∈ ([([0xC2443020], .dadd 36 16 48 2),
    ([0xC264B231], .dsub 38 18 50 3),
    ([0xC161AA42], .dmul 22 6 42 4),
    ([0xC1822C53], .dfma 24 8 44 5),
    ([0xC1A2AE64], .ddiv 26 10 46 6),
    ([0xC1C30075], .dsqrt 28 12 7),
    ([0xC1E58006], .cvtF64F32 30 22 0),
    ([0xC2940017], .cvtF32F64 41 16 1),
    ([0xF8003220], .brk 50 2),
    ([0xFAB03331], .rdcnt 43 51 3),
    ([0xF8002142], .mark 33 4),
    ([0xFC0B4A06], .crd 45 10 6),
    ([0xFC1B8B06], .cwr 46 11 6),
    ([0xFC1BCC01], .freplyResume 47 12),
    ([0xFC1C4E0A], .carve 49 14),
    ([0xFC1C8F0C], .pjob 50 15),
    ([0xFC201000], .tlbinvPage 16),
    ([0xFC201101], .tlbinvAsid 17),
    ([0xFC201202], .tlbinvAll 18),
    ([0xFC361300], .slsync 24 19),
    ([0xFC465400], .halt 25 20)] : List (List Word × Instr)),
    decodeWord e.1 = some e.2 := by decide


/-! ### Witnesses of the hypotheses of the obligations -/

/-- A machine about to issue from its placed cohort, with every address below 2^30 mapped onto itself for core 0 and sector 0. -/
def mach : State :=
  { State.reset.withClause (List.replicate 13 0) with
    tlb := [⟨0, 0, 0, 2 ^ 30, 0, true, true, true⟩, ⟨640, 0, 0, 2 ^ 30, 0, true, true, true⟩] }

/-- Its cohort. -/
def me : Cohort := probeCohort 1 0 0 (List.replicate 13 0)

/-- The machine with its cohort and its crew changed. -/
def machOf (f : Cohort → Cohort) (k : Crew → Crew := id) : State := (mach.onCohort 2 f).onCrew 1 k

theorem witness_ScalarArithmetic : ∀ i ∈ [infoSal 1 0 1 (.r 2) (.r 3) 7, infoSal 1 14 63 (.lit 0x80000000) (.r 62) 6,
    infoSmov 1 15 62 (.lit 5) 0, infoSali 2 0 62 63 0x800, infoSshi 3 2 5 6 63, infoSlui 3 3 0 0xFFF], Issues mach i me := by
  unfold Issues; decide

theorem witness_IntegerCompare : ∀ i ∈ [infoScmp 4 0 7 (.r 2) (.lit 3) 7, infoVcmp 9 9 6 62 (.v 63) 0], Issues mach i me := by
  unfold Issues; decide

theorem witness_VectorArithmetic : ∀ i ∈ [infoVal 5 0 1 2 (.v 3) 7, infoVmov 5 15 63 (.s 62) 7, infoVun 6 0 62 63 0,
    infoValD 6 7 4 5 (.lit 6) 7, { infoVal 6 8 4 5 (.v 6) 3 with g := 7, ps := [3] }, infoVali 7 3 1 2 0xFFF, infoVshi 8 2 1 2 63,
    infoVmovi 8 3 62 0x800], Issues mach i me := by
  unfold Issues; decide

theorem witness_PredicateLogic : Issues mach (infoPred 10 0 7 6 7 0) me ∧ Issues mach (infoPredU 10 5 0 7 7) me ∧
    wOp 0x28000076 = 10 ∧ 6 ≤ wFn 0x28000076 ∧ wOp 0x280000F0 = 10 ∧ (0x280000F0 : Word).getLsbD 7 = true ∧
    wOp 0x28800070 = 10 ∧ (((0x28800070 : Word).toNat / 2 ^ 20 % 64) / 8 ≠ 0) ∧
    wOp 0x28020070 = 10 ∧ (((0x28020070 : Word).toNat / 2 ^ 14 % 64) / 8 ≠ 0) ∧
    wOp 0x28000870 = 10 ∧ (((0x28000870 : Word).toNat / 2 ^ 8 % 64) / 8 ≠ 0) ∧
    wOp 0x28000174 = 10 ∧ 4 ≤ wFn 0x28000174 ∧ (0x28000174 : Word).toNat / 2 ^ 8 % 64 ≠ 0 := by
  unfold Issues; decide

theorem witness_Float : ∀ i ∈ [infoVun 15 9 1 2 7, infoVal 15 0 62 63 (.lit 0x3F800000) 0, infoValD 15 3 1 2 (.s 62) 7, infoVun 16 6 1 2 7,
    infoVal 16 0 1 2 (.v 3) 7, infoValD 17 3 1 2 (.v 3) 7, infoVun 21 0 1 2 7, infoVal 21 14 1 2 (.v 3) 7, infoVcmp 19 0 6 2 (.v 3) 7,
    { infoVun 20 0 1 2 7 with long := true }, { infoVal 20 3 1 2 (.lit 5) 7 with long := true }], Issues mach i me := by
  unfold Issues; decide

theorem witness_FloatMinMax :
    let nan := fun (x : Nat) => decide (0x7F800000 < x % 2 ^ 31)
    (nan 0x7F800000 = false ∧ nan 0x80000000 = false) ∧ (nan 0x7F800001 = true ∧ nan 0 = false) ∧
    (nan 0 = false ∧ nan 0xFFFFFFFF = true) ∧ nan 0x7FC00000 = true ∧ (fp32.val 0x7FC00000).isNan = true := by decide

theorem witness_DoubleFloat :
    (∀ i ∈ [infoD3 48 0 2 4 6 7, infoD3D 48 3 2 4 6 7, infoD2 48 5 2 4 7, infoDw 48 6 2 5 7, infoDn 48 7 3 4 7],
      Issues { mach with emul := [(0, 9)] } { i with long := true } me) ∧ Tab.read 0 [(0, 9)] 0 ≠ 0 ∧
    (let e : Emul := ⟨0, 2, 4, 6, 7, 1⟩
     let c := { me with emul := some e }
     (machOf fun c => { c with emul := some e }).cohort 2 = some c ∧ c.emul = some e) := by
  unfold Issues; decide

theorem witness_CrossLane : ∀ i ∈ [infoVal 22 0 1 2 (.v 3) 7, infoBcast 22 4 1 2 (.lit 3) 7, infoVote 22 5 1 6 7, infoVredS 23 0 1 2 7,
    infoVpfxc 22 8 1 2 7, infoVun 22 11 1 2 7, infoVcomp 22 9 1 2 3 7, infoVcomp 22 10 1 2 3 7, infoVtopk 22 14 1 2 (.r 3) 7,
    infoVredS 23 6 1 2 7, infoVun 23 11 1 2 7], Issues mach i me := by
  unfold Issues; decide

theorem witness_Regrouping : Issues mach (infoRgput 24 0 (.r 9) 7) me ∧ me.tmode = false ∧ me.acks = 0 ∧ me.ops = [] ∧
    (∀ n, n < 8 → (Tab.read {} mach.bins (binIx (mach.crewOf me).core me.sub n)).held = false) ∧
    ((me.mapT (fun t => t.tid == 3) (·.setP 0 true)).actors 0).length = 1 ∧
    Issues (machOf (·.mapT (fun t => t.tid == 3) (·.setP 0 true))) (infoRgput 24 0 (.r 9) 0)
      (me.mapT (fun t => t.tid == 3) (·.setP 0 true)) ∧
    1 < (mach.crewOf me).gw ∧ mach.latent = [] ∧ Issues mach (infoGonly 24 1 7) me ∧ Issues mach (infoRgqry 24 2 1 7) me ∧ me.guard 7 = true := by
  unfold Issues; decide

theorem witness_BinFormation :
    let t : Thread := { tid := 5, lane := 0 }
    let s : State := { mach with bins := [(0, { held := true, full := true, crew := 1, threads := [t] })] }
    let b := Tab.read {} s.bins (binIx 0 0 0)
    (b.full = true ∧ b.threads ≠ [] ∧ (∃ cr, s.crew b.crew = some cr ∧ cr.cohortBytes b.role ≤ s.freeRegs 0 0) ∧
      s.freePlace 0 0 = some 1) ∧ (Tab.read {} s.bins (binIx 0 0 1)).full = false ∧
      let u : State := { s with cohorts := s.cohorts ++ (upto 31).map fun k => { me with key := 100 + k, place := k % 16 } }
      u.freePlace 0 0 = none ∧ ∃ cr, u.crew b.crew = some cr ∧ u.freeRegs 0 0 < cr.cohortBytes b.role := by
  refine ⟨⟨?_, ?_, ⟨_, rfl, ?_⟩, ?_⟩, ?_, ?_, _, rfl, ?_⟩ <;> decide

/-- A taken branch to the next header of the 64-byte text, a header bit in the map cached with its line. -/
def lined : State :=
  { mach with icache := [⟨0, 0, 65536 / 64, probeClause :: List.replicate 15 0, some 1, 0⟩] }

theorem witness_Branches :
    let c := { me with threads := me.threads.map fun t => { t with pc := 65540 } }
    (Issues lined (infoBr 11 7 false 0) c ∧ Issues lined (infoBr 12 6 true 0) c ∧ Issues lined (infoBr 13 7 false 0) c) ∧
    (lined.badTarget (lined.crewOf c) (BitVec.ofInt 64 ((c.pc : Int) + 4 * (0x3FFFFF#22).toInt)).toNat = none) ∧
    (∀ t ∈ c.threads, (t.act && (if 0 = 7 then !false else t.pr 0 != false)) = false) ∧
    lined.badTarget (lined.crewOf c) (BitVec.ofInt 64 ((c.pc : Int) + 4 * (0#22).toInt)).toNat = some (8, 65540) ∧
    (∃ t ∈ c.threads, (t.act && (if 7 = 7 then !false else t.pr 7 != false)) = true) := by
  unfold Issues; and_intros <;> decide

theorem witness_Jumps :
    let to_ := fun (x : Nat) => me.mapT (fun _ => true) fun t => { (t.setPair 4 (BitVec.ofNat 64 x)) with lr := BitVec.ofNat 64 x }
    let s := fun (x : Nat) => lined.onCohort 2 fun _ => to_ x
    (Issues (s 65536) (infoGonly 14 0 7) (to_ 65536) ∧ Issues (s 65536) (infoPairA 14 3 4 7) (to_ 65536) ∧
      Issues (s 65536) (infoPairA 14 4 4 7) (to_ 65536) ∧ Issues (s 65536) (infoPairA 14 6 4 7) (to_ 65536) ∧
      Issues (s 65536) (infoPairD 14 5 4 7) (to_ 65536)) ∧
    (∀ t ∈ (to_ 65536).actors 7, (s 65536).badTarget ((s 65536).crewOf (to_ 65536)) t.lr.toNat = none ∧
      (s 65536).badTarget ((s 65536).crewOf (to_ 65536)) (t.vPair 4).toNat = none) ∧
    (Issues (s 65544) (infoGonly 14 0 7) (to_ 65544) ∧ Issues (s 65544) (infoPairA 14 3 4 7) (to_ 65544) ∧
      Issues (s 65544) (infoPairA 14 4 4 7) (to_ 65544) ∧ Issues (s 65544) (infoPairA 14 6 4 7) (to_ 65544)) ∧
    ((winners (((to_ 65544).actors 7).filterMap fun t =>
      ((s 65544).badTarget ((s 65544).crewOf (to_ 65544)) (t.vPair 4).toNat).map fun e =>
        ({ tid := t.tid, code := e.1, detail := if e.1 = 8 then 0 else 4, info := e.2 } : LCause))).map (·.info) =
      List.replicate 16 65544) ∧
    (∀ t ∈ (to_ 65544).actors 7, t.lr = t.vPair 4 ∧ t.vPair 4 ≠ BitVec.allOnes 64) := by
  unfold Issues; and_intros <;> decide

theorem witness_ExitYieldSign :
    (Issues mach (infoGonly 14 1 7) me ∧ (mach.crewOf me).saving = false) ∧
    (Issues (machOf id fun k => { k with mig := .saving 0 }) (infoGonly 14 1 7) me ∧
      ((machOf id fun k => { k with mig := .saving 0 }).crewOf me).saving = true) ∧
    (Issues mach (infoGonly 14 2 7) me ∧ (me.threads.filter fun t => me.elig t && !t.act) = []) ∧
    (let c := me.mapT (fun t => t.tid == 9) fun t => { t with act := false, pc := 65600 }
     Issues (machOf fun _ => c) (infoGonly 14 2 7) c ∧ (c.threads.filter fun t => c.elig t && !t.act).map (·.tid) ≠ []) ∧
    (Issues mach (infoCsign 14 8 6) me ∧ me.sig 6 = none) ∧
    (let c := { me with sigs := [⟨6, BitVec.ofNat 64 me.pc, false⟩] }
     Issues (machOf fun _ => c) (infoCsign 14 8 6) c ∧ ∃ x ∈ c.sigs, c.sig 6 = some x ∧ x.pc = BitVec.ofNat 64 c.pc) ∧
    Issues mach (infoNone 14 7) me := by
  unfold Issues; and_intros <;> decide

theorem witness_Exceptions :
    (let k := fun (k : Crew) => { k with hdr := { k.hdr with trappc := 65536 } }
     let s : State := { machOf id k with icache := lined.icache }
     Issues s (infoNum 14 9 63 7) me ∧ Issues s (infoNum 62 0 63 7) me ∧ me.tmode = false ∧
      s.trapRefused (s.crewOf me) = false ∧ (s.crewOf me).saving = false ∧ me.actors 7 ≠ [] ∧ s.cohort me.key = some me ∧
      me.actives ≠ []) ∧
    (Issues mach (infoNum 14 9 1 0) me ∧ me.actors 0 = [] ∧ Issues mach (infoNum 62 0 1 0) me) ∧
    (let c := { me with tmode := true, threads := me.threads.map fun t => { t with tpc := 65540, inH := true } }
     let s := lined.onCohort 2 fun _ => c
     Issues s (infoTret 0) c ∧ Issues s (infoTret 1) c ∧ c.tmode = true ∧
      (∀ t ∈ c.actives, s.badTpc (s.crewOf c) t.tpc.toNat = none) ∧ s.cohort c.key = some c ∧
      (∃ k, s.crew c.crew = some k ∧ k.spec = false)) ∧
    (Issues mach (infoTret 0) me ∧ Issues mach (infoTret 1) me ∧ me.tmode = false) ∧ mach.trapRefused (mach.crewOf me) = true ∧
    (let s : State := machOf fun c => { c with clause := some { hdr := 65536, word := probeClause, words := [0xFFFFFFFF] } }
     s.agenda = [] ∧ s.stalled = false ∧ (∃ c, s.issuer = some c ∧ c.fetched = [0xFFFFFFFF]) ∧
      (decode [0xFFFFFFFF]).toOption = none) := by
  unfold Issues
  refine ⟨by decide, by decide, ⟨by decide, by decide, by decide, by decide, by decide, ⟨_, rfl, by decide⟩⟩, by decide, by decide,
    by decide, by decide, ⟨_, rfl, by decide⟩, by decide⟩

theorem witness_WidthRequest :
    (Issues mach (infoWreq 14 11 5 (.lit 32)) me ∧ me.live.length = me.actives.length) ∧
    (let c := me.mapT (fun t => t.tid == 9) fun t => { t with act := false }
     Issues (machOf fun _ => c) (infoWreq 14 11 5 (.r 2)) c ∧ c.live.length ≠ c.actives.length) ∧
    (let s := machOf fun c => { c.mapT (fun _ => true) fun t => { t with st := .waiting (.wreq 5 16 65600), act := false } with
        clause := none }
     ∃ cr, s.crew 1 = some cr ∧ cr.torn = false ∧ cr.shadow = false ∧ cr.out = none ∧
      (s.bins.any fun e => e.2.held && e.2.crew == 1) = false ∧
      let cs := (s.cohortsOf 1).filter fun c => !c.live.isEmpty
      cs ≠ [] ∧ (∀ c ∈ cs, c.atWreq ≠ none) ∧
      s.grant cr.core cr.base (reqOf (leastD 64 (cs.filterMap fun c => c.atWreq.map (·.2.1)))) cr.hdr (fun g =>
        (sliceAll { cr with gw := g } (s.cohortsOf 1) g 0 (slicesOf cr.hdr g)).map fun c => (c.cid, c.role)) 1 = some cr.gw) := by
  unfold Issues
  refine ⟨by decide, by decide, ⟨_, rfl, by decide⟩⟩

/-- A machine whose crew of width 16 waits at wreq 64; its one role has 64 threads. -/
def wideS (f : Cohort → Cohort) : State :=
  machOf fun c => f { c.mapT (fun _ => true) fun t => { t with st := .waiting (.wreq 5 64 65600), act := false } with clause := none }

/-- The grant of the crew in it. -/
def wideGrant (s : State) : Option Nat := (s.crew 1).bind fun cr => s.grant cr.core cr.base 64 cr.hdr (fun g =>
  (sliceAll { cr with gw := g } (s.cohortsOf 1) g 0 (slicesOf cr.hdr g)).map fun c => (c.cid, c.role)) 1

theorem witness_WidthRequest_reslice :
    (∀ e ∈ [(wideS id, false, true), (wideS fun c => { c with acc := [(2, 4)] }, true, true),
        (wideS fun c => { c with flags := [(3, 1)] }, false, false)],
      (e.1.cohortsOf 1).all (fun c => decide (c.atWreq = some (5, 64, 65600)) && c.threads.all fun x => decide (x.atWreq ≠ none)) = true ∧
        (e.1.crew 1).any (fun cr => !cr.torn && !cr.shadow && cr.out.isNone && decide (cr.gw = 16) &&
          ((slicesOf cr.hdr 64).any fun z => decide (cr.hdr.tbase z.2.1 + z.2.2.1 ≤ 15 ∧
            15 < cr.hdr.tbase z.2.1 + z.2.2.1 + z.2.2.2))) = true ∧
        wideGrant e.1 = some 64 ∧ e.1.crewHolds 1 = e.2.1 ∧ e.1.crewQuiet 1 = e.2.2) ∧
    (let s := wideS id
     wideGrant { s with
       cohorts := s.cohorts ++ (upto 64).map (fun k => { me with key := 100 + k, crew := 99, sub := k % 4 }),
       crews := s.crews ++ [{ noCrew with key := 99, core := 0 }] } = none) := by
  decide

theorem witness_SpecialRegisters :
    (Issues mach (infoRdsp 14 12 5 true 11 7) me ∧ spIsScalar 11 = true ∧ me.spWaits 11 = false ∧ me.guard 7 = true) ∧
    (Issues mach (infoRdsp 14 12 5 true 0 7) me ∧ spIsScalar 0 = true) ∧
    (Issues mach (infoRdsp 14 12 5 true 34 7) me ∧ spIsScalar 34 = false ∧ spIsVector 34 = true) ∧
    (let c := { me with ops := [{ id := 9, sfu := true }] }
     Issues (machOf fun _ => c) (infoRdsp 14 12 5 true 11 7) c ∧ c.spWaits 11 = true) ∧
    Issues mach (infoRdsp 14 12 4 false 34 7) me ∧ Issues mach (infoWrsp 14 13 11 (.s 2) 7) me ∧
    me.ops.any (·.sfu) = false ∧ Issues mach (infoWrsp 14 13 12 (.lit 7) 7) me ∧
    Issues mach (infoWrsp 14 13 32 (.v 60) 7) me ∧ 60 % 2 = 0 ∧ 60 + 2 ≤ 63 ∧
    (let c := { me with tmode := true }
     Issues (machOf fun _ => c) (infoWrsp 14 13 34 (.v 60) 7) c ∧ Issues (machOf fun _ => c) (infoWrsp 14 13 35 (.v 60) 7) c ∧
      Issues (machOf fun _ => c) (infoWrsp 14 13 37 (.v 60) 7) c) ∧
    (Issues mach (infoWrsp 14 13 34 (.v 60) 7) me ∧ me.tmode = false) ∧
    (Issues mach (infoRdsp 14 12 5 false 34 7) me ∧ spPair 34 = true ∧ 5 % 2 ≠ 0) ∧
    (Issues mach (infoRdsp 14 12 4 false 11 7) me ∧ spIsVector 11 = false) ∧
    (Issues mach (infoWrsp 14 13 32 (.s 2) 7) me ∧ Issues mach (infoWrsp 14 13 34 (.v 61) 7) me) ∧
    (Issues mach (infoRdcnt 62 1 5 63 7) me ∧ mach.counter me 63 = none) ∧
    (let c := { me with ops := [{ id := 9, cls := .mtx }] }
     Issues (machOf fun _ => c) (infoWrsp 14 13 12 (.s 2) 7) c ∧ c.ops.any (fun o => decide (o.cls = .mtx)) = true) ∧
    (let c := { me with ops := [{ id := 9, sfu := true }] }
     Issues (machOf fun _ => c) (infoWrsp 14 13 11 (.s 2) 7) c) ∧
    (let c := { me with tmode := true }
     Issues (machOf fun _ => c) (infoWrsp 14 13 36 (.v 61) 7) c) ∧
    (Issues mach (infoRdcnt 62 1 5 0 7) me ∧ (mach.counter me 0).isSome = true) ∧ Issues mach (infoNum 62 2 5 7) me := by
  unfold Issues; and_intros <;> decide

/-- The machine for accesses: s6 holds 0x1000, a carve-out of 16 MiB with the job's part of it, and private bytes. -/
def memC : Cohort := me.setS 6 0x1000
def memS : State :=
  { machOf (fun _ => memC) fun k => { k with hdr := { k.hdr with priv := 8192 }, jd := { k.jd with cxsize := 2 ^ 24 } } with
    carve := 1 }

theorem witness_Loads :
    (∀ e ∈ [(infoLd 25 true 4 6 true 3 1 5 7 none, Spc.g), (infoLd 27 false 4 6 true 4 3 0 7 none, .s), (infoLd 29 false 4 6 true 2 0 0 7 none, .c),
        (infoLd 31 false 4 6 true 2 0 0 7 none, .x), (infoLd 33 false 4 6 true 2 0 0 7 (some 4), .p)],
      Issues memS { e.1 with long := true } memC) ∧ memC.acquiring = false ∧
    (∀ sp ∈ [Spc.g, .s, .c, .x, .p],
      ((checkLanes (memS.loadLane memC (memS.crewOf memC) sp 6 true none (2 ^ 2)) (memC.actors 7)).toOption.any fun lanes =>
        decide (lanes.length = 16) && !memS.accessHeld memC (memS.crewOf memC) sp (lanes.flatMap (·.2))) = true ∧
      (checkLanes (memS.loadLane memC (memS.crewOf memC) sp 6 true (some 1) (2 ^ 2)) (memC.actors 7)).toOption = none) := by
  unfold Issues; and_intros <;> decide

/-- The machine for accesses, with nothing in a TLB, no miss slot of the core free, and another core's walk of page 0 under way. -/
def missS : State :=
  { memS with
    tlb := [], walks := ⟨1, 0, 0, 65536, 0, true, true, true, true, []⟩ :: (upto 8).map fun k => ⟨0, 0, 2 ^ 31 + 65536 * k, 65536, 0, true, true, true, true, []⟩ }

theorem witness_Misses :
    ∀ f ∈ [fun (s : State) => s.loadLane memC (s.crewOf memC) .g 6 true none (2 ^ 2), fun (s : State) => s.storeLane memC (s.crewOf memC) .g 6 true none (2 ^ 2),
        fun (s : State) => s.atomLane memC (s.crewOf memC) .g 6 true none 4 true],
      (checkLanes (f missS) (memC.actors 7)).toOption.any (fun lanes =>
        !missS.accessHeld memC (missS.crewOf memC) .g (lanes.flatMap (·.2)) && missS.tlbHeld (missS.crewOf memC) .g lanes) = true := by
  decide

theorem witness_Stores :
    (∀ i ∈ [infoSt 26 true 4 6 true 3 2 5 7 none, infoSt 28 false 4 6 true 4 3 0 7 none, infoSt 30 false 4 6 true 2 0 0 7 none,
        infoSt 32 false 4 6 true 2 0 0 7 none, infoSt 34 false 4 6 true 2 0 0 7 (some 4)], Issues memS i memC) ∧
    memC.acquiring = false ∧ (memS.crewOf memC).spec = false ∧ memC.acks + 16 ≤ 4095 ∧ memC.unacked = [] ∧
    ∀ sp ∈ [Spc.g, .s, .c, .x, .p],
      ((checkLanes (memS.storeLane memC (memS.crewOf memC) sp 6 true none (2 ^ 2)) (memC.actors 7)).toOption.any fun lanes =>
        decide (lanes.length = 16) && !memS.accessHeld memC (memS.crewOf memC) sp (lanes.flatMap (·.2))) = true ∧
      (checkLanes (memS.storeLane memC (memS.crewOf memC) sp 6 true (some 1) (2 ^ 2)) (memC.actors 7)).toOption = none := by
  unfold Issues; and_intros <;> decide

theorem witness_Stores_speculative :
    (∀ f ∈ [fun (k : Crew) => { k with spec := true }, fun k => { k with spec := true, effects := (upto 1366).map fun n =>
        { cohort := 2, va := 0, size := 4, data := [], pos := 24 * n } }],
      let s : State := { machOf (fun _ => memC) f with carve := 1 }
      (∀ i ∈ [infoSt 26 true 4 6 true 2 0 0 7 none, infoSt 30 false 4 6 true 2 0 0 7 none, infoSt 32 false 4 6 true 2 0 0 7 none], Issues s i memC) ∧
        (s.crewOf memC).spec = true) ∧
    (let s : State := { machOf (fun _ => memC) fun k => { k with spec := true } with carve := 1 }
     (∃ x ∈ memC.actors 7, (laneAddr .c memC x 6 true none % 2 ^ 32).toNat / 2 ^ 28 = (s.crewOf memC).core % 16) ∧
      (∃ x ∈ memC.actors 7, (laneAddr .c memC x 6 true (some (2 ^ 28)) % 2 ^ 32).toNat / 2 ^ 28 ≠ (s.crewOf memC).core % 16) ∧
      s.inWritten (s.crewOf memC) 0x1000 4 = false ∧
      (checkLanes (s.storeLane memC (s.crewOf memC) .g 6 true none (2 ^ 2)) (memC.actors 7)).toOption.any (fun lanes =>
        decide (lanes.map (fun x => (x.2.head?.map (·.va)).getD 0) = List.replicate 16 0x1000)) = true ∧
      (s.crewOf memC).effectEnd + 16 * 16 ≤ 32768) ∧
    (memS.l1.filter fun x => x.core == 0).length + 1 ≤ 2048 := by
  unfold Issues; and_intros <;> decide

theorem witness_ScratchpadStore :
    let c := memC.mapT (fun t => t.tid != 0) fun t => { t with st := .exited, act := false }
    let s := memS.onCohort 2 fun _ => c
    Issues s (infoSt 28 false 4 6 true 2 0 0 7 none) c ∧ s.unheld = s ∧ s.MemWf ∧ (s.crewOf c).ssize ≠ 0 ∧ c.acks ≤ 4094 ∧
    (∃ x p, (checkLanes (s.storeLane c (s.crewOf c) .s 6 true none (2 ^ 2)) (c.actors 7)).toOption = some [(x, [p])] ∧
      p.n = 2 ^ 2 ∧ p.ix = 0 ∧ s.accessHeld c (s.crewOf c) .s [p] = false) ∧
    ∀ j, j < 2 ^ 2 → s.protects (s.crewOf c) (4096 + j - (s.crewOf c).sbase) = false := by
  unfold Issues State.MemWf
  exact ⟨by decide, by decide, by decide, by decide, by decide, ⟨_, _, rfl, by decide⟩, by decide⟩

theorem witness_Atomics :
    (∀ i ∈ [infoAt 35 true 4 6 true 10 true 3 5 true none, infoAt 36 false 4 6 true 0 false 0 0 false none,
        infoAt 37 false 4 6 true 0 false 2 1 false none, infoAt 38 false 4 6 true 14 false 1 2 true none],
      Issues memS { i with long := true } memC ∧ Issues memS { i with long := false } memC) ∧
    memC.acquiring = false ∧ (memS.crewOf memC).spec = false ∧ memC.acks + 16 ≤ 4095 ∧
    (∀ sp ∈ [Spc.g, .s, .c, .x],
      ((checkLanes (memS.atomLane memC (memS.crewOf memC) sp 6 true none 8 true) (memC.actors 7)).toOption.any fun lanes =>
        decide (lanes.length = 16) && !memS.accessHeld memC (memS.crewOf memC) sp (lanes.flatMap (·.2))) = true ∧
      (checkLanes (memS.atomLane memC (memS.crewOf memC) sp 6 true (some 4) 8 true) (memC.actors 7)).toOption = none) ∧
    2 ^ 32 - 1 < 2 ^ (8 * 4) ∧ 2 ^ 63 < 2 ^ (8 * 8) := by
  unfold Issues; and_intros <;> decide

theorem witness_Fences :
    (∀ k, 1 ≤ k → k ≤ 5 → (Issues mach (infoFence 39 0 k) me ∧ Issues mach (infoFence 39 1 k) me ∧ Issues mach (infoFence 39 2 k) me)) ∧
    (∀ k, 2 ≤ k → k ≤ 5 → Issues mach (infoFenceSc 39 3 k) me) ∧ me.ops.any (·.load) = false ∧ me.acks = 0 ∧ me.fence = none ∧
    (mach.crewOf me).spec = false ∧ Issues mach (infoNone 39 4) me ∧ Issues mach (infoFence 39 0 0) me ∧
    Issues mach (infoFence 39 0 6) me ∧
    (let c := { me with ops := [{ id := 9, load := true }], unacked := [(7, [0])] }
     Issues (machOf fun _ => c) (infoFence 39 2 3) c ∧ Issues (machOf fun _ => c) (infoNone 39 4) c ∧ c.ops.any (·.load) = true ∧
      c.acks ≠ 0) ∧
    (∀ n ∈ [0, 9],
     let c := { me with fence := some n }
     Issues (machOf fun _ => c) (infoFenceSc 39 3 2) c ∧ c.acks = 0) ∧
    (let s := machOf id fun k => { k with spec := true }
     Issues s (infoFenceSc 39 3 3) me ∧ (s.crewOf me).spec = true) ∧
    (∀ k ∈ [0, 6, 7], Issues mach (infoFence 39 0 k) me ∧ Issues mach (infoFence 39 1 k) me ∧ Issues mach (infoFence 39 2 k) me) ∧
    ∀ k ∈ [0, 1, 6, 7], Issues mach (infoFenceSc 39 3 k) me := by
  unfold Issues
  refine ⟨?_, ?_, ?_⟩
  · intro k h1 h2; obtain rfl | rfl | rfl | rfl | rfl : k = 1 ∨ k = 2 ∨ k = 3 ∨ k = 4 ∨ k = 5 := by omega
    all_goals decide
  · intro k h1 h2; obtain rfl | rfl | rfl | rfl : k = 2 ∨ k = 3 ∨ k = 4 ∨ k = 5 := by omega
    all_goals decide
  · and_intros <;> decide

/-- A machine with one packet on its way. -/
def packed (p : Packet) : State := { memS with fabric := [p] }

theorem witness_HomeRequests :
    (let p : Packet := { id := 9, cohort := 2, core := 0, space := .glob, addr := 64, kind := .store [(64, 1), (65, 2)] }
     let s := packed p
     s.MemWf ∧ s.fabric.find? (fun q => q.id == 9) = some p ∧ p.nacked = false ∧ s.needMet p = true ∧
      s.domOf p.addr = p.dom ∧ Tab.read 0 s.gens p.dom = p.gen ∧ s.changing.contains p.dom = false) ∧
    (let p : Packet := { id := 9, cohort := 2, core := 0, space := .chip, addr := 64, kind := .store [(64, 1)] }
     (packed p).fabric.find? (fun q => q.id == 9) = some p ∧ (packed p).needMet p = true) ∧
    (let p : Packet := { id := 9, cohort := 2, op := 5, core := 0, space := .chip, addr := 64, kind := .atom 0 8 [(0, 1, 0)] (some 4) }
     let s := packed p
     s.fabric.find? (fun q => q.id == 9) = some p ∧ s.needMet p = true ∧ s.latent = [] ∧ s.cPoison = [] ∧ s.gPoison = [] ∧
      s.sPoison = [] ∧ s.poisoned (s.homeSpace p) p.addr 8 = false ∧ 0 = s.readNat (s.homeSpace p) p.addr 8) ∧
    (∀ k ∈ [PKind.red 1 4 5, .atom 2 4 [(0, 1, 0), (1, 2, 0)] none],
      let p : Packet := { id := 9, cohort := 2, core := 0, space := .glob, addr := 64, kind := k }
      let s := packed p
      s.fabric.find? (fun q => q.id == 9) = some p ∧ s.needMet p = true ∧ s.poisoned (s.homeSpace p) p.addr 4 = false ∧
        ({ s with gPoison := [(8, true)] } : State).poisoned (s.homeSpace p) p.addr 4 = true ∧ s.latent = []) ∧
    (let p : Packet := { id := 9, cohort := 2, op := 5, core := 0, space := .glob, addr := 64, kind := .load 0 4 4 [] false 0 }
     (packed p).fabric.find? (fun q => q.id == 9) = some p ∧ (packed p).needMet p = true ∧ (packed p).domOf p.addr = p.dom) ∧
    (let p : Packet := { id := 9, cohort := 2, op := 5, core := 0, space := .glob, addr := 64, kind := .load 0 4 4 [] true 0 }
     let w : Packet := { id := 8, cohort := 2, core := 0, space := .glob, addr := 64, kind := .store [(64, 1)] }
     let s := packed p
     s.fabric.find? (fun q => q.id == 9) = some p ∧ s.writeSent 0 (64 / 128) = false ∧ s.poisoned .glob 0 128 = false ∧
      (s.l1.filter fun e => e.core == p.core).length < 2048 ∧ ({ s with fabric := [w, p] } : State).writeSent 0 (64 / 128) = true) ∧
    (let p : Packet := { id := 9, cohort := 2, core := 0, space := .glob, addr := 64, kind := .store [], gen := 1 }
     (packed p).fabric.find? (fun q => q.id == 9) = some p ∧ Tab.read 0 (packed p).gens p.dom ≠ p.gen ∧
      (packed { p with nacked := true }).fabric.find? (fun q => q.id == 9 && q.nacked) = some { p with nacked := true } ∧
      ({ packed { p with gen := 0 } with changing := [p.dom] } : State).changing.contains ((packed p).domOf p.addr) = true) := by
  unfold State.MemWf; and_intros <;> decide

theorem witness_Returns :
    let o : Op := { id := 9, load := true, regsV := [4], res := [.v 0 4 7 false], acq := 5 }
    let q : Op := { id := 8, flags := [3], regsS := [5], res := [.s 5 7] }
    let c := { me with ops := [o, q], flags := [(3, 1)], unacked := [(7, [0])] }
    let s : State := { (machOf fun _ => c) with acks := [{ id := 7, cohort := 2, op := 0, counts := true, reports := [] }] }
    s.cohort 2 = some c ∧ c.op 9 = some o ∧ o.load = true ∧ o.left = 0 ∧ c.op 8 = some q ∧ q.load = false ∧ q.left = 0 ∧
      Tab.wf 0 c.flags = true ∧ q.flags.Nodup ∧
      s.acks.find? (fun x => x.id == 7) = some { id := 7, cohort := 2, op := 0, counts := true, reports := [] } := by
  and_intros <;> decide

theorem witness_CacheInstructions :
    (∀ i ∈ [infoE1 40 0 6, infoE1 40 1 6, infoE1 40 4 6, infoE1 40 5 6, infoInvr 40 3 6 7 true true, infoWbr 40 2 6 7 false],
      Issues memS { i with long := true } memC) ∧
    memS.privileged memC = true ∧
    memS.translate 0 (memS.crewOf memC).jd 0x1000 .read = .ok 0x1000 ∧ memS.poisoned .glob 0x1000 128 = false ∧
    { memS with gPoison := [(0x200, true)] }.poisoned .glob 0x1000 128 = true ∧
    memS.translate 0 (memS.crewOf memC).jd (2 ^ 30) .read = .error 5 ∧
    (let page := [0x1000 / 65536 * 65536]
     memS.missHeld 0 (memS.crewOf memC).jd page = false ∧ memS.l1Line 0 (0x1000 / 128) 0 = none ∧
      ({ memS with l1 := [⟨0, 0x1000 / 128, 0, [1]⟩] } : State).l1Line 0 (0x1000 / 128) 0 ≠ none ∧
      missS.missHeld 0 (missS.crewOf memC).jd page = true ∧ missS.translate 0 (missS.crewOf memC).jd 0x1000 .read = .ok 0x1000 ∧
      (let s : State := { memS with changing := [memS.domOf 0x1000], l2dirty := [(0x1000 / 128, true)] }
       s.mustReplay (s.fetchHomes (s.crewOf memC) (0x1000 / 64)) = true ∧ s.mustReplay (s.vaHomes 0 (s.crewOf memC).jd 0x1000 2000) = true ∧
        s.mustReplay (s.l2Homes [(0x1000, 128)]) = true ∧ memS.mustReplay [0x1000] = false)) ∧
    (memS.crewOf memC).hdr.text ≤ 65599 ∧ 65599 < (memS.crewOf memC).hdr.text + (memS.crewOf memC).hdr.tlen ∧
    memS.translate 0 (memS.crewOf memC).jd (65599 / 64 * 64) .fetch = .ok 65536 ∧
    ((memS.readVa 0 (memS.crewOf memC).jd 0x1000 2000).toOption.any fun bs => !(bs.any (·.2))) = true := by
  unfold Issues; and_intros <;> decide

theorem witness_MemoryEvents :
    (let r : RepIn := { cohort := 2, crew := 1, report := { code := 12, detail := 0 } }
     let s : State := { mach with repIn := [r] }
     s.repIn = [] ++ r :: [] ∧ s.cohort r.cohort = some me ∧ me.live ≠ []) ∧
    (let x : Report := { code := 12, detail := 0 }
     let y : Report := { code := 12, detail := 1 }
     ([x].any fun z => z.code == y.code && z.eng == y.eng && z.unit == y.unit && z.ipc == y.ipc) = true ∧
      ([x, x, x, x].any fun z => z.code == 11 && z.eng == 0 && z.unit == 0 && z.ipc == 0) = false ∧ [x, x, x, x][3]? = some x) ∧
    ((mach.crews.find? fun x => x.core == 0 && x.jd.asid == 0).isSome = true ∧
      (mach.leafOf 0 {} 0).isSome = true ∧ mach.leafOf 0 {} (2 ^ 30) = none) ∧
    (mach.mustReplay (mach.pteReads 0 {} [0]) = false ∧
      ({ mach with changing := [mach.domOf 0x1000] } : State).mustReplay [0x1000] = true) ∧
    (mach.scrubs (.priv 1 0) = false ∧ (mach.cohort 2).isSome = true) ∧
    (let s : State := { mach with latent := [(.glob 5, true), (.burst 6, true), (.slot 3 1279, true), (.chip 1, true), (.spad 9, false),
        (.tile 0 0, true), (.glob 7, false)] }
     (∀ n ∈ [0, 1, 2, 3, 4, 6], (s.latent[n]?).any (fun e => s.scrubs e.1) = true) ∧ s.latent[5]? = some (.tile 0 0, true) ∧
      s.scrubs (.tile 0 0) = false ∧ (∀ x ∈ s.latent, x.1 = .spad 9 → x.2 = false) ∧
      (s.latent.filter fun x => decide (x.1 = .glob 7)) = [(.glob 7, false)]) ∧
    (let k : PageWalk := { core := 1, asid := 0, vpage := 65536, size := 65536, ppage := 65536, r := true, w := true, x := true }
     let s : State := { mach with walks := [k, { k with core := 2, install := false }] }
     let f := fun (k : PageWalk) (va : Nat) => sectorOf k.core == sectorOf 0 && k.asid == 0 && decide (k.vpage ≤ va ∧ va < k.vpage + k.size)
     (s.walks.find? fun k => f k 65536) = some k ∧ (s.walks.find? fun k => f k 0) = none ∧ (0, k.vpage) ∈ s.walking (sectorOf 0) ∧
      (let m : State := { s with walks := (upto 32).map (fun n => { k with vpage := 2 ^ 31 + 65536 * n }) ++ [k] }
       (m.walks.find? fun k => f k 65536) = some k ∧ (0, k.vpage) ∉ m.walking (sectorOf 0))) ∧
    Tab.wf {} mach.cores = true := by
  and_intros <;> decide

/-- A machine with a ring block of four slots at 0x10000 and a record for it. -/
def ringS (tail : Nat) (depth : Nat) : State :=
  { mach with gmem := ((Memory.setNat [] 0x10000 4 depth).setNat (0x10000 + 24) 8 tail), posts := [{ ring := 0x10000, words := [1, 2, 3, 4] }] }

theorem witness_FaultRecords :
    (let s := ringS 0 4
     s.MemWf ∧ s.posts[0]? = some { ring := 0x10000, words := [1, 2, 3, 4] } ∧ s.tierOk 0x10000 64 = true ∧
      s.ringBad 0x10000 (0x10000 / 65536 * 65536) 65536 = false ∧ s.ringFill 0x10000 + 4 ≤ s.ringDepth 0x10000 ∧
      s.ringTail 0x10000 + 4 < 2 ^ 64) ∧
    (let s := ringS 4 4
     s.ringBad 0x10000 (0x10000 / 65536 * 65536) 65536 = false ∧ s.ringDepth 0x10000 < s.ringFill 0x10000 + 4 ∧
      (s.posts.filter fun q => q.held && s.slice q.ring == s.slice 0x10000).length < 64) ∧
    (let p : Post := { ring := 0x10000, words := [1, 2, 3, 4] }
     let s : State := { ringS 0 4 with posts := p :: List.replicate 64 { p with held := true } }
     (∃ q ∈ s.posts, q.held = true ∧ q.ring = 0x10000) ∧ (s.posts.filter fun q => q.held && s.slice q.ring == s.slice 0x10000).length = 64) ∧
    (ringS 0 0).ringBad 0x10000 (0x10000 / 65536 * 65536) 65536 = true := by
  unfold State.MemWf; and_intros <;> decide

theorem witness_CopiesBegin :
    let c := ((me.setS 4 0x100).setS 5 0x200).setS 6 4096
    let s := machOf fun _ => c
    (∀ i ∈ [infoCp 41 0 4 5 6, infoCp 41 4 4 5 6, infoTcp 41 5 4 5 7, infoTcp 41 6 4 5 7, infoTslot 41 7 15 5 7 true],
      Issues s { i with long := true } c) ∧ (s.crewOf c).spec = false ∧ c.acquiring = false ∧ (s.batchesOf c.key).length < 63 ∧
    s.ranges (s.crewOf c).core < 32 ∧ (∀ r ∈ [4, 5, 6], (c.sr r).toNat % 4 = 0) ∧ (c.sr 6).toNat ≤ 2 ^ 24 ∧
    (∀ k ∈ [Side.spad, .glob, .win], s.sideBad (s.crewOf c) k (c.sr 4) (c.sr 6).toNat = false) ∧
    (let c := me.setS 6 0x1000004
     Issues (machOf fun _ => c) { infoCp 41 1 4 5 6 with long := true } c ∧ 2 ^ 24 < (c.sr 6).toNat ∧
      ∀ r ∈ [4, 5, 6], (c.sr r).toNat % 4 = 0) ∧
    (let c := (me.setS 6 4).setS 4 2
     Issues (machOf fun _ => c) { infoCp 41 2 4 5 6 with long := true } c ∧ (c.sr 6).toNat ≠ 0 ∧ (c.sr 4).toNat % 4 ≠ 0) ∧
    (Tab.read {} s.slots (unitIx 0 c.sub 15)).owner ≠ c.key ∧
    (Tab.read {} ({ s with slots := [(unitIx 0 0 15, { owner := 2 })] } : State).slots (unitIx 0 c.sub 15)).owner = c.key ∧
    (c.coords 7).getD 1 0 % 32 = 0 ∧ (c.coords 7).getD 0 0 % 8 = 0 ∧
    (let c := ((me.setS 4 0x100).setS 5 0x202).setS 6 4096
     Issues (machOf fun _ => c) { infoCp 41 0 4 5 6 with long := true } c ∧ (c.sr 6).toNat ≠ 0 ∧ (c.sr 4).toNat % 4 = 0 ∧ (c.sr 5).toNat % 4 ≠ 0) ∧
    (let c := ((me.setS 4 0x10000).setS 5 0x20000).setS 6 6
     Issues (machOf fun _ => c) { infoCp 41 2 4 5 6 with long := true } c ∧ (c.sr 6).toNat % 4 ≠ 0 ∧
      (machOf fun _ => c).sideBad ((machOf fun _ => c).crewOf c) .spad (c.sr 4) 4 = true ∧
      (machOf fun _ => c).sideBad ((machOf fun _ => c).crewOf c) .spad (c.sr 5) 4 = true) ∧
    (let s := machOf (fun _ => c) fun k => { k with spec := true }
     (∀ i ∈ [infoCp 41 1 4 5 6, infoCp 41 3 4 5 6, infoTcp 41 6 4 5 7], Issues s { i with long := true } c) ∧ (s.crewOf c).spec = true ∧
      s.inWritten (s.crewOf c) 0x100 4096 = false ∧ s.peekTrec (s.crewOf c) 0x100 = none) ∧
    (let s := machOf fun _ => { c with openBatch := some 9 }
     let f := fun n => ({ s with batches := (upto 63).map fun k => { id := k, cohort := 2, crew := 1, count := n } } : State)
     ((f 64).batchesOf 2).length = 63 ∧ ((f 63).batches.find? fun y => y.id == 9).any (fun y => decide (y.count = 63)) = true) ∧
    (let c := c.setS 7 0x100000001
     (c.coords 7).getD 1 0 % 32 ≠ 0 ∨ (c.coords 7).getD 0 0 % 8 ≠ 0) := by
  unfold Issues; and_intros <;> decide

/-- A machine with one open batch of one finished copy, bound to the ring object at 0x100 of one slot, `w` of them filled. -/
def batchS (w : Nat) (b : Batch) : State :=
  { mach with batches := [b], smem := (Memory.setNat [] 0x100 4 w).setNat 0x108 2 1 }

theorem witness_CopyBatches :
    (Issues mach (infoENone 41 8) me ∧ Issues mach { infoWaitc 41 9 0 0 with long := true } me ∧
      (mach.batchesOf me.key).length ≤ 0 ∧ me.count .coll ≤ 0) ∧
    (let c := { me with outst := [{ id := 1, cls := .mtx }] }
     Issues (machOf fun _ => c) { infoWaitc 41 9 0 1 with long := true } c ∧ 0 < c.count .mtx) ∧
    (let c := me.setS 6 0x100
     Issues (machOf fun _ => c) (infoE1 41 10 6) c ∧ (c.sr 6).toNat % 16 = 0 ∧ 0 ≤ (c.sr 6).toInt ∧
      (c.sr 6).toInt + 16 ≤ ((machOf fun _ => c).crewOf c).ssize ∧ ((machOf fun _ => c).batchesOf c.key).length < 63) ∧
    (let c := me.setS 6 0x108
     Issues (machOf fun _ => c) (infoE1 41 10 6) c ∧ (c.sr 6).toNat % 16 ≠ 0) ∧
    (let c := me.setS 6 0x10000
     Issues (machOf fun _ => c) (infoE1 41 10 6) c ∧ (c.sr 6).toNat % 16 = 0 ∧ ¬ (c.sr 6).toInt + 16 ≤ ((machOf fun _ => c).crewOf c).ssize) ∧
    (let c := me.setS 6 0x100
     let s : State := { machOf fun _ => c with batches := (upto 63).map fun k => { id := k, cohort := 2, crew := 1 } }
     Issues s (infoE1 41 10 6) c ∧ c.openBatch = none ∧ 63 ≤ (s.batchesOf c.key).length) ∧
    (let b : Batch := { id := 9, cohort := 2, crew := 1, closed := true, count := 1 }
     let s := batchS 0 b
     (s.batches.find? fun y => y.id == b.id) = some b ∧ s.batchReady b = true ∧ b.ring = none ∧
      (s.batchesOf b.cohort).head? = some b) ∧
    (let b : Batch := { id := 9, cohort := 2, crew := 1, count := 1 }
     (batchS 0 b).batchReady b = false ∧ ((batchS 0 b).batches.find? fun y => y.id == b.id) = some b) ∧
    (let b : Batch := { id := 9, cohort := 2, crew := 1, closed := true, count := 1, ring := some 0x100 }
     ∀ w ∈ [0, 1], (batchS w b).MemWf ∧ ((batchS w b).batches.find? fun y => y.id == b.id && !y.advanced) = some b ∧
      ((batchS w b).crew b.crew).any (fun cr => !cr.torn && !((batchS w b).cring cr 0x100).bad &&
        ((batchS w b).cring cr 0x100).fill == w && ((batchS w b).cring cr 0x100).nslot == 1) = true ∧
      (batchS w b).batchReady b = true) := by
  unfold Issues State.MemWf; and_intros <;> decide

theorem witness_CopyGranules :
    (∀ k ∈ [CopyKind.g2s, .s2s, .s2g],
      let x : Copy := { id := 7, cohort := 2, crew := 1, core := 0, op := 5, batch := 9, kind := k, dst := 0x1000, src := 0x2000,
                        len := 260, granules := [0, 1] }
      let b : Batch := { id := 9, cohort := 2, crew := 1, count := 1 }
      let s : State := { mach with copies := [x], batches := [b] }
      s.MemWf ∧ (s.copies.find? fun y => y.id == 7) = some x ∧ x.done = false ∧ (s.crew 1).isSome = true ∧
        (s.crew 1).all (fun cr => !cr.shadow && decide (x.dst + x.len ≤ cr.ssize) &&
          (s.engFail cr ((granOf 260 1).map (x.src + ·)) .read).isNone &&
          (s.engFail cr ((granOf 260 1).map (x.dst + ·)) .write).isNone) = true ∧
        s.cohort x.cohort = some me ∧ (s.batches.find? fun y => y.id == x.batch) = some b ∧ b.paused = none ∧
        x.pausedW = none ∧ s.engineHolds 0 = false ∧ 1 ∈ x.granules ∧ s.opMay me x.op = true ∧ s.changing = []) ∧
    (let x : Copy := { id := 7, cohort := 2, crew := 1, core := 0, op := 5, batch := 9, kind := .tld, dst := 0x1000, src := 0x2008, len := 0 }
     let b : Batch := { id := 9, cohort := 2, crew := 1, count := 1 }
     let s : State := { mach with copies := [x], batches := [b] }
     (s.copies.find? fun y => y.id == 7 && !y.done) = some x ∧ b.ended = false ∧ x.trec = none ∧ x.src % 64 ≠ 0 ∧
      s.recordTurn x = true) ∧
    (let s : State := { mach with crews := mach.crews ++ mach.crews.map fun k => { k with key := 7, index := 1, core := 1 } }
     s.windowTarget (s.crewOf me) 64 = some (s.crewOf me) ∧ (s.windowTarget (s.crewOf me) (2 ^ 28 + 64)).map (·.key) = some 7) ∧
    (∀ fmt ∈ [2, 7],
      let r : TRec := { base := 0x2000, n := 1, fmt := fmt, scale := 0, bands := 0, ext := [64], str := [1], box := [32], swz := 0 }
      r.boxOk = true ∧ (fmt = 2 ↔ 8 ≤ elemBits r.fmt) ∧ 0x1000 + r.pitch * r.rows ≤ (mach.crewOf me).ssize ∧
        (∀ k ∈ [Acc.read, .write],
          (mach.engFail (mach.crewOf me) ((granOf (r.pitch * r.rows) 0).flatMap fun y => (r.bitsAt [0] y).map (·.1)) k).isNone = true)) ∧
    (let r : TRec := { base := 0x2000, n := 2, fmt := 2, scale := 0, bands := 0, ext := [256, 32], str := [1, 256], box := [256, 32], swz := 0 }
     let x : Copy := { id := 7, cohort := 2, crew := 1, core := 0, op := 5, batch := 9, kind := .tslot false, dst := 0, src := 0x2000, len := 0,
                       slot := 3, coord := [0, 0], trec := some r, granules := [0, 32] }
     me.stream = [] ∧ (Tab.read {} mach.slots (unitIx 0 0 3)).lastCrew ≠ x.crew ∧
      (Tab.read {} ({ mach with slots := [(3, { lastCrew := 1 })] } : State).slots (unitIx 0 0 3)).lastCrew = x.crew ∧ r.bandAt x.coord = some 0 ∧ r.bandAt [0, 32] = none ∧
      (mach.engFail (mach.crewOf me) ((upto 256).flatMap fun j => (r.slotBits x.coord 0 j).map (·.1)) .read).isNone = true) := by
  unfold State.MemWf; and_intros <;> decide

/-- A machine with queue 0 of four 16-byte elements at 0x200, its word at 0x100 with this COUNT and ALLOW. -/
def queueS (count allow : Nat) (c : Cohort) (w : List QWaiter := []) : State :=
  { machOf (fun _ => c) (fun k => { k with qwait := w, hdr := { k.hdr with qmask := 1, qtab := [⟨4, 16, 0x100⟩] } }) with
    smem := ((Memory.setNat [] 0x100 4 0x200).setNat 0x104 4 (4 + 16 * 2 ^ 16)).setNat 0x10A 6 (count + allow * 2 ^ 16) }

theorem witness_QueueInstructions :
    (∀ i ∈ [infoQa 43 0 1 0 6 7, infoQa 43 1 1 0 6 7, { infoQda 43 2 0 5 0 6 3 with g := 7, ps := [3] },
        { infoQda 43 3 0 5 0 6 7 with g := 7, ps := [7] }],
      Issues (queueS 2 1 me) { i with long := true } me) ∧ Issues (queueS 2 1 me) (infoQa 43 4 0 0 6 7) me ∧
    Issues (queueS 2 1 me) (infoQlen 43 5 0 5 0 7) me ∧ me.guard 7 = true ∧ me.acquiring = false ∧ me.acks = 0 ∧
    ((queueS 2 1 me).crewOf me).qoff 0 = some 0x100 ∧ (me.sr 6).toNat % 4 = 0 ∧ 0 ≤ (me.sr 6).toInt ∧
    (me.sr 6).toInt + ((queueS 2 1 me).qword ((queueS 2 1 me).crewOf me) 0x100).elem ≤ ((queueS 2 1 me).crewOf me).ssize ∧
    (∀ p : Bool, ((queueS 2 1 me).qword ((queueS 2 1 me).crewOf me) 0x100).refuses p = 0) ∧
    ((queueS 2 1 me).crewOf me).queued 0 true = false ∧
    ((queueS 4 1 me).qword ((queueS 4 1 me).crewOf me) 0x100).refuses true = 1 ∧
    ((queueS 2 0 me).qword ((queueS 2 0 me).crewOf me) 0x100).refuses true = 2 ∧
    ((queueS 0 1 me).qword ((queueS 0 1 me).crewOf me) 0x100).refuses false = 1 ∧
    ((queueS 2 1 me [⟨2, [0], 0, true, 0⟩]).crewOf me).queued 0 true = true ∧
    (queueS 2 1 me [⟨2, [0], 0, true, 0⟩]).retryDue ((queueS 2 1 me [⟨2, [0], 0, true, 0⟩]).crewOf me) 0 0x100 = true ∧
    (queueS 2 1 me).retryDue ((queueS 2 1 me).crewOf me) 0 0x100 = false ∧
    ((queueS 2 1 me).crewOf me).qoff 1 = none ∧
    (let p : Packet := { id := 9, cohort := 2, core := 0, space := .spad 0, addr := 64, kind := .store [(64, 1)] }
     ({ queueS 2 1 me with fabric := [p] } : State).ownPending me 0 = true ∧ (queueS 2 1 me).ownPending me 0 = false) ∧
    (∀ n ∈ [0, 1], Issues (queueS 2 1 me) (infoQa 43 4 0 n 6 7) me ∧ Issues (queueS 2 1 me) (infoQlen 43 5 0 5 n 7) me ∧
      Issues (queueS 2 1 me) (infoQa 43 4 0 n 6 0) me ∧ me.guard 0 = false) ∧
    (let c := me.setS 6 0x10000
     Issues (queueS 2 1 c) { infoQda 43 2 0 5 0 6 3 with long := true, g := 7, ps := [3] } c ∧ (c.sr 6).toNat % 4 = 0 ∧
      ¬ (c.sr 6).toInt + 16 ≤ ((queueS 2 1 c).crewOf c).ssize) ∧
    ((queueS 2 1 me).crew 9 = none ∧ ((queueS 2 1 me).crew 1).any (fun cr => cr.qwait.isEmpty) = true) ∧
    Issues (queueS 2 1 (me.setS 6 2)) { infoQa 43 0 1 0 6 7 with long := true } (me.setS 6 2) ∧ ((me.setS 6 2).sr 6).toNat % 4 ≠ 0 ∧
    ((queueS 2 1 me [⟨2, [0], 0, true, 0⟩]).crew 1).any (fun cr => !cr.shadow && cr.out.isNone &&
      (cr.qwait.filter fun w => w.q == 0 && w.push == true).head? == some ⟨2, [0], 0, true, 0⟩) = true ∧
    (queueS 2 1 me).MemWf ∧ 0 < ((queueS 2 1 me).qword ((queueS 2 1 me).crewOf me) 0x100).depth ∧
    ((queueS 2 1 me).qword ((queueS 2 1 me).crewOf me) 0x100).count ≤ ((queueS 2 1 me).qword ((queueS 2 1 me).crewOf me) 0x100).depth := by
  unfold Issues State.MemWf; and_intros <;> decide

/-- A machine with channel 0 of two 16-byte slots, its word at 0x100 with these fields; a launch of crews 0 to 2, of which crew 0
and, when `two`, crew 1 stand on core 0. -/
def chanS (full rseq sseq crseq : Nat) (two : Bool) (delta : Int) : State :=
  let s := (machOf id).onLaunch 1 fun l => { l with chans := [⟨0x100, delta, 16, 2⟩], lrec := { l.lrec with hi := 3 } }
  { s with
    crews := s.crews ++ (if two then s.crews.map fun k => { k with key := 7, index := 1, sbase := 0x10000 } else []),
    smem := ((((Memory.setNat [] 0x100 8 full).setNat 0x108 2 rseq).setNat 0x10A 2 sseq).setNat 0x10E 2 crseq) }

theorem witness_Channels :
    (∀ i ∈ [infoCha 43 6 1 0 6 7, infoCha 43 7 1 0 6 7, { infoChda 43 8 0 5 0 6 3 with g := 7, ps := [3] },
        { infoChda 43 9 0 5 0 6 7 with g := 7, ps := [7] }], Issues (chanS 0 0 0 0 true 1) { i with long := true } me) ∧
    (let s := chanS 0 0 1 0 true 1
     let cr := s.crewOf me
     s.MemWf ∧ me.guard 7 = true ∧ cr.spec = false ∧ s.chan cr 0 = some ⟨0x100, 1, 16, 2⟩ ∧ (me.sr 6).toNat % 16 = 0 ∧
      0 ≤ (me.sr 6).toInt ∧ (me.sr 6).toInt + 16 ≤ cr.ssize ∧ me.acquiring = false ∧ me.acks = 0 ∧ s.peer cr 1 = .placed ∧
      (s.chSseq cr ⟨0x100, 1, 16, 2⟩ + 2 ^ 16 - s.chCrseq cr ⟨0x100, 1, 16, 2⟩) % 2 ^ 16 < 2) ∧
    (let s := chanS 0 0 2 0 true 1
     ¬ (s.chSseq (s.crewOf me) ⟨0x100, 1, 16, 2⟩ + 2 ^ 16 - s.chCrseq (s.crewOf me) ⟨0x100, 1, 16, 2⟩) % 2 ^ 16 < 2) ∧
    (chanS 0 0 0 0 false 1).peer ((chanS 0 0 0 0 false 1).crewOf me) 1 = .unplaced ∧
    (chanS 0 0 0 0 false 3).peer ((chanS 0 0 0 0 false 3).crewOf me) 3 = .gone ∧
    (chanS 2 1 0 0 true (-1)).chFull ((chanS 2 1 0 0 true (-1)).crewOf me) ⟨0x100, -1, 16, 2⟩ 1 = true ∧
    (chanS 2 0 0 0 true (-1)).chFull ((chanS 2 0 0 0 true (-1)).crewOf me) ⟨0x100, -1, 16, 2⟩ 0 = false ∧
    (chanS 2 0 0 0 true (-1)).peer ((chanS 2 0 0 0 true (-1)).crewOf me) (0 - (-1)) = .placed ∧
    (let s : State := { chanS 0 0 0 0 true 1 with msgs := [⟨1, 0, 0, 3, [5], 2, 9⟩], credits := [⟨1, 0, 0, 1⟩] }
     s.msgs = [] ++ ⟨1, 0, 0, 3, [5], 2, 9⟩ :: [] ∧ s.crewAt 1 0 = some (s.crewOf me) ∧
      ((s.launch 1).bind fun l => l.chans[0]?) = some ⟨0x100, 1, 16, 2⟩ ∧ (s.crewOf me).migrating = false ∧
      (1 + 2 ^ 16 - s.chCrseq (s.crewOf me) ⟨0x100, 1, 16, 2⟩) % 2 ^ 16 < 2 ^ 15 ∧
      2 ^ 15 ≤ (0xFFFF + 2 ^ 16 - s.chCrseq (s.crewOf me) ⟨0x100, 1, 16, 2⟩) % 2 ^ 16) := by
  unfold Issues State.MemWf; and_intros <;> decide

theorem witness_RingInstructions :
    (let c := me.setS 6 0x10000
     let s : State := { ringS 1 4 with cohorts := [c] }
     Issues s { infoRenq 43 10 0 5 6 3 with long := true, g := 7, ps := [3] } c ∧
      Issues s { infoRdeq 43 11 0 5 6 7 with long := true, g := 7, ps := [7] } c ∧ (s.crewOf c).spec = false ∧
      (c.sr 6).toNat % 64 = 0 ∧ s.ringPage (s.crewOf c) 0x10000 = .ok (0x10000, 0, 2 ^ 30) ∧ s.ringPoison true 0x10000 0 (2 ^ 30) = none ∧
      s.ringPoison false 0x10000 0 (2 ^ 30) = none ∧ c.acks < 4095 ∧ c.acks = 0 ∧
      s.missHeld 0 (s.crewOf c).jd [0x10000] = false ∧ ({ missS with cohorts := [c], tlb := [] } : State).missHeld 0 (missS.crewOf c).jd [0] = true ∧
      ({ s with gPoison := [(0x2000, true)] } : State).ringPoison true 0x10000 0 (2 ^ 30) ≠ none ∧ s.ringBad 0x10000 0 (2 ^ 30) = false ∧ s.ringFill 0x10000 = 1 ∧
      s.ringDepth 0x10000 = 4) ∧
    ((ringS 4 4).ringFill 0x10000 = (ringS 4 4).ringDepth 0x10000 ∧ (ringS 0 4).ringFill 0x10000 = 0 ∧
      (ringS 4 4).ringBad 0x10000 0 (2 ^ 30) = false) ∧
    (Issues (machOf fun _ => me.setS 6 8) { infoRdeq 43 11 0 5 6 7 with long := true, g := 7, ps := [7] } (me.setS 6 8)) ∧
    (∀ w ∈ [0, 1],
      let c := me.setS 6 0x100
      let s : State := { batchS w { id := 9, cohort := 2, crew := 1 } with cohorts := [c] }
      s.MemWf ∧ Issues s { infoRdeq 43 12 1 5 6 7 with long := true } c ∧ Issues s { infoRrel 43 13 0 6 7 with long := true } c ∧
        c.guard 7 = true ∧ (c.sr 6).toNat % 16 = 0 ∧ 0 ≤ (c.sr 6).toInt ∧ (c.sr 6).toInt + 16 ≤ (s.crewOf c).ssize ∧
        (s.cring (s.crewOf c) 0x100).bad = false ∧ (s.cring (s.crewOf c) 0x100).fill = w) ∧
    (Issues mach (infoRrel 44 4 0 6 7) me ∧ me.acks = 0 ∧
      Issues (machOf fun c => { c with unacked := [(7, [0])] }) (infoRrel 44 4 0 6 7) { me with unacked := [(7, [0])] } ∧
      (mach.crewOf me).spec = false) := by
  unfold Issues State.MemWf; and_intros <;> decide

/-- A machine with barrier words at 0x100, barrier 0 with this EXPECT, ARRIVED and PHASE. -/
def barS (e a p : Nat) (c : Cohort) : State :=
  { machOf (fun _ => c) (fun k => { k with hdr := { k.hdr with boff := 0x100 } }) with
    smem := Memory.setNat [] 0x100 8 (e + a * 2 ^ 16 + p * 2 ^ 32) }

theorem witness_BarrierInstructions :
    (∀ x ∈ [1, 1024],
      let c := me.setS 6 (BitVec.ofNat 64 x)
      (barS 0 0 0 c).MemWf ∧ ((barS 0 0 0 c).crewOf c).hasBars = true ∧ Issues (barS 0 0 0 c) (infoBari 44 0 0 0 6 7) c ∧
        c.guard 7 = true ∧ (c.sr 6).toNat = x) ∧
    (∀ x ∈ [0, 1025],
      let c := me.setS 6 (BitVec.ofNat 64 x)
      Issues (barS 0 0 0 c) (infoBari 44 0 0 0 6 7) c ∧ (c.sr 6).toNat = x) ∧
    (Issues (barS 32 16 5 me) { infoBararr 44 1 0 5 0 7 with long := true } me ∧ 0 < (me.actors 7).length ∧
      ((barS 32 16 5 me).bar ((barS 32 16 5 me).crewOf me) 0) = ⟨32, 16, 5⟩ ∧ me.acks = 0 ∧ 16 + (me.actors 7).length < 2 ^ 16) ∧
    (let c := { me with unacked := [(7, [0])] }
     Issues (barS 32 16 5 c) { infoBararr 44 1 0 5 0 7 with long := true } c ∧ c.acks ≠ 0) ∧
    ((barS 0 0 0 me).bar ((barS 0 0 0 me).crewOf me) 0).expect = 0 ∧
    (Issues (barS 32 16 5 me) { infoBari 44 2 1 0 6 7 with long := true } me ∧ 5 ≠ (me.sr 6).toNat % 2 ^ 32 ∧
      Issues (barS 32 16 5 (me.setS 6 5)) { infoBari 44 2 1 0 6 7 with long := true } (me.setS 6 5)) ∧
    (∀ e ∈ [32, 33], Issues (barS e 16 5 me) { infoBars 44 3 1 0 7 with long := true } me) ∧
    (∀ t ∈ me.actors 7, t.counted me.pc = none) ∧
    ((mach.crewOf me).hasBars = false ∧ me.actors 0 = [] ∧ me.actors 7 ≠ [] ∧
      ∀ g ∈ [0, 7], Issues mach (infoBari 44 0 0 0 6 g) me ∧ Issues mach { infoBararr 44 1 0 5 0 g with long := true } me ∧
        Issues mach { infoBari 44 2 1 0 6 g with long := true } me ∧ Issues mach { infoBars 44 3 1 0 g with long := true } me) ∧
    (Issues mach { infoWflag 44 9 1 11 7 with long := true } me ∧ me.flag 11 = 0) ∧
    (let c := { me with flags := [(11, 1)] }
     Issues (machOf fun _ => c) { infoWflag 44 9 1 11 7 with long := true } c ∧ c.flag 11 ≠ 0) := by
  unfold Issues State.MemWf; and_intros <;> decide

/-- A machine whose cohort owns slots 0 and 1 and tile 3 under the name acc2; format slot 0 is not empty. -/
def mtxS (f : Cohort → Cohort) : State :=
  let s := (machOf fun c => f { c with acc := [(2, 4)] }).onLaunch 1 fun l => { l with lrec := { l.lrec with fs := [0x6640] } }
  { s with slots := [(0, { owner := 2 }), (1, { owner := 2 })], tiles := [(3, { owner := 2, words := [(0, 5)] })] }
def mtxC : Cohort := { me with acc := [(2, 4)] }

theorem witness_MatrixIssue :
    (∀ i ∈ [infoMma 0 2 0 1 0 7, infoMma 1 7 0 1 0 7, infoAccz 2 0 7, infoAccst 3 2 0 true 7 6 5 0, infoAccld 4 0 7 6 5 0,
        infoAccrd 5 2 62 7 6 1023, infoAccwr 6 2 62 7 6 0, infoOclaim 7 15 7, infoOclaim 8 1 7, infoOload 9 8 1 7 6 5 0, infoOload 9 10 1 7 6 5 0,
        infoOband 9 1 7 6 2, infoAccscl 10 8 2 7 6], Issues (mtxS id) { i with long := true, late := true } mtxC) ∧
    mtxC.live.length = mtxC.actives.length ∧ (mtxS id).owns mtxC 0 = true ∧ (mtxS id).owns mtxC 1 = true ∧
    mtxC.bound 2 = true ∧ (mtxS id).latent = [] ∧ mtxC.count .mtx < 63 ∧
    (∀ k ∈ [MtxKind.mma 2 0 1 0x6640, .accst 2 0 256 0 true, .oload 0 0 0 256], (mtxS id).mtxPoison mtxC mtxC.stream k = none) ∧
    (let s : State := { mtxS id with sPoison := [(0, true)], slots := [(0, { owner := 2, poison := [(0, true)] }), (1, { owner := 2 })] }
     ∀ k ∈ [MtxKind.mma 2 0 1 0x6640, .oload 0 0 0 256], s.mtxPoison mtxC mtxC.stream k ≠ none) ∧
    (let i := { infoAccwr 6 2 60 7 6 0 with long := true, late := true }
     let c := mtxC.mapT (fun t => t.tid == 3) fun t => { t with vPoison := [(60, true)] }
     Issues (mtxS fun _ => c) i c ∧ c.badRegs i ≠ [] ∧ mtxC.badRegs i = []) ∧
    (let c := { mtxC with outst := (upto 63).map fun k => { id := k, cls := .mtx } }
     Issues (mtxS fun _ => c) { infoAccz 2 0 7 with long := true, late := true } c ∧ 63 ≤ c.count .mtx ∧
      Issues (mtxS fun _ => c) { infoAccz 2 0 0 with long := true, late := true } c ∧ c.live.all (signsWith 0) = true) ∧
    ((mtxS id).launch 1).any (fun l => l.lrec.fs.getD 0 0 != 0) = true ∧
    ((mtxC.sr 6).toInt + (0#20).toInt) % 4 = 0 ∧ 0 + (((32 - 1) * 0 + 256 : Nat) : Int) ≤ ((mtxS id).crewOf mtxC).ssize ∧
    ((mach.launch 1).any (fun l => l.lrec.fs.getD 0 0 == 0) = true ∧ mach.owns me 0 = false ∧ me.bound 2 = false ∧
      Issues mach { infoMma 0 2 0 1 0 7 with long := true, late := true } me ∧ mach.latent = []) ∧
    (let c := (mtxC.setS 6 2).setS 5 0x10000
     Issues (mtxS fun c => (c.setS 6 2).setS 5 0x10000) { infoAccld 4 0 7 6 5 0 with long := true, late := true } c ∧
      ((c.sr 6).toInt + (0#20).toInt) % 4 ≠ 0 ∧ (((mtxS id).crewOf c).ssize : Int) < 0 + ((31 * ((c.sr 5).toNat % 2 ^ 32) + 128 : Nat) : Int)) ∧
    (let c := mtxC.mapT (fun t => t.tid == 9) fun t => { t with act := false }
     Issues (mtxS fun _ => c) { infoAccz 2 0 7 with long := true, late := true } c ∧ c.live.length ≠ c.actives.length ∧
      Issues (mtxS fun _ => c) { infoAccz 2 0 6 with long := true, late := true } c ∧ c.sig 6 = none ∧ c.live.all (signsWith 6) = false) ∧
    (let c := { mtxC with sigs := [⟨6, 8, true⟩] }
     Issues (mtxS fun _ => c) { infoAccz 2 0 6 with long := true, late := true } c ∧ c.sig 6 = some ⟨6, 8, true⟩ ∧ (8 : Dword) ≠ BitVec.ofNat 64 c.pc) ∧
    (Issues (mtxS id) { infoAccz 2 0 0 with long := true, late := true } mtxC ∧ mtxC.live.all (signsWith 0) = true) := by
  unfold Issues; and_intros <;> decide

/-- A machine whose cohort's stream begins with an operation. -/
def headS (m : MtxOp) : State := mtxS fun c => { c with stream := [m] }

theorem witness_MatrixStream :
    (∀ m ∈ [({ op := 5, kind := .accz 0 } : MtxOp), { op := 5, kind := .oclaim 4 }, { op := 5, kind := .oclaim 0 },
        { op := 5, kind := .mma 2 0 1 0x6640 }, { op := 5, kind := .mma 2 0 1 0x6640, admitted := true }],
      let c := { mtxC with stream := [m] }
      let s := headS m
      s.cohort 2 = some c ∧ c.stream = [m] ∧ Tab.wf {} s.tiles = true ∧ Tab.wf {} s.slots = true ∧ s.mtxHolds c = false ∧
        ({ s with thermal := .warm } : State).thermal ≠ .normal ∧ s.arrayRuns 0 c.sub = decide (m.admitted = true) ∧ Tab.read false s.busy (subIx 0 c.sub) = false ∧ s.admWait = [] ∧
        s.thermal = .normal ∧ Tab.read 0 s.admitted (sectorOf 0) < 8 ∧ Tab.wf 0 s.admitted = true ∧ s.opMayHead c = true) ∧
    (let s := headS { op := 5, kind := .mma 2 0 1 0x6640 }
     (s.newStarts (sectorOf 0)).head? = some 2 ∧ Tab.read false ({ s with busy := [(0, true)] } : State).busy (subIx 0 0) = true) ∧
    (let m : MtxOp := { op := 5, kind := .accz 0 }
     m.binds { mtxC with stream := [m] } = some 0 ∧ m.tile = none ∧ ({ mtxC with stream := [m] } : Cohort).tileOf 0 = none ∧
      ((List.range 16).find? fun t => ((headS m).tile 0 0 t).owner == 0) = some 0 ∧
      m.ready { mtxC with stream := [m] } = false ∧ ({ m with tile := some 0 } : MtxOp).ready { mtxC with stream := [m] } = true) ∧
    ((headS { op := 5, kind := .oclaim 4 }).slot 0 0 4).owner = 0 ∧ ((headS { op := 5, kind := .oclaim 4 }).slot 0 0 0).owner = 2 ∧
    (let s : State := { headS { op := 5, kind := .oclaim 4 } with
        tiles := (upto 16).map fun t => (t, { owner := 3 }), slots := [(4, { owner := 3 })], admitted := [(0, 8)] }
     (∀ t, t < 16 → (s.tile 0 0 t).owner ≠ 0) ∧ (s.slot 0 0 4).owner ≠ 0 ∧ (s.slot 0 0 4).owner ≠ 2 ∧ 8 ≤ Tab.read 0 s.admitted 0) := by
  and_intros <;> decide

theorem witness_MatrixEffects : (mtxS id).latent = [] ∧ Tab.wf 0x80 ((mtxS id).slot 0 0 0).side = true ∧ Tab.wf 0 mtxC.acc = true ∧
    mtxC.key ≠ 0 ∧ mtxC.tileOf 2 = some 3 ∧ Tab.wf {} (mtxS id).tiles = true ∧
    ((mtxS id).tile 0 0 3).owner ≠ 0 ∧ Tab.wf 0 ((mtxS id).tile 0 0 3).words = true ∧ (mtxS id).MemWf ∧ 32 * 128 ≤ 32 * 128 ∧
    ((mtxS id).crewOf mtxC).spec = false ∧ (mtxS id).protects ((mtxS id).crewOf mtxC) 0 = false ∧
    (mtxS id).cohort 2 = some mtxC ∧ Tab.wf {} (mtxS id).slots = true ∧ Tab.wf 0 ((mtxS id).slot 0 0 0).data = true := by
  unfold State.MemWf; and_intros <;> decide

theorem witness_OpalInstructions :
    (let f := fun (s : State) => s.onLaunch 1 fun l => { l with binds := [(255, true), (3, false)] }
     let s := f mach
     Issues s { infoTb 45 0 0 255 7 with long := true } me ∧ me.guard 7 = true ∧ s.tbBind (s.crewOf me) 255 = some true ∧ me.acks = 0 ∧
      s.tbBind (s.crewOf me) 4 = none ∧ Issues s { infoTb 45 1 0 3 7 with long := true } me ∧ (s.crewOf me).spec = false ∧
      s.tbBind (s.crewOf me) 3 = some false ∧ Issues s { infoTbstat 45 2 0 5 3 0 with long := true, g := 7, ps := [0] } me ∧
      Issues s { infoTb 45 0 0 255 0 with long := true } me ∧ Issues s { infoTb 45 1 0 3 0 with long := true } me ∧
      Issues s { infoSpbar 45 4 1 0 with long := true } me ∧ me.guard 0 = false ∧
      Issues s { infoTbstat 45 2 0 5 4 0 with long := true, g := 7, ps := [0] } me ∧
      (s.launch (s.crewOf me).launch).isSome = true ∧ Issues s { infoSpchk 45 3 0 5 7 with long := true, g := 7, ps := [7] } me ∧
      Issues s { infoSpbar 45 4 1 7 with long := true } me) ∧
    (let c := { me with unacked := [(7, [0])] }
     Issues (machOf fun _ => c) { infoTb 45 0 0 255 7 with long := true } c ∧ c.acks ≠ 0) ∧
    (let s := machOf id fun k => { k with spec := true }
     Issues s { infoTb 45 1 0 3 7 with long := true } me ∧ Issues s { infoSpbar 45 4 1 7 with long := true } me ∧
      (s.crewOf me).spec = true) := by
  unfold Issues; and_intros <;> decide

/-- A machine with a job whose tile buffer 1 has an image at 0x40000: 256 bytes at BASE 0x10000, PRED 0x20000, HIST 0x30000, STATE and
HCX as given, with a compare and a history copy of it. -/
def tileS (state : Nat) (hcx : Bool) (pred : Nat) : State :=
  let m := ((Memory.setNat [] 0x20018 8 0x1000000).setNat 0x20028 6 0x40000).setNat 0x20030 6 0x10000
  let d := 0x40040
  let m := ((m.setNat d 8 0x10000).setNat (d + 8) 8 pred).setNat (d + 16) 8 (0x30000 + if hcx then 2 ^ 57 else 0)
  { mach with gmem := (m.setNat (d + 24) 8 1).setNat (d + 40) 1 state, pjob := [(0, 0x20000)], carve := 1,
              compares := [⟨0, 1⟩], history := [⟨0, 1⟩],
              tbHomes := [{ job := 0, tb := 1, predSize := 1, predFmt := 0, starters := [1] }] }

theorem witness_OpalEvents :
    (let s := tileS 0 true 0
     s.MemWf ∧ s.changing = [] ∧ s.history[0]? = some ⟨0, 1⟩ ∧ (s.jobCtx 0).any (fun jd => s.tierOk (jd.tbAddr 1) 64 && (s.tb jd 1).state == 0 &&
      (s.tb jd 1).hcx) = true) ∧
    (let s := tileS 2 true 0x20000
     s.MemWf ∧ s.changing = [] ∧ s.compares[0]? = some ⟨0, 1⟩ ∧ (s.jobCtx 0).any (fun jd =>
      let b := s.tb jd 1
      s.tierOk (jd.tbAddr 1) 64 && b.state == 2 && b.hcx && (s.tileParts (s.tbUnit jd 1) jd false b.base 256 .read).isSome &&
        (s.tileParts (s.tbUnit jd 1) jd false b.pred 256 .read).isSome && (s.histParts (s.tbUnit jd 1) jd b ((b.ver + 1) % 2 ^ 32) .write).isSome) = true) ∧
    (let s := tileS 2 true (2 ^ 40)
     (s.jobCtx 0).any (fun jd => (s.tileParts (s.tbUnit jd 1) jd false (s.tb jd 1).pred 256 .read).isNone && (s.tb jd 1).state == 2) = true) ∧
    (∀ b : Bool,
      let s := (machOf id).onLaunch 1 fun l => { l with spec := true, awaits := [.verdict 1] }
      let r : Resol := { launch := 1, what := .verdict 1, commit := b }
      ({ s with resols := [r] } : State).resols = [] ++ r :: [] ∧ s.inShadow 1 = false ∧
        (s.launch 1).any (fun l => l.spec && l.awaits == [.verdict 1]) = true) ∧
    (let held : Effect := { cohort := 2, va := 64, size := 2, data := [1, 2, 3, 4], pos := 0 }
     let s := machOf (fun c => { c with clause := none }) fun k => { k with committing := true, spec := true, effects := [held] }
     (s.crew 1).any (fun cr => cr.committing && !cr.shadow && cr.heldKill.isNone) = true ∧
      (∀ c ∈ s.cohorts, c.clause = none ∧ c.drainFault = none ∧ c.drainPark = none ∧ c.acks + 1 ≤ 4095 ∧ c.acks = 0 ∧ c.crew = 1) ∧
      s.translate 0 {} 64 .write = .ok 64 ∧ s.cohorts.map (·.key) = [2]) ∧
    (let c := { me with unacked := [(7, [0])], clause := none }
     ∃ x ∈ (machOf fun _ => c).cohortsOf 1, x.acks ≠ 0) ∧
    (∃ c ∈ (machOf id).cohorts, c.crew = 1 ∧ c.clause ≠ none) := by
  unfold State.MemWf; and_intros <;> decide

/-- A machine of partition 0 whose job's records are at 0x20000: a kernel header at 0x30000, a launch record of two crews at
0x50000, and one of none at 0x50080. -/
def launchS (f : Cohort → Cohort) (k : Crew → Crew := id) : State :=
  let m := (((Memory.setNat [] 0x3002C 4 256).setNat 0x30030 2 (16 + 2 ^ 8)).setNat 0x30034 4 0xFFFFFFFF).setNat 0x3004C 2 16
  let m := ((m.setNat 0x50000 8 0x30000).setNat 0x50014 4 2).setNat 0x50018 4 1
  { machOf f k with gmem := m, pjob := [(0, 0x20000)], part := [(0, 1)] }

theorem witness_LaunchInstructions :
    (∀ x ∈ [0x50000, 0x50080],
      let c := me.setS 6 (BitVec.ofNat 64 x)
      let s := launchS fun _ => c
      let cr := s.crewOf c
      s.crew c.crew = some cr ∧ (c.sr 6).toNat % 128 = 0 ∧ c.acquiring = false ∧ cr.spec = false ∧ c.acks = 0 ∧
        Issues s { infoRdeq 44 5 0 5 6 7 with long := true, g := 7, ps := [7] } c ∧ c.guard 7 = true ∧
        Issues s { infoRdeq 44 6 1 5 6 7 with long := true } c ∧ Issues s { infoRrel 44 7 0 6 7 with long := true } c ∧
        c.sr 6 ≠ 0 ∧ s.doneTaken cr c.key = false ∧ s.doneTaken { cr with doneUsed := true } c.key = true ∧
        (s.readVa cr.core cr.jd x 128).toOption.any (fun bs => !(bs.any (·.2)) &&
          (s.checkRecord (leNat (bs.map (·.1))) (some (s.jobOf cr))).isSome == (x == 0x50000)) = true ∧
        s.storeFree = true ∧ s.storeWait = [] ∧ s.mayTake (.spawnw c.key (upto 16)) = true ∧ s.mayTake (.done c.key (upto 16)) = true ∧
        s.mustReplay (s.vaHomes cr.core cr.jd x 128) = false ∧
        (let u : State := { s with changing := [s.domOf x] }
         u.mustReplay (u.vaHomes cr.core cr.jd x 128) = true) ∧
        (({ s with gPoison := [(x / 8, true)] } : State).readVa cr.core cr.jd x 128).toOption.any (fun bs =>
          decide (bs[0]?.any (·.2) = true)) = true) ∧
    (let s : State := { launchS id with storeWait := [.ring 9] }
     s.storeWait ≠ [] ∧ s.mayTake (.spawnw 2 (upto 16)) = false ∧ s.mayTake (.done 2 (upto 16)) = false) ∧
    (let c := (me.setS 6 (2 ^ 30)).setS 7 4
     let s := launchS fun _ => c
     Issues s { infoRdeq 44 6 1 5 6 7 with long := true } c ∧ Issues s { infoRdeq 44 5 0 5 6 7 with long := true, g := 7, ps := [7] } c ∧
      (s.readVa 0 {} (2 ^ 30) 128).toOption = none ∧ Issues s { infoRrel 44 8 0 7 7 with long := true } c ∧ (c.sr 7).toNat % 8 = 4) ∧
    (let s := launchS id fun k => { k with spec := true }
     Issues s { infoRdeq 44 5 0 5 6 7 with long := true, g := 7, ps := [7] } me ∧ (s.crewOf me).spec = true ∧
      Issues s { infoRrel 44 7 0 6 7 with long := true } me ∧ Issues s { infoRrel 44 8 0 6 7 with long := true } me) ∧
    (Issues mach { infoRrel 44 7 0 6 7 with long := true } me ∧ me.sr 6 = 0) ∧
    (let c := me.setS 6 64
     Issues (launchS fun _ => c) { infoRdeq 44 5 0 5 6 7 with long := true, g := 7, ps := [7] } c ∧ (c.sr 6).toNat % 128 ≠ 0) ∧
    (let c := me.setS 6 8
     Issues (machOf fun _ => c) { infoRrel 44 8 0 6 7 with long := true } c ∧ ((machOf fun _ => c).crewOf c).torn = false ∧
      (c.sr 6).toNat % 8 = 0) ∧
    (let c := me.setS 6 (9 * 65536 + 5)
     let l : Launch := { handle := 9, lrec := probeRec, left := 1 }
     let s : State := { machOf fun _ => c with launches := mach.launches ++ [l] }
     Issues s { infoRrel 44 8 0 6 7 with long := true } c ∧ (c.sr 6).toNat % 8 = 5 ∧ s.launch ((c.sr 6).toNat / 2 ^ 16) = some l ∧
      l.lrec.job = s.jobOf (s.crewOf c) ∧ l.torn = false ∧ l.spec = false ∧ ∀ k ∈ s.crews, k.launch ≠ l.handle) := by
  unfold Issues; and_intros <;> decide

theorem witness_LaunchEvents :
    (let c := { (me.mapT (fun _ => true) fun t => { t with st := .exited, act := false }) with clause := none }
     let s := machOf fun _ => c
     s.cohort 2 = some c ∧ s.mayRetire c (s.crewOf c) = true ∧ s.crewMay (s.crewOf c) = true ∧
      (s.cohortsOf c.crew).length ≤ 1) ∧
    mach.mayRetire me (mach.crewOf me) = false ∧
    (let c := { me with threads := [], clause := none }
     let s : State := { machOf fun _ => c with bins := [(0, { held := true, crew := 1 })] }
     s.mayRetire c (s.crewOf c) = true ∧ s.crewBinned (s.crewOf c) = true) ∧
    (let s : State := { mach with storeWait := [.spawnw 9 [0], .spawnw 2 [0, 1]] }
     s.storeFree = true ∧ s.storeWait.find? s.mayServe = some (.spawnw 2 [0, 1]) ∧ mach.storeWait.find? mach.mayServe = none) ∧
    (let s : State := { mach with cohorts := [] }
     s.cohort 1 = none ∧ (s.crew 1).any s.crewMay = true ∧ s.cohortsOf 1 = [] ∧ mach.cohort 1 = none ∧ mach.cohortsOf 1 ≠ []) ∧
    (∀ grain ∈ [1, 3],
      let s := (launchS id).onLaunch 1 fun l =>
        { l with lrec := { l.lrec with khdr := 0x30000, hi := 4, grain := grain }, tasks := [(1, 4)], left := 4 }
      (s.core 0).task = none ∧ (s.launches.map (·.tasks)) = [[(1, 4)]] ∧ s.returnsFirst 0 0 = false ∧
        (s.placeOne 1 0 1).isSome = true ∧ (s.launch 1).any (fun l => !l.lrec.cosched && decide (0 < l.lrec.grain)) = true ∧
        Tab.wf {} s.cores = true ∧ ((s.onCore 0 fun k => { k with task := some (1, 1, 4) }).core 0).task = some (1, 1, 4) ∧
        ((s.onCore 0 fun k => { k with task := some (1, 1, 4) }).placeOne 1 0 1).isSome = true) ∧
    (mach.placeOne 1 0 1 = none ∧ (mach.onCore 0 fun k => { k with task := some (1, 1, 4) }).placeOne 1 0 1 = none) := by
  and_intros <;> decide

theorem witness_SystemInstructions :
    mach.privileged me = true ∧ Issues mach (infoCrd 0 5 6 18) me ∧ crdLegal 18 = true ∧ Issues mach (infoCwr 1 5 6 2) me ∧
    cwrLegal 2 = true ∧ (∀ k ∈ [1, 10, 12], Issues mach (infoCwri 1 k 5 6) me) ∧ me.tlbWait = none ∧
    (∀ k ∈ [0, 1, 2], Issues mach (infoTlbinv 2 k 6) me ∧ mach.tlbUsers k 0 = []) ∧
    (packed { id := 9, cohort := 2, core := 0, space := .glob, addr := 64, kind := .store [] }).tlbUsers 1 0 = [9] ∧
    Issues mach (infoSysda 3 5 6) me ∧ mach.domInvalid 0 = false ∧ Tab.wf {} mach.doms = true ∧ me.sync = none ∧ mach.changing = [] ∧
    (let c := { me with sync := some (0, {}), tlbWait := some [9] }
     Issues (machOf fun _ => c) (infoSysda 3 5 6) c ∧ Issues (machOf fun _ => c) (infoTlbinv 2 1 6) c ∧
      (machOf fun _ => c).packetOver 9 = true ∧
      (packed { id := 9, cohort := 2, core := 0, space := .glob, addr := 64, kind := .store [] }).packetOver 9 = false) ∧
    ({ mach with domsNew := [(0, { k := 1, s0 := 1 })] } : State).domInvalid 0 = true ∧
    Issues mach (infoSysda 4 5 6) me ∧ me.haltP = none ∧ Tab.read 0 mach.part 0 % 2 ^ 40 = 0 ∧
    (let s : State := { mach with part := [(0, 1)] }
     Tab.read 0 s.part 0 % 2 ^ 40 ≠ 0 ∧ s.partHalting 0 = false ∧ s.partOf (s.crewOf me).core = 0 ∧
      (s.onCore 0 fun k => { k with phase := .halting }).partHalting 0 = true) ∧
    (let s : State := { mach with part := [(0, 2)] }
     Tab.read 0 s.part 0 % 2 ^ 40 ≠ 0 ∧ s.partHalting 0 = false ∧ s.partOf (s.crewOf me).core ≠ 0 ∧ s.liveCores 0 = []) ∧
    (crdLegal 1 = false ∧ cwrLegal 0 = false ∧ Issues mach (infoCrd 0 5 6 1) me ∧ Issues mach (infoCwr 1 5 6 0) me) ∧
    (let s : State := { mach with part := [(0, 2)] }.onCore 16 fun k => { k with released := true }
     Tab.read 0 s.part 0 % 2 ^ 40 ≠ 0 ∧ s.partHalting 0 = false ∧ s.partOf (s.crewOf me).core ≠ 0 ∧ s.liveCores 0 ≠ []) ∧
    (let c := { me with haltP := some 0 }
     Issues (machOf fun _ => c) (infoSysda 4 5 6) c) ∧
    (let s := machOf id fun k => { k with hdr := { k.hdr with system := false } }
     s.privileged me = false ∧ Issues s (infoCrd 0 5 6 0) me ∧ Issues s (infoCwr 1 5 6 16) me ∧ Issues s { infoWbr 40 2 5 6 true with long := true } me) ∧
    (2 ^ 64 - 1 < 2 ^ 64 ∧ ∀ idx ∈ [2, 3, 4, 5, 6, 7, 9, 14, 15, 16], (2 ^ 64 - 1) &&& cfgMask idx ≠ 0) := by
  unfold Issues; and_intros <;> decide

/-- A machine of two clusters of partition 0, core 0 in this phase. -/
def coreS (p : CorePhase) (f : Cohort → Cohort) : State :=
  { (machOf f).onCore 0 fun k => { k with phase := p } with part := [(0, 3)] }

/-- A crew whose one live thread waits, with a safe point at its header and a job of 32 frames of 64 KiB at 0x100000. -/
def movingS (m : Mig) (w : Wait) (st : TStat → TStat) : State :=
  let c := { (me.mapT (fun t => t.tid == 0) fun t => { t with st := st (.waiting w), act := false, pc := 65540 }) with clause := none }
  let c := c.mapT (fun t => t.tid != 0) fun t => { t with st := .exited, act := false }
  let s := machOf (fun _ => c) fun k =>
    { k with mig := m, waitClk := 1024, ssize := 256, jd := { k.jd with img := 0x100000, imgsz := 0x300000 },
             hdr := { k.hdr with spt := 0x8000, spn := 1 } }
  { s with part := [(0, 3)], launches := s.launches.map fun l => { l with lrec := { l.lrec with spin := 1 } },
           gmem := (Memory.setNat [] 65536 4 0x1E001FE0).setNat 65540 4 0x38000077 }

theorem witness_ContextEvents :
    (Tab.wf {} mach.cores = true ∧ Tab.wf 0 mach.pjob = true ∧ (mach.core 0).phase ≠ .halting ∧ (mach.core 0).phase ≠ .halted) ∧
    (let s := coreS .halting fun c => { c with clause := none }
     Tab.wf {} s.cores = true ∧ (s.core 0).phase = .halting ∧ s.haltReady 0 = true ∧
      ∀ n ∈ s.liveCores (s.partOf 0), n = 0 ∨ (s.core n).phase ≠ .halting) ∧
    (coreS .halting id).haltReady 0 = false ∧
    (let s := coreS .halted fun c => { c with clause := none }
     let out := (s.crews.filter fun cr => cr.core == 0 && !cr.shadow).map (·.key)
     let p := s.onCrew 1 fun k => { k with privMem := [(64, some 1)] }
     (s.core 0).phase = .halted ∧ (∀ n ∈ s.liveCores (s.partOf 0), (s.core n).phase ≠ .halting) ∧ s.heatSwaps = [] ∧ s.latent = [] ∧
      s.heatOut.contains (s.partOf 0) = false ∧ s.privStuck out = none ∧ p.privStuck out = none ∧
      ({ p with changing := [s.domOf 64] } : State).privStuck out = some 1 ∧
      ({ s with heatOut := [0] } : State).heatOut.contains (s.partOf 0) = true) ∧
    (let s := movingS .none (.counter 0 0) id
     (s.crew 1).any (fun cr => s.spinsOut cr && (s.freeRun cr.jd (s.imageBytes cr)).isSome && !cr.torn && !cr.migrating &&
        decide (s.partOf 0 = cr.jd.part ∧ (s.core 0).released = true)) = true) ∧
    ((mach.crew 1).any (fun cr => !mach.spinsOut cr && !mach.readyBack cr && decide (mach.partOf 0 ≠ cr.jd.part)) = true) ∧
    (let s := (movingS .none (.counter 0 0) id).onCrew 1 fun k => { k with out := some (0, 1) }
     (s.crew 1).any (fun cr => s.readyBack cr && !cr.shadow && !cr.torn && s.sitsBack cr && decide (cr.out = some (0, 1))) = true ∧
      s.partHalting (s.partOf 0) = false ∧ (s.cohorts.map (·.key)).Nodup) ∧
    (let s := movingS (.requested 1) (.barrier 0 0) id
     let live := (s.cohortsOf 1).flatMap (·.live)
     live ≠ [] ∧ (∀ c ∈ s.cohortsOf 1, c.live.any c.elig = false) ∧ (∀ e ∈ s.bins, e.2.held = false ∨ e.2.crew ≠ 1) ∧
      s.crewHolds 1 = false ∧
      (∀ c ∈ s.cohortsOf 1, c.tmode = false ∧ c.flags = [] ∧ c.outst = [] ∧ c.unacked = [] ∧ s.batchesOf c.key = []) ∧
      (s.crew 1).any (fun cr => !cr.shadow && !cr.torn && !cr.spec && cr.out.isNone && decide (cr.mig = .requested 1) &&
        decide (cr.rays = []) && live.all (fun t => (s.standsAt cr (s.safePts cr) t).isSome) &&
        (s.freeRun cr.jd cr.recordBytes).isSome) = true ∧
      ((s.onCrew 1 fun k => { k with hdr := { k.hdr with spn := 0 } }).crew 1).any (fun cr => live.any fun t =>
        (s.standsAt cr (s.safePts cr) t).isNone) = true) ∧
    (let s := movingS (.requested 1) (.barrier 0 0) fun _ => .eligible
     (s.cohortsOf 1).any (fun c => c.live.any c.elig) = true) ∧
    (let s := (movingS (.requested 1) (.barrier 0 0) id).onCohort 2 fun c => { c with unacked := [(7, [0])] }
     (∀ c ∈ s.cohortsOf 1, c.live.any c.elig = false) ∧ s.crewHolds 1 = false ∧ ∃ c ∈ s.cohortsOf 1, c.unacked ≠ []) ∧
    (let s := movingS (.saving 0) (.barrier 0 0) fun _ => .saved
     s.MemWf ∧ (s.crew 1).any (fun cr => decide (cr.mig = .saving 0) && !cr.shadow && !cr.torn && cr.out.isNone && (s.spadFit 0 cr.ssize).isSome) = true ∧
      s.savedAll 1 = true ∧ s.crewHolds 1 = false ∧ s.partHalting (s.partOf 0) = false ∧ (s.freeSlot 0).isSome = true ∧
      s.mustReplay (s.privHomes 1 fun _ => true) = false ∧
      (let u : State := { s.onCrew 1 fun k => { k with privMem := [(64, some 1)] } with changing := [s.domOf 64] }
       u.mustReplay (u.privHomes 1 fun _ => true) = true)) ∧
    (movingS (.saving 0) (.barrier 0 0) id).savedAll 1 = false ∧
    (∀ g : Bool,
      let s := (movingS (.moving 0) (.barrier 0 0) fun _ => .saved).onCore 0 id
      let s : State := if g then s else { s with cohorts := s.cohorts ++ (upto 64).map fun k => { me with key := 100 + k, crew := 99, sub := k % 4 } }
      let s : State := if g then s else { s with crews := s.crews ++ [{ noCrew with key := 99, core := 0 }] }
      s.partHalting (s.partOf 0) = false ∧ (s.crew 1).any (fun cr => decide (cr.mig = .moving 0) && !cr.shadow && !cr.torn &&
        decide ((s.grant 0 (s.baseSub 0) cr.lastReq cr.hdr (fun g => (sliceAll { cr with gw := g, base := s.baseSub 0 } (s.cohortsOf 1) g 0
          (slicesOf cr.hdr g)).map fun c => (c.cid, c.role)) 1).isSome = g)) = true) := by
  unfold State.MemWf; and_intros <;> decide

/-- A ray of a crew's thread 0. -/
def rayOf (u : RayUnit) (stopped : Bool) : Ray := { unit := u, tid := 0, op := 9, scene := 0, input := [], dest := 8, ipc := 0, stopped := stopped }

theorem witness_FieldInstructions :
    (∀ x ∈ [0, 8, 64],
      let c := me.setS 6 (BitVec.ofNat 64 x)
      ∀ i ∈ [infoMarch 46 0 8 16 6 true 2, infoTrace 46 4 8 16 6, infoMarchr 46 1 8 16, infoTracer 46 5 8 16, infoFprep 46 2 8 6 7,
        infoFprep 46 2 8 7 6, infoBfetch 46 3 8 16 6, infoTex 46 6 8 16 6, infoTexq 46 7 8 16 6],
        Issues (machOf fun _ => c) { i with long := true } c ∧ mach.crew c.crew = some (mach.crewOf c) ∧ c.count .gath < 63 ∧
          (machOf fun _ => c).landed ((machOf fun _ => c).releaseNeeds c.key) = true) ∧
    (let c := me.setS 7 4
     Issues (machOf fun _ => c) { infoMarch 46 0 8 16 6 true 0 with long := true } c ∧ (c.sr 7).toNat % 8 ≠ 0) ∧
    (let c := me.setS 7 65536
     Issues (machOf fun _ => c) { infoMarch 46 0 8 16 6 true 0 with long := true } c ∧ ¬ (c.sr 7).toNat + 8 ≤ (mach.crewOf c).ssize) ∧
    (let s : State := { mach with tlb := [], walks := missS.walks }
     let b : State := { mach with changing := [mach.domOf 0] }
     let z : State := { mach with gmem := Memory.setNat [] 8 1 1 }
     mach.missHeld 0 {} (distinct (pagesVa 0 64)) = false ∧ s.missHeld 0 {} (distinct (pagesVa 0 64)) = true ∧
      mach.mustReplay (mach.vaHomes 0 {} 0 64) = false ∧ b.mustReplay (b.vaHomes 0 {} 0 64) = true ∧
      (sceneOf (z.readScene (z.crewOf me) 0 1).1).isSome = true ∧ (sceneOf (mach.readScene (mach.crewOf me) 0 1).1).isNone = true) ∧
    mach.spBad (mach.crewOf me) 0 = false ∧ ({ mach with sPoison := [(1, true)] } : State).spBad (mach.crewOf me) 0 = true ∧
    (me.sr 7).toNat + 8 + mach.crewNat (mach.crewOf me) ((me.sr 7).toNat + 4) 4 ≤ (mach.crewOf me).ssize ∧
    (let c := { me with outst := (upto 63).map fun k => { id := k, cls := .gath } }
     Issues (machOf fun _ => c) { infoTex 46 6 8 16 6 with long := true } c ∧ 63 ≤ c.count .gath) ∧
    (∀ u ∈ [RayUnit.marcher, .traverser], ∀ b : Bool,
      let s := machOf id fun k => { k with rays := [rayOf u b] }
      (∃ t ∈ me.actives, ((s.crewOf me).rayOf u t.tid).any (fun r => r.stopped == b) = true) ∧
        s.raySlots 0 u + (me.actives.filter fun t => ((s.crewOf me).rayOf u t.tid).isNone).length ≤ 256) ∧
    (let rec_ := (upto 80).map fun k => (mach.spadByte (mach.crewOf me) (0x1000 + k))
     rec_.any (·.2) = false ∧ (mach.prepRun (mach.crewOf me) (leNat (rec_.map (·.1)))).isSome = true ∧
      0x2000 + 4104 ≤ (mach.crewOf me).ssize ∧ 0x1000 + 80 ≤ (mach.crewOf me).ssize) ∧
    (mach.prepRun (mach.crewOf me) 0x7FC00000 = none) ∧
    (({ mach with sPoison := [(0x400, true)] } : State).spadByte (mach.crewOf me) 0x1000).2 = true ∧
    (let s : State := { mach with gmem := (((Memory.setNat [] 0x6000 8 0x7000).setNat 0x6008 2 1).setNat 0x7048 8 0x8000).setNat 0x7050 2 2 |>.setNat 0x8000 1 1 }
     (match s.prepRun (s.crewOf me) (0x6000 * 2 ^ 576) with
      | some m =>
        match m.out.1 with
        | .ok (v, code) => decide ((keptCode code v.2).length = 2)
        | .error _ => false
      | none => false) = true) ∧
    (let m : Img := { base := 0, rmap := 64, w := 8, h := 8, levels := 1, fmt := 1 }
     (([0, 0, 0] : List Nat).take 2).all cfin = true ∧ (([0x7FC00000, 0, 0] : List Nat).take 2).all cfin = false ∧
      (mach.usedLevel (mach.crewOf me) m (fp32.val 0).x (fp32.val 0).x 16 (m.request 0)).out.1 = .ok none) := by
  unfold Issues; and_intros <;> decide

theorem witness_RaysAndDraws :
    (sceneOf 0 = none ∧ (sceneOf (2 ^ 64)).isSome = true ∧ badRay [0, 0, 0, 0, 0, 0, 0, 0] = true ∧
      badRay [0, 0, 0, 0x3F800000, 0, 0, 0x40000000, 0x3F800000] = false ∧ (ex 0x3F800000).lt (ex 0x40000000) = true ∧
      (tsceneOf (2 ^ 128)).isSome = true ∧ replyVal 0 (0x7FC00000, 0) = none ∧
      (∀ sp ∈ [none, some 0],
        let r := { rayOf .marcher true with scene := 2 ^ 64, spOff := sp }
        let s : State := { mach with sPoison := [(1, true)] }
        r.bad = none ∧ r.reply = none ∧ r.spOff.any (s.spBad (s.crewOf me)) = sp.isSome) ∧
      ({ rayOf .marcher true with bad := some (9, 4), reply := some (0x7FC00000, 0) } : Ray).bad = some (9, 4)) ∧
    (let r := { rayOf .marcher false with scene := 2 ^ 64 + 0x4000 * 2 ^ 128,
                                          input := [0, 0, 0, 0x3F800000, 0, 0, 0x3F800000, 0x40000000] }
     let b : State := { mach with changing := (upto 8) }
     let h : State := { mach with tlb := [], walks := missS.walks }
     let reads := fun (s : State) => (s.marchRay (s.crewOf me) r).reads
     let pages := fun (s : State) => distinct ((reads s).mem.flatMap fun e => pagesVa e.1 e.2)
     mach.missHeld 0 {} (pages mach) = false ∧ h.missHeld 0 {} (pages h) = true ∧
      mach.mustReplay (mach.readHomes (mach.crewOf me) (reads mach)) = false ∧ b.mustReplay (b.readHomes (b.crewOf me) (reads b)) = true) ∧
    (∀ u ∈ [RayUnit.marcher, .traverser], ∀ b : Bool,
      let o : Op := { id := 9, cls := .gath, left := 1 }
      let c := { me with ops := [o] }
      let s := machOf (fun _ => c) fun k => { k with rays := [rayOf u b] }
      (s.crew 1).any (fun cr => (cr.rayOf u 0).any (fun r => r == rayOf u b) && !cr.shadow) = true ∧ s.engineHolds 0 = false ∧
        s.cohort c.key = some c ∧ ((s.cohortsOf 1).find? fun c => (c.op 9).isSome) = some c ∧ c.op 9 = some o) ∧
    (let d : Draw := { engine := 3, drec := 64, jd := {}, status := 1, flushes := 0 }
     let s : State := { mach with draws := [d], tlb := ⟨643, 0, 0, 2 ^ 30, 0, true, true, true⟩ :: mach.tlb }
     (∃ d ∈ s.draws, d.engine = 3) ∧ s.draws.find? (fun d => d.engine == 3) = some d ∧ s.MemWf ∧
      ({ s with draws := [] } : State).translate (rasterUnit 3) {} (64 + 52) .write = .ok 116 ∧
      s.mustReplay (s.vaHomes (rasterUnit 3) {} 64 64 .write) = false ∧
      (let b : State := { s with changing := [s.domOf 64] }
       b.mustReplay (b.vaHomes (rasterUnit 3) {} 64 64 .write) = true)) ∧
    (let ring := rasterRing 3 0
     let t : Nat → State := fun drec => { mach with
       pjob := [(0, 0x20000)], tlb := ⟨643, 0, 0, 2 ^ 30, 0, true, true, true⟩ :: mach.tlb,
       gmem := ((((Memory.setNat [] 0x1C 2 1).setNat 0x1E 2 1).setNat 0x20 4 8).setNat 0x30 4 4096).setNat ring 4 4
         |>.setNat (ring + 24) 8 1 |>.setNat (ring + 64) 8 drec }
     let homes := fun (s : State) => ring :: s.drawHomes 3 {} (s.gmem.nat (s.ringSlot ring (s.ringHead ring)) 8)
     (t 0).mustReplay (homes (t 0)) = false ∧
      (let b : State := { t 0 with changing := [(t 0).domOf ring] }
       b.mustReplay (homes b) = true) ∧
     (∀ d ∈ (t 0).draws, d.engine ≠ 3) ∧ (t 0).rasterReady 3 0 = true ∧ ((t 0).activeJob 0).isSome = true ∧
      ((upto 8).map fun j => (Tab.read 0 (t 0).rasterNext 3 + j) % 8).find? ((t 0).rasterReady 3) = some 0 ∧
      ((t 0).rasterRead 3 {} 0 128).any (fun x => (drecOf x).any fun r => r.ntri == 0) = true ∧
      ((t 0).rasterRead 3 {} 128 128).any (fun x => (drecOf x).isNone) = true ∧ (t 0).rasterRead 3 {} (2 ^ 30) 128 = none) := by
  unfold State.MemWf; and_intros <;> decide

theorem witness_Collectives :
    (∀ i ∈ [infoCred 47 0 4 5 8 2 true, infoCgat 47 1 4 5 8, infoCred 47 2 4 5 8 0 false, infoCgat 47 3 4 5 8, infoCsend 47 4 5 8,
        infoCrecv 47 5 4 8, infoCwait 47 6 8], Issues mach { i with long := true } me) ∧ (mach.crewOf me).spec = false ∧
    ([4, 5, 8].find? fun r => decide ((me.sr r).toNat % 16 ≠ 0)) = none ∧ me.acquiring = false ∧ me.count .coll < 63 ∧
    (∀ q ∈ mach.qpairs, q.failed = false) ∧ ¬ 2 ^ 24 < (me.sr 9).toNat ∧
    (∀ n ∈ [2 ^ 24, 2 ^ 24 + 1],
      let c := me.setS 9 (BitVec.ofNat 64 n)
      Issues (machOf fun _ => c) { infoCred 47 0 4 5 8 2 true with long := true } c ∧ (2 ^ 24 < (c.sr 9).toNat ↔ n = 2 ^ 24 + 1)) ∧
    (let c := me.setS 5 8
     Issues (machOf fun _ => c) { infoCgat 47 1 4 5 8 with long := true } c ∧
      ([4, 5, 8].find? fun r => decide ((c.sr r).toNat % 16 ≠ 0)) = some 5) ∧
    (let c := { me with outst := (upto 63).map fun k => { id := k, cls := .coll } }
     Issues (machOf fun _ => c) { infoCwait 47 6 8 with long := true } c ∧ 63 ≤ c.count .coll) ∧
    (let s := machOf id fun k => { k with spec := true }
     Issues s { infoCwait 47 6 8 with long := true } me ∧ (s.crewOf me).spec = true) ∧
    (∀ here : Bool,
      let x : Coll := { id := 9, cohort := 2, crew := 1, op := 5, kind := 0, comm := 0, job := 0, dst := 0x9000, src := 0, count := 1,
                        fl := 0, peer := 0, tag := 0, seq := 0, ipc := 0, nrank := 1, stage := some 0x8000, sent := true }
      let y : PeerPart := { stage := 0x8000, rank := 0, kind := 0, tag := none, seq := 0, count := 1, fl := 0, data := List.replicate 4 (1, false) }
      let s : State := { mach with colls := [x], peerIn := if here then [y] else [] }
      s.colls.find? (fun x => x.id == 9) = some x ∧ s.crew x.crew = some (s.crewOf me) ∧ s.collTurn x = true ∧ x.bad = 0 ∧
        ((upto x.nrank).filter x.needs).mapM (s.partFrom x) = (if here then some [y] else none) ∧ x.pairs y = true ∧
        x.pairs { y with count := 2 } = false ∧ (s.crewOf me).torn = false ∧
        ((x.result [y]).mapM (fun b => (s.translate 640 {} (x.dst + b.1) .write).toOption.map fun pa => (pa, b.2))).isSome = true ∧
        s.mustReplay (s.collHomes (s.crewOf me) (s.collRanges x)) = false ∧
        s.mustReplay (s.collHomes (s.crewOf me) (s.commRanges (s.crewOf me) x)) = false ∧
        (let b : State := { s with changing := [s.domOf 0x9000, s.domOf 0] }
         b.mustReplay (b.collHomes (b.crewOf me) (b.collRanges x)) = here ∧
          b.mustReplay (b.collHomes (b.crewOf me) (b.commRanges (b.crewOf me) x)) = true) ∧
        (let u : State := { s with crews := [] }
         u.crew x.crew = none ∧ u.collTurn x = true ∧ (u.colls.find? fun x => x.id == 9) = some x ∧
          ((upto x.nrank).filter x.needs).mapM (u.partFrom x) = (if here then some [y] else none))) ∧
    (let s : State := { mach with qpairs := [{ port := 3, qp := 7 }] }
     s.hasQp 3 7 = true ∧ s.hasQp 3 8 = false) ∧
    (me.sr 6).toNat % 64 = 0 ∧ mach.collNat (mach.crewOf me) 32 4 = .ok 0 ∧ mach.translate 640 {} 0 .write = .ok 0 ∧
    (∀ c, mach.cohort 2 = some c → mach.opMay c 5 = true) ∧
    ([({ path := 0xFFFF, lqpn := 0, rqpn := 0, rkey := 0, rstage := 0 } : CommPeer)].any (·.path == 0xFFFF)) = true := by
  unfold Issues; and_intros <;> decide

/-- A device with open ports, a registered region and submission ring 5 of 16 slots at 0x60000, its kick word and first packet given:
SEQ 0, this CRC, a kind, and a launch record of two crews. -/
def ringDev (k : Nat × Nat) (crc kind lrec : Nat) (f : Ring → Ring) : State :=
  let s := launchS id
  let m := ((s.gmem.setNat 0x60000 4 k.1).setNat 0x60004 4 k.2).setNat 0x60044 4 crc
  let m := (m.setNat 0x60048 2 kind).setNat (0x60040 + 128) 128 lrec
  { s with boot := { s.boot with running := true, portsOpen := true, released := 39 }, regions := [⟨1, 0x60000, 0x2000⟩], gmem := m,
           rings := [f { n := 5, region := 0x60000, nslot := 16, job := 0 }] }

theorem witness_HostRings :
    (let w : HostIn := .write 2 1 [(0x60000, [1, 2]), (0x61FFF, [3])] [0]
     let s : State := { ringDev (0, 0) 0 0 0 id with inbox := [w, .read 0 1 0x60000 64, .read 0 2 0x60000 64] }
     s.boot.portsOpen = true ∧ s.inbox[0]? = some w ∧ 1 ∉ [0] ∧ s.registered 1 0x60000 2 = true ∧ s.registered 1 0x61FFF 1 = true ∧
      s.registered 1 0x62000 1 = false ∧ s.inbox[1]? = some (.read 0 1 0x60000 64) ∧ s.registered 1 0x60000 64 = true ∧
      s.inbox[2]? = some (.read 0 2 0x60000 64) ∧ s.registered 2 0x60000 64 = false ∧ (∀ j ≤ 1, s.domOf (0x60000 + 64 * j) ∉ s.changing) ∧
      ({ s with changing := [s.domOf 0x60000] } : State).domOf 0x60000 ∈ [s.domOf 0x60000]) ∧
    (let s := ringDev (15, 0) 0 0 0 fun r => { r with kicked := true }
     (s.ring 5).any (fun r => r.kicked && s.kickWord r != resetKickWord && !r.stopped &&
        decide ((15 + 2 ^ 32 - r.next) % 2 ^ 32 < r.nslot) && r.target.isNone) = true) ∧
    (let s := ringDev (16, 0) 0 0 0 fun r => { r with kicked := true }
     (s.ring 5).any (fun r => r.kicked && !r.stopped && decide (r.nslot ≤ (16 + 2 ^ 32 - r.next) % 2 ^ 32)) = true) ∧
    (let s := ringDev resetKickWord 0 0 0 fun r => { r with kicked := true, stopped := true }
     (s.ring 5).any (fun r => r.kicked && s.kickWord r == resetKickWord) = true) ∧
    (∀ e ∈ [(0x873F9E87, 1, 0x30000 + 2 * 2 ^ 160 + 2 ^ 192), (0xA4FD155F, 2, 0), (0x1D1D3ED9, 3, 0), (0x6B311F24, 1, 0)],
      let s := ringDev (0, 0) e.1 e.2.1 e.2.2 fun r => { r with target := some 0 }
      (s.ring 5).any (fun r => (s.packet r).any fun bs => decide (bs.length = 256) && r.passes s bs &&
        decide (r.unfit (r.waiting.length + 1) ≤ 256) && bitsOf (leNat bs) 64 16 == e.2.1 &&
        (s.checkRecord (bitsOf (leNat bs) 1024 1024) none).isSome == (e.1 == 0x873F9E87)) = true) ∧
    ((ringDev (0, 0) 0 0 0 id).mayTake (.ring 5) = true ∧
      ({ ringDev (0, 0) 0 0 0 id with storeWait := [.ring 4] } : State).mayTake (.ring 5) = false) ∧
    (∀ n ∈ [62, 63],
      let s := ringDev (0, 0) 0 0 0 fun r => { r with target := some 0, reads := n, landed := 1 }
      (s.ring 5).any (fun r => (s.packet r).any fun bs => !(r.passes s bs)) = true) ∧
    (∀ n ∈ [271, 272],
      let r : Ring := { n := 6, region := 0x70000, nslot := 4096, job := 0, waiting := List.replicate n (0, 3, 6) }
      r.full = false ∧ r.stopped = false ∧ (256 < r.unfit (r.waiting.length + 1) ↔ n = 272)) ∧
    (∀ p ∈ [15, 16],
      let s := ringDev (0, 0) 0 0 0 fun r => { r with p := p, waiting := [(1, 3, 5)] }
      (s.ring 5).any (fun r => decide ((r.p + 2 ^ 32 - r.c) % 2 ^ 32 < r.nc) == (p == 15)) = true) ∧
    (let r : Ring := { n := 6, region := 0x70000, nslot := 4096, job := 0 }
     let s : State := { ringDev (0, 0) 0 0 0 id with inbox := [.open_ 5 [r] [], .open_ 4 [r] []] }
     s.inbox[0]? = some (.open_ 5 [r] []) ∧ s.inbox[1]? = some (.open_ 4 [r] []) ∧ 5 % 4 ≠ 0 ∧ 4 % 4 = 0) := by
  and_intros <;> decide

/-- A signed image of 4,096 zero bytes (made outside the model with the key 0x1234567), and the fuse of its key. -/
def signed : List Byte := [0x000000000000110000000000000010000000000000001000000000034E465749,
  0xA72C89488BBDDA857A7CB47CFF05584F026BD1D1D704C066E9C66F58B2AC7FAD,
  0x5C4126FCA30B172DB82961CC70E3DEAA7B89BA77C66FC8741A29AB22FFB98B08,
  0x46A85BB7DEA131A3A68E755ECD870E4909D43AB902AA1ED956790616A7A92D44,
  0xB84E24F44773B65C5F9087F1693473C497DFFC582445D3C2C2CB55395290A410,
  0xFDDB7A6A3278A9316972856C92B2691E604C50D08F7D864F4D47483C526A8170].flatMap (leBytes 32)
def fused : Boot := { fuseKey := 0xf8a212d4f085087c3547aae01e8f656e297a664b1373995bd4e554efb036244, fuseSvn := 3, flash := signed }

theorem test_image_header : imgValid signed = true ∧ sha256 (imgBytes signed 64 64) = fused.fuseKey ∧ fused.fuseSvn ≤ imgNat signed 4 4 := by
  decide +kernel
theorem test_image_signature : ecdsaOk (beNat (imgBytes signed 64 32)) (beNat (imgBytes signed 96 32)) (sha256 (imgBytes signed 0 128))
    (beNat (imgBytes signed 128 32)) (beNat (imgBytes signed 160 32)) = true := by decide +kernel
theorem test_image_digest : sha256 (imgBytes signed 4096 (imgNat signed 8 8)) = beNat (imgBytes signed 32 32) := by decide +kernel

theorem witness_Boot : imgOk fused signed = true ∧ imgOk fused fused.flash = true ∧ fused.tier1Ok = true := by
  have h : imgOk fused signed = true := by
    simp only [imgOk, test_image_header.1, test_image_header.2.1, test_image_signature, test_image_digest, test_image_header.2.2,
      beq_self_eq_true, decide_true, Bool.and_self]
  exact ⟨h, h, rfl⟩

theorem witness_BootAndThermal :
    imgOk State.reset.boot State.reset.boot.flash = false ∧
    (let s : State := { mach with boot := { recovery := true }, inbox := [.image 0 [], .image 1 [], .attest 5] }
     s.inbox[0]? = some (.image 0 []) ∧ s.boot.recovery = true ∧ s.inbox[2]? = some (.attest 5) ∧
      s.inbox[1]? = some (.image 1 []) ∧ (1 : Nat) ≠ 0 ∧ mach.boot.recovery = false) ∧
    ((ringDev (0, 0) 0 0 0 id).boot.running = true ∧ (ringDev (0, 0) 0 0 0 id).boot.released < 40 ∧
      (ringDev (0, 0) 0 0 0 id).boot.portsOpen = true) ∧
    (let s : State := { ringDev (0, 0) 0 0 0 id with thermal := .hot, heatOut := [0] }
     0 ∈ s.heatOut ∧ thermalOf .hot 94 25 = .warm ∧ thermalOf .hot 89 25 = .normal ∧ Tab.read 0 s.part 0 % 2 ^ 40 ≠ 0 ∧
      ({ s with heatOut := [] } : State).partHalting 0 = false ∧
      (({ s with heatOut := [] } : State).onCore 0 fun k => { k with phase := .halting }).partHalting 0 = true ∧
      (∀ k ∈ s.liveCores 0, (s.core k).phase ≠ .halting ∧ (s.core k).phase ≠ .halted) ∧ s.liveCores 0 ≠ []) ∧
    (State.reset.boot.running = false ∧ mach.thermal = .normal ∧ thermalOf .normal 25 25 = .normal ∧ ((115 : Int) < 116 ∧ (105 : Int) < 106 ∧ (106 : Int) ≤ 115)) := by
  refine ⟨by decide, by decide, by decide, by decide, by decide⟩

/-- A machine whose cohort stands at a cached clause of one word, header bit known; port 0 free or its own. -/
def seqS (w : Word) (own : Bool) (cached : Bool) (f : Cohort → Cohort) : State :=
  let ts := me.threads.map fun t => { t with act := false, pc := 65536 }
  let s := machOf fun _ => f { me with clause := none, threads := ts, run := 0, chain := false }
  { s with
    running := if own then [(0, 2)] else [],
    icache := if cached then [⟨0, 0, 1024, w :: 0x38000077 :: List.replicate 14 0, some 1, 0⟩] else [] }

theorem witness_Sequencer :
    Tab.read 0 mach.running (portIx 0 0 0) ≠ 0 ∧ Tab.read none mach.frozen (portIx 0 0 0) = none ∧
    (let s := seqS 0x1E001FE0 false true id
     Tab.read 0 s.running (portIx 0 0 0) = 0 ∧ (s.core 0).phase = .running ∧ (s.core 0).released = true ∧
      (let u := (s.portCohorts 0 0 0).foldl (fun (s : State) c => s.setCohort (s.wake c)) s
       let ready := (u.portCohorts 0 0 0).filter u.ready
       ready ≠ [] ∧ ∀ c ∈ ready, c.key ≠ 0 ∧ c.place < 16 ∧ c.lastRun < 2 ^ 128)) ∧
    ((seqS 0x1E001FE0 false true fun c => { c with threads := [] }).portCohorts 0 0 0).filter mach.ready = [] ∧
    (∃ c, mach.cohort (Tab.read 0 mach.running 0) = some c ∧ c.clause ≠ none) ∧
    (∀ e ∈ [(true, 0), (false, 0), (true, 1)],
      let s := seqS 0x1E003FE0 true e.1 fun c => { c with flags := if e.2 = 0 then [] else [(0, 1)] }
      (s.cohort (Tab.read 0 s.running 0)).any (fun c0 => c0.clause.isNone && (Tab.read none s.frozen 0).isNone &&
        (let c := s.wake c0.settle
         let u := s.setCohort c
         let cr := u.crewOf c
         decide ((u.core 0).phase = .running) && !(u.keptBack c) && !c.reportDue && decide (cr.mig = .none) &&
          decide (c.lowPc = some 65536) && (if e.1 then decide (u.missing cr 65536 = none) else (u.missing cr 65536).isSome) &&
          (!e.1 || u.isHeader cr 65536 && !((u.fetchAddrs cr 65536).any (u.iwordBad cr)) &&
            decide (u.iword cr 65536 = some 0x1E003FE0 ∧ clauseFault 0x1E003FE0 [0x38000077] = none ∧
              c.waitClear (hWait 0x1E003FE0) = decide (e.2 = 0) ∧ c.run = 0)))) = true) ∧
    (let s : State := { seqS 0 true false id with frozen := [(0, some (65536, 65536))] }
     Tab.read none s.frozen 0 = some (65536, 65536) ∧ (s.cohort (Tab.read 0 s.running 0)).any (fun c => decide (c.lowPc = some 65536) &&
      (s.missing (s.crewOf c) 65536).isSome && decide (s.translate 0 {} (65536 / 64 * 64) .fetch = .ok 65536)) = true) := by
  and_intros <;> decide

theorem witness_HardWired : Tab.wf 0 (({ tid := 0, lane := 0 } : Thread).setV 5 7).v = true ∧ Tab.wf 0 (me.setS 5 7).s = true ∧
    (me.threads.all fun t => Tab.wf 0 t.v) = true ∧ (63 : Nat) ≠ 62 := by decide

theorem witness_StepRunsDecoded :
    let c := { me with clause := some { hdr := 65536, word := probeClause, words := [0x38000077] } }
    let s := machOf fun _ => c
    (s.agenda = [] ∧ s.stalled = false ∧ s.issuer = some c ∧ decode c.fetched = .ok (.nop, [])) ∧
    (let t : State := { s with agenda := [.issue 0 0 0] }
     t.agenda = .issue 0 0 0 :: [] ∧
      ({ t with agenda := [], focus := portIx 0 0 0 % 5120, stalled := false } : State).issuer = some c) ∧
    (let t : State := { s with agenda := [.event (.arithmeticClockCycle 0)] }
     t.agenda = .event (.arithmeticClockCycle 0) :: [] ∧ encode (.arithmeticClockCycle 0) = []) := by
  refine ⟨⟨rfl, rfl, by decide, by decide⟩, ⟨rfl, by decide⟩, rfl, by decide⟩

theorem witness_RoundTrip : (Instr.ldg 62 62 false 3 1 5 6 (some 0x80000000)).wellFormed = false ∧
    (Instr.ldg 60 60 false 3 1 5 6 (some 0x80000000)).wellFormed = true ∧
    encode (.ldg 60 60 false 3 1 5 6 (some 0x80000000)) ≠ [] := by decide

theorem witness_MemInvariant : mach.MemWf ∧ ∃ t, step mach = .next t := by
  unfold State.MemWf
  exact ⟨by decide, _, rfl⟩

/-! ### Values that the spec works out (each test names its source) -/

/-- What `g` reads from the cohort of `mach`, changed by `f`, after an instruction. -/
noncomputable def sees (i : Instr) (f : Cohort → Cohort) (g : Cohort → α) : Option α :=
  match exec i (machOf f) with
  | .next t => (t.cohort 2).map g
  | _ => none

/-- Registers of every thread. -/
def vregs (l : List (Nat × Nat)) (c : Cohort) : Cohort :=
  c.mapT (fun _ => true) fun t => l.foldl (fun t e => t.setV e.1 (BitVec.ofNat 32 e.2)) t

/-- Scalar registers. -/
def sregs (l : List (Nat × Nat)) (c : Cohort) : Cohort := l.foldl (fun c e => c.setS e.1 (BitVec.ofNat 64 e.2)) c

/-- A register of the thread in lane 0, of every lane. -/
def v0 (n : Nat) (c : Cohort) : Nat := (c.threads.map fun (t : Thread) => (t.vr n).toNat).headD 0
def vAll (n : Nat) (c : Cohort) : List Nat := c.threads.map fun (t : Thread) => (t.vr n).toNat
def pAll (n : Nat) (c : Cohort) : List Nat := (c.threads.filter fun t => t.pr n).map (·.tid)
def s0 (n : Nat) (c : Cohort) : Nat := (c.sr n).toNat
def flg (c : Cohort) : Nat := c.fpst.toNat

/-- Lane values, and lanes 0 to n - 1 alone active. -/
def lanes (n : Nat) (l : List Nat) (c : Cohort) : Cohort :=
  { c with threads := c.threads.map fun t => t.setV n (BitVec.ofNat 32 (l.getD t.lane 0)) }
def only (n : Nat) (c : Cohort) : Cohort := { c with threads := c.threads.map fun t => { t with act := decide (t.lane < n) } }
def preds (p : Nat) (l : List Nat) (c : Cohort) : Cohort :=
  { c with threads := c.threads.map fun t => t.setP p (l.contains t.lane) }

-- 05 R105: sandi s1, s1, -16 clears bits 3:0
theorem test_sandi : sees (.sandi 1 1 0xFF0) (sregs [(1, 0xFFFF_FFFF_FFFF_FFFF)]) (s0 1) = some 0xFFFF_FFFF_FFFF_FFF0 := by decide
theorem test_saddi : sees (.saddi 1 63 0x800) id (s0 1) = some 0xFFFF_FFFF_FFFF_F800 := by decide
theorem test_slui : sees (.slui 1 0x800) id (s0 1) = some 0xFFFF_FFFF_8000_0000 := by decide
-- 05 R104: (-1) * (-1), the high half signed and unsigned
theorem test_smulh : sees (.smulh 1 (.r 2) (.r 2) 7) (sregs [(2, 2 ^ 64 - 1)]) (s0 1) = some 0 := by decide
theorem test_smulhn : sees (.smulhn 1 (.r 2) (.r 2) 7) (sregs [(2, 2 ^ 64 - 1)]) (s0 1) = some (2 ^ 64 - 2) := by decide
theorem test_ssra : sees (.ssra 1 (.r 2) (.lit 68) 7) (sregs [(2, 2 ^ 63)]) (s0 1) = some (2 ^ 63 + 2 ^ 62 + 2 ^ 61 + 2 ^ 60 + 2 ^ 59) := by decide
theorem test_smin : sees (.smin 1 (.r 2) (.lit 1) 7) (sregs [(2, 2 ^ 64 - 1)]) (s0 1) = some (2 ^ 64 - 1) := by decide
theorem test_sminn : sees (.sminn 1 (.r 2) (.lit 1) 7) (sregs [(2, 2 ^ 64 - 1)]) (s0 1) = some 1 := by decide
theorem test_scmp_lt : sees (.scmpLt 3 (.r 2) (.lit 1) 7) (sregs [(2, 2 ^ 64 - 1)]) (fun c => (pAll 3 c).length) = some 16 := by decide
theorem test_scmp_ltn : sees (.scmpLtn 3 (.r 2) (.lit 1) 7) (sregs [(2, 2 ^ 64 - 1)]) (pAll 3) = some [] := by decide
-- 05 R108: shift counts of 32 to 63
theorem test_vshl : sees (.vshl 1 2 (.lit 32) 7) (vregs [(2, 1)]) (v0 1) = some 0 := by decide
theorem test_vshl_wraps : sees (.vshl 1 2 (.lit 65) 7) (vregs [(2, 1)]) (v0 1) = some 2 := by decide
theorem test_vsra : sees (.vsra 1 2 (.lit 40) 7) (vregs [(2, 0x80000000)]) (v0 1) = some 0xFFFFFFFF := by decide
theorem test_vmulh : sees (.vmulh 1 2 (.v 2) 7) (vregs [(2, 0xFFFFFFFF)]) (v0 1) = some 0 := by decide
-- 05 R109, the cases of vbfe, vbfi and vdp4
theorem test_vbfe : sees (.vbfe 1 2 (.v 3) 7) (vregs [(2, 0xDEADBEEF), (3, 0xC14)]) (v0 1) = some 0xDEA := by decide
theorem test_vbfi : sees (.vbfi 1 2 (.v 3) 7) (vregs [(1, 0xDEADBEEF), (2, 0x123), (3, 0xC14)]) (v0 1) = some 0x123DBEEF := by decide
theorem test_vdp4 : sees (.vdp4 1 2 (.v 3) 7) (vregs [(1, 10), (2, 0x80FF0201), (3, 0x01010304)]) (v0 1) = some 0xFFFFFF93 := by decide
theorem test_vabs : sees (.vabs 1 2 7) (vregs [(2, 0x80000000)]) (v0 1) = some 0x80000000 := by decide
theorem test_vclz : sees (.vclz 1 2 7) id (v0 1) = some 32 := by decide
theorem test_vbrev : sees (.vbrev 1 2 7) (vregs [(2, 0x80000001)]) (v0 1) = some 0x80000001 := by decide
theorem test_vaddsat : sees (.vaddsat 1 2 (.lit 1) 7) (vregs [(2, 0x7FFFFFFF)]) (v0 1) = some 0x7FFFFFFF := by decide
theorem test_vsel : sees (.vsel 1 2 (.v 3) 0) (fun c => preds 0 [0] (vregs [(2, 5), (3, 6)] c)) (fun c => (vAll 1 c).take 2) = some [5, 6] := by decide
theorem test_vmovi : sees (.vmovi 1 0xFFF) id (v0 1) = some 0xFFFFFFFF := by decide
theorem test_pandn : sees (.pandn 1 0 7 7) (preds 0 [0, 1]) (pAll 1) = some [] := by decide
-- 06 R129-R131, their cases
theorem test_ffma : sees (.ffma 4 5 (.v 6) 7) (vregs [(4, 0xBF800000), (5, 0x3F800800), (6, 0x3F800800)]) (fun c => (v0 4 c, flg c)) =
    some (0x3A000400, 0) := by decide
theorem test_fmul : sees (.fmul 4 5 (.v 6) 7) (vregs [(5, 0x3F800800), (6, 0x3F800800)]) (v0 4) = some 0x3F801000 := by decide
theorem test_fmin : sees (.fmin 1 2 (.lit 0) 7) (vregs [(2, 0x80000000)]) (v0 1) = some 0x80000000 := by decide
theorem test_fminnm : sees (.fminnm 1 2 (.v 3) 7) (vregs [(2, 0x7F800001), (3, 0x40200000)]) (v0 1) = some 0x40200000 := by decide
theorem test_fmin_nan : sees (.fmin 1 2 (.v 3) 7) (vregs [(2, 0x7F800001), (3, 0x40200000)]) (v0 1) = some 0x7FC00000 := by decide
theorem test_frndn : sees (.frndn 1 2 7) (vregs [(2, 0xBE99999A)]) (v0 1) = some 0x80000000 := by decide
theorem test_frndu : sees (.frndu 1 2 7) (vregs [(2, 0xBF333333)]) (v0 1) = some 0x80000000 := by decide
-- 06 R132, R133, R134, R138, their cases
theorem test_badd : sees (.badd 1 2 (.v 3) 7) (vregs [(2, 0x3F803F80), (3, 0x3B803C00)]) (v0 1) = some 0x3F803F81 := by decide
theorem test_fadd_ru : sees (.faddRu 1 2 (.lit 0x30800000) 7) (vregs [(2, 0x3F800000)]) (v0 1) = some 0x3F800001 := by decide
theorem test_fadd_rd : sees (.faddRd 1 2 (.lit 0x30800000) 7) (vregs [(2, 0x3F800000)]) (v0 1) = some 0x3F800000 := by decide
theorem test_flt : sees (.flt 2 3 (.v 4) 7) (vregs [(3, 0x7FC00000)]) (pAll 2) = some [] := by decide
theorem test_fne : sees (.fne 2 3 (.v 4) 7) (vregs [(3, 0x7FC00000)]) (fun c => ((pAll 2 c).length, flg c)) = some (16, 0) := by decide
theorem test_pk2 : sees (.pk2Bf16 7 1 (.v 2) 7) (vregs [(1, 0x3F800000), (2, 0xC0000000)]) (v0 7) = some 0xC0003F80 := by decide
theorem test_cvt_e2m1 : sees (.cvtE2m1F32 1 2 7) (vregs [(2, 0x40300000)]) (v0 1) = some 5 := by decide
-- 04 R97, the table of conversions
theorem test_cvt_e4m3 : sees (.cvtE4m3F32 1 2 7) (lanes 2 [0x43960000, 0x43FA0000]) (fun c => (vAll 1 c).take 2) = some [0x79, 0x7E] := by decide
theorem test_cvt_bf16 : sees (.cvtBf16F32 1 2 7) (lanes 2 [0x3F808000, 0x3F818000]) (fun c => (vAll 1 c).take 2) = some [0x3F80, 0x3F82] := by decide
theorem test_cvt_e2m1_more : sees (.cvtE2m1F32 1 2 7) (lanes 2 [0x40A00000, 0x3F400000, 0x40D00000, 0x40F00000, 0xBE4CCCCD, 0x7FC00000])
    (fun c => (vAll 1 c).take 6) = some [6, 2, 7, 7, 8, 0] := by decide
-- 07 R146, R148, R150, R155, their cases
theorem test_shflx : sees (.shflx 5 5 (.lit 1) 7) (lanes 5 ((upto 16).map (100 + ·))) (fun c => ((vAll 5 c).drop 6).take 2) = some [107, 106] := by decide
theorem test_shflx_out : sees (.shflx 5 5 (.lit 16) 7) (lanes 5 ((upto 16).map (100 + ·))) (vAll 5) = some ((upto 16).map (100 + ·)) := by decide
theorem test_vcomp : sees (.vcomp 1 2 3 7) (fun c => only 8 (preds 3 [1, 4, 6] (lanes 2 ((upto 16).map (10 + ·)) (vregs [(1, 7)] c)))) (vAll 1) =
    some ([11, 14, 16] ++ List.replicate 5 0 ++ List.replicate 8 7) := by decide
theorem test_vexpd : sees (.vexpd 1 2 3 7) (fun c => only 8 (preds 3 [1, 4, 6] (lanes 2 ((upto 16).map (10 + ·)) (vregs [(1, 7)] c)))) (vAll 1) =
    some ([7, 10, 7, 7, 11, 7, 12] ++ List.replicate 9 7) := by decide
/-- The lanes of the case of R150. -/
def topLanes (c : Cohort) : Cohort :=
  only 8 (lanes 2 [0x40400000, 0x7FC00000, 0x80000000, 0x40A00000, 0, 0x40A00000, 0xFF800000, 0x3F800000] c)
theorem test_vtopk_4 : sees (.vtopk 1 2 (.lit 4) 7) topLanes (pAll 1) = some [0, 3, 5, 7] := by decide
theorem test_vtopk_7 : sees (.vtopk 1 2 (.lit 7) 7) topLanes (fun c => (pAll 1 c, flg c)) = some ([0, 2, 3, 4, 5, 6, 7], 0) := by decide
theorem test_vtopka : sees (.vtopka 1 2 (.lit 2) 7) topLanes (pAll 1) = some [3, 6] := by decide
theorem test_radd_f32 : sees (.raddF32 1 2 7) (fun c => { lanes 2 [0x3F800000, 5, 0x33800000, 0x33800000] c with
      threads := (lanes 2 [0x3F800000, 5, 0x33800000, 0x33800000] c).threads.map fun t => { t with act := [0, 2, 3].contains t.lane } })
    (s0 1) = some 0x3F800001 := by decide
theorem test_radd_f32_any : sees (.raddF32Any 1 2 7) (fun c => { lanes 2 [0x3F800000, 5, 0x33800000, 0x33800000] c with
      threads := (lanes 2 [0x3F800000, 5, 0x33800000, 0x33800000] c).threads.map fun t => { t with act := [0, 2, 3].contains t.lane } })
    (s0 1) = some 0x3F800000 := by decide
theorem test_radd_i32 : sees (.raddI32 1 2 7) (lanes 2 [0xFFFFFFFF, 3]) (s0 1) = some 2 := by decide
theorem test_rmin_empty : sees (.rminI32 1 2 0) id (s0 1) = some 0x7FFFFFFF := by decide
theorem test_scan : sees (.scanI32 1 2 7) (vregs [(2, 3)]) (fun c => (vAll 1 c).take 3) = some [3, 6, 9] := by decide
theorem test_xscan : sees (.xscanI32 1 2 7) (vregs [(2, 3)]) (fun c => (vAll 1 c).take 3) = some [0, 3, 6] := by decide
theorem test_ballot : sees (.ballot 1 2 7) (preds 2 [0, 5]) (s0 1) = some 33 := by decide
theorem test_vmcnt : sees (.vmcnt 1 2 7) (lanes 2 [4, 9, 4]) (fun c => (vAll 1 c).take 3) = some [2, 1, 2] := by decide

/-- A crew with a trap PC in text that is cached. -/
def trapS (f : Cohort → Cohort) : State :=
  { (machOf f fun k => { k with hdr := { k.hdr with trappc := 65536 } }) with icache := lined.icache }

-- 05 R124 and 09 R190: what taking an exception saves and where it goes
theorem test_trap : (match exec (.trap 5 7) (trapS id) with
    | .next t => (t.cohort 2).map fun c => ((c.threads.map fun (t : Thread) => (t.tcause.toNat, t.tinfo.toNat, t.tpc.toNat, t.pc.toNat)).headD (0, 0, 0, 0), c.tmode)
    | _ => none) = some ((9, 5, 65536 + 64, 65536), true) := by decide

-- 09, the case of R194, at its first issue: lane 0 is misaligned, lanes 1 and 2 are its peers
theorem test_align_ranks_above_xlate : (match exec (.ldg 4 2 false 2 0 0 7 none) (trapS fun c =>
      only 3 { c with threads := c.threads.map fun t => (t.setV 2 (if t.lane = 0 then 0x10000002 else 0x10)).setV 3 (if t.lane = 1 then 2 else 0) }) with
    | .next t => (t.cohort 2).map fun c => (c.threads.take 3).map fun (t : Thread) => (t.tcause.toNat, t.tinfo.toNat)
    | _ => none) = some [(4, 0x10000002), (0x4000004, 0), (0x4000004, 0)] := by decide

-- 05 R114 and 02 R30: a clause of one nop begins at its header, and its active threads stand at the word after it
theorem test_clause_begins : ((clauseIssue 0 0 0 (seqS 0x1E001FE0 true true id)).cohort 2).map (fun c =>
      ((c.threads.filter (·.act)).length, c.pc, c.fetched)) = some (16, 65540, [0x38000077]) := by decide

-- CRC-32C (its check value) and SHA-256 (FIPS 180-4, the message abc)
theorem test_crc32c : crc32c [0x31, 0x32, 0x33, 0x34, 0x35, 0x36, 0x37, 0x38, 0x39] = 0xE3069283 := by decide +kernel
theorem test_sha256 : sha256 [0x61, 0x62, 0x63] = 0xBA7816BF8F01CFEA414140DE5DAE2223B00361A396177A9CB410FF61F20015AD := by decide +kernel
end

section
/-!
PROOFS. Sequencer: how a port's sequencer grants the port, begins a clause and fills its cache (O53), and how a step chooses what it
runs (O54).
-/

namespace Sys2Proof.Machine

/-! ### What a step chooses (notes/assumptions/5.md) -/

/-- A cohort whose fetched words begin with an instruction executes it. -/
theorem State.issueWord_decoded {s : State} {c : Cohort} {i : Instr} {rest : List Word}
    (h : decode c.fetched = .ok (i, rest)) : s.issueWord c = exec i s := by
  unfold State.issueWord
  rw [h]

theorem State.issue_decoded {s : State} {c : Cohort} {i : Instr} {rest : List Word} (hc : s.issuer = some c)
    (h : decode c.fetched = .ok (i, rest)) : s.issue = exec i s := by
  unfold State.issue
  rw [hc]
  exact State.issueWord_decoded h

theorem State.default_decoded {s : State} {c : Cohort} {i : Instr} {rest : List Word} (hs : s.stalled = false)
    (hc : s.issuer = some c) (h : decode c.fetched = .ok (i, rest)) : s.default = exec i s := by
  unfold State.default
  rw [hs, hc]
  exact State.issueWord_decoded h

theorem step_default {s : State} (h : s.agenda = []) : step s = s.default := by
  unfold step
  rw [h]

theorem step_chosen {s : State} {m : Move} {ms : List Move} (h : s.agenda = m :: ms) :
    step s = ({ s with agenda := ms } : State).move m := by
  unfold step
  rw [h]

theorem State.move_issue (s : State) (core sub port : Nat) : s.move (.issue core sub port) =
    ({ s with focus := portIx core sub port % 5120, stalled := false } : State).issue := rfl

/-- A chosen event is one that has no encoding. -/
theorem State.move_event {s : State} {i : Instr} (h : encode i = []) : s.move (.event i) = exec i s := by
  unfold State.move
  exact if_pos h

/-- Settles O54: the agenda first, then the port in focus. -/
theorem stepRunsDecoded : Obligations.StepRunsDecoded := by
  unfold Obligations.StepRunsDecoded
  intro s i rest
  refine ⟨fun c ha hs hc hd => ?_, fun core sub port ms c ha hc hd => ?_, fun ms ha he => ?_⟩
  · rw [step_default ha, State.default_decoded hs hc hd]
  · rw [step_chosen ha, State.move_issue]
    exact State.issue_decoded hc hd
  · rw [step_chosen ha, State.move_event he]

/-! ### Waits that end keep the key and the clause -/

@[simp] theorem Cohort.settle_key (c : Cohort) : c.settle.key = c.key :=
  Cohort.flow_key c.flow_settle

@[simp] theorem Cohort.settle_clause (c : Cohort) : c.settle.clause = c.clause := by
  unfold Cohort.settle
  simp only
  split <;> rfl

@[simp] theorem State.wake_key (s : State) (c : Cohort) : (s.wake c).key = c.key := by
  unfold State.wake
  simp only
  split
  · rfl
  · split
    · rw [Cohort.settle_key, Cohort.mapT_key]
    · rfl

@[simp] theorem State.wake_clause (s : State) (c : Cohort) : (s.wake c).clause = c.clause := by
  unfold State.wake
  simp only
  split
  · rfl
  · split
    · rw [Cohort.settle_clause, Cohort.mapT_clause]
    · rfl

/-- Replacing a cohort is a change of the cohort of that key, which keeps every key. -/
theorem State.setCohort_eq_onCohort (s : State) (c : Cohort) :
    s.setCohort c = s.onCohort c.key fun x => if x.key = c.key then c else x := by
  have h : ∀ l : List Cohort, mapIf (fun x => x.key == c.key) (fun _ => c) l =
      mapIf (fun x => x.key == c.key) (fun x => if x.key = c.key then c else x) l := fun l =>
    List.map_congr_left fun x _ => by by_cases e : x.key = c.key <;> simp [e]
  unfold State.setCohort State.onCohort
  rw [h]

theorem State.cohort_setCohort (s : State) (c : Cohort) (j : Nat) :
    (s.setCohort c).cohort j = if j = c.key then (s.cohort j).map fun _ => c else s.cohort j := by
  have hk : ∀ x : Cohort, (if x.key = c.key then c else x).key = x.key := fun x => by
    by_cases e : x.key = c.key <;> simp [e]
  rw [State.setCohort_eq_onCohort, State.cohort_onCohort _ _ _ _ hk]
  by_cases e : j = c.key
  · subst e
    simp only [if_true]
    cases hx : s.cohort c.key with
    | none => rfl
    | some x => simp [State.key_of_cohort hx]
  · simp [e]

/-- Replacing cohorts one after another changes no other record. -/
theorem State.foldl_setCohort_frame (f : State → Cohort → Cohort) (l : List Cohort) (s : State) :
    l.foldl (fun s c => s.setCohort (f s c)) s =
      { s with cohorts := (l.foldl (fun s c => s.setCohort (f s c)) s).cohorts } := by
  induction l generalizing s with
  | nil => rfl
  | cons c l ih => rw [List.foldl_cons, ih]; rfl

/-! ### The arbiter's order (01 R26, 15 R328) -/

/-- The number by which the arbiter compares cohorts: priority, then last run, then place. -/
def State.rank (s : State) (c : Cohort) : Nat := (s.prioOf c * 2 ^ 128 + c.lastRun) * 16 + c.place

theorem State.before_iff (s : State) (a b : Cohort) : s.before a b = true ↔ s.rank a < s.rank b := decide_eq_true_iff

/-- Cohorts with a last run and a place within their bounds compare by priority, then last run, then place. -/
theorem State.rank_le {s : State} {c d : Cohort} (hc : c.place < 16 ∧ c.lastRun < 2 ^ 128)
    (hd : d.place < 16 ∧ d.lastRun < 2 ^ 128) (h : s.rank c ≤ s.rank d) : s.prioOf c < s.prioOf d ∨ s.prioOf c = s.prioOf d ∧
      (c.lastRun < d.lastRun ∨ c.lastRun = d.lastRun ∧ c.place ≤ d.place) := by
  unfold State.rank at h
  omega

theorem State.choose_eq_none {s : State} {l : List Cohort} (h : s.choose l = none) : l = [] := by
  cases l with
  | nil => rfl
  | cons c l =>
    unfold State.choose at h
    split at h
    · cases h
    · split at h <;> cases h

/-- The arbiter chooses one of the cohorts, and none of them has a smaller rank. -/
theorem State.choose_least {s : State} {l : List Cohort} {c : Cohort} (h : s.choose l = some c) :
    c ∈ l ∧ ∀ d ∈ l, s.rank c ≤ s.rank d := by
  induction l generalizing c with
  | nil => cases h
  | cons x l ih =>
    unfold State.choose at h
    split at h
    next hn =>
      cases h
      rw [State.choose_eq_none hn]
      simp
    next e he =>
      obtain ⟨hm, hle⟩ := ih he
      split at h
      next hb =>
        cases h
        have hx := (s.before_iff c x).mp hb
        exact ⟨List.mem_cons_of_mem _ hm, List.forall_mem_cons.mpr ⟨hx.le, hle⟩⟩
      next hb =>
        cases h
        have hx : s.rank x ≤ s.rank e := Nat.le_of_not_lt fun hlt => hb ((s.before_iff e x).mpr hlt)
        exact ⟨List.mem_cons_self .., List.forall_mem_cons.mpr ⟨le_rfl, fun d hd => hx.trans (hle d hd)⟩⟩

/-! ### RUN_START -/

theorem exec_runStart {core sub port : Nat} {s t : State} (h : runStart core sub port s = t) :
    exec (.runStart core sub port) s = .next t := congrArg Host.Outcome.next h

/-- The satisfied waits of a port's cohorts end. -/
def State.wakePort (s : State) (core sub port : Nat) : State :=
  (s.portCohorts core sub port).foldl (fun (s : State) c => s.setCohort (s.wake c)) s

theorem State.wakePort_frame (s : State) (core sub port : Nat) :
    s.wakePort core sub port = { s with cohorts := (s.wakePort core sub port).cohorts } :=
  State.foldl_setCohort_frame State.wake _ s

@[simp] theorem State.wakePort_running (s : State) (core sub port : Nat) : (s.wakePort core sub port).running = s.running := by
  rw [State.wakePort_frame]

@[simp] theorem State.wakePort_gmem (s : State) (core sub port : Nat) : (s.wakePort core sub port).gmem = s.gmem := by
  rw [State.wakePort_frame]

/-- The cohorts of a port that the arbiter may choose. -/
def State.readyAt (s : State) (core sub port : Nat) : List Cohort := (s.portCohorts core sub port).filter s.ready

/-- A port is granted to a cohort, whose run begins (15 R328). -/
def State.grantPort (s : State) (k : Nat) (c : Cohort) : State :=
  ({ s with running := Tab.put 0 s.running k c.key, fresh := s.fresh + 1 } : State).onCohort c.key fun c =>
    { c with run := 0, chain := true, lastRun := s.fresh }

theorem runStart_busy {core sub port : Nat} {s : State}
    (h : Tab.read 0 s.running (portIx core sub port) ≠ 0 ∨ Tab.read none s.frozen (portIx core sub port) ≠ none) :
    runStart core sub port s = s := by
  unfold runStart
  refine if_pos ?_
  rcases h with h | h
  · exact .inl h
  · exact .inr (.inl (Option.isSome_iff_ne_none.mpr h))

/-- A free port of a running core: the waits of its cohorts end, and the arbiter's choice, if any, is granted. -/
theorem runStart_free {core sub port : Nat} {s : State} (hsub : sub < 4) (hport : port < 2)
    (hr : Tab.read 0 s.running (portIx core sub port) = 0) (hf : Tab.read none s.frozen (portIx core sub port) = none)
    (hp : (s.core core).phase = .running) (hrel : (s.core core).released = true) :
    let u := s.wakePort core sub port
    (u.choose (u.readyAt core sub port) = none → runStart core sub port s = u) ∧
    ∀ c, u.choose (u.readyAt core sub port) = some c → runStart core sub port s = u.grantPort (portIx core sub port) c := by
  have hn : ¬ (4 ≤ sub ∨ 2 ≤ port) := by omega
  unfold runStart State.wakePort State.readyAt State.grantPort
  simp only [hr, hf, hp, hrel, hn, ne_eq, not_true_eq_false, Option.isSome_none, Bool.false_eq_true, Bool.not_true, or_false,
    if_false]
  exact ⟨fun h => by rw [h], fun c h => by rw [h]⟩

/-- A granted port is held by the cohort; every other port and global memory are as before. -/
theorem State.grantPort_frame (s : State) (k : Nat) {c : Cohort} (hc : c.key ≠ 0) :
    Tab.read 0 (s.grantPort k c).running k = c.key ∧ (s.grantPort k c).gmem = s.gmem ∧
    ∀ j, j ≠ k → Tab.read 0 (s.grantPort k c).running j = Tab.read 0 s.running j :=
  ⟨Tab.read_put_self _ _ _ _ hc, rfl, fun _ hj => Tab.read_put_other _ _ _ _ _ hj⟩

/-- O53, RUN_START: a ready cohort that none precedes takes the free port. -/
theorem runStart_grants {core sub port : Nat} {s : State} (hsub : sub < 4) (hport : port < 2)
    (hr : Tab.read 0 s.running (portIx core sub port) = 0) (hf : Tab.read none s.frozen (portIx core sub port) = none)
    (hp : (s.core core).phase = .running) (hrel : (s.core core).released = true) :
    let u := s.wakePort core sub port
    let ready := u.readyAt core sub port
    (ready = [] → runStart core sub port s = u) ∧
    (ready ≠ [] → (∀ c ∈ ready, c.key ≠ 0 ∧ c.place < 16 ∧ c.lastRun < 2 ^ 128) →
      ∃ c ∈ ready, runStart core sub port s = u.grantPort (portIx core sub port) c ∧
        ∀ d ∈ ready, u.prioOf c < u.prioOf d ∨ u.prioOf c = u.prioOf d ∧
          (c.lastRun < d.lastRun ∨ c.lastRun = d.lastRun ∧ c.place ≤ d.place)) := by
  intro u ready
  obtain ⟨hnone, hsome⟩ := runStart_free hsub hport hr hf hp hrel
  refine ⟨fun he => hnone ?_, fun hne hb => ?_⟩
  · show u.choose ready = none
    rw [he]; rfl
  · obtain ⟨c, hc⟩ := Option.ne_none_iff_exists'.mp fun h => hne (State.choose_eq_none (s := u) h)
    obtain ⟨hm, hle⟩ := State.choose_least hc
    exact ⟨c, hm, hsome c hc, fun d hd => State.rank_le (hb c hm).2 (hb d hd).2 (hle d hd)⟩

/-! ### The lowest PC (05 R114) -/

theorem leastD_le {d x : Nat} {l : List Nat} (h : x ∈ l) : leastD d l ≤ x := by
  induction l with
  | nil => cases h
  | cons y l ih =>
    cases l with
    | nil => exact (List.mem_singleton.mp h).ge
    | cons z l =>
      show min y (leastD d (z :: l)) ≤ x
      rcases List.mem_cons.mp h with rfl | h
      · exact min_le_left _ _
      · exact (min_le_right _ _).trans (ih h)

theorem Cohort.lowPc_le {c : Cohort} {pc : Nat} (h : c.lowPc = some pc) {x : Thread} (hx : x ∈ c.threads)
    (he : c.elig x = true) : pc ≤ x.pc.toNat := by
  have hm : x.pc.toNat ∈ (c.threads.filter c.elig).map (·.pc.toNat) :=
    List.mem_map_of_mem (List.mem_filter.mpr ⟨hx, he⟩)
  unfold Cohort.lowPc at h
  split at h
  · cases h
  · cases h
    exact leastD_le hm

/-! ### CLAUSE_ISSUE -/

theorem exec_clauseIssue {core sub port : Nat} {s t : State} (h : clauseIssue core sub port s = t) :
    exec (.clauseIssue core sub port) s = .next t := congrArg Host.Outcome.next h

/-- Where nothing asks the crew to migrate, no thread parks at a safe point. -/
theorem State.parkSafe_none (s : State) (c : Cohort) {cr : Crew} (pc : Nat) (h : cr.mig = .none) :
    s.parkSafe c cr pc = none := by
  unfold State.parkSafe
  simp [h]

theorem clauseIssue_busy {core sub port : Nat} {s : State} {c : Cohort}
    (hc : s.cohort (Tab.read 0 s.running (portIx core sub port)) = some c)
    (h : c.clause ≠ none ∨ Tab.read none s.frozen (portIx core sub port) ≠ none) : clauseIssue core sub port s = s := by
  unfold clauseIssue
  simp only [hc]
  refine if_pos ?_
  simpa [Option.isSome_iff_ne_none] using h

/-- The sequencer of a port freezes for the line of `a` that the fetch at `pc` misses, and counts the slip (15 R329). -/
def State.freeze (s : State) (core sub k pc a : Nat) : State :=
  { (s.onCore core fun x => { x with slip := Tab.put 0 x.slip sub ((Tab.read 0 x.slip sub + 1) % 2 ^ 32) }).countPm core sub 4 1 with
    frozen := Tab.put none s.frozen k (some (pc, a)) }

theorem State.freeze_frame (s : State) (core sub k pc a : Nat) : Tab.read none (s.freeze core sub k pc a).frozen k = some (pc, a) ∧
    (s.freeze core sub k pc a).cohorts = s.cohorts ∧ (s.freeze core sub k pc a).gmem = s.gmem := by
  refine ⟨Tab.read_put_self _ _ _ _ nofun, ?_, ?_⟩ <;>
    (unfold State.freeze; rw [(State.countPm_only _ core sub 4 1 0).1]; rfl)

/-- The fetch of a cohort at a boundary that may go on: a missing line freezes the sequencer, else the clause begins. -/
theorem clauseIssue_fetch {core sub port pc : Nat} {s : State} {c0 : Cohort}
    (hc : s.cohort (Tab.read 0 s.running (portIx core sub port)) = some c0) (hcl : c0.clause = none)
    (hf : Tab.read none s.frozen (portIx core sub port) = none) :
    let c := s.wake c0.settle
    let u := s.setCohort c
    let cr := u.crewOf c
    (u.core core).phase = .running → u.keptBack c = false → c.reportDue = false → cr.mig = .none → c.lowPc = some pc →
      (∀ a, u.missing cr pc = some a → clauseIssue core sub port s = u.freeze core sub (portIx core sub port) pc a) ∧
      (u.missing cr pc = none → clauseIssue core sub port s = u.beginClause (portIx core sub port) c cr pc) := by
  intro c u cr hp hk hr hm hpc
  have hs : u.parkSafe c cr pc = none := u.parkSafe_none c pc hm
  unfold clauseIssue State.freeze
  simp only [hc, hcl, hf, Option.isSome_none, Bool.or_self, Bool.false_eq_true, if_false]
  simp only [u, c, cr] at hp hk hr hpc hs ⊢
  simp only [hp, hk, hr, hpc, hs, ne_eq, not_true_eq_false, Bool.false_eq_true, or_self, if_false]
  exact ⟨fun a h => by rw [h], fun h => by rw [h]⟩

/-- The eligible threads at a PC. -/
def Cohort.standsAt (c : Cohort) (pc : Nat) (t : Thread) : Bool := c.elig t && t.pc.toNat == pc

/-- The clause at a header begins for the threads that stand there (05 R114). -/
def Cohort.begins (c : Cohort) (pc : Nat) (w : Word) (words : List Word) : Cohort :=
  { c.mapT (c.standsAt pc) fun t => { t with act := true, skipLabel := none, pc := BitVec.ofNat 64 (pc + 4) } with
    clause := some { hdr := pc, word := w, words := words }, run := c.run + hCount w }

/-- The words after a header, of the instruction cache. -/
def State.clauseWords (s : State) (cr : Crew) (pc : Nat) (w : Word) : List Word :=
  (upto (hCount w)).map fun j => (s.iword cr (pc + 4 * (j + 1))).getD 0

/-- A clause that goes on with a run counts its idle clk (02 R39). -/
def State.countIdle (s : State) (core : Nat) (c : Cohort) (w : Word) : State :=
  if c.run = 0 then s else s.countPm core c.sub 3 (hStall w)

theorem State.onlyCohort_countIdle (s : State) (core : Nat) (c : Cohort) (w : Word) (k : Nat) :
    s.onlyCohort (s.countIdle core c w) k := by
  unfold State.countIdle
  split
  · exact s.onlyCohort_refl k
  · exact s.onlyCohort_countPm _ _ _ _ _ k

theorem State.cohort_countIdle (s : State) (core : Nat) (c : Cohort) (w : Word) (j : Nat) :
    (s.countIdle core c w).cohort j = s.cohort j := by
  unfold State.countIdle
  split
  · rfl
  · exact s.cohort_countPm _ _ _ _ _ j

/-- A legal clause at its header: WAIT not clear ends the run, else the clause begins where the run has room. -/
theorem State.beginClause_header {s : State} {k pc : Nat} {c : Cohort} {cr : Crew} {w : Word} (hh : s.isHeader cr pc = true)
    (hb : (s.fetchAddrs cr pc).any (s.iwordBad cr) = false) (hw : s.iword cr pc = some w)
    (hl : clauseFault w (s.clauseWords cr pc w) = none) :
    (c.waitClear (hWait w) = false → s.beginClause k c cr pc = s.endRun k c.key) ∧
    (c.waitClear (hWait w) = true → c.run = 0 ∨ c.chain = true ∧ c.run + hCount w ≤ 24 →
      s.beginClause k c cr pc = (s.countIdle cr.core c w).onCohort c.key fun c =>
        c.begins pc w (s.clauseWords cr pc w)) := by
  have hhdr : s.headerOf cr pc = pc := if_pos hh
  have hfind : ((s.fetchAddrs cr pc).find? fun a => s.iwordBad cr a) = none :=
    List.find?_eq_none.mpr (List.any_eq_false.mp hb)
  unfold State.clauseWords at hl ⊢
  unfold State.beginClause State.countIdle
  simp only [hhdr, hfind, hw, Option.getD_some, if_true, hl, true_and, ne_eq, not_true_eq_false, or_false]
  refine ⟨fun hwait => ?_, fun hwait hrun => ?_⟩
  · rw [hwait]; rfl
  · have hgo : ¬ ((!c.waitClear (hWait w)) = true ∨ c.run ≠ 0 ∧ ((!c.chain) = true ∨ 24 < c.run + hCount w)) := by
      rcases hrun with h | ⟨h1, h2⟩
      · simp [hwait, h]
      · simp [hwait, h1, h2]
    exact if_neg hgo

/-- The end of a run: its cohort keeps its clause and its threads. -/
theorem State.endRun_cohort {s : State} {k : Nat} {c : Cohort} (hc : s.cohort c.key = some c) :
    (s.endRun k c.key).cohort c.key = some { c with run := 0, chain := false } := by
  have hk : ∀ c : Cohort, ({ c with run := 0, chain := false } : Cohort).key = c.key := fun _ => rfl
  unfold State.endRun
  rw [State.cohort_onCohort _ _ _ _ hk, if_pos rfl]
  exact congrArg (Option.map _) hc

/-- The cohort begins its clause; every other cohort and global memory stay. -/
theorem State.begun_frame {s : State} {c : Cohort} (hc : s.cohort c.key = some c) (core pc : Nat) (w : Word) (words : List Word) :
    let t := (s.countIdle core c w).onCohort c.key fun c => c.begins pc w words
    t.cohort c.key = some (c.begins pc w words) ∧ t.gmem = s.gmem ∧ ∀ j, j ≠ c.key → t.cohort j = s.cohort j := by
  intro t
  have hk : ∀ c : Cohort, (c.begins pc w words).key = c.key := fun _ => rfl
  refine ⟨?_, ?_, fun j hj => ?_⟩
  · rw [State.cohort_onCohort _ _ _ _ hk, if_pos rfl, State.cohort_countIdle, hc]; rfl
  · rw [State.onCohort_gmem, (s.onlyCohort_countIdle core c w c.key).1]
  · rw [State.cohort_onCohort _ _ _ _ hk, if_neg hj, State.cohort_countIdle]

/-- A clause begins for the threads that stand at it and for no other, and no register changes. -/
theorem Cohort.begins_threads (c : Cohort) (pc : Nat) (w : Word) (words : List Word) :
    List.Forall₂ (fun x y : Thread => y.st = x.st ∧ y.v = x.v ∧ y.p = x.p ∧
      y.pc = (if c.elig x && x.pc.toNat == pc then BitVec.ofNat 64 (pc + 4) else x.pc) ∧
      y.act = (x.act || c.elig x && x.pc.toNat == pc)) c.threads (c.begins pc w words).threads := by
  show List.Forall₂ _ c.threads (mapIf (c.standsAt pc) _ c.threads)
  refine List.forall₂_map_right_iff.mpr (List.forall₂_same.mpr fun x _ => ?_)
  cases h : c.standsAt pc x <;> unfold Cohort.standsAt at h <;> simp [h]

/-! ### What meeting errors in memory leaves alone (10 R233) -/

/-- A word or a burst of global memory. -/
def Site.inGlob : Site → Bool
  | .glob _ | .burst _ => true
  | _ => false

/-- A fetch changed nothing but the translations, the errors that it met, their marks and counts. -/
def State.fetchOnly (s t : State) : Prop :=
  t = { s with tlb := t.tlb, walks := t.walks, latent := t.latent, gPoison := t.gPoison, slEcc := t.slEcc, cores := t.cores }

theorem State.fetchOnly_refl (s : State) : s.fetchOnly s := rfl

theorem State.fetchOnly_trans {s t u : State} (a : s.fetchOnly t) (b : t.fetchOnly u) : s.fetchOnly u := by
  unfold State.fetchOnly at *
  rw [b, a]

theorem State.fetchOnly_foldl {β : Type} {f : State → β → State} {l : List β} (h : ∀ s, ∀ b ∈ l, State.fetchOnly s (f s b))
    (s : State) : s.fetchOnly (l.foldl f s) := by
  induction l generalizing s with
  | nil => exact s.fetchOnly_refl
  | cons b l ih =>
    exact State.fetchOnly_trans (h s b (List.mem_cons_self ..)) (ih (fun s b hb => h s b (List.mem_cons_of_mem _ hb)) _)

theorem State.fetchOnly_countPm (s : State) (core sub ev n : Nat) : s.fetchOnly (s.countPm core sub ev n) := by
  unfold State.fetchOnly
  rw [(s.countPm_only core sub ev n 0).1]

theorem State.fetchOnly_mark (s : State) {k : Site} (h : k.inGlob = true) : s.fetchOnly (s.mark k) := by
  cases k with
  | glob | burst => rfl
  | _ => cases h

theorem State.fetchOnly_countEcc (s : State) {k : Site} (h : k.inGlob = true) : s.fetchOnly (s.countEcc k) := by
  cases k with
  | glob | burst => rfl
  | _ => cases h

theorem State.fetchOnly_meetOne (s : State) {e : Site × Bool} (h : e.1.inGlob = true) : s.fetchOnly (s.meetOne e) := by
  refine State.fetchOnly_trans (t := { s with latent := s.latent.filter fun x => decide (x ≠ e) }) rfl ?_
  unfold State.meetOne
  simp only
  split
  · exact State.fetchOnly_mark _ h
  · exact State.fetchOnly_countEcc _ h

theorem State.fetchOnly_meet (s : State) {ks : List Site} (h : ∀ k ∈ ks, k.inGlob = true) : s.fetchOnly (s.meet ks) := by
  refine State.fetchOnly_foldl (fun s e he => s.fetchOnly_meetOne (h e.1 ?_)) s
  simpa using (List.mem_filter.mp he).2

theorem State.inGlob_of_sites {s : State} {a n : Nat} {k : Site} (h : k ∈ s.sites .glob a n) : k.inGlob = true := by
  simp only [State.sites, State.poisonKeys, List.mem_append, List.mem_map] at h
  rcases h with ⟨w, -, rfl⟩ | ⟨w, -, rfl⟩ <;> rfl

theorem State.inGlob_of_flatMap {s : State} {as : List Nat} {n : Nat} :
    ∀ k ∈ as.flatMap fun a => s.sites .glob a n, k.inGlob = true := by
  intro k hk
  obtain ⟨a, -, ha⟩ := List.mem_flatMap.mp hk
  exact State.inGlob_of_sites ha

/-! ### What a fetch's translations leave alone (10 R227) -/

theorem State.fetchOnly_startWalks (s : State) (core : Nat) (jd : JobDesc) (vas : List Nat) :
    s.fetchOnly (s.startWalks core jd vas) := by
  unfold State.startWalks
  simp only
  split
  · rfl
  · exact State.fetchOnly_trans (s.fetchOnly_meet State.inGlob_of_flatMap) rfl

theorem State.fetchOnly_meetPtes (s : State) (core : Nat) (jd : JobDesc) (vas : List Nat) :
    s.fetchOnly (s.meetPtes core jd vas) := by
  unfold State.meetPtes
  split
  · rfl
  · exact s.fetchOnly_meet State.inGlob_of_flatMap

theorem State.fetchOnly_touchTlb (s : State) (core : Nat) (jd : JobDesc) (va : Nat) : s.fetchOnly (s.touchTlb core jd va) := by
  unfold State.touchTlb
  split
  · rfl
  · simp only
    refine State.fetchOnly_trans (s.fetchOnly_meetPtes core jd [va]) ?_
    generalize s.meetPtes core jd [va] = u
    have hcount : u.fetchOnly (if core < 640 then u.countPm core 0 7 1 else u) := by
      split
      · exact u.fetchOnly_countPm _ _ _ _
      · rfl
    refine State.fetchOnly_trans hcount ?_
    generalize (if core < 640 then u.countPm core 0 7 1 else u) = v
    split <;> rfl

theorem State.fetchOnly_useTlb (s : State) (core : Nat) (jd : JobDesc) (vas : List Nat) : s.fetchOnly (s.useTlb core jd vas) := by
  refine State.fetchOnly_trans (s.fetchOnly_startWalks core jd vas) (State.fetchOnly_foldl (fun s va _ => ?_) _)
  split
  · exact s.fetchOnly_touchTlb core jd va
  · split
    · rfl
    · exact s.fetchOnly_countPm _ _ _ _

theorem State.inGlob_of_fetchSites {s : State} {cr : Crew} {line : Nat} : ∀ k ∈ s.fetchSites cr line, k.inGlob = true := by
  have hof : ∀ va n, ∀ k ∈ (match s.translate cr.core cr.jd va .fetch with
      | .ok pa => s.sites .glob pa n
      | .error _ => []), Site.inGlob k = true := by
    intro va n k hk
    split at hk
    · exact State.inGlob_of_sites hk
    · cases hk
  intro k hk
  unfold State.fetchSites at hk
  split at hk
  · cases hk
  · rcases List.mem_append.mp hk with hk | hk
    · exact hof _ _ k hk
    · obtain ⟨j, -, hj⟩ := List.mem_flatMap.mp hk
      exact hof _ _ k hj

/-! ### ICACHE_FILL (15 R329) -/

theorem exec_icacheFill {core sub port : Nat} {s t : State} (h : icacheFill core sub port s = t) :
    exec (.icacheFill core sub port) s = .next t := congrArg Host.Outcome.next h

/-- A fetched line is the newest of the instruction cache, with its words of memory. -/
theorem State.ifill_ok {s : State} {cr : Crew} {line pa : Nat} (h : s.translate cr.core cr.jd (line * 64) .fetch = .ok pa) :
    ∃ t l, s.ifill cr line = .ok t ∧ t.frozen = s.frozen ∧ t.gmem = s.gmem ∧ t.cohorts = s.cohorts ∧
      t.icache.getLast? = some l ∧ l.core = cr.core ∧ l.line = line ∧
      l.words = (upto 16).map fun j => BitVec.ofNat 32 (s.gmem.nat (pa + 4 * j) 4) := by
  have hu : s.fetchOnly ((s.useTlb cr.core cr.jd (s.fetchPages cr line)).meet (s.fetchSites cr line)) :=
    State.fetchOnly_trans (s.fetchOnly_useTlb _ _ _) (State.fetchOnly_meet _ State.inGlob_of_fetchSites)
  unfold State.ifill
  rw [h]
  simp only
  generalize (s.useTlb cr.core cr.jd (s.fetchPages cr line)).meet (s.fetchSites cr line) = u at hu
  refine ⟨_, _, rfl, ?_, ?_, ?_, List.getLast?_concat, rfl, rfl, ?_⟩ <;> rw [hu]

/-- A request has to be replayed when a domain of its addresses is in change. -/
theorem State.mustReplay_iff (s : State) (pas : List Nat) :
    s.mustReplay pas = true ↔ ∃ pa ∈ pas, s.domOf pa ∈ s.changing := by
  simp only [State.mustReplay, State.blocked, Bool.and_eq_true, List.any_eq_true, List.contains_iff_mem]
  refine ⟨And.right, fun h => ⟨?_, h⟩⟩
  obtain ⟨pa, -, hpa⟩ := h
  cases hc : s.changing with
  | nil => rw [hc] at hpa; cases hpa
  | cons => rfl

theorem State.nack_frame (s : State) (core : Nat) (key : Requester × Nat) :
    (s.nack core key).frozen = s.frozen ∧ (s.nack core key).icache = s.icache := by
  unfold State.nack
  split
  · exact ⟨rfl, rfl⟩
  · rw [(s.countPm_only core 0 9 1 0).1]
    exact ⟨rfl, rfl⟩

/-- The request of a requester is done, perhaps as a replay, and the sequencer of port `k` unfreezes. -/
def State.thaw (s : State) (k : Nat) (key : Requester × Nat) : State :=
  { s.replayed key with frozen := Tab.put none (s.replayed key).frozen k none }

theorem State.thaw_frame (s : State) (k : Nat) (key : Requester × Nat) : s.thaw k key =
    { s with nacked := (s.thaw k key).nacked, replays := (s.thaw k key).replays, frozen := Tab.put none s.frozen k none } := by
  unfold State.thaw State.replayed
  split <;> rfl

theorem icacheFill_thawed {core sub port : Nat} {s : State} (h : Tab.read none s.frozen (portIx core sub port) = none) :
    icacheFill core sub port s = s := by
  unfold icacheFill
  simp only [h]

/-- Has the fetch of a line to hold for a miss slot (10 R227)? -/
def State.fillHeld (s : State) (cr : Crew) (line : Nat) : Bool := s.missHeld cr.core cr.jd (s.fetchPages cr line)

/-- Is the request of a fetch of a line NACKed (10 R230)? -/
def State.fillNacked (s : State) (cr : Crew) (line : Nat) : Bool := s.mustReplay (s.fetchHomes cr line)

section
variable {core sub port pc a : Nat} {s : State} {c : Cohort} (hf : Tab.read none s.frozen (portIx core sub port) = some (pc, a))
  (hc : s.cohort (Tab.read 0 s.running (portIx core sub port)) = some c)
include hf hc

/-- No free miss slot: the walks that have one begin, and the sequencer stays frozen (10 R227). -/
theorem icacheFill_held (hh : s.fillHeld (s.crewOf c) (a / 64) = true) :
    icacheFill core sub port s = s.startWalks (s.crewOf c).core (s.crewOf c).jd (s.fetchPages (s.crewOf c) (a / 64)) := by
  unfold icacheFill
  simp only [hf, hc]
  exact if_pos hh

/-- Its request is NACKed: the sequencer stays frozen (10 R230). -/
theorem icacheFill_nacked (hh : ¬ s.fillHeld (s.crewOf c) (a / 64) = true) (ht : s.fillNacked (s.crewOf c) (a / 64) = true) :
    icacheFill core sub port s = s.nack (s.crewOf c).core (.fetch, c.key) := by
  unfold icacheFill
  simp only [hf, hc]
  exact (if_neg hh).trans (if_pos ht)

/-- The line arrives and the sequencer unfreezes. -/
theorem icacheFill_filled {t : State} (hh : ¬ s.fillHeld (s.crewOf c) (a / 64) = true)
    (ht : ¬ s.fillNacked (s.crewOf c) (a / 64) = true)
    (hi : (s.thaw (portIx core sub port) (.fetch, c.key)).ifill (s.crewOf c) (a / 64) = .ok t) :
    icacheFill core sub port s = t := by
  unfold icacheFill
  simp only [hf, hc]
  refine (if_neg hh).trans ((if_neg ht).trans ?_)
  unfold State.thaw at hi
  simp only [hi]

/-- O53, ICACHE_FILL: a fill that is turned away leaves the freeze and the cache as they are. -/
theorem icacheFill_waits (h : s.fillHeld (s.crewOf c) (a / 64) = true ∨ s.fillNacked (s.crewOf c) (a / 64) = true) :
    (icacheFill core sub port s).frozen = s.frozen ∧ (icacheFill core sub port s).icache = s.icache := by
  by_cases hh : s.fillHeld (s.crewOf c) (a / 64) = true
  · rw [icacheFill_held hf hc hh, s.fetchOnly_startWalks (s.crewOf c).core (s.crewOf c).jd _]
    exact ⟨rfl, rfl⟩
  · rw [icacheFill_nacked hf hc hh (h.resolve_left hh)]
    exact s.nack_frame _ _

/-- O53, ICACHE_FILL: the missed line is the newest of the cache, with the words of memory, and the freeze ends. -/
theorem icacheFill_fills {pa : Nat} (hh : ¬ s.fillHeld (s.crewOf c) (a / 64) = true)
    (ht : ¬ s.fillNacked (s.crewOf c) (a / 64) = true)
    (hpa : s.translate (s.crewOf c).core (s.crewOf c).jd (a / 64 * 64) .fetch = .ok pa) :
    ∃ t l, icacheFill core sub port s = t ∧ t.frozen = Tab.put none s.frozen (portIx core sub port) none ∧
      t.gmem = s.gmem ∧ t.cohorts = s.cohorts ∧ t.icache.getLast? = some l ∧ l.core = (s.crewOf c).core ∧
      l.line = a / 64 ∧ l.words = (upto 16).map fun j => BitVec.ofNat 32 (s.gmem.nat (pa + 4 * j) 4) := by
  have e := s.thaw_frame (portIx core sub port) (.fetch, c.key)
  obtain ⟨t, l, hi, hrest⟩ := State.ifill_ok (s := s.thaw (portIx core sub port) (.fetch, c.key)) (pa := pa)
    (by rw [e]; exact hpa)
  refine ⟨t, l, icacheFill_filled hf hc hh ht hi, ?_⟩
  rw [e] at hrest
  exact hrest

end

/-! ### O53 -/

/-- Settles O53: RUN_START by the arbiter's order, CLAUSE_ISSUE by the fetch of the cohort's lowest PC, ICACHE_FILL by what a fetch
leaves alone. -/
theorem sequencer : Obligations.Sequencer := by
  unfold Obligations.Sequencer
  refine ⟨fun s core sub port hsub hport => ⟨fun h => ?_, fun hr hf hp hrel => ?_⟩,
    fun s core sub port c0 hc0 => ⟨fun h => ?_, fun hcl hf => ?_⟩,
    fun s core sub port => ⟨fun h => ?_, fun c pc a hf hc => ⟨fun h => ?_, fun pa hh ht hpa => ?_⟩⟩⟩
  · exact exec_runStart (runStart_busy h)
  · obtain ⟨hnone, hsome⟩ := runStart_grants hsub hport hr hf hp hrel
    refine ⟨fun he => exec_runStart (hnone he), fun hne hb => ?_⟩
    obtain ⟨c, hm, he, hle⟩ := hsome hne hb
    obtain ⟨hrun, hg, hother⟩ := (s.wakePort core sub port).grantPort_frame (portIx core sub port) (hb c hm).1
    rw [State.wakePort_gmem] at hg
    rw [State.wakePort_running] at hother
    exact ⟨_, c, exec_runStart he, hm, hrun, hg, hother, hle⟩
  · exact exec_clauseIssue (clauseIssue_busy hc0 h)
  · intro c u cr hp hk hr hm pc hpc
    obtain ⟨hmiss, hbegin⟩ := clauseIssue_fetch hc0 hcl hf hp hk hr hm hpc
    have hkey0 : c.key = c0.key := by simp only [c, State.wake_key, Cohort.settle_key]
    have hkey : c.key = Tab.read 0 s.running (portIx core sub port) := hkey0.trans (State.key_of_cohort hc0)
    have hu : u.cohort c.key = some c := by rw [State.cohort_setCohort, if_pos rfl, hkey, hc0]; rfl
    refine ⟨fun a ha => ⟨_, exec_clauseIssue (hmiss a ha), u.freeze_frame core sub _ pc a⟩, ?_⟩
    intro hn hh hb w hw words hl
    obtain ⟨hwait, hgo⟩ := State.beginClause_header (k := portIx core sub port) (c := c) hh hb hw hl
    refine ⟨fun h => ?_, fun h hrun => ?_⟩
    · refine ⟨_, _, exec_clauseIssue ((hbegin hn).trans (hwait h)), State.endRun_cohort hu, ?_, rfl, rfl⟩
      show c.clause = none
      simp only [c, State.wake_clause, Cohort.settle_clause, hcl]
    · obtain ⟨hd, hg, hother⟩ := State.begun_frame hu cr.core pc w words
      exact ⟨_, _, exec_clauseIssue ((hbegin hn).trans (hgo h hrun)), hd, hg,
        fun j hj => (hother j hj).trans ((s.cohort_setCohort c j).trans (if_neg hj)), rfl, rfl, rfl,
        fun x hx he => Cohort.lowPc_le hpc hx he, c.begins_threads pc w words⟩
  · exact exec_icacheFill (icacheFill_thawed h)
  · exact ⟨_, exec_icacheFill rfl, icacheFill_waits hf hc (h.imp_right (State.mustReplay_iff _ _).mpr)⟩
  · obtain ⟨t, l, ht', hrest⟩ := icacheFill_fills hf hc hh (fun h => ht ((State.mustReplay_iff _ _).mp h)) hpa
    exact ⟨t, l, exec_icacheFill ht', hrest⟩

end Sys2Proof.Machine
end

section
/-!
PROOFS. RoundTrip: what the decoder reads from the words of an encoding (O58): the fields of each format, the sources and flags that
stand in them, and the reader of every form.
-/

namespace Sys2Proof

/-! ### The fields of a word of each format (02 R42, R46) -/

/-- `bit` at a place whose quotient is a known bit. -/
theorem bit_eq {w n b : Nat} (h : w / 2 ^ n % 2 = b) : bit w n = (b == 1) := by rw [bit, h]

/-- The fields of a word of format A. -/
structure FieldsA (w op d a b sb g fn : Nat) : Prop where
  op : w / 67108864 = op
  d : fld w 25 20 = d
  a : fld w 19 14 = a
  b : fld w 13 8 = b
  sb : bit w 7 = (sb == 1)
  g : fld w 6 4 = g
  fn : w % 16 = fn

theorem asmA_fields {op d a b sb g fn : Nat} (hop : op < 64) (hd : d < 64) (ha : a < 64) (hb : b < 64) (hsb : sb < 2)
    (hg : g < 8) (hfn : fn < 16) : FieldsA (asmA op d a b sb g fn).toNat op d a b sb g fn := by
  have e : (asmA op d a b sb g fn).toNat = op * 67108864 + d * 1048576 + a * 16384 + b * 256 + sb * 128 + g * 16 + fn := by
    rw [asmA, BitVec.toNat_ofNat]; omega
  rw [e]
  refine ⟨?_, ?_, ?_, ?_, bit_eq ?_, ?_, ?_⟩ <;> (try unfold fld) <;> omega

/-- The fields of a word of format I. -/
structure FieldsI (w op d a fn imm : Nat) : Prop where
  op : w / 67108864 = op
  d : fld w 25 20 = d
  a : fld w 19 14 = a
  fn : fld w 13 12 = fn
  imm : w % 4096 = imm

theorem asmI_fields {op d a fn imm : Nat} (hop : op < 64) (hd : d < 64) (ha : a < 64) (hfn : fn < 4) (himm : imm < 4096) :
    FieldsI (asmI op d a fn imm).toNat op d a fn imm := by
  have e : (asmI op d a fn imm).toNat = op * 67108864 + d * 1048576 + a * 16384 + fn * 4096 + imm := by
    rw [asmI, BitVec.toNat_ofNat]; omega
  rw [e]
  refine ⟨?_, ?_, ?_, ?_, ?_⟩ <;> (try unfold fld) <;> omega

/-- The fields of a word of format B. -/
structure FieldsB (w op g n off : Nat) : Prop where
  op : w / 67108864 = op
  g : fld w 25 23 = g
  n : bit w 22 = (n == 1)
  off : w % 4194304 = off

theorem asmB_fields {op g n off : Nat} (hop : op < 64) (hg : g < 8) (hn : n < 2) (hoff : off < 4194304) :
    FieldsB (asmB op g n off).toNat op g n off := by
  have e : (asmB op g n off).toNat = op * 67108864 + g * 8388608 + n * 4194304 + off := by
    rw [asmB, BitVec.toNat_ofNat]; omega
  rw [e]
  refine ⟨?_, ?_, bit_eq ?_, ?_⟩ <;> (try unfold fld) <;> omega

/-- The fields of a word of format M. -/
structure FieldsM (w op t a u size ord scope g x : Nat) : Prop where
  op : w / 67108864 = op
  t : fld w 25 20 = t
  a : fld w 19 14 = a
  u : bit w 13 = (u == 1)
  size : fld w 12 10 = size
  ord : fld w 9 7 = ord
  scope : fld w 6 4 = scope
  g : fld w 3 1 = g
  x : bit w 0 = (x == 1)

theorem asmM_fields {op t a u size ord scope g x : Nat} (hop : op < 64) (ht : t < 64) (ha : a < 64) (hu : u < 2)
    (hsize : size < 8) (hord : ord < 8) (hscope : scope < 8) (hg : g < 8) (hx : x < 2) :
    FieldsM (asmM op t a u size ord scope g x).toNat op t a u size ord scope g x := by
  have e : (asmM op t a u size ord scope g x).toNat = op * 67108864 + t * 1048576 + a * 16384 + u * 8192 + size * 1024 +
      ord * 128 + scope * 16 + g * 2 + x := by
    rw [asmM, BitVec.toNat_ofNat]; omega
  rw [e]
  refine ⟨?_, ?_, ?_, bit_eq ?_, ?_, ?_, ?_, ?_, bit_eq ?_⟩ <;> (try unfold fld) <;> omega

/-- The fields of a word of format T. -/
structure FieldsT (w op t a u aop wd ord scope ret x : Nat) : Prop where
  op : w / 67108864 = op
  t : fld w 25 20 = t
  a : fld w 19 14 = a
  u : bit w 13 = (u == 1)
  aop : fld w 12 9 = aop
  wd : bit w 8 = (wd == 1)
  ord : fld w 7 6 = ord
  scope : fld w 5 3 = scope
  ret : bit w 2 = (ret == 1)
  x : bit w 0 = (x == 1)

theorem asmT_fields {op t a u aop wd ord scope ret x : Nat} (hop : op < 64) (ht : t < 64) (ha : a < 64) (hu : u < 2)
    (haop : aop < 16) (hwd : wd < 2) (hord : ord < 4) (hscope : scope < 8) (hret : ret < 2) (hx : x < 2) :
    FieldsT (asmT op t a u aop wd ord scope ret x).toNat op t a u aop wd ord scope ret x := by
  have e : (asmT op t a u aop wd ord scope ret x).toNat = op * 67108864 + t * 1048576 + a * 16384 + u * 8192 + aop * 512 +
      wd * 256 + ord * 64 + scope * 8 + ret * 4 + x := by
    rw [asmT, BitVec.toNat_ofNat]; omega
  rw [e]
  refine ⟨?_, ?_, ?_, bit_eq ?_, ?_, bit_eq ?_, ?_, ?_, bit_eq ?_, bit_eq ?_⟩ <;> (try unfold fld) <;> omega

/-- The fields of a word of format X; the register of accrd and accwr lies in those of SA and SB. -/
structure FieldsX (w sub acc sa sb fs cv fl : Nat) : Prop where
  op : w / 67108864 = 42
  sub : fld w 25 22 = sub
  acc : fld w 21 18 = acc
  reg : fld w 17 12 = 4 * sa + sb / 4
  sa : fld w 17 14 = sa
  sb : fld w 13 10 = sb
  fs : fld w 9 7 = fs
  cv : fld w 6 4 = cv
  out : fld w 2 1 = fl / 2 % 4
  keep : bit w 0 = (fl % 2 == 1)
  fl : w % 16 = fl

theorem asmX_fields {sub acc sa sb fs cv fl : Nat} (hsub : sub < 16) (hacc : acc < 16) (hsa : sa < 16) (hsb : sb < 16)
    (hfs : fs < 8) (hcv : cv < 8) (hfl : fl < 16) : FieldsX (asmX sub acc sa sb fs cv fl).toNat sub acc sa sb fs cv fl := by
  have e : (asmX sub acc sa sb fs cv fl).toNat = 42 * 67108864 + sub * 4194304 + acc * 262144 + sa * 16384 + sb * 1024 +
      fs * 128 + cv * 16 + fl := by
    rw [asmX, BitVec.toNat_ofNat]; omega
  rw [e]
  refine ⟨?_, ?_, ?_, ?_, ?_, ?_, ?_, ?_, ?_, bit_eq ?_, ?_⟩ <;> (try unfold fld) <;> omega

/-- The fields of a word of format E; what its FL field holds is read in parts. -/
structure FieldsE (w op sub d a b fl : Nat) : Prop where
  op : w / 67108864 = op
  sub : fld w 25 22 = sub
  d : fld w 21 16 = d
  a : fld w 15 10 = a
  b : fld w 9 4 = b
  low2 : w % 4 = fl % 4
  bit0 : bit w 0 = (fl % 2 == 1)
  bit1 : bit w 1 = (fl / 2 % 2 == 1)
  bit2 : bit w 2 = (fl / 4 % 2 == 1)
  fl : w % 16 = fl

theorem asmE_fields {op sub d a b fl : Nat} (hop : op < 64) (hsub : sub < 16) (hd : d < 64) (ha : a < 64) (hb : b < 64)
    (hfl : fl < 16) : FieldsE (asmE op sub d a b fl).toNat op sub d a b fl := by
  have e : (asmE op sub d a b fl).toNat = op * 67108864 + sub * 4194304 + d * 65536 + a * 1024 + b * 16 + fl := by
    rw [asmE, BitVec.toNat_ofNat]; omega
  rw [e]
  refine ⟨?_, ?_, ?_, ?_, ?_, ?_, bit_eq ?_, bit_eq ?_, bit_eq ?_, ?_⟩ <;> (try unfold fld) <;> omega

/-- The fields of a word of format Q; the upper part of a tile buffer's number lies in that of A. -/
structure FieldsQ (w op sub d a n g : Nat) : Prop where
  op : w / 67108864 = op
  sub : fld w 25 22 = sub
  d : fld w 21 16 = d
  nUp : fld w 11 10 = a % 4
  a : fld w 15 10 = a
  n : fld w 9 4 = n
  g : fld w 3 1 = g

theorem asmQ_fields {op sub d a n g blk : Nat} (hop : op < 64) (hsub : sub < 16) (hd : d < 64) (ha : a < 64) (hn : n < 64)
    (hg : g < 8) (hblk : blk < 2) : FieldsQ (asmQ op sub d a n g blk).toNat op sub d a n g := by
  have e : (asmQ op sub d a n g blk).toNat = op * 67108864 + sub * 4194304 + d * 65536 + a * 1024 + n * 16 + g * 2 + blk := by
    rw [asmQ, BitVec.toNat_ofNat]; omega
  rw [e]
  refine ⟨?_, ?_, ?_, ?_, ?_, ?_, ?_⟩ <;> (try unfold fld) <;> omega

/-- The fields of a word of format S. -/
structure FieldsS (w sub d a imm : Nat) : Prop where
  op : w / 67108864 = 63
  sub : fld w 25 20 = sub
  d : fld w 19 14 = d
  a : fld w 13 8 = a
  imm : w % 256 = imm

theorem asmS_fields {sub d a imm : Nat} (hsub : sub < 64) (hd : d < 64) (ha : a < 64) (himm : imm < 256) :
    FieldsS (asmS sub d a imm).toNat sub d a imm := by
  have e : (asmS sub d a imm).toNat = 63 * 67108864 + sub * 1048576 + d * 16384 + a * 256 + imm := by
    rw [asmS, BitVec.toNat_ofNat]; omega
  rw [e]
  refine ⟨?_, ?_, ?_, ?_, ?_⟩ <;> (try unfold fld) <;> omega

section Ext

variable {sa sb imm : Nat} (hsa : sa < 64) (hsb : sb < 64) (himm : imm < 1048576) (xs : List Word)
include hsa hsb himm

theorem asmExt_toNat : (asmExt sa sb imm).toNat = sa * 67108864 + sb * 1048576 + imm := by
  rw [asmExt, BitVec.toNat_ofNat]; omega

theorem extA_asmExt : extA (asmExt sa sb imm :: xs) = sa := by
  show fld (asmExt sa sb imm).toNat 31 26 = sa
  rw [asmExt_toNat hsa hsb himm]; unfold fld; omega

theorem extB_asmExt : extB (asmExt sa sb imm :: xs) = sb := by
  show fld (asmExt sa sb imm).toNat 25 20 = sb
  rw [asmExt_toNat hsa hsb himm]; unfold fld; omega

end Ext

theorem extImm_asmExt {sa sb : Nat} (hsa : sa < 64) (hsb : sb < 64) (imm : BitVec 20) (xs : List Word) :
    extImm (asmExt sa sb imm.toNat :: xs) = imm := by
  refine BitVec.eq_of_toNat_eq ?_
  show (BitVec.ofNat 20 (asmExt sa sb imm.toNat).toNat).toNat = _
  rw [asmExt_toNat hsa hsb imm.isLt, BitVec.toNat_ofNat]
  have := imm.isLt
  omega

/-! ### Sources and immediates read back (02 R45) -/

theorem SSrc.fld_lt {a : SSrc} (h : a.ok = true) : a.fld < 64 := by
  cases a with
  | r n => have : n < 63 := of_decide_eq_true h; show n < 64; omega
  | lit w => exact (by decide : 63 < 64)

theorem VSrc.fld_lt {a : VSrc} (h : a.ok = true) : a.fld < 64 := by
  cases a with
  | v n => exact of_decide_eq_true h
  | s n => have : n < 63 := of_decide_eq_true h; show n < 64; omega
  | lit w => exact (by decide : 63 < 64)

theorem VSrc.sb_lt (a : VSrc) : a.sb < 2 := by cases a <;> exact Nat.lt_of_sub_eq_succ rfl

/-- A scalar source is read from its field and the words that begin with its literal. -/
theorem ssrc_lits {a : SSrc} (h : a.ok = true) (xs : List Word) : ssrc a.fld (a.lits ++ xs) = a := by
  cases a with
  | r n => exact if_neg (Nat.ne_of_lt (of_decide_eq_true h))
  | lit w => rfl

/-- Past its literal stand the words that follow. -/
theorem afterLit_lits {a : SSrc} (h : a.ok = true) (xs : List Word) : afterLit a.fld (a.lits ++ xs) = xs := by
  cases a with
  | r n => exact if_neg (Nat.ne_of_lt (of_decide_eq_true h))
  | lit w => rfl

theorem vsrc_lits {a : VSrc} (h : a.ok = true) (xs : List Word) : vsrc (a.sb == 1) a.fld (a.lits ++ xs) = a := by
  cases a with
  | v n => rfl
  | s n => exact if_neg (Nat.ne_of_lt (of_decide_eq_true h))
  | lit w => rfl

/-- The offset word is there where X says so (02 R46). -/
theorem offOf_toList (o : Option (BitVec 32)) (xs : List Word) : offOf o.isSome (o.toList ++ xs) = o := by
  cases o <;> rfl

theorem toNat_beq_one (b : Bool) : (b.toNat == 1) = b := by cases b <;> rfl

/-! ### Flags packed into an FL field -/

theorem flag_bit0 (b : Bool) : (b.toNat % 2 == 1) = b := by cases b <;> rfl
theorem flags_bit0 (x y : Bool) : ((2 * x.toNat + y.toNat) % 2 == 1) = y := by cases x <;> cases y <;> rfl
theorem flags_bit1 (x y : Bool) : ((2 * x.toNat + y.toNat) / 2 % 2 == 1) = x := by cases x <;> cases y <;> rfl

section Mode

variable {m : Nat} (b : Bool) (h : m < 3)
include h

theorem mode_low2 : (4 * b.toNat + m) % 4 = m := by omega

theorem mode_bit2 : ((4 * b.toNat + m) / 4 % 2 == 1) = b := by
  have e : (4 * b.toNat + m) / 4 % 2 = b.toNat := by have := b.toNat_lt; omega
  rw [e, toNat_beq_one]

theorem out_bits : (8 + 2 * m + b.toNat) / 2 % 4 = m := by have := b.toNat_lt; omega

omit h in
theorem keep_bit : ((8 + 2 * m + b.toNat) % 2 == 1) = b := by
  have e : (8 + 2 * m + b.toNat) % 2 = b.toNat := by have := b.toNat_lt; omega
  rw [e, toNat_beq_one]

theorem mode_lt : 4 * b.toNat + m < 16 := by have := b.toNat_lt; omega

theorem out_lt : 8 + 2 * m + b.toNat < 16 := by have := b.toNat_lt; omega

end Mode

theorem flag_lt (b : Bool) : b.toNat < 16 := by have := b.toNat_lt; omega
theorem flags_lt (x y : Bool) : 2 * x.toNat + y.toNat < 16 := by have := x.toNat_lt; have := y.toNat_lt; omega

/-- The register of accrd and accwr from the two fields that it lies in (02 R46). -/
theorem reg_parts (r : Nat) : 4 * (r / 4) + r % 4 * 4 / 4 = r := by omega

/-- The number of a tile buffer from its upper and its lower part (17 R366). -/
theorem buffer_parts {n : Nat} (h : n < 256) : n / 64 % 4 * 64 + n % 64 = n := by omega

/-- IMM20 lies in its field. -/
theorem imm20_lt (x : BitVec 20) : x.toNat < 1048576 := x.isLt

/-- The low bits of a number are those of its remainder. -/
theorem ofNat_of_mod {k w : Nat} {x : BitVec k} (h : w % 2 ^ k = x.toNat) : BitVec.ofNat k w = x :=
  BitVec.eq_of_toNat_eq (by rw [BitVec.toNat_ofNat, h])

/-! ### Reading an encoding back, format by format -/

/-- The reader of fields gives the instruction back from its words, whatever words follow. -/
def Instr.ReadsBack (i : Instr) : Prop :=
  ∃ w ls, encode i = w :: ls ∧ ∀ xs, readFields w.toNat (ls ++ xs) = some i

section Format

variable {i : Instr} {ls : List Word} {op sub d a b sb g fn imm fl n off t u size ord scope x aop wd ret acc sa fs cv blk : Nat}

theorem readsBack_of_formatA (he : encode i = asmA op d a b sb g fn :: ls) (hop : op < 64) (hd : d < 64) (ha : a < 64)
    (hb : b < 64) (hsb : sb < 2) (hg : g < 8) (hfn : fn < 16)
    (hr : ∀ w xs, FieldsA w op d a b sb g fn → readFields w (ls ++ xs) = some i) : i.ReadsBack :=
  ⟨_, _, he, fun xs => hr _ xs (asmA_fields hop hd ha hb hsb hg hfn)⟩

theorem readsBack_of_formatI (he : encode i = asmI op d a fn imm :: ls) (hop : op < 64) (hd : d < 64) (ha : a < 64)
    (hfn : fn < 4) (himm : imm < 4096) (hr : ∀ w xs, FieldsI w op d a fn imm → readFields w (ls ++ xs) = some i) :
    i.ReadsBack :=
  ⟨_, _, he, fun xs => hr _ xs (asmI_fields hop hd ha hfn himm)⟩

theorem readsBack_of_formatB (he : encode i = asmB op g n off :: ls) (hop : op < 64) (hg : g < 8) (hn : n < 2)
    (hoff : off < 4194304) (hr : ∀ w xs, FieldsB w op g n off → readFields w (ls ++ xs) = some i) : i.ReadsBack :=
  ⟨_, _, he, fun xs => hr _ xs (asmB_fields hop hg hn hoff)⟩

theorem readsBack_of_formatM (he : encode i = asmM op t a u size ord scope g x :: ls) (hop : op < 64) (ht : t < 64)
    (ha : a < 64) (hu : u < 2) (hsize : size < 8) (hord : ord < 8) (hscope : scope < 8) (hg : g < 8) (hx : x < 2)
    (hr : ∀ w xs, FieldsM w op t a u size ord scope g x → readFields w (ls ++ xs) = some i) : i.ReadsBack :=
  ⟨_, _, he, fun xs => hr _ xs (asmM_fields hop ht ha hu hsize hord hscope hg hx)⟩

theorem readsBack_of_formatT (he : encode i = asmT op t a u aop wd ord scope ret x :: ls) (hop : op < 64) (ht : t < 64)
    (ha : a < 64) (hu : u < 2) (haop : aop < 16) (hwd : wd < 2) (hord : ord < 4) (hscope : scope < 8) (hret : ret < 2)
    (hx : x < 2) (hr : ∀ w xs, FieldsT w op t a u aop wd ord scope ret x → readFields w (ls ++ xs) = some i) : i.ReadsBack :=
  ⟨_, _, he, fun xs => hr _ xs (asmT_fields hop ht ha hu haop hwd hord hscope hret hx)⟩

theorem readsBack_of_formatX (he : encode i = asmX sub acc sa sb fs cv fl :: ls) (hsub : sub < 16) (hacc : acc < 16)
    (hsa : sa < 16) (hsb : sb < 16) (hfs : fs < 8) (hcv : cv < 8) (hfl : fl < 16)
    (hr : ∀ w xs, FieldsX w sub acc sa sb fs cv fl → readFields w (ls ++ xs) = some i) : i.ReadsBack :=
  ⟨_, _, he, fun xs => hr _ xs (asmX_fields hsub hacc hsa hsb hfs hcv hfl)⟩

theorem readsBack_of_formatE (he : encode i = asmE op sub d a b fl :: ls) (hop : op < 64) (hsub : sub < 16) (hd : d < 64)
    (ha : a < 64) (hb : b < 64) (hfl : fl < 16)
    (hr : ∀ w xs, FieldsE w op sub d a b fl → readFields w (ls ++ xs) = some i) : i.ReadsBack :=
  ⟨_, _, he, fun xs => hr _ xs (asmE_fields hop hsub hd ha hb hfl)⟩

theorem readsBack_of_formatQ (he : encode i = asmQ op sub d a n g blk :: ls) (hop : op < 64) (hsub : sub < 16) (hd : d < 64)
    (ha : a < 64) (hn : n < 64) (hg : g < 8) (hblk : blk < 2)
    (hr : ∀ w xs, FieldsQ w op sub d a n g → readFields w (ls ++ xs) = some i) : i.ReadsBack :=
  ⟨_, _, he, fun xs => hr _ xs (asmQ_fields hop hsub hd ha hn hg hblk)⟩

theorem readsBack_of_formatS (he : encode i = asmS sub d a imm :: ls) (hsub : sub < 64) (hd : d < 64) (ha : a < 64)
    (himm : imm < 256) (hr : ∀ w xs, FieldsS w sub d a imm → readFields w (ls ++ xs) = some i) : i.ReadsBack :=
  ⟨_, _, he, fun xs => hr _ xs (asmS_fields hsub hd ha himm)⟩

end Format

/-! ### Ranges of the fields of a well-formed instruction -/

theorem okMem_bounds {isLoad streams glob u : Bool} {t a size ord scope : Nat}
    (h : okMem isLoad streams glob t a u size ord scope = true) :
    t < 64 ∧ a < 64 ∧ size < 8 ∧ ord < 8 ∧ scope < 8 := by
  simp only [okMem, okData, okAddr, okOrder, okVPair, Bool.and_eq_true, Bool.or_eq_true, beq_iff_eq, decide_eq_true_eq] at h
  obtain ⟨⟨hd, ha⟩, ho⟩ := h
  have ht : t < 64 ∧ size < 8 := by
    split_ifs at hd <;> simp only [Bool.and_eq_true, beq_iff_eq, decide_eq_true_eq] at * <;> omega
  have ha : a < 64 := by
    split_ifs at ha <;> simp only [Bool.and_eq_true, beq_iff_eq, decide_eq_true_eq] at * <;> omega
  omega

theorem okAtomic_bounds {glob u wd ret : Bool} {t a aop ord scope : Nat}
    (h : okAtomic glob t a u aop wd ord scope ret = true) :
    t < 64 ∧ a < 64 ∧ aop < 16 ∧ ord < 4 ∧ scope < 8 := by
  simp only [okAtomic, okAddr, okVPair, Bool.and_eq_true, Bool.or_eq_true, beq_iff_eq, decide_eq_true_eq] at h
  obtain ⟨⟨⟨⟨⟨⟨haop, ha⟩, ht⟩, ho⟩, -⟩, -⟩, -⟩ := h
  have ht : t < 64 := by
    split_ifs at ht <;> simp only [Bool.and_eq_true, beq_iff_eq, decide_eq_true_eq] at * <;> omega
  have ha : a < 64 := by
    split_ifs at ha <;> simp only [Bool.and_eq_true, beq_iff_eq, decide_eq_true_eq] at * <;> omega
  omega

/-! ### Every well-formed instruction reads back -/

/-- For every form with an encoding: its fields are in range, so its word holds them, and the reader of its major opcode finds them.
The cases are grouped by format and by the operands that a form has. (`wellFormed` is unfolded by delta in each case: its equations,
one of 402 cases each, cost more than the rest of the proof.) -/
theorem readsBack_of_wellFormed {i : Instr} (h : i.wellFormed = true) (hr : ∀ d a, i ≠ .freplyReject d a) :
    i.ReadsBack := by
  cases i with
  | vabs | vneg | vclz | vpopc | vbrev | vsext8 | vsext16 | vzext8 | vzext16 | pand | por | pxor | pandn | pnot | pmov
  | ret | exit | yield | brx | callx | mrget | mrset | nop | csign | trap | tret | tretSkip | fabs | fneg | frndn | frndz
  | frndd | frndu | habs | hneg | babs | bneg | fsqrtRd | fsqrtRu | frcp | frsq | fsqrt | fexp2 | flog2 | fsinpi | fcospi
  | ftanh | fsigm | cvtI32F32 | cvtN32F32 | cvtF32I32 | cvtF32N32 | cvtF16F32 | cvtF32F16 | cvtBf16F32 | cvtF32Bf16
  | cvtE4m3F32 | cvtF32E4m3 | cvtE5m2F32 | cvtF32E5m2 | cvtE2m1F32 | cvtF32E2m1 | vany | vall | ballot | vpfxc | vcomp
  | vexpd | vmrank | vmcnt | vmlead | raddI32 | rminI32 | rmaxI32 | rand | ror | rxor | raddF32 | raddF32Any | rminF32
  | rmaxF32 | scanI32 | scanF32 | xscanI32 | rgflush | rgqry | fenceAcq | fenceRel | fenceAr | fenceSc | ackwait | dadd
  | dsub | dmul | dfma | ddiv | dsqrt | cvtF64F32 | cvtF32F64 | brk | rdcnt | mark =>
    delta Instr.wellFormed at h
    simp only [okS, okV, okP, okG, okVPair, Bool.and_eq_true, decide_eq_true_eq] at h
    refine readsBack_of_formatA rfl (by decide) (by omega) (by omega) (by omega) (by decide) (by omega) (by decide)
      fun w xs f => ?_
    simp only [↓reduceIte, Nat.reduceEqDiff, readFields, read06, read0A, read0E, read0F, read10, read11, read12, read14,
      read15, read16, read17, read18, read27, read30, read3E, f.op, f.fn, f.d, f.a, f.b, f.g]
  | vadd | vsub | vmul | vmulh | vmulhn | vand | vor | vxor | vshl | vshr | vsra | vmin | vmax | vminn | vmaxn | vaddsat
  | vsubsat | vmad | vsel | vbfe | vbfi | vdp4 | vcmpEq | vcmpNe | vcmpLt | vcmpLe | vcmpGt | vcmpGe | vcmpLtn | vcmpLen
  | vcmpGtn | vcmpGen | fadd | fsub | fmul | ffma | ffms | fmin | fmax | fminnm | fmaxnm | fcpsgn | hadd | hsub | hmul
  | hfma | hmin | hmax | badd | bsub | bmul | bfma | bmin | bmax | faddRd | faddRu | fsubRd | fsubRu | fmulRd | fmulRu
  | ffmaRd | ffmaRu | fdivRd | fdivRu | feq | fne | flt | fle | fgt | fge | funord | ford | fdiv | pk2Bf16 | pk2F16 | shfl
  | shflup | shfldn | shflx =>
    delta Instr.wellFormed at h
    simp only [okV, okP, okG, Bool.and_eq_true, decide_eq_true_eq] at h
    obtain ⟨⟨⟨hd, ha⟩, hb⟩, hg⟩ := h
    refine readsBack_of_formatA rfl (by decide) (by omega) ha (VSrc.fld_lt hb) (VSrc.sb_lt _) hg (by decide) fun w xs f => ?_
    simp only [↓reduceIte, Nat.reduceEqDiff, readFields, read05, read06, read09, read0F, read10, read11, read12, read13,
      read14, read15, read16, f.op, f.fn, f.d, f.a, f.b, f.g, f.sb, vsrc_lits hb]
  | vmov =>
    delta Instr.wellFormed at h
    simp only [okV, okG, Bool.and_eq_true, decide_eq_true_eq] at h
    obtain ⟨⟨hd, hb⟩, hg⟩ := h
    refine readsBack_of_formatA rfl (by decide) (by omega) (by decide) (VSrc.fld_lt hb) (VSrc.sb_lt _) hg (by decide)
      fun w xs f => ?_
    simp only [↓reduceIte, Nat.reduceEqDiff, readFields, read05, f.op, f.fn, f.d, f.b, f.sb, f.g, vsrc_lits hb]
  | bcast | vtopk | vtopka =>
    delta Instr.wellFormed at h
    simp only [okV, okP, okG, Bool.and_eq_true, decide_eq_true_eq] at h
    obtain ⟨⟨⟨hd, ha⟩, hb⟩, hg⟩ := h
    refine readsBack_of_formatA rfl (by decide) (by omega) ha (SSrc.fld_lt hb) (by decide) hg (by decide) fun w xs f => ?_
    simp only [↓reduceIte, Nat.reduceEqDiff, readFields, read16, f.op, f.fn, f.d, f.a, f.b, f.g, ssrc_lits hb]
  | smov =>
    delta Instr.wellFormed at h
    simp only [okS, okG, Bool.and_eq_true, decide_eq_true_eq] at h
    obtain ⟨⟨hd, hb⟩, hg⟩ := h
    refine readsBack_of_formatA rfl (by decide) (by omega) (by decide) (SSrc.fld_lt hb) (by decide) hg (by decide)
      fun w xs f => ?_
    simp only [↓reduceIte, Nat.reduceEqDiff, readFields, read01, f.op, f.fn, f.d, f.b, f.g, ssrc_lits hb]
  | sadd | ssub | smul | smulh | smulhn | sand | sor | sxor | sshl | sshr | ssra | smin | smax | sminn | smaxn | scmpEq
  | scmpNe | scmpLt | scmpLe | scmpGt | scmpGe | scmpLtn | scmpLen | scmpGtn | scmpGen =>
    delta Instr.wellFormed at h
    simp only [okS, okP, okG, Bool.and_eq_true, decide_eq_true_eq] at h
    obtain ⟨⟨⟨hd, ha⟩, hb⟩, hg⟩ := h
    refine readsBack_of_formatA rfl (by decide) (by omega) (SSrc.fld_lt ha) (SSrc.fld_lt hb) (by decide) hg (by decide)
      fun w xs f => ?_
    simp only [↓reduceIte, Nat.reduceEqDiff, readFields, read01, read04, f.op, f.fn, f.d, f.a, f.b, f.g, ssrc_lits ha,
      ssrc_lits hb, afterLit_lits ha, List.append_assoc]
  | rgput =>
    delta Instr.wellFormed at h
    simp only [okG, Bool.and_eq_true, decide_eq_true_eq] at h
    obtain ⟨ha, hg⟩ := h
    refine readsBack_of_formatA rfl (by decide) (by decide) (SSrc.fld_lt ha) (by decide) (by decide) hg (by decide)
      fun w xs f => ?_
    simp only [↓reduceIte, Nat.reduceEqDiff, readFields, read18, f.op, f.fn, f.a, f.g, ssrc_lits ha]
  | wreq =>
    delta Instr.wellFormed at h
    simp only [okS, Bool.and_eq_true, decide_eq_true_eq] at h
    obtain ⟨hd, ha⟩ := h
    refine readsBack_of_formatA rfl (by decide) (by omega) (SSrc.fld_lt ha) (by decide) (by decide) (by decide) (by decide)
      fun w xs f => ?_
    simp only [↓reduceIte, Nat.reduceEqDiff, readFields, read0E, f.op, f.fn, f.d, f.a, ssrc_lits ha]
  | wrsp =>
    delta Instr.wellFormed at h
    simp only [okG, Bool.and_eq_true, decide_eq_true_eq] at h
    obtain ⟨⟨ha, hx⟩, hg⟩ := h
    refine readsBack_of_formatA rfl (by decide) (by decide) (VSrc.fld_lt ha) hx (VSrc.sb_lt _) hg (by decide) fun w xs f => ?_
    simp only [↓reduceIte, Nat.reduceEqDiff, readFields, read0E, f.op, f.fn, f.a, f.b, f.sb, f.g, vsrc_lits ha]
  | rdsp =>
    delta Instr.wellFormed at h
    simp only [okS, okV, okG, Bool.and_eq_true, decide_eq_true_eq, ite_self] at h
    refine readsBack_of_formatA rfl (by decide) (by omega) (by decide) (by omega) (Bool.toNat_lt _) (by omega) (by decide)
      fun w xs f => ?_
    simp only [↓reduceIte, Nat.reduceEqDiff, readFields, read0E, f.op, f.fn, f.d, f.b, f.sb, f.g, toNat_beq_one]
  | saddi | sandi | sori | sxori | slui | vaddi | vandi | vori | vxori | vmovi =>
    delta Instr.wellFormed at h
    simp only [okS, okV, Bool.and_eq_true, decide_eq_true_eq] at h
    refine readsBack_of_formatI rfl (by decide) (by omega) (by omega) (by decide) (BitVec.isLt _) fun w xs f => ?_
    simp only [↓reduceIte, Nat.reduceEqDiff, readFields, read02, read03, read07, read08, f.op, f.d, f.a, f.fn,
      ofNat_of_mod (k := 12) f.imm]
  | sshli | sshri | ssrai | vshli | vshri | vsrai =>
    delta Instr.wellFormed at h
    simp only [okS, okV, Bool.and_eq_true, decide_eq_true_eq] at h
    refine readsBack_of_formatI rfl (by decide) (by omega) (by omega) (by decide) (by omega) fun w xs f => ?_
    simp only [↓reduceIte, Nat.reduceEqDiff, readFields, read03, read08, f.op, f.d, f.a, f.fn, f.imm]
  | br | call | meet =>
    delta Instr.wellFormed at h
    simp only [okG, Bool.and_eq_true, decide_eq_true_eq] at h
    refine readsBack_of_formatB rfl (by decide) h.1 (Bool.toNat_lt _) (BitVec.isLt _) fun w xs f => ?_
    simp only [↓reduceIte, Nat.reduceEqDiff, readFields, read0B, read0C, read0D, f.op, f.g, f.n, toNat_beq_one,
      ofNat_of_mod (k := 22) f.off]
  | ldg | stg | lds | sts | ldc | stc | ldx | stx | ldp | stp =>
    delta Instr.wellFormed at h
    simp only [okG, Bool.and_eq_true, decide_eq_true_eq] at h
    obtain ⟨hm, hg⟩ := h
    obtain ⟨ht, ha, hsize, hord, hscope⟩ := okMem_bounds hm
    refine readsBack_of_formatM rfl (by decide) ht ha (Bool.toNat_lt _) hsize hord hscope hg (Bool.toNat_lt _)
      fun w xs f => ?_
    simp only [↓reduceIte, Nat.reduceEqDiff, readFields, read19, read1A, read1B, read1C, read1D, read1E, read1F, read20,
      read21, read22, f.op, f.t, f.a, f.u, f.size, f.ord, f.scope, f.g, f.x, toNat_beq_one, offOf_toList]
  | atg | ats | atc | atx =>
    obtain ⟨ht, ha, haop, hord, hscope⟩ := okAtomic_bounds h
    refine readsBack_of_formatT rfl (by decide) ht ha (Bool.toNat_lt _) haop (Bool.toNat_lt _) hord hscope (Bool.toNat_lt _)
      (Bool.toNat_lt _) fun w xs f => ?_
    simp only [↓reduceIte, Nat.reduceEqDiff, readFields, read23, read24, read25, read26, f.op, f.t, f.a, f.u, f.aop,
      f.wd, f.ord, f.scope, f.ret, f.x, toNat_beq_one, offOf_toList]
  | pf | pf2 | icpf | bpf | cpg2s | cps2g | cps2s | cps2c | cpc2s | tld | tst | cpclose | waitc | cpring | marchr | fprep
  | bfetch | trace | tracer | tex | texq | cgat | ca2a | csend | crecv | cwait =>
    delta Instr.wellFormed at h
    simp only [okS, okV, okVGroup, okSGroup, Bool.and_eq_true, decide_eq_true_eq] at h
    refine readsBack_of_formatE rfl (by decide) (by decide) (by omega) (by omega) (by omega) (by omega) fun w xs f => ?_
    simp only [↓reduceIte, Nat.reduceEqDiff, readFields, read28, read29, read2E, read2F, f.op, f.sub, f.d, f.a, f.b,
      f.fl]
  | wbr | tslot =>
    delta Instr.wellFormed at h
    simp only [okS, okSGroup, Bool.and_eq_true, decide_eq_true_eq] at h
    refine readsBack_of_formatE rfl (by decide) (by decide) (by omega) (by omega) (by omega) (flag_lt _) fun w xs f => ?_
    simp only [↓reduceIte, Nat.reduceEqDiff, readFields, read28, read29, f.op, f.sub, f.d, f.a, f.b, f.bit0, flag_bit0]
  | invr =>
    delta Instr.wellFormed at h
    simp only [okS, Bool.and_eq_true, decide_eq_true_eq] at h
    refine readsBack_of_formatE rfl (by decide) (by decide) (by omega) (by omega) (by omega) (flags_lt _ _) fun w xs f => ?_
    simp only [↓reduceIte, Nat.reduceEqDiff, readFields, read28, f.op, f.sub, f.a, f.b, f.bit0, f.bit1, flags_bit0,
      flags_bit1]
  | march d a b sp mode =>
    delta Instr.wellFormed at h
    simp only [okS, okVGroup, okSGroup, Bool.and_eq_true, decide_eq_true_eq] at h
    obtain ⟨⟨⟨hd, ha⟩, hb⟩, hm⟩ := h
    have hb : b < 64 := by split_ifs at hb <;> simp only [decide_eq_true_eq] at hb <;> omega
    refine readsBack_of_formatE rfl (by decide) (by decide) (by omega) (by omega) (by omega) (mode_lt _ hm) fun w xs f => ?_
    simp only [↓reduceIte, Nat.reduceEqDiff, readFields, read2E, f.op, f.sub, f.d, f.a, f.b, f.bit2, f.low2, mode_low2,
      mode_bit2, hm]
  | cred | crsc =>
    delta Instr.wellFormed at h
    simp only [okS, okSGroup, Bool.and_eq_true, decide_eq_true_eq] at h
    refine readsBack_of_formatE rfl (by decide) (by decide) (by omega) (by omega) (by omega) (mode_lt _ h.2) fun w xs f => ?_
    simp only [↓reduceIte, Nat.reduceEqDiff, readFields, read2F, f.op, f.sub, f.d, f.a, f.b, f.bit2, f.low2, mode_low2,
      mode_bit2, h.2]
  | mma | mmaz | accz | oclaim | orel =>
    delta Instr.wellFormed at h
    simp only [okG, Bool.and_eq_true, decide_eq_true_eq] at h
    refine readsBack_of_formatX rfl (by decide) (by omega) (by omega) (by omega) (by omega) (by omega) (by decide)
      fun w xs f => ?_
    simp only [↓reduceIte, Nat.reduceEqDiff, readFields, read2A, f.op, f.sub, f.acc, f.sa, f.sb, f.fs, f.cv]
  | accld | oloadData | oloadSide | oloadBand | accsclF32 | accsclI2f | accsclF2i =>
    delta Instr.wellFormed at h
    simp only [okS, okG, Bool.and_eq_true, decide_eq_true_eq] at h
    refine readsBack_of_formatX rfl (by decide) (by omega) (by omega) (by omega) (by omega) (by omega) (by decide)
      fun w xs f => ?_
    simp only [↓reduceIte, Nat.reduceEqDiff, readFields, read2A, f.op, f.sub, f.acc, f.sa, f.cv, f.fl, extA_asmExt,
      extB_asmExt, extImm_asmExt, imm20_lt, h, Nat.ofNat_pos, List.cons_append]
  | accrd | accwr =>
    delta Instr.wellFormed at h
    simp only [okS, okV, okG, Bool.and_eq_true, decide_eq_true_eq] at h
    refine readsBack_of_formatX rfl (by decide) (by omega) (by omega) (by omega) (by omega) (by omega) (by decide)
      fun w xs f => ?_
    simp only [↓reduceIte, Nat.reduceEqDiff, readFields, read2A, f.op, f.sub, f.acc, f.reg, f.cv, reg_parts,
      extA_asmExt, extImm_asmExt, imm20_lt, h, Nat.ofNat_pos, List.cons_append]
  | accst =>
    delta Instr.wellFormed at h
    simp only [okS, okG, Bool.and_eq_true, decide_eq_true_eq] at h
    refine readsBack_of_formatX rfl (by decide) (by omega) (by omega) (by omega) (by omega) (by omega) (out_lt _ h.1.1.1.2)
      fun w xs f => ?_
    simp only [↓reduceIte, Nat.reduceEqDiff, readFields, read2A, f.op, f.sub, f.acc, f.out, f.keep, f.cv, out_bits,
      keep_bit, extA_asmExt, extB_asmExt, extImm_asmExt, imm20_lt, h, List.cons_append]
  | qpush | qpop | qpushn | qpopn | qallow | qlen | chsend | chrecv | chsendn | chrecvn | renq | rdeq | rawait | rrel
  | barinit | bararr | barwait | barsync | jinc | spawn | spawnw | doneCrew | cancel | wflag | spchk | spbar =>
    delta Instr.wellFormed at h
    simp only [okS, okG, Bool.and_eq_true, decide_eq_true_eq] at h
    refine readsBack_of_formatQ rfl (by decide) (by decide) (by omega) (by omega) (by omega) (by omega) (by decide)
      fun w xs f => ?_
    simp only [↓reduceIte, Nat.reduceEqDiff, readFields, read2B, read2C, read2D, f.op, f.sub, f.d, f.a, f.n, f.g]
  | tbpub | tbrel | tbstat =>
    delta Instr.wellFormed at h
    simp only [okS, okG, Bool.and_eq_true, decide_eq_true_eq] at h
    refine readsBack_of_formatQ rfl (by decide) (by decide) (by omega) (by omega) (by omega) (by omega) (by decide)
      fun w xs f => ?_
    simp only [↓reduceIte, Nat.reduceEqDiff, readFields, read2D, f.op, f.sub, f.d, f.nUp, f.n, f.g, buffer_parts, h]
  | crd | freplyResume | carve | pjob | tlbinvPage | tlbinvAsid | tlbinvAll | slsync | halt =>
    delta Instr.wellFormed at h
    simp only [okS, Bool.and_eq_true, decide_eq_true_eq] at h
    refine readsBack_of_formatS rfl (by decide) (by omega) (by omega) (by omega) fun w xs f => ?_
    simp only [↓reduceIte, Nat.reduceEqDiff, readFields, read3F, f.op, f.sub, f.d, f.a, f.imm]
  | cwr =>
    delta Instr.wellFormed at h
    simp only [okS, Bool.and_eq_true, decide_eq_true_eq, Bool.not_eq_true',
      Bool.or_eq_false_iff, beq_eq_false_iff_ne] at h
    refine readsBack_of_formatS rfl (by decide) (by omega) (by omega) (by omega) fun w xs f => ?_
    simp only [↓reduceIte, Nat.reduceEqDiff, readFields, read3F, f.op, f.sub, f.d, f.a, f.imm, h]
  | freplyReject => exact absurd rfl (hr _ _)
  | _ => exact Bool.noConfusion h

/-! ### The decoder accepts what reads back -/

theorem startsWith_append (ws xs : List Word) : startsWith ws (ws ++ xs) = true := by
  induction ws with
  | nil => rfl
  | cons w ws ih => simp only [List.cons_append, startsWith, beq_self_eq_true, ih, Bool.and_self]

theorem decode_of_readsBack {i : Instr} (h : i.ReadsBack) (hw : i.wellFormed = true) (rest : List Word) :
    decode (encode i ++ rest) = .ok (i, rest) := by
  obtain ⟨w, ls, he, hr⟩ := h
  have hs := startsWith_append (w :: ls) rest
  have hd : (w :: ls ++ rest).drop i.len = rest := by rw [Instr.len, he]; exact List.drop_left
  rw [he, List.cons_append]
  rw [List.cons_append] at hs hd
  simp only [decode, hr, hw, he, hs, hd, if_true]

theorem decode_encode {i : Instr} (hw : i.wellFormed = true) (hr : ∀ d a, i ≠ .freplyReject d a) (rest : List Word) :
    decode (encode i ++ rest) = .ok (i, rest) :=
  decode_of_readsBack (readsBack_of_wellFormed hw hr) hw rest

/-- FREPLY_REJECT has the words of FREPLY_RESUME, and the decoder answers the latter (notes/assumptions/7.md). -/
theorem decode_encode_freplyReject {d a : Nat} (hw : (Instr.freplyReject d a).wellFormed = true) (rest : List Word) :
    decode (encode (.freplyReject d a) ++ rest) = .ok (.freplyResume d a, rest) :=
  decode_encode (i := .freplyResume d a) hw nofun rest

/-- Settles O58: every form but freplyReject reads back as itself, and freplyReject as the form that shares its words. -/
theorem roundTrip : Obligations.RoundTrip := by
  unfold Obligations.RoundTrip
  intro i rest _ hw
  by_cases hr : ∃ d a, i = .freplyReject d a
  · obtain ⟨d, a, rfl⟩ := hr
    exact ⟨.freplyResume d a, decode_encode_freplyReject hw rest, rfl, fun h => absurd rfl (h d a)⟩
  · exact ⟨i, decode_encode hw (fun d a e => hr ⟨d, a, e⟩) rest, rfl, fun _ => rfl⟩

end Sys2Proof
end

section
/-!
PROOFS. Registers: what a read of a register gives after a write of it or of another, and the registers that are hard-wired (O57).
-/

namespace Sys2Proof.Machine

/-! ### The hard-wired registers (02 R55) -/

@[simp] theorem Thread.vr_63 (t : Thread) : t.vr 63 = 0 := rfl
@[simp] theorem Thread.setV_63 (t : Thread) (x : Word) : t.setV 63 x = t := rfl
@[simp] theorem Thread.pr_7 (t : Thread) : t.pr 7 = true := rfl
@[simp] theorem Thread.setP_7 (t : Thread) (b : Bool) : t.setP 7 b = t := rfl
@[simp] theorem Cohort.sr_63 (c : Cohort) : c.sr 63 = 0 := rfl
@[simp] theorem Cohort.setS_63 (c : Cohort) (x : Dword) : c.setS 63 x = c := rfl

/-! ### A table reads back a value that it lists, or any value in canonical form (notes/assumptions/1.md) -/

theorem Tab.read_put_of {α : Type} [DecidableEq α] {d : α} {t : Tab α} {x : α} (h : x ≠ d ∨ Tab.wf d t = true) (n : Nat) :
    Tab.read d (Tab.put d t n x) n = x :=
  h.elim (fun hx => Tab.read_put_self d t n x hx) fun hw => Tab.read_put hw n x

/-! ### Vector registers -/

section Vector

variable (t : Thread) {n m : Nat} {x : Word} (hn : n ≠ 63)
include hn

theorem Thread.setV_v : (t.setV n x).v = Tab.put 0 t.v n x := by
  unfold Thread.setV
  rw [if_neg hn]

theorem Thread.vr_setV_same (h : x ≠ 0 ∨ Tab.wf 0 t.v = true) : (t.setV n x).vr n = x := by
  unfold Thread.vr
  rw [if_neg hn, t.setV_v hn, Tab.read_put_of h]

theorem Thread.vr_setV_other (h : m ≠ n) : (t.setV n x).vr m = t.vr m := by
  unfold Thread.vr
  rw [t.setV_v hn, Tab.read_put_other _ _ _ _ _ h]

theorem Thread.wf_setV (h : Tab.wf 0 t.v = true) : Tab.wf 0 (t.setV n x).v = true := by
  rw [t.setV_v hn]
  exact Tab.wf_put n x h

end Vector

@[simp] theorem Thread.pr_setV (t : Thread) (n k : Nat) (x : Word) : (t.setV n x).pr k = t.pr k := by
  unfold Thread.pr
  rw [Thread.setV_p]

/-! ### Scalar registers -/

section Scalar

variable (c : Cohort) {n m : Nat} {x : Dword} (hn : n ≠ 63)
include hn

theorem Cohort.setS_s : (c.setS n x).s = Tab.put 0 c.s n x := by
  unfold Cohort.setS
  rw [if_neg hn]

theorem Cohort.sr_setS_same (h : x ≠ 0 ∨ Tab.wf 0 c.s = true) : (c.setS n x).sr n = x := by
  unfold Cohort.sr
  rw [if_neg hn, c.setS_s hn, Tab.read_put_of h]

theorem Cohort.sr_setS_other (h : m ≠ n) : (c.setS n x).sr m = c.sr m := by
  unfold Cohort.sr
  rw [c.setS_s hn, Tab.read_put_other _ _ _ _ _ h]

theorem Cohort.wf_setS (h : Tab.wf 0 c.s = true) : Tab.wf 0 (c.setS n x).s = true := by
  rw [c.setS_s hn]
  exact Tab.wf_put n x h

end Scalar

/-! ### Predicates -/

/-- The one-bit mask of a predicate. -/
theorem getLsbD_one_shiftLeft {n m : Nat} (hm : m < 7) : (1#7 <<< n).getLsbD m = decide (m = n) := by
  simp only [BitVec.getLsbD_shiftLeft, BitVec.getLsbD_one, hm, decide_true, Bool.true_and]
  by_cases h : m < n
  · simp [h, Nat.ne_of_lt h]
  · simp only [h, decide_false, Bool.not_false, Bool.true_and]
    exact decide_eq_decide.mpr (by omega)

theorem Thread.setP_p (t : Thread) {n m : Nat} (b : Bool) (hn : n < 7) (hm : m < 7) :
    (t.setP n b).p.getLsbD m = if m = n then b else t.p.getLsbD m := by
  unfold Thread.setP
  rw [if_neg (Nat.ne_of_lt hn)]
  cases b with
  | false =>
    show (t.p &&& ~~~(1#7 <<< n)).getLsbD m = _
    rw [BitVec.getLsbD_and, BitVec.getLsbD_not, getLsbD_one_shiftLeft hm]
    by_cases h : m = n <;> simp only [h, hm, hn, decide_true, decide_false, Bool.not_true, Bool.not_false, Bool.and_false,
      Bool.and_true, if_true, if_false]
  | true =>
    show (t.p ||| 1#7 <<< n).getLsbD m = _
    rw [BitVec.getLsbD_or, getLsbD_one_shiftLeft hm]
    by_cases h : m = n <;> simp only [h, decide_true, decide_false, Bool.or_true, Bool.or_false, if_true, if_false]

theorem Thread.pr_setP_same (t : Thread) {n : Nat} (b : Bool) (hn : n < 7) : (t.setP n b).pr n = b := by
  unfold Thread.pr
  rw [if_neg (Nat.ne_of_lt hn), t.setP_p b hn hn, if_pos rfl]

theorem Thread.pr_setP_other (t : Thread) {n m : Nat} (b : Bool) (hn : n < 7) (hm : m < 8) (h : m ≠ n) :
    (t.setP n b).pr m = t.pr m := by
  by_cases h7 : m = 7
  · subst h7; rfl
  · unfold Thread.pr
    rw [if_neg h7, if_neg h7, t.setP_p b hn (by omega), if_neg h]

@[simp] theorem Thread.vr_setP (t : Thread) (n k : Nat) (b : Bool) : (t.setP n b).vr k = t.vr k := by
  unfold Thread.vr
  rw [Thread.setP_v]

/-! ### O57 -/

/-- Settles O57, register file by register file. -/
theorem hardWired : Obligations.HardWired := by
  unfold Obligations.HardWired
  refine ⟨fun t x b => ⟨t.vr_63, t.setV_63 x, t.pr_7, t.setP_7 b⟩, fun c x => ⟨c.sr_63, c.setS_63 x⟩,
    fun t n m x hn => ⟨t.vr_setV_same hn, t.wf_setV hn, t.vr_setV_other hn, fun k => t.pr_setV n k x⟩,
    fun c n m x hn => ⟨c.sr_setS_same hn, c.wf_setS hn, c.sr_setS_other hn⟩,
    fun t n m b hn hm => ⟨t.pr_setP_same b hn, t.pr_setP_other b hn hm, fun k => t.vr_setP n k b⟩⟩

end Sys2Proof.Machine
end

section
/-!
PROOFS. DecodedWords: the words that the spec works out (O55), by the round trip of their instructions.
-/

namespace Sys2Proof

/-- Words that are the encoding of a well-formed form decode to it, with no word left over. -/
theorem decode_words {i : Instr} {ws : List Word} (he : ws = encode i) (hw : i.wellFormed = true)
    (hr : ∀ d a, i ≠ .freplyReject d a) : decode ws = .ok (i, []) := by
  have h := decode_encode hw hr []
  rwa [List.append_nil, ← he] at h

/-- Settles O55: each word is the encoding of its instruction. -/
theorem decodedWords : Obligations.DecodedWords := by
  unfold Obligations.DecodedWords
  refine ⟨?_, decode_words rfl rfl nofun⟩
  simp only [List.forall_mem_cons, List.not_mem_nil, false_imp_iff, implies_true, and_true]
  and_intros <;> exact decode_words rfl rfl nofun

end Sys2Proof
end

section
/-!
PROOFS. Special: rdsp, wrsp, rdcnt and mark (O22).
-/

namespace Sys2Proof.Machine

/-! ### Performing, up to what a state is seen to hold -/

/-- What an instruction performs may be said of any effect that gives the same cohorts by key and the same state besides. -/
theorem performs_congr {i : Instr} {s : State} {c : Cohort} {e e' : State → State}
    (hs : e s.unheld = { e' s.unheld with cohorts := (e s.unheld).cohorts })
    (hc : ∀ j, (e s.unheld).cohort j = (e' s.unheld).cohort j) (h : Performs i s c e') : Performs i s c e := by
  obtain ⟨t, hx, ⟨ht, hj, hn⟩, a, b, ha, hb, hf⟩ := h
  have hk := fun j (u : State) => u.cohort_onCohort c.key j (fun c => c.passes (encode i).length) fun c => c.key_passes _
  refine ⟨t, hx, ⟨?_, fun j h => ?_, fun n => ?_⟩, a, b, ?_, hb, hf⟩
  · rw [ht, hs]; rfl
  · rw [hj j h, hk, hk, if_neg h, if_neg h, hc]
  · have := hn n
    rw [hs]
    exact this
  · rw [hk, if_pos rfl, hc, ← ha, hk, if_pos rfl]

/-- An instruction that acts on its cohort alone under the cohort's guard. -/
theorem completes_guarded {i : Instr} {n : Info} {s : State} {c : Cohort} {g : Nat} {body : Cohort → State → Res}
    {f : Cohort → Cohort} (he : exec i s = issue n s body) (hn : n.len = (encode i).length) (hf : ∀ c, (f c).key = c.key)
    (h : Issues s n c) (ht : c.guard g = true → body c s.unheld = .done (s.unheld.onCohort c.key f))
    (hu : c.guard g = false → body c s.unheld = .done s.unheld) : Completes i s c fun c => if c.guard g then f c else c := by
  cases hg : c.guard g with
  | true => exact completes_congr (by simp only [hg, if_true]) (completes_of he hn hf h (ht hg))
  | false => exact completes_congr (by simp only [hg, Bool.false_eq_true, if_false, id]) (completes_id he hn h (hu hg))

/-! ### Which indices are which (02 R56) -/

theorem spIsScalar_vector {x : Nat} (h : spIsVector x = true) : spIsScalar x = false := by
  simp only [spIsVector, spIsScalar, Bool.or_eq_true, Bool.and_eq_true, beq_iff_eq, decide_eq_true_eq,
    Bool.and_eq_false_iff, decide_eq_false_iff_not, bne_eq_false_iff_eq] at h ⊢
  omega

/-- The vector registers that wrsp may write, all but %lr in trap mode. -/
theorem mem_of_spWritable {x : Nat} {tm : Bool} (hv : spIsVector x = true) (hw : spWritable x tm = true) :
    x ∈ [32, 34, 35, 36, 37] ∧ (x ≠ 32 → tm = true) := by
  simp only [spIsVector, spWritable, Bool.or_eq_true, Bool.and_eq_true, beq_iff_eq, decide_eq_true_eq, List.mem_cons,
    List.not_mem_nil, or_false] at hv hw ⊢
  refine ⟨by omega, fun hx => ?_⟩
  rcases hw with ((hw | hw) | hw) | ⟨⟨ht, -⟩, -⟩
  · omega
  · omega
  · exact absurd hw hx
  · exact ht

/-- Of these, all but %tcause are pairs. -/
theorem spPair_of_mem {x : Nat} (hm : x ∈ [32, 34, 35, 36, 37]) (hx : x ≠ 36) : spPair x = true := by
  simp only [List.mem_cons, List.not_mem_nil, or_false] at hm
  rcases hm with rfl | rfl | rfl | rfl | rfl
  · rfl
  · rfl
  · rfl
  · exact absurd rfl hx
  · rfl

/-- Only %fpst and %mstat wait. -/
theorem Cohort.spWaits_of_ne {x : Nat} (c : Cohort) (h1 : x ≠ 11) (h2 : x ≠ 12) : c.spWaits x = false := by
  simp [Cohort.spWaits, h1, h2]

theorem Cohort.spWaits_11 (c : Cohort) : c.spWaits 11 = c.ops.any (·.sfu) := by simp [Cohort.spWaits]

theorem Cohort.spWaits_12 (c : Cohort) : c.spWaits 12 = c.ops.any fun o => decide (o.cls = .mtx) := by simp [Cohort.spWaits]

/-- A vector index is none that waits. -/
theorem Cohort.spWaits_vector {x : Nat} (c : Cohort) (h : spIsVector x = true) : c.spWaits x = false := by
  refine c.spWaits_of_ne ?_ ?_ <;> rintro rfl <;> exact absurd h (by decide)

/-! ### rdsp -/

section Rdsp

variable {s : State} {c : Cohort} {d x g : Nat}

/-- A scalar read under a true guard, of a register other than %gw. -/
theorem rdsp_scalar (h : Issues s (infoRdsp 14 12 d true x g) c) (hx : spIsScalar x = true) (hw : c.spWaits x = false)
    (hg : c.guard g = true) (h0 : x ≠ 0) :
    Completes (.rdsp d true x g) s c fun c => c.setS d ((s.spScalar c x).getD 0) := by
  refine completes_congr (f := fun e => e.setS d ((s.unheld.spScalar c x).getD 0)) rfl
    (completes_of rfl rfl (fun e => e.key_setS _ _) h ?_)
  simp only [hx, hw, h0, infoRdsp, hg, bne_self_eq_false, Bool.not_true, Bool.false_and, Bool.or_self, Bool.false_eq_true,
    if_true, if_false]

theorem rdsp_gw (h : Issues s (infoRdsp 14 12 d true 0 g) c) (hg : c.guard g = true) :
    Performs (.rdsp d true 0 g) s c fun s =>
      (s.onCrew c.crew fun cr => { cr with lastGrant := cr.gw }).onCohort c.key fun c =>
        c.setS d (BitVec.ofNat 64 (s.crewOf c).gw) := by
  have hc := State.cohort_of_issuer h.1
  have hf : ∀ u : State, (u.onCrew c.crew fun cr => { cr with lastGrant := cr.gw }).cohort c.key = u.cohort c.key := fun _ => rfl
  refine performs_congr (e' := fun u => (u.onCrew c.crew fun cr => { cr with lastGrant := cr.gw }).onCohort c.key fun e =>
    e.setS d (BitVec.ofNat 64 (s.crewOf c).gw)) rfl (fun j => ?_)
    (performs_of (d := c.setS d (BitVec.ofNat 64 (s.crewOf c).gw)) rfl rfl h ?_ ?_)
  · rw [State.cohort_onCohort _ _ _ _ (fun e => e.key_setS _ _), State.cohort_onCohort _ _ _ _ (fun e => e.key_setS _ _), hf]
    show (if j = c.key then (s.cohort c.key).map _ else _) = if j = c.key then (s.cohort c.key).map _ else _
    rw [hc]; rfl
  · simp only [infoRdsp, hg]; rfl
  · rw [State.cohort_onCohort _ _ _ _ (fun e => e.key_setS _ _), if_pos rfl, hf]
    exact congrArg (Option.map _) hc

theorem rdsp_unguarded (h : Issues s (infoRdsp 14 12 d true x g) c) (hx : spIsScalar x = true) (hw : c.spWaits x = false)
    (hg : c.guard g = false) : Completes (.rdsp d true x g) s c id := by
  refine completes_id rfl rfl h ?_
  simp only [hx, hw, infoRdsp, hg, bne_self_eq_false, Bool.not_true, Bool.false_and, Bool.or_self, Bool.false_eq_true,
    Bool.not_false, if_true, if_false]

theorem rdsp_scalar_illegal (h : Issues s (infoRdsp 14 12 d true x g) c) (hx : spIsScalar x = false) :
    Raises (.rdsp d true x g) s c (c.every 1 0 (asmA 14 d 0 x 1 g 12).toNat) := by
  refine raises_of rfl h ?_
  simp only [hx, Bool.bne_false, Bool.true_or, if_true]; rfl

theorem rdsp_waits (h : Issues s (infoRdsp 14 12 d true x g) c) (hx : spIsScalar x = true) (hw : c.spWaits x = true) :
    exec (.rdsp d true x g) s = .next s.unheld.stall := by
  refine holds_of rfl h ?_
  simp only [hx, hw, bne_self_eq_false, Bool.not_true, Bool.false_and, Bool.or_self, Bool.false_eq_true, if_true, if_false]

/-- A pair named by an even register below v62 is in order. -/
theorem pair_fits (hp : spPair x = false ∨ (d % 2 = 0 ∧ d + 2 ≤ 63)) :
    (spPair x && (d % 2 != 0 || decide (63 < d + 2))) = false := by
  rcases hp with hp | ⟨h1, h2⟩
  · rw [hp, Bool.false_and]
  · simp [h1, Nat.not_lt.mpr h2]

theorem pair_misfits (hp : ¬ (spPair x = false ∨ (d % 2 = 0 ∧ d + 2 ≤ 63))) :
    (spPair x && (d % 2 != 0 || decide (63 < d + 2))) = true := by
  obtain ⟨h1, h2⟩ := not_or.mp hp
  simp only [Bool.not_eq_false] at h1
  simp only [h1, Bool.true_and, Bool.or_eq_true, bne_iff_ne, decide_eq_true_eq]
  omega

theorem rdsp_vector (h : Issues s (infoRdsp 14 12 d false x g) c) (hx : spIsVector x = true)
    (hp : spPair x = false ∨ (d % 2 = 0 ∧ d + 2 ≤ 63)) :
    Completes (.rdsp d false x g) s c fun c => c.mapT (·.acts g) fun t =>
      if spPair x then t.setPair d ((t.spVector x).getD 0) else t.setV d (((t.spVector x).getD 0).truncate 32) := by
  refine completes_of rfl rfl (fun _ => rfl) h ?_
  simp only [hx, spIsScalar_vector hx, c.spWaits_vector hx, pair_fits hp, bne_self_eq_false, Bool.not_true, Bool.and_false,
    Bool.or_self, Bool.false_eq_true, if_false, infoRdsp]

theorem rdsp_vector_illegal (h : Issues s (infoRdsp 14 12 d false x g) c)
    (hx : spIsVector x = false ∨ ¬ (spPair x = false ∨ (d % 2 = 0 ∧ d + 2 ≤ 63))) :
    Raises (.rdsp d false x g) s c (c.every 1 0 (asmA 14 d 0 x 0 g 12).toNat) := by
  refine raises_of rfl h (if_pos ?_)
  rcases hx with hx | hp
  · simp only [hx, Bool.not_false, Bool.true_or, Bool.and_self, Bool.or_true]
  · simp only [pair_misfits hp, Bool.not_false, Bool.or_true, Bool.and_self]

end Rdsp

/-! ### wrsp -/

section Wrsp

variable {s : State} {c : Cohort} {x n g : Nat} {a : VSrc}

/-- A source that is no vector register may name %fpst and %mstat alone. -/
theorem wrsp_scalar_illegal (ha : ∀ n, a ≠ .v n) (h1 : x ≠ 11) (h2 : x ≠ 12) (h : Issues s (infoWrsp 14 13 x a g) c) :
    Raises (.wrsp x a g) s c (c.every 1 0 ((infoWrsp 14 13 x a g).words.headD 0).toNat) := by
  refine raises_of rfl h (if_pos ?_)
  have hw : (!spIsScalar x || !spWritable x c.tmode) = true := by
    simp only [spIsScalar, spWritable, Bool.or_eq_true, Bool.not_eq_true', Bool.and_eq_false_iff, Bool.or_eq_false_iff,
      decide_eq_false_iff_not, beq_eq_false_iff_ne]
    omega
  cases a with
  | v n => exact absurd rfl (ha n)
  | s n => exact hw
  | lit w => exact hw

theorem wrsp_fpst (ha : ∀ n, a ≠ .v n) (h : Issues s (infoWrsp 14 13 11 a g) c) (hw : c.ops.any (·.sfu) = false) :
    Completes (.wrsp 11 a g) s c fun c => if c.guard g then { c with fpst := a.sval c &&& 0x3F } else c := by
  rw [← c.spWaits_11] at hw
  refine completes_congr (f := fun e => if e.guard g then { e with fpst := a.sval c &&& 0x3F } else e) rfl
    (completes_guarded rfl rfl (fun _ => rfl) h (fun hg => ?_) fun hg => ?_)
  all_goals
    cases a with
    | v n => exact absurd rfl (ha n)
    | s n => simp only [infoWrsp, hg, hw]; rfl
    | lit w => simp only [infoWrsp, hg, hw]; rfl

theorem wrsp_fpst_waits (ha : ∀ n, a ≠ .v n) (h : Issues s (infoWrsp 14 13 11 a g) c) (hw : c.ops.any (·.sfu) = true) :
    exec (.wrsp 11 a g) s = .next s.unheld.stall := by
  rw [← c.spWaits_11] at hw
  refine holds_of rfl h ?_
  cases a with
  | v n => exact absurd rfl (ha n)
  | s n => simp only [hw]; rfl
  | lit w => simp only [hw]; rfl

theorem wrsp_mstat (ha : ∀ n, a ≠ .v n) (h : Issues s (infoWrsp 14 13 12 a g) c)
    (hw : (c.ops.any fun o => decide (o.cls = .mtx)) = false) :
    Completes (.wrsp 12 a g) s c fun c => if c.guard g then { c with mstat := a.sval c &&& 7 } else c := by
  rw [← c.spWaits_12] at hw
  refine completes_congr (f := fun e => if e.guard g then { e with mstat := a.sval c &&& 7 } else e) rfl
    (completes_guarded rfl rfl (fun _ => rfl) h (fun hg => ?_) fun hg => ?_)
  all_goals
    cases a with
    | v n => exact absurd rfl (ha n)
    | s n => simp only [infoWrsp, hg, hw]; rfl
    | lit w => simp only [infoWrsp, hg, hw]; rfl

theorem wrsp_mstat_waits (ha : ∀ n, a ≠ .v n) (h : Issues s (infoWrsp 14 13 12 a g) c)
    (hw : (c.ops.any fun o => decide (o.cls = .mtx)) = true) : exec (.wrsp 12 a g) s = .next s.unheld.stall := by
  rw [← c.spWaits_12] at hw
  refine holds_of rfl h ?_
  cases a with
  | v n => exact absurd rfl (ha n)
  | s n => simp only [hw]; rfl
  | lit w => simp only [hw]; rfl

/-- A vector register reaches %tcause whole, but for the reserved bits. -/
theorem Thread.spWrite_tcause (t : Thread) (v : Word) :
    t.spWrite 36 (v.zeroExtend 64) = { t with tcause := v &&& 0x07FFFFFF } := by
  have e : (v.zeroExtend 64).truncate 32 = v := by simp
  show ({ t with tcause := (v.zeroExtend 64).truncate 32 &&& 0x07FFFFFF } : Thread) = _
  rw [e]

/-- A vector source writes a trap register of its kind, or %lr, in the acting lanes. -/
theorem wrsp_vector (h : Issues s (infoWrsp 14 13 x (.v n) g) c) (hv : spIsVector x = true)
    (hp : spPair x = false ∨ (n % 2 = 0 ∧ n + 2 ≤ 63)) (hw : spWritable x c.tmode = true) :
    Completes (.wrsp x (.v n) g) s c fun c => c.mapT (·.acts g) fun t =>
      t.spWrite x (if spPair x then t.vPair n else (t.vr n).zeroExtend 64) := by
  refine completes_of rfl rfl (fun _ => rfl) h ?_
  have hok : (!spPair x || n % 2 == 0 && decide (n + 2 ≤ 63)) = true := by
    rcases hp with hp | ⟨h1, h2⟩
    · rw [hp]; rfl
    · simp [h1, h2]
  simp only [hv, hok, hw, c.spWaits_vector hv, Bool.and_self, Bool.not_true, Bool.or_self, Bool.false_eq_true, if_false,
    infoWrsp]

theorem wrsp_vector_illegal (h : Issues s (infoWrsp 14 13 x (.v n) g) c)
    (hx : x ∉ [32, 34, 35, 36, 37] ∨ (x ≠ 36 ∧ ¬ (n % 2 = 0 ∧ n + 2 ≤ 63)) ∨ (x ≠ 32 ∧ c.tmode = false)) :
    Raises (.wrsp x (.v n) g) s c (c.every 1 0 ((infoWrsp 14 13 x (.v n) g).words.headD 0).toNat) := by
  refine raises_of rfl h (if_pos ?_)
  by_contra hn
  rw [Bool.not_eq_true] at hn
  simp only [Bool.or_eq_false_iff, Bool.not_eq_false', Bool.and_eq_true, Bool.or_eq_true,
    Bool.not_eq_true', beq_iff_eq, decide_eq_true_eq] at hn
  obtain ⟨⟨hv, hp⟩, hw⟩ := hn
  obtain ⟨hm, ht⟩ := mem_of_spWritable hv hw
  rcases hx with hx | ⟨hx, he⟩ | ⟨hx, hf⟩
  · exact hx hm
  · rcases hp with hp | hp
    · rw [spPair_of_mem hm hx] at hp
      exact Bool.noConfusion hp
    · exact he hp
  · rw [ht hx] at hf
    exact Bool.noConfusion hf

end Wrsp

/-! ### rdcnt and mark -/

section Counters

variable {s : State} {c : Cohort} {d n g : Nat}

theorem rdcnt_reads (h : Issues s (infoRdcnt 62 1 d n g) c) {v : Nat} (hv : s.counter c n = some v) :
    Completes (.rdcnt d n g) s c fun c => if c.guard g then c.setS d (BitVec.ofNat 64 v) else c := by
  have hv' : s.unheld.counter c n = some v := hv
  refine completes_guarded rfl rfl (fun e => e.key_setS _ _) h (fun hg => ?_) fun hg => ?_
  · simp only [hv', infoRdcnt, hg, if_true]
  · simp only [hv', infoRdcnt, hg, Bool.false_eq_true, if_false]

theorem rdcnt_illegal (h : Issues s (infoRdcnt 62 1 d n g) c) (hv : s.counter c n = none) :
    Raises (.rdcnt d n g) s c (c.every 1 0 ((infoRdcnt 62 1 d n g).words.headD 0).toNat) := by
  have hv' : s.unheld.counter c n = none := hv
  refine raises_of rfl h ?_
  simp only [hv']; rfl

theorem mark_counts (h : Issues s (infoNum 62 2 n g) c) : Performs (.mark n g) s c fun s =>
    if c.guard g then s.countPm (s.focus / 8) (s.focus / 2 % 4) 10 1 n else s := by
  refine performs_of (d := c) rfl rfl h rfl ?_
  have hc : s.unheld.cohort c.key = some c := State.cohort_of_issuer h.1
  show State.cohort (if c.guard g then _ else _) _ = _
  split
  · rw [State.cohort_countPm]; exact hc
  · exact hc

end Counters

/-! ### O22 -/

/-- Settles O22, instruction by instruction. -/
theorem specialRegisters : Obligations.SpecialRegisters := by
  unfold Obligations.SpecialRegisters
  refine ⟨fun s c d x g h => ⟨rdsp_scalar h, ?_, rdsp_unguarded h, rdsp_scalar_illegal h, rdsp_waits h⟩,
    fun s c d x g h => ⟨rdsp_vector h, rdsp_vector_illegal h⟩,
    fun s c a g ha => ⟨fun h => ⟨wrsp_fpst ha h, wrsp_fpst_waits ha h⟩, fun h => ⟨wrsp_mstat ha h, wrsp_mstat_waits ha h⟩,
      fun x h1 h2 h => wrsp_scalar_illegal ha h1 h2 h⟩,
    fun s c n x g h => ⟨?_, ?_, wrsp_vector_illegal h⟩,
    fun s c d n g h => ⟨fun v hv => rdcnt_reads h hv, rdcnt_illegal h⟩,
    fun s c n g h => mark_counts h⟩
  · rintro rfl hg
    exact rdsp_gw h hg
  · rintro rfl he
    exact wrsp_vector h rfl (.inr he) rfl
  · intro ht
    have hw : ∀ x, 34 ≤ x → x ≤ 37 → spWritable x c.tmode = true := fun x h1 h2 => by simp [spWritable, ht, h1, h2]
    refine ⟨?_, ?_, ?_, ?_⟩
    · rintro rfl he
      exact wrsp_vector h rfl (.inr he) (hw _ (by decide) (by decide))
    · rintro rfl he
      exact wrsp_vector h rfl (.inr he) (hw _ (by decide) (by decide))
    · rintro rfl
      refine completes_congr ?_ (wrsp_vector h rfl (.inl rfl) (hw _ (by decide) (by decide)))
      exact congrArg (c.mapT (·.acts g)) (funext fun t => t.spWrite_tcause (t.vr n))
    · rintro rfl he
      exact wrsp_vector h rfl (.inr he) (hw _ (by decide) (by decide))

end Sys2Proof.Machine
end
section
/-!
PROOFS. The step of every state answers a next state (O59): a word runs in the frame of `issue`, which answers for every cohort, an
event is a state update, and the sequencer issues words where a cohort is under way and chooses events elsewhere.
-/

namespace Sys2Proof.Machine

/-- The frame of an encoded instruction: registers outside the budget, the interlocks, or the word acts. -/
theorem issue_next_of_issuer {i : Info} {s : State} {c : Cohort} {body : Cohort → State → Res} (h : s.issuer = some c) :
    ∃ t, issue i s body = .next t := by
  simp only [issue, h]
  split
  · exact ⟨_, rfl⟩
  · split
    · exact ⟨_, rfl⟩
    · exact ⟨_, rfl⟩

/-- Every instruction with an encoding runs in the frame of `issue`; every other one is an event, which answers a next state. -/
theorem exec_issue_or_event (i : Instr) (s : State) :
    (encode i ≠ [] ∧ ∃ info body, exec i s = issue info s body) ∨ ∃ t, exec i s = .next t := by
  cases i with
  | binFormation | autoFlush | faultRecordPost | loadDataReturn | longLatencyCompletion | acknowledgement | homeRequest
  | requestReplay | translationWalk | impreciseReportArrival | patrolScrub | dramRefresh | arithmeticClockCycle
  | copyGranule | copyBatchComplete | copyRingAdvance | queueWaiterRetry | channelDelivery | creditPacket | mtxCompletion
  | tileBind | slotClaim | matrixStartAdmission | admissionWindow | verdict | resolutionArrival | commit
  | historyCopyComplete | cohortRetire | wreqGrant | storeEntryGrant | idleCoreRequest | crewPlacement | coreHalted | swap
  | longWaitSwapOut | crewReturn | migrationRequest | migrationWithdraw | saveStep | migrationRecord | restoreStep | rayEnd
  | drawTake | drawEnd | collectiveComplete | queuePairFatalError | congestionNotification | onDiePathFailure
  | emulationReturn | rdmaWrite | rdmaRead | ringKick | launchPacket | cancelPacket | packetReread | resetKick
  | completionRecord | connectionOpen | attestationRequest | recoveryImage | powerOnReset | clusterRelease | thermalChange
  | runStart | clauseIssue | icacheFill => exact .inr ⟨_, rfl⟩
  | _ => exact .inl ⟨List.cons_ne_nil _ _, _, _, rfl⟩

theorem exec_next_of_issuer {s : State} {c : Cohort} (h : s.issuer = some c) (i : Instr) : ∃ t, exec i s = .next t := by
  obtain ⟨-, info, body, he⟩ | hev := exec_issue_or_event i s
  · rw [he]
    exact issue_next_of_issuer h
  · exact hev

theorem exec_next_of_event {i : Instr} (h : encode i = []) (s : State) : ∃ t, exec i s = .next t :=
  (exec_issue_or_event i s).resolve_left fun hw => hw.1 h

theorem State.issueWord_next {s : State} {c : Cohort} (h : s.issuer = some c) : ∃ t, s.issueWord c = .next t := by
  cases hd : decode c.fetched with
  | ok p =>
    rw [State.issueWord_decoded hd]
    exact exec_next_of_issuer h p.1
  | error e => exact ⟨s.illegalWord c, by simp only [State.issueWord, hd]⟩

/-- The sequencer fills the instruction cache, chooses a run or begins a clause. -/
theorem State.sequence_next (s : State) : ∃ t, s.sequence = .next t := by
  unfold State.sequence
  split
  · exact exec_next_of_event rfl s
  · split
    · exact exec_next_of_event rfl s
    · exact exec_next_of_event rfl s

theorem State.issue_next (s : State) : ∃ t, s.issue = .next t := by
  unfold State.issue
  split
  case h_1 c h => exact State.issueWord_next h
  case h_2 => exact s.sequence_next

theorem State.idle_next (s : State) : ∃ t, s.idle = .next t := by
  simp only [State.idle]
  split
  · exact ⟨_, rfl⟩
  · split
    · exact ⟨_, rfl⟩
    · exact ⟨_, rfl⟩

theorem State.default_next (s : State) : ∃ t, s.default = .next t := by
  obtain ⟨u, hu⟩ := s.sequence_next
  simp only [State.default, hu]
  split
  · exact s.idle_next
  · split
    case h_1 c h => exact State.issueWord_next h
    case h_2 =>
      split
      · exact s.idle_next
      · exact ⟨_, rfl⟩

/-- A chosen move: an event, an issue, or a state update of firmware or of an arrival. -/
theorem State.move_next (s : State) (m : Move) : ∃ t, s.move m = .next t := by
  cases m with
  | event i =>
    simp only [State.move]
    split
    case isTrue h => exact exec_next_of_event h s
    case isFalse => exact ⟨s, rfl⟩
  | issue core sub port => exact State.issue_next _
  | firmware f => exact ⟨_, rfl⟩
  | message m => exact ⟨_, rfl⟩
  | contribution p => exact ⟨_, rfl⟩

/-- Settles O59: the frame of `issue` answers for every issuing cohort, events are state updates, and the scheduler only issues where
a cohort is under way. -/
theorem stepTotal : Obligations.StepTotal := by
  unfold Obligations.StepTotal
  intro s
  cases h : s.agenda with
  | nil =>
    rw [step_default h]
    exact s.default_next
  | cons m ms =>
    rw [step_chosen h]
    exact State.move_next _ m

end Sys2Proof.Machine
end
section
/-!
PROOFS. The issue of the MTX operations (O39): what the shared operation `mtx` answers, what joining the stream leaves, and one
row of checks and operands for each operation.
-/

namespace Sys2Proof.Machine

/-! ### The first check that fails -/

/-- The first row whose condition holds (a row: a condition, a cause and its %tinfo). -/
def FirstFail (l : List (Prop × Nat × Nat)) (x : Prop × Nat × Nat) : Prop :=
  ∃ j : Nat, l[j]? = some x ∧ x.1 ∧ ∀ i y, i < j → l[i]? = some y → ¬ y.1

/-- A check answers the cause of the first row that fails, and nothing where none does. -/
def Checks (l : List (Prop × Nat × Nat)) (r : Option (Nat × Nat)) : Prop :=
  (∀ x, FirstFail l x → r = some x.2) ∧ ((∀ x ∈ l, ¬ x.1) → r = none)

theorem checks_nil : Checks [] none :=
  ⟨fun _ ⟨_, hj, _⟩ => absurd hj (by simp), fun _ => rfl⟩

theorem firstFail_cons {y x : Prop × Nat × Nat} {l : List (Prop × Nat × Nat)} (h : FirstFail (y :: l) x) :
    x = y ∧ y.1 ∨ ¬ y.1 ∧ FirstFail l x := by
  obtain ⟨j, hj, hx, hbefore⟩ := h
  cases j with
  | zero =>
    obtain rfl : y = x := by simpa using hj
    exact .inl ⟨rfl, hx⟩
  | succ j =>
    exact .inr ⟨hbefore 0 y (Nat.succ_pos j) rfl, j, hj, hx, fun i z hi hz => hbefore (i + 1) z (Nat.succ_lt_succ hi) hz⟩

theorem checks_cons {p q : Prop} [Decidable q] {a : Nat × Nat} {l : List (Prop × Nat × Nat)} {r : Option (Nat × Nat)}
    (hpq : p ↔ q) (h : Checks l r) : Checks ((p, a) :: l) (if q then some a else r) := by
  refine ⟨fun x hx => ?_, fun hfine => ?_⟩
  · obtain ⟨rfl, hp⟩ | ⟨hp, hx⟩ := firstFail_cons hx
    · exact if_pos (hpq.mp hp)
    · rw [if_neg (mt hpq.mpr hp)]
      exact h.1 x hx
  · rw [if_neg (mt hpq.mpr (hfine (p, a) (List.mem_cons_self ..)))]
    exact h.2 fun x hx => hfine x (List.mem_cons_of_mem _ hx)

/-- ALIGN of the base and of the stride, then RANGE. -/
theorem checks_rowsFault (c : Cohort) (cr : Crew) (sub xa xb : Nat) (imm : BitVec 20) (rows bytes al : Nat) :
    let a := xbase c xa imm
    let d := if rows = 1 then 0 else xstride c xb
    Checks [(a % (al : Int) ≠ 0, 4, opInfo (BitVec.ofInt 64 a) sub 1),
      (d % al ≠ 0, 4, opInfo (BitVec.ofInt 64 (d : Int)) sub 2),
      (a < 0 ∨ (cr.ssize : Int) < a + ((rows - 1) * d + bytes : Nat), 7, opInfo (BitVec.ofInt 64 a) sub 1)]
      (rowsFault c cr sub xa xb imm rows bytes al) :=
  checks_cons .rfl (checks_cons .rfl (checks_cons .rfl checks_nil))

/-! ### What `mtx` answers -/

/-- The meaning of instruction `w` answers `r` to the issuing cohort. -/
def Answers (w : Instr) (i : Info) (s : State) (c : Cohort) (r : Res) : Prop :=
  ∃ body, exec w s = issue i s body ∧ body c s.unheld = r

theorem Answers.raisesIn {w : Instr} {i : Info} {s u : State} {c : Cohort} {l : List LCause} (ha : Answers w i s c (.faultIn u l))
    (h : Issues s i c) : exec w s = .next (u.takeFault c.key (·.act) c.pc c.pc l) := by
  obtain ⟨body, he, hb⟩ := ha
  rw [he, issue_eq h body, hb]
  rfl

theorem Answers.raises {w : Instr} {i : Info} {s : State} {c : Cohort} {l : List LCause} (ha : Answers w i s c (.fault l))
    (h : Issues s i c) : Raises w s c l :=
  let ⟨_, he, hb⟩ := ha
  raises_of he h hb

theorem Answers.holds {w : Instr} {i : Info} {s : State} {c : Cohort} (ha : Answers w i s c .hold) (h : Issues s i c) :
    exec w s = .next s.unheld.stall :=
  let ⟨_, he, hb⟩ := ha
  holds_of he h hb

/-- The state in which a complete signature issues. -/
def State.gathered (s : State) (c : Cohort) (cv : Nat) : State := s.unheld.onCohort c.key fun c => c.gather cv

/-- The threads that have signed and issue together pass the word and leave the port. -/
def Cohort.passesOff (c : Cohort) (n : Nat) : Cohort :=
  c.mapT (·.act) fun t => { t with act := false, pc := BitVec.ofNat 64 (t.pc.toNat + 4 * n) }

/-- What the threads of cohort `d` that issue together in state `u` answer: the hold of a full counter, the first failing check `r`,
poison, or a place in the stream. -/
def State.mtxAnswer (u : State) (d : Cohort) (i : Info) (r : Option (Nat × Nat)) (k : MtxKind) (signed : Bool) : Res :=
  if 63 ≤ d.count .mtx then .hold
  else match r with
  | some (code, info) => .faultIn u (d.every code 0 info)
  | none =>
    match d.badRegs i ++ (match u.mtxPoison d d.stream k with
      | some info => d.every 12 0 info
      | none => []) with
    | l :: ls => .faultIn u (l :: ls)
    | [] =>
      if signed then .moved ((u.joinStream d i k).onCohort d.key (·.passesOff i.len)) (endRun := false)
      else .done (u.joinStream d i k)

section
variable {i : Info} {sub cv : Nat} {s : State} {c : Cohort} {check : Cohort → State → Option (Nat × Nat)}
  {kind : Cohort → State → MtxKind}

theorem State.cohort_gathered (hc : s.cohort c.key = some c) : (s.gathered c cv).cohort c.key = some (c.gather cv) := by
  have hu : s.unheld.cohort c.key = some c := hc
  unfold State.gathered
  rw [State.cohort_onCohort _ _ _ (fun c => c.gather cv) (fun _ => rfl), if_pos rfl, hu]
  rfl

/-- `mtx` where no protected word holds an error: it raises CONV, signs, or the threads that stand at the word issue together. -/
theorem mtx_issue (hc : s.cohort c.key = some c) (hl : s.latent = []) :
    ∃ body, mtx i sub cv s check kind = issue i s body ∧ body c s.unheld =
      if cv = 7 then
        if c.live.length ≠ c.actives.length then c.conv 7 sub 42
        else s.unheld.mtxAnswer c i (check c s.unheld) (kind c s.unheld) false
      else if (c.sig cv).any fun g => g.pc != BitVec.ofNat 64 c.pc then c.conv cv sub 42
      else if c.live.all (signsWith cv) then
        (s.gathered c cv).mtxAnswer (c.gather cv) i (check (c.gather cv) (s.gathered c cv))
          (kind (c.gather cv) (s.gathered c cv)) true
      else .done (s.unheld.onCohort c.key fun c => c.signMtx cv) := by
  have meetU : ∀ ks, s.unheld.meet ks = s.unheld := fun ks => State.meet_none (by simp [State.unheld, hl])
  have meetG : ∀ ks, (s.unheld.onCohort c.key fun c => c.gather cv).meet ks = s.gathered c cv := fun ks =>
    State.meet_none (by simp [State.onCohort, State.unheld, hl])
  have hu : s.unheld.cohort c.key = some c := hc
  have hg : (s.unheld.onCohort c.key fun c => c.gather cv).cohort c.key = some (c.gather cv) := State.cohort_gathered hc
  refine ⟨_, rfl, ?_⟩
  simp only [hu, hg, State.gathered, meetU, meetG, Option.getD_some]
  rfl

end

section
variable {u : State} {d : Cohort} {i : Info} {r : Option (Nat × Nat)} {k : MtxKind} {signed : Bool}

theorem State.mtxAnswer_full (h : 63 ≤ d.count .mtx) : u.mtxAnswer d i r k signed = .hold := if_pos h

theorem State.mtxAnswer_fails {x : Nat × Nat} (h : d.count .mtx < 63) (hr : r = some x) :
    u.mtxAnswer d i r k signed = .faultIn u (d.every x.1 0 x.2) := by
  subst hr
  exact if_neg (Nat.not_le.mpr h)

theorem State.mtxAnswer_poison {x : Nat} (h : d.count .mtx < 63) (hr : r = none) (hbad : d.badRegs i = []) (hact : d.actives ≠ [])
    (hp : u.mtxPoison d d.stream k = some x) : u.mtxAnswer d i r k signed = .faultIn u (d.every 12 0 x) := by
  obtain ⟨t, ts, ht⟩ := List.exists_cons_of_ne_nil hact
  simp only [State.mtxAnswer, if_neg (Nat.not_le.mpr h), hr, hbad, hp, Cohort.every, ht, List.map_cons, List.nil_append]

theorem State.mtxAnswer_badRegs (h : d.count .mtx < 63) (hr : r = none) (hbad : d.badRegs i ≠ [])
    (hp : u.mtxPoison d d.stream k = none) : u.mtxAnswer d i r k signed = .faultIn u (d.badRegs i) := by
  obtain ⟨l, ls, hl⟩ := List.exists_cons_of_ne_nil hbad
  simp only [State.mtxAnswer, if_neg (Nat.not_le.mpr h), hr, hl, hp, List.append_nil]

theorem State.mtxAnswer_joins (h : d.count .mtx < 63) (hr : r = none) (hbad : d.badRegs i = [])
    (hp : u.mtxPoison d d.stream k = none) : u.mtxAnswer d i r k signed =
      if signed then .moved ((u.joinStream d i k).onCohort d.key (·.passesOff i.len)) (endRun := false)
      else .done (u.joinStream d i k) := by
  simp only [State.mtxAnswer, if_neg (Nat.not_le.mpr h), hr, hbad, hp, List.append_nil]

end

/-! ### Joining the stream -/

/-- The cohort with an operation at the end of its stream. -/
def Cohort.enstream (c : Cohort) (m : MtxOp) : Cohort := { c with stream := c.stream ++ [m] }

/-- The cohort with an operation at the end of its stream and of its list. -/
def Cohort.joins (c : Cohort) (i : Info) (k : MtxKind) (id : Nat) (need : List Nat) : Cohort :=
  (c.started { id := 0, left := 1, cls := .mtx, regsV := i.vd, need := need } id i.len).enstream { op := id, kind := k }

theorem Cohort.joins_frame (c : Cohort) (i : Info) (k : MtxKind) (id : Nat) (need : List Nat) :
    let d := c.joins i k id need
    d = { c with flags := d.flags, ops := d.ops, outst := d.outst, stream := d.stream } := by
  simp only [Cohort.joins]
  rw [Cohort.started_frame]
  rfl

/-- Cohort `d` is as `c` with the operation at the end of its stream, counted, and its long-latency operation the last of its list. -/
def Joined (c : Cohort) (i : Info) (n : Nat) (k : MtxKind) (d : Cohort) : Prop :=
  ∃ m, d.stream = c.stream ++ [m] ∧ m.kind = k ∧ m.tile = none ∧ m.admitted = false ∧ d.count .mtx = c.count .mtx + 1 ∧
    ∃ o, d.ops.getLast? = some o ∧ o.id = m.op ∧ o.cls = .mtx ∧ o.left = 1 ∧ o.regsV = i.vd ∧ o.flags = c.opFlags n

theorem Cohort.joins_joined (c : Cohort) (i : Info) (k : MtxKind) (id : Nat) (need : List Nat) :
    Joined c i i.len k (c.joins i k id need) := by
  have hout : (c.joins i k id need).outst = c.outst ++ [{ id := id, cls := .mtx }] := by
    show (c.raise (c.opFlags i.len)).outst ++ _ = _
    rw [Cohort.raise_frame]
  have hops : (c.joins i k id need).ops = c.ops ++
      [{ id := id, left := 1, cls := .mtx, regsV := i.vd, need := need, flags := c.opFlags i.len }] := by
    rw [Cohort.joins, Cohort.started_frame]
    rfl
  have hstream : (c.joins i k id need).stream = c.stream ++ [{ op := id, kind := k }] := by
    rw [Cohort.joins, Cohort.started_frame]
    rfl
  refine ⟨_, hstream, rfl, rfl, rfl, ?_, _, by rw [hops, List.getLast?_concat], rfl, rfl, rfl, rfl, rfl⟩
  simp [Cohort.count, hout]

theorem Joined.of_flow {c d e : Cohort} {i : Info} {n : Nat} {k : MtxKind} (h : Joined c i n k d) (hf : d.flow e) :
    Joined c i n k e := by
  rw [hf.1]
  exact h

theorem State.cohort_joinStream {s : State} {c : Cohort} (hc : s.cohort c.key = some c) (i : Info) (k : MtxKind) (j : Nat) :
    (s.joinStream c i k).cohort j =
      if j = c.key then some (c.joins i k s.fresh (s.releaseNeeds c.key)) else s.cohort j := by
  let op : Op := { id := 0, left := 1, cls := .mtx, regsV := i.vd, need := s.releaseNeeds c.key }
  have hk : ∀ c : Cohort, (c.started op s.fresh i.len).key = c.key := fun c => by rw [c.started_frame]
  have hop : (s.startOp c.key i.len op).1.cohort j = if j = c.key then some (c.started op s.fresh i.len) else s.cohort j := by
    refine (State.cohort_onCohort { s with fresh := s.fresh + 1 } c.key j (fun c => c.started op s.fresh i.len) hk).trans ?_
    exact congrArg (fun o => if j = c.key then Option.map (fun c => c.started op s.fresh i.len) o else s.cohort j) hc
  refine (State.cohort_onCohort (s.startOp c.key i.len op).1 c.key j (·.enstream { op := s.fresh, kind := k })
    fun _ => rfl).trans ?_
  split
  case isTrue hj =>
    subst hj
    rw [if_pos rfl] at hop
    exact congrArg _ hop
  case isFalse hj => rw [hop, if_neg hj]

theorem State.onlyCohort_memory {s t : State} {k : Nat} (h : s.onlyCohort t k) :
    t.gmem = s.gmem ∧ t.cmem = s.cmem ∧ t.smem = s.smem := by
  rw [h.1]
  exact ⟨rfl, rfl, rfl⟩

theorem State.joinStream_memory (s : State) (c : Cohort) (i : Info) (k : MtxKind) :
    (s.joinStream c i k).gmem = s.gmem ∧ (s.joinStream c i k).cmem = s.cmem ∧
      (s.joinStream c i k).smem = s.smem := ⟨rfl, rfl, rfl⟩

/-- Joining changes no other cohort, and in its own the operation stands last. -/
theorem State.joinStream_spec {s : State} {c : Cohort} (hc : s.cohort c.key = some c) (i : Info) (k : MtxKind) :
    (∀ j, j ≠ c.key → (s.joinStream c i k).cohort j = s.cohort j) ∧
    ∃ e, (s.joinStream c i k).cohort c.key = some e ∧ Joined c i i.len k e ∧
      e = { c with flags := e.flags, ops := e.ops, outst := e.outst, stream := e.stream } :=
  ⟨fun j hj => (State.cohort_joinStream hc i k j).trans (if_neg hj), _, (State.cohort_joinStream hc i k c.key).trans (if_pos rfl),
    c.joins_joined i k _ _, c.joins_frame i k _ _⟩

/-- An operation that joins the stream of its cohort begins. -/
theorem Answers.begins {w : Instr} {i : Info} {s : State} {c : Cohort} {k : MtxKind} (h : Issues s i c)
    (hn : i.len = (encode w).length) (ha : Answers w i s c (.done (s.unheld.joinStream c i k))) :
    ∃ t d, Begins w s c t ∧ t.cohort c.key = some d ∧ Joined c i i.len k d := by
  obtain ⟨body, he, hb⟩ := ha
  obtain ⟨hother, e, hown, hjoined, hframe⟩ := State.joinStream_spec (s := s.unheld) (State.cohort_of_issuer h.1) i k
  obtain ⟨t, ht, honly, a, d, ha, hd, hflow⟩ := issue_done h hb hown
  rw [State.cohort_onCohort _ _ _ _ (fun c => c.key_passes i.len), if_pos rfl, hown] at ha
  obtain rfl : e.passes i.len = a := Option.some.inj ha
  obtain ⟨hg, hm, hp⟩ := State.onlyCohort_memory honly
  obtain ⟨hgj, hmj, hpj⟩ := s.unheld.joinStream_memory c i k
  refine ⟨t, d, ⟨he.trans ht, hg.trans hgj, hm.trans hmj, hp.trans hpj, fun j hj => ?_, d, hd, ?_⟩, hd,
    Joined.of_flow (d := e.passes i.len) hjoined hflow⟩
  · rw [honly.2.1 j hj, State.cohort_onCohort _ _ _ _ (fun c => c.key_passes i.len), if_neg hj]
    exact hother j hj
  · rw [hframe] at hflow
    obtain ⟨hd, -, hthreads⟩ := hflow
    rw [hd, ← hn]
    exact ⟨rfl, rfl, rfl, rfl, hthreads⟩

/-! ### Signing -/

theorem Cohort.sig_gather (c : Cohort) (cv : Nat) : (c.gather cv).sig cv = none := by
  simp [Cohort.sig, Cohort.gather]

theorem testBit_clear {cv : Nat} (h : cv < 7) (x : BitVec 7) : (x &&& ~~~ (1#7 <<< cv)).getLsbD cv = false := by
  simp [h]

/-- What a complete signature makes of a thread. -/
def Thread.gathered (cv : Nat) (t : Thread) : Thread :=
  if signsWith cv t then { t with st := .eligible, act := true, cv := t.cv &&& ~~~ (1#7 <<< cv) } else t

theorem Cohort.gather_threads (c : Cohort) (cv : Nat) : (c.gather cv).threads = c.threads.map (Thread.gathered cv) := rfl

theorem Thread.gathered_live (cv : Nat) (t : Thread) :
    decide ((t.gathered cv).st ≠ .exited) = decide (t.st ≠ .exited) := by
  unfold Thread.gathered
  split
  case isTrue h =>
    have : t.st ≠ .exited := by
      simp only [signsWith, Bool.and_eq_true, decide_eq_true_eq] at h
      exact h.1
    simp [this]
  case isFalse => rfl

theorem Cohort.gather_live (c : Cohort) (cv : Nat) : (c.gather cv).live = c.live.map (Thread.gathered cv) := by
  unfold Cohort.live
  rw [c.gather_threads, List.filter_map]
  congr 1
  exact List.filter_congr fun t _ => Thread.gathered_live cv t

/-- A thread that has issued with its signature, or that took no part. -/
def Thread.passesSigned (cv n : Nat) (x y : Thread) : Prop :=
  if signsWith cv x then y.pc = BitVec.ofNat 64 (x.pc.toNat + 4 * n) ∧ y.v = x.v ∧ y.cv.getLsbD cv = false
  else x.act = false → y.pc = x.pc ∧ y.v = x.v ∧ y.cv = x.cv

theorem Thread.passesSigned_of_flow {cv n : Nat} (hcv : cv < 7) {x y : Thread}
    (h : Thread.flow (if (x.gathered cv).act then
      { x.gathered cv with act := false, pc := BitVec.ofNat 64 ((x.gathered cv).pc.toNat + 4 * n) } else x.gathered cv) y) :
    x.passesSigned cv n y := by
  unfold Thread.passesSigned
  unfold Thread.gathered at h
  obtain ⟨e, -⟩ := h
  split
  case isTrue hs =>
    simp only [hs, if_true] at e
    rw [e]
    exact ⟨rfl, rfl, testBit_clear hcv x.cv⟩
  case isFalse hs =>
    intro hact
    simp only [hs, hact, Bool.false_eq_true, if_false] at e
    rw [e]
    exact ⟨rfl, rfl, rfl⟩

/-- An operation whose signature is complete joins the stream, and its threads pass it. -/
theorem Answers.passesSigned {w : Instr} {i : Info} {s : State} {c : Cohort} {k : MtxKind} {cv : Nat} (h : Issues s i c)
    (hcv : cv < 7) (ha : Answers w i s c (.moved (((s.gathered c cv).joinStream (c.gather cv) i k).onCohort c.key
      (·.passesOff i.len)) (endRun := false))) :
    ∃ t d, exec w s = .next t ∧ t.cohort c.key = some d ∧ Joined (c.gather cv) i i.len k d ∧
      t.gmem = s.gmem ∧ t.smem = s.smem ∧ (∀ j, j ≠ c.key → t.cohort j = s.cohort j) ∧ d.sig cv = none ∧
      List.Forall₂ (Thread.passesSigned cv i.len) c.threads d.threads := by
  obtain ⟨body, he, hb⟩ := ha
  obtain ⟨hother, e, hown, hjoined, hframe⟩ :=
    State.joinStream_spec (c := c.gather cv) (State.cohort_gathered (State.cohort_of_issuer h.1)) i k
  have hpass : ∀ e : Cohort, (e.passesOff i.len).key = e.key := fun _ => rfl
  have hdone : (((s.gathered c cv).joinStream (c.gather cv) i k).onCohort c.key (·.passesOff i.len)).cohort c.key =
      some (e.passesOff i.len) := by
    rw [State.cohort_onCohort _ _ _ _ hpass, if_pos rfl]
    exact congrArg _ hown
  obtain ⟨t, ht, honly, a, d, ha, hd, hflow⟩ := issue_moved h hb hdone
  obtain rfl : e.passesOff i.len = a := Option.some.inj (hdone.symm.trans ha)
  obtain ⟨hg, -, hp⟩ := State.onlyCohort_memory honly
  obtain ⟨hgj, -, hpj⟩ := (s.gathered c cv).joinStream_memory (c.gather cv) i k
  refine ⟨t, d, he.trans ht, hd, Joined.of_flow (d := e.passesOff i.len) hjoined hflow, hg.trans hgj, hp.trans hpj,
    fun j hj => ?_, ?_, ?_⟩
  · rw [honly.2.1 j hj, State.cohort_onCohort _ _ _ _ hpass, if_neg hj, hother j hj]
    exact (State.cohort_onCohort s.unheld c.key j (fun c => c.gather cv) fun _ => rfl).trans (if_neg hj)
  · rw [hflow.1]
    have hsigs : e.sigs = (c.gather cv).sigs := by rw [hframe]
    show (e.sigs.find? fun g => g.cv == cv) = none
    rw [hsigs]
    exact c.sig_gather cv
  · have hthreads := hflow.2.2
    have hgather : e.threads = c.threads.map (Thread.gathered cv) := by rw [hframe, ← c.gather_threads]
    simp only [Cohort.passesOff, Cohort.mapT, mapIf, hgather, List.map_map, List.forall₂_map_left_iff] at hthreads
    exact hthreads.imp fun x y hxy => Thread.passesSigned_of_flow hcv hxy

/-! ### One row for each operation -/

/-- Cohort `d` of state `u` issues an operation with the registers of `c` in state `s`: only its threads' places, its signatures and
the hold of the port differ, and its non-exited threads hold what those of `c` hold. -/
def IssuesAs (s : State) (c : Cohort) (u : State) (d : Cohort) : Prop :=
  (∃ cohorts stalled, u = { s with cohorts := cohorts, stalled := stalled }) ∧
  (∃ threads sigs, d = { c with threads := threads, sigs := sigs }) ∧
  ∃ f : Thread → Thread, d.live = c.live.map f ∧
    ∀ t, (f t).tid = t.tid ∧ (f t).lane = t.lane ∧ (f t).v = t.v ∧ (f t).vPoison = t.vPoison

theorem issuesAs_unheld (s : State) (c : Cohort) : IssuesAs s c s.unheld c :=
  ⟨⟨_, _, rfl⟩, ⟨_, _, rfl⟩, id, (List.map_id _).symm, fun _ => ⟨rfl, rfl, rfl, rfl⟩⟩

theorem issuesAs_gathered (s : State) (c : Cohort) (cv : Nat) : IssuesAs s c (s.gathered c cv) (c.gather cv) := by
  refine ⟨⟨_, _, rfl⟩, ⟨_, _, rfl⟩, Thread.gathered cv, c.gather_live cv, fun t => ?_⟩
  unfold Thread.gathered
  split
  · exact ⟨rfl, rfl, rfl, rfl⟩
  · exact ⟨rfl, rfl, rfl, rfl⟩

section
variable {s u : State} {c d : Cohort} (h : IssuesAs s c u d)
include h

theorem IssuesAs.owns (n : Nat) : u.owns d n = s.owns c n := by
  obtain ⟨⟨cohorts, stalled, rfl⟩, ⟨threads, sigs, rfl⟩, -⟩ := h
  simp only [State.owns, State.slot, State.crewOf, State.crew]

theorem IssuesAs.bound (n : Nat) : d.bound n = c.bound n := by
  obtain ⟨-, ⟨threads, sigs, rfl⟩, -⟩ := h
  simp only [Cohort.bound, Cohort.tileOf]

theorem IssuesAs.crewOf : u.crewOf d = s.crewOf c := by
  obtain ⟨⟨cohorts, stalled, rfl⟩, ⟨threads, sigs, rfl⟩, -⟩ := h
  simp only [State.crewOf, State.crew]

theorem IssuesAs.launch (n : Nat) : u.launch n = s.launch n := by
  obtain ⟨⟨cohorts, stalled, rfl⟩, -⟩ := h
  simp only [State.launch]

theorem IssuesAs.sr (n : Nat) : d.sr n = c.sr n := by
  obtain ⟨-, ⟨threads, sigs, rfl⟩, -⟩ := h
  simp only [Cohort.sr]

theorem IssuesAs.xbase (xa : Nat) (imm : BitVec 20) : xbase d xa imm = Machine.xbase c xa imm := by
  simp only [Machine.xbase, h.sr]

theorem IssuesAs.xstride (xb : Nat) : xstride d xb = Machine.xstride c xb := by
  simp only [Machine.xstride, h.sr]

theorem IssuesAs.rowsFault (sub xa xb : Nat) (imm : BitVec 20) (rows bytes al : Nat) :
    rowsFault d (u.crewOf d) sub xa xb imm rows bytes al = Machine.rowsFault c (s.crewOf c) sub xa xb imm rows bytes al := by
  simp only [Machine.rowsFault, h.xbase, h.xstride, h.crewOf]

theorem IssuesAs.mtxPoison (k : MtxKind) : u.mtxPoison d d.stream k = s.mtxPoison c c.stream k := by
  have hcrew := h.crewOf
  obtain ⟨⟨cohorts, stalled, rfl⟩, ⟨threads, sigs, rfl⟩, -⟩ := h
  simp only [State.mtxPoison, State.slot, State.tile, State.readsSlot, MtxKind.tileIx, Cohort.tileOf, State.rowsPoison,
    State.spadBase, State.core, hcrew]

end

/-- The rows `l` of checks and the operands `k` of an operation are what its meaning checks and takes, at whichever of its threads
it issues. -/
def MtxRow (s : State) (c : Cohort) (cv : Nat) (w : Instr) (i : Info) (k : MtxKind) (sub : Nat)
    (l : List (Prop × Nat × Nat)) : Prop :=
  i.len = (encode w).length ∧ ∃ check kind, exec w s = mtx i sub cv s check kind ∧
    ∀ u d, IssuesAs s c u d → Checks l (check d u) ∧ kind d u = k

theorem mtxRow_of {s : State} {c : Cohort} {cv : Nat} {w : Instr} {i : Info} {k : MtxKind} {sub : Nat}
    {l : List (Prop × Nat × Nat)} {check : Cohort → State → Option (Nat × Nat)} {kind : Cohort → State → MtxKind}
    (hw : exec w s = mtx i sub cv s check kind) (hn : i.len = (encode w).length)
    (hrow : ∀ u d, IssuesAs s c u d → Checks l (check d u) ∧ kind d u = k) :
    MtxRow s c cv w i k sub l := ⟨hn, check, kind, hw, hrow⟩

theorem IssuesAs.elemIx {s u : State} {c d : Cohort} {α : Type} (h : IssuesAs s c u d) (xa : Nat)
    (imm : BitVec 20) (g : Thread × Nat → α)
    (hg : ∀ t t' : Thread, ∀ n, t'.tid = t.tid → t'.v = t.v → t'.vPoison = t.vPoison → g (t', n) = g (t, n)) :
    (d.elemIx xa imm).map g = (c.elemIx xa imm).map g := by
  obtain ⟨-, ⟨threads, sigs, rfl⟩, f, hlive, hf⟩ := h
  simp only [Cohort.elemIx, hlive, List.map_map]
  refine List.map_congr_left fun t _ => ?_
  obtain ⟨htid, hlane, hv, hp⟩ := hf t
  simp only [Function.comp, hlane]
  exact hg t (f t) _ htid hv hp

/-- The value of a format slot (16 R333). -/
def State.fmtOf (s : State) (c : Cohort) (fs : Nat) : Nat :=
  match s.launch (s.crewOf c).launch with
  | some l => l.lrec.fs.getD fs 0
  | none => 0

section
variable {s : State} {c : Cohort} {cv : Nat} {w : Instr} {i : Info}

theorem mma_row {n sa sb fs : Nat} (hw : exec w s = mma i false n sa sb fs cv s) (hn : i.len = (encode w).length) :
    MtxRow s c cv w i (.mma n sa sb (s.fmtOf c fs)) 0 [(s.fmtOf c fs = 0, 16, fs + 0), (¬ s.owns c sa = true, 14, sa + 0),
      (¬ s.owns c sb = true, 14, sb + 0), (c.bound n = false, 14, 16 + n + 0)] := by
  unfold mma at hw
  refine mtxRow_of hw hn fun u d h => ⟨?_, ?_⟩
  · simp only [h.launch, h.crewOf, h.owns, h.bound]
    exact checks_cons .rfl (checks_cons (by simp) (checks_cons (by simp) (checks_cons (by simp) checks_nil)))
  · simp only [h.launch, h.crewOf]
    rfl

theorem mmaz_row {n sa sb fs : Nat} (hw : exec w s = mma i true n sa sb fs cv s) (hn : i.len = (encode w).length) :
    MtxRow s c cv w i (.mmaz n sa sb (s.fmtOf c fs)) 1 [(s.fmtOf c fs = 0, 16, fs + 256), (¬ s.owns c sa = true, 14, sa + 256),
      (¬ s.owns c sb = true, 14, sb + 256)] := by
  unfold mma at hw
  refine mtxRow_of hw hn fun u d h => ⟨?_, ?_⟩
  · simp only [h.launch, h.crewOf, h.owns]
    exact checks_cons .rfl (checks_cons (by simp) (checks_cons (by simp) checks_nil))
  · simp only [h.launch, h.crewOf]
    rfl

theorem accz_row {n : Nat} (hw : exec w s = accz i n cv s) (hn : i.len = (encode w).length) :
    MtxRow s c cv w i (.accz n) 2 [] :=
  mtxRow_of hw hn fun _ _ _ => ⟨checks_nil, rfl⟩

theorem accst_row {n out xa xb : Nat} {keep : Bool} {imm : BitVec 20} (hw : exec w s = accst i n out keep cv xa xb imm s)
    (hn : i.len = (encode w).length) :
    let base := xbase c xa imm
    let d := xstride c xb
    MtxRow s c cv w i (.accst n base.toNat d out keep) 3 [(c.bound n = false, 14, 16 + n + 768),
      (base % 4 ≠ 0, 4, opInfo (BitVec.ofInt 64 base) 3 1), (d % 4 ≠ 0, 4, opInfo (BitVec.ofInt 64 d) 3 2),
      (base < 0 ∨ ((s.crewOf c).ssize : Int) < base + ((32 - 1) * d + (if out = 0 then 128 else 64) : Nat), 7,
        opInfo (BitVec.ofInt 64 base) 3 1)] := by
  refine mtxRow_of hw hn fun u d h => ⟨?_, ?_⟩
  · simp only [h.bound, h.rowsFault]
    exact checks_cons (by simp) (checks_rowsFault c _ 3 xa xb imm 32 _ 4)
  · simp only [h.xbase, h.xstride]

theorem accld_row {n xa xb : Nat} {imm : BitVec 20} (hw : exec w s = accld i n cv xa xb imm s) (hn : i.len = (encode w).length) :
    let base := xbase c xa imm
    let d := xstride c xb
    MtxRow s c cv w i (.accld n base.toNat d) 4 [(base % 4 ≠ 0, 4, opInfo (BitVec.ofInt 64 base) 4 1),
      (d % 4 ≠ 0, 4, opInfo (BitVec.ofInt 64 d) 4 2),
      (base < 0 ∨ ((s.crewOf c).ssize : Int) < base + ((32 - 1) * d + 128 : Nat), 7, opInfo (BitVec.ofInt 64 base) 4 1)] := by
  refine mtxRow_of hw hn fun u d h => ⟨?_, ?_⟩
  · simp only [h.rowsFault]
    exact checks_rowsFault c _ 4 xa xb imm 32 128 4
  · simp only [h.xbase, h.xstride]

theorem accrd_row {n r xa : Nat} {imm : BitVec 20} (hw : exec w s = accrd i n r cv xa imm s) (hn : i.len = (encode w).length) :
    MtxRow s c cv w i (.accrd n r ((c.elemIx xa imm).map fun e => (e.1.tid, e.2))) 5 [(c.bound n = false, 14, 16 + n + 1280)] := by
  refine mtxRow_of hw hn fun u d h => ⟨?_, ?_⟩
  · simp only [h.bound]
    exact checks_cons (by simp) checks_nil
  · exact congrArg _ (h.elemIx xa imm _ fun t t' n ht _ _ => by rw [ht])

theorem accwr_row {n r xa : Nat} {imm : BitVec 20} (hw : exec w s = accwr i n r cv xa imm s) (hn : i.len = (encode w).length) :
    MtxRow s c cv w i (.accwr n ((c.elemIx xa imm).map fun e => (e.1.tid, e.2, e.1.vr r, Tab.read false e.1.vPoison r))) 6 [] := by
  refine mtxRow_of hw hn fun u d h => ⟨checks_nil, ?_⟩
  exact congrArg _ (h.elemIx xa imm _ fun t t' n ht hv hp => by simp only [Thread.vr, ht, hv, hp])

theorem oclaim_row {n : Nat} (hw : exec w s = oclaim i n cv s) (hn : i.len = (encode w).length) :
    MtxRow s c cv w i (.oclaim n) 7 [] :=
  mtxRow_of hw hn fun _ _ _ => ⟨checks_nil, rfl⟩

theorem orel_row {n : Nat} (hw : exec w s = orel i n cv s) (hn : i.len = (encode w).length) :
    MtxRow s c cv w i (.orel n) 8 [(¬ s.owns c n = true, 14, n + 2048)] := by
  refine mtxRow_of hw hn fun u d h => ⟨?_, rfl⟩
  rw [h.owns, ← ite_not]
  exact checks_cons .rfl checks_nil

/-- The three parts of oload differ in the rows, the bytes of a row and the alignment. -/
theorem oload_row {part n xa xb : Nat} {imm : BitVec 20} (hw : exec w s = oload i part n cv xa xb imm s)
    (hn : i.len = (encode w).length) :
    let base := xbase c xa imm
    let rows := if part = 2 then 1 else 32
    let bytes := if part = 0 then 256 else if part = 1 then 64 else 2
    let al := if part = 2 then 2 else 4
    let d := if rows = 1 then 0 else xstride c xb
    MtxRow s c cv w i (.oload n part base.toNat (xstride c xb)) 9 [(¬ s.owns c n = true, 14, n + 2304),
      (base % (al : Nat) ≠ 0, 4, opInfo (BitVec.ofInt 64 base) 9 1), (d % al ≠ 0, 4, opInfo (BitVec.ofInt 64 d) 9 2),
      (base < 0 ∨ ((s.crewOf c).ssize : Int) < base + ((rows - 1) * d + bytes : Nat), 7, opInfo (BitVec.ofInt 64 base) 9 1)] := by
  unfold oload at hw
  refine mtxRow_of hw hn fun u d h => ⟨?_, ?_⟩
  · simp only [h.owns, h.rowsFault]
    exact checks_cons (by simp) (checks_rowsFault c _ 9 xa xb imm _ _ _)
  · simp only [h.xbase, h.xstride]

theorem accscl_row {mode n xa : Nat} (hw : exec w s = accscl i mode n cv xa s) (hn : i.len = (encode w).length) :
    MtxRow s c cv w i (.accscl n mode ((c.sr xa).truncate 32)) 10 [(c.bound n = false, 14, 16 + n + 2560)] := by
  refine mtxRow_of hw hn fun u d h => ⟨?_, ?_⟩
  · simp only [h.bound]
    exact checks_cons (by simp) checks_nil
  · simp only [h.sr]

end

/-! ### What an operation with its row answers -/

section
variable {s : State} {c : Cohort} {cv : Nat} {w : Instr} {i : Info} {k : MtxKind} {sub : Nat} {l : List (Prop × Nat × Nat)}
  (hrow : MtxRow s c cv w i k sub l) (h : Issues s i c) (hl : s.latent = [])
include hrow h hl

theorem MtxRow.answers : ∃ r r', Checks l r ∧ Checks l r' ∧ Answers w i s c (
    if cv = 7 then
      if c.live.length ≠ c.actives.length then c.conv 7 sub 42 else s.unheld.mtxAnswer c i r k false
    else if (c.sig cv).any fun g => g.pc != BitVec.ofNat 64 c.pc then c.conv cv sub 42
    else if c.live.all (signsWith cv) then (s.gathered c cv).mtxAnswer (c.gather cv) i r' k true
    else .done (s.unheld.onCohort c.key fun c => c.signMtx cv)) := by
  obtain ⟨-, check, kind, hw, hsame⟩ := hrow
  obtain ⟨halone, hkind⟩ := hsame _ _ (issuesAs_unheld s c)
  obtain ⟨hsigned, hkind'⟩ := hsame _ _ (issuesAs_gathered s c cv)
  obtain ⟨body, hm, hb⟩ := mtx_issue (i := i) (sub := sub) (cv := cv) (check := check) (kind := kind)
    (State.cohort_of_issuer h.1) hl
  rw [hkind, hkind'] at hb
  exact ⟨_, _, halone, hsigned, body, hw.trans hm, hb⟩

/-- CV = 7 with every non-exited thread active: they issue alone. -/
theorem MtxRow.answers_alone (hcv : cv = 7) (hall : c.live.length = c.actives.length) :
    ∃ r, Checks l r ∧ Answers w i s c (s.unheld.mtxAnswer c i r k false) := by
  obtain ⟨r, _, hr, _, ha⟩ := hrow.answers h hl
  rw [if_pos hcv, if_neg (not_not_intro hall)] at ha
  exact ⟨r, hr, ha⟩

theorem MtxRow.conv_alone (hcv : cv = 7) (hne : c.live.length ≠ c.actives.length) :
    Raises w s c (c.every 15 0 (cv + sub * 256 + 42 * 65536)) := by
  obtain ⟨_, _, _, _, ha⟩ := hrow.answers h hl
  rw [if_pos hcv, if_pos hne] at ha
  subst hcv
  exact ha.raises h

theorem MtxRow.conv_open (hcv : cv < 7) {g : Sig} (hg : c.sig cv = some g) (hpc : g.pc ≠ BitVec.ofNat 64 c.pc) :
    Raises w s c (c.every 15 0 (cv + sub * 256 + 42 * 65536)) := by
  obtain ⟨_, _, _, _, ha⟩ := hrow.answers h hl
  have hopen : ((c.sig cv).any fun g => g.pc != BitVec.ofNat 64 c.pc) = true := by simpa [hg] using hpc
  rw [if_neg hcv.ne, if_pos hopen] at ha
  exact ha.raises h

/-- No signature is open at another word. -/
theorem MtxRow.answers_here (hcv : cv < 7) (hsig : ∀ g, c.sig cv = some g → g.pc = BitVec.ofNat 64 c.pc) :
    ∃ r, Checks l r ∧ Answers w i s c (
      if c.live.all (signsWith cv) then (s.gathered c cv).mtxAnswer (c.gather cv) i r k true
      else .done (s.unheld.onCohort c.key fun c => c.signMtx cv)) := by
  obtain ⟨_, r, _, hr, ha⟩ := hrow.answers h hl
  have hopen : ¬ ((c.sig cv).any fun g => g.pc != BitVec.ofNat 64 c.pc) = true := by simpa [Option.any_eq_true] using hsig
  rw [if_neg hcv.ne, if_neg hopen] at ha
  exact ⟨r, hr, ha⟩

theorem MtxRow.signs (hcv : cv < 7) (hsig : ∀ g, c.sig cv = some g → g.pc = BitVec.ofNat 64 c.pc)
    (hmissing : c.live.all (signsWith cv) = false) : Completes w s c (·.signMtx cv) := by
  obtain ⟨r, -, body, he, hb⟩ := hrow.answers_here h hl hcv hsig
  rw [hmissing] at hb
  refine completes_of he hrow.1 (fun c => ?_) h hb
  simp only [Cohort.signMtx]
  split
  · rfl
  · rfl

theorem MtxRow.answers_signed (hcv : cv < 7) (hsig : ∀ g, c.sig cv = some g → g.pc = BitVec.ofNat 64 c.pc)
    (hall : c.live.all (signsWith cv) = true) :
    ∃ r, Checks l r ∧ Answers w i s c ((s.gathered c cv).mtxAnswer (c.gather cv) i r k true) := by
  obtain ⟨r, hr, ha⟩ := hrow.answers_here h hl hcv hsig
  rw [if_pos hall] at ha
  exact ⟨r, hr, ha⟩

theorem MtxRow.joins_alone (hcv : cv = 7) (hall : c.live.length = c.actives.length) (hcount : c.count .mtx < 63)
    (hfine : ∀ x ∈ l, ¬ x.1) (hclean : s.mtxPoison c c.stream k = none) (hbad : c.badRegs i = []) :
    ∃ t d, Begins w s c t ∧ t.cohort c.key = some d ∧ Joined c i (encode w).length k d := by
  obtain ⟨r, hr, ha⟩ := hrow.answers_alone h hl hcv hall
  rw [State.mtxAnswer_joins hcount (hr.2 hfine) hbad (((issuesAs_unheld s c).mtxPoison k).trans hclean)] at ha
  rw [← hrow.1]
  exact Answers.begins h hrow.1 ha

theorem MtxRow.joins_signed (hcv : cv < 7) (hsig : ∀ g, c.sig cv = some g → g.pc = BitVec.ofNat 64 c.pc)
    (hall : c.live.all (signsWith cv) = true) (hcount : c.count .mtx < 63)
    (hfine : ∀ x ∈ l, ¬ x.1) (hclean : s.mtxPoison c c.stream k = none) (hbad : (c.gather cv).badRegs i = []) :
    ∃ t d, exec w s = .next t ∧ t.cohort c.key = some d ∧ Joined (c.gather cv) i (encode w).length k d ∧
      t.gmem = s.gmem ∧ t.smem = s.smem ∧ (∀ j, j ≠ c.key → t.cohort j = s.cohort j) ∧ d.sig cv = none ∧
      List.Forall₂ (Thread.passesSigned cv (encode w).length) c.threads d.threads := by
  obtain ⟨r, hr, ha⟩ := hrow.answers_signed h hl hcv hsig hall
  rw [State.mtxAnswer_joins (d := c.gather cv) hcount (hr.2 hfine) hbad
    (((issuesAs_gathered s c cv).mtxPoison k).trans hclean)] at ha
  rw [← hrow.1]
  exact Answers.passesSigned h hcv ha

end

/-- The issuing cohort has an active thread. -/
theorem State.actives_of_issuer {s : State} {c : Cohort} (h : s.issuer = some c) : c.actives ≠ [] := by
  unfold State.issuer at h
  split at h
  case h_1 d _ =>
    split at h
    case isTrue hd =>
      obtain rfl := Option.some.inj h
      simpa using (Bool.and_eq_true_iff.mp hd).2
    case isFalse => cases h
  case h_2 => cases h

/-- Settles O39: every operation has its row of checks and operands, and `mtx` answers by the row. -/
theorem matrixIssue : Obligations.MatrixIssue := by
  unfold Obligations.MatrixIssue
  intro s c n sa sb fs cv out r xa xb keep imm cr fmt own base d at_ out_ elems e he
  have hrow : MtxRow s c cv e.1 e.2.1 e.2.2.1 e.2.2.2.1 e.2.2.2.2 := by
    simp only [List.mem_cons, List.not_mem_nil, or_false] at he
    rcases he with rfl | rfl | rfl | rfl | rfl | rfl | rfl | rfl | rfl | rfl | rfl | rfl | rfl | rfl | rfl
    · exact mma_row rfl rfl
    · exact mmaz_row rfl rfl
    · exact accz_row rfl rfl
    · exact accst_row rfl rfl
    · exact accld_row rfl rfl
    · exact accrd_row rfl rfl
    · exact accwr_row rfl rfl
    · exact oclaim_row rfl rfl
    · exact orel_row rfl rfl
    · exact oload_row (part := 0) rfl rfl
    · exact oload_row (part := 1) rfl rfl
    · exact oload_row (part := 2) (xb := 63) rfl rfl
    · exact accscl_row rfl rfl
    · exact accscl_row rfl rfl
    · exact accscl_row rfl rfl
  clear he
  obtain ⟨w, i, k, sub, l⟩ := e
  intro h hl kind fine refused clean joined conv
  refine ⟨fun hcv => ⟨fun hall => ?_, hrow.conv_alone h hl hcv⟩,
    fun hcv => ⟨fun g hg hpc => hrow.conv_open h hl hcv hg hpc, fun hsig => ?_⟩⟩
  · obtain ⟨x, hx, ha⟩ := hrow.answers_alone h hl hcv hall
    have hpoison := (issuesAs_unheld s c).mtxPoison k
    refine ⟨fun hfull => ?_, fun hcount => ⟨fun y hy => ?_, fun hfine hbad y hy => ?_, fun hfine hclean hbad => ?_,
      fun hfine hclean hbad => ?_⟩⟩
    · rw [State.mtxAnswer_full hfull] at ha
      exact ha.holds h
    · rw [State.mtxAnswer_fails hcount (hx.1 y hy)] at ha
      exact ha.raisesIn h
    · rw [State.mtxAnswer_poison hcount (hx.2 hfine) hbad (State.actives_of_issuer h.1) (hpoison.trans hy)] at ha
      exact ha.raisesIn h
    · rw [State.mtxAnswer_badRegs hcount (hx.2 hfine) hbad (hpoison.trans hclean)] at ha
      exact ha.raisesIn h
    · exact hrow.joins_alone h hl hcv hall hcount hfine hclean hbad
  · refine ⟨hrow.signs h hl hcv hsig, fun hall hfull => ?_, fun hall hcount y hy => ?_,
      fun hall hcount hfine hclean hbad => ?_⟩
    · obtain ⟨x, hx, ha⟩ := hrow.answers_signed h hl hcv hsig hall
      rw [State.mtxAnswer_full (d := c.gather cv) hfull] at ha
      exact ha.holds h
    · obtain ⟨x, hx, ha⟩ := hrow.answers_signed h hl hcv hsig hall
      rw [State.mtxAnswer_fails (d := c.gather cv) hcount (hx.1 y hy)] at ha
      exact ha.raisesIn h
    · exact hrow.joins_signed h hl hcv hsig hall hcount hfine hclean hbad

end Sys2Proof.Machine
end
section
/-!
PROOFS. Launch events (O45): what a retiring cohort leaves, how the store serves its requests, how a core takes a task and places a
crew. Work in memory (frames, descriptors, tile buffers) is shown once to leave every cohort, crew and launch alone.
-/

namespace Sys2Proof.Machine

/-! ### Work in memory leaves the holders alone -/

/-- From `o` to `s` no cohort, crew, launch, tile or slot has changed, and the per-core records are as canonical as they were. -/
structure State.SameHolders (o s : State) : Prop where
  cohorts : s.cohorts = o.cohorts
  crews : s.crews = o.crews
  launches : s.launches = o.launches
  tiles : s.tiles = o.tiles
  slots : s.slots = o.slots
  cores : Tab.wf {} o.cores = true → Tab.wf {} s.cores = true

/-- What `SameHolders` speaks of, as one value: a change of other fields keeps it by `rfl`. -/
def State.holders (s : State) : List Cohort × List Crew × List Launch × Tab Tile × Tab Slot × Tab CoreSt :=
  (s.cohorts, s.crews, s.launches, s.tiles, s.slots, s.cores)

theorem State.holders_eq_iff {s t : State} : t.holders = s.holders ↔ t.cohorts = s.cohorts ∧ t.crews = s.crews ∧
    t.launches = s.launches ∧ t.tiles = s.tiles ∧ t.slots = s.slots ∧ t.cores = s.cores := by
  simp only [State.holders, Prod.mk.injEq]

/-- Words and bursts of the memories, as against registers, tiles, slots and a crew's dirty lines. -/
def Site.inMem : Site → Bool
  | .glob _ | .burst _ | .chip _ | .spad _ => true
  | _ => false

theorem State.inMem_of_poisonKeys {s : State} {sp : Space} {a n : Nat} {k : Site} (h : k ∈ s.poisonKeys sp a n) :
    k.inMem = true := by
  cases sp with
  | unit => cases h
  | glob | chip | spad | shad =>
    obtain ⟨w, -, rfl⟩ := List.mem_map.mp h
    rfl

theorem State.inMem_of_sites {s : State} {sp : Space} {a n : Nat} {k : Site} (h : k ∈ s.sites sp a n) : k.inMem = true := by
  rcases List.mem_append.mp h with h | h
  · exact State.inMem_of_poisonKeys h
  · cases sp with
    | glob =>
      obtain ⟨w, -, rfl⟩ := List.mem_map.mp h
      rfl
    | chip | spad | shad | unit => cases h

theorem State.inMem_of_vaSites {s : State} {core : Nat} {jd : JobDesc} {va n : Nat} {a : Acc} {k : Site}
    (h : k ∈ s.vaSites core jd va n a) : k.inMem = true := by
  unfold State.vaSites at h
  split at h
  · cases h
  · split at h
    · cases h
    · obtain ⟨p, -, hp⟩ := List.mem_flatMap.mp h
      exact State.inMem_of_sites hp

namespace State.SameHolders

theorem refl (s : State) : s.SameHolders s := ⟨rfl, rfl, rfl, rfl, rfl, id⟩

section
variable {o s t : State}

/-- A change of other fields alone. -/
theorem update (h : o.SameHolders s) (e : t.holders = s.holders) : o.SameHolders t := by
  obtain ⟨hco, hcr, hl, hti, hsl, hk⟩ := State.holders_eq_iff.mp e
  exact ⟨hco.trans h.cohorts, hcr.trans h.crews, hl.trans h.launches, hti.trans h.tiles, hsl.trans h.slots,
    fun w => hk ▸ h.cores w⟩

theorem foldl {β : Type} {f : State → β → State} {l : List β} (hf : ∀ s, ∀ b ∈ l, o.SameHolders s → o.SameHolders (f s b))
    (h : o.SameHolders s) : o.SameHolders (l.foldl f s) := by
  induction l generalizing s with
  | nil => exact h
  | cons b l ih => exact ih (fun s b hb => hf s b (List.mem_cons_of_mem _ hb)) (hf s b (List.mem_cons_self ..) h)

theorem ite {c : Prop} [Decidable c] (h : o.SameHolders s) (g : o.SameHolders t) : o.SameHolders (if c then s else t) := by
  split
  · exact h
  · exact g

end

section
variable {o s : State} (h : o.SameHolders s)
include h

theorem onCore (n : Nat) (f : CoreSt → CoreSt) : o.SameHolders (s.onCore n f) :=
  ⟨h.cohorts, h.crews, h.launches, h.tiles, h.slots, fun w => Tab.wf_put n _ (h.cores w)⟩

/-! Errors met and poison marked in memory (10 R233, R234) -/

theorem mark {k : Site} (hk : k.inMem = true) : o.SameHolders (s.mark k) := by
  cases k with
  | glob | burst | chip | spad => exact h.update (by rfl)
  | slot | tile | vreg | sreg | priv => cases hk

theorem countEcc {k : Site} (hk : k.inMem = true) : o.SameHolders (s.countEcc k) := by
  cases k with
  | glob | burst | chip => exact h.update (by rfl)
  | spad =>
    unfold State.countEcc
    exact h.onCore _ _
  | slot | tile | vreg | sreg | priv => cases hk

theorem meetOne {e : Site × Bool} (he : e.1.inMem = true) : o.SameHolders (s.meetOne e) := by
  have h' : o.SameHolders { s with latent := s.latent.filter fun x => decide (x ≠ e) } := h.update (by rfl)
  exact (h'.mark he).ite (h'.countEcc he)

theorem meet {ks : List Site} (hk : ∀ k ∈ ks, k.inMem = true) : o.SameHolders (s.meet ks) :=
  h.foldl fun _ e he hs => hs.meetOne (hk e.1 (by simpa using (List.mem_filter.mp he).2))

theorem meetVa (core : Nat) (jd : JobDesc) (va n : Nat) (k : Acc) : o.SameHolders (s.meetVa core jd va n k) :=
  h.meet fun _ hk => State.inMem_of_vaSites hk

theorem meetParts (ps : List (Space × Nat × Nat)) : o.SameHolders (s.meetParts ps) := by
  refine h.ite (h.meet fun k hk => ?_)
  obtain ⟨p, -, hp⟩ := List.mem_flatMap.mp hk
  exact State.inMem_of_sites hp

theorem meetCrew (cr : Crew) (off n : Nat) : o.SameHolders (s.meetCrew cr off n) := by
  refine h.ite (h.meet fun k hk => ?_)
  obtain ⟨w, -, rfl⟩ := List.mem_map.mp hk
  rfl

theorem markPoison (sp : Space) (a n : Nat) : o.SameHolders (s.markPoison sp a n) :=
  h.foldl fun _ _ hk hs => hs.mark (State.inMem_of_poisonKeys hk)

/-! Writes -/

theorem writeBytes (sp : Space) (bs : List (Nat × Byte)) : o.SameHolders (s.writeBytes sp bs) := by
  cases sp with
  | glob =>
    refine SameHolders.update (h.meet (ks := (bs.map (·.1)).map fun a => .burst (a / 32)) fun k hk => ?_) (by rfl)
    obtain ⟨a, -, rfl⟩ := List.mem_map.mp hk
    rfl
  | chip | spad | shad => exact h.update (by rfl)
  | unit => exact h

theorem slPost (atomic : Bool) (as : List Nat) : o.SameHolders (s.slPost atomic as) := by
  unfold State.slPost
  split
  · exact h
  · exact h.ite (h.update (by rfl))

theorem engWrite (sp : Space) (bs : List (Nat × Byte × Bool)) : o.SameHolders (s.engWrite sp bs) :=
  (h.writeBytes sp _).foldl fun _ _ _ hs => hs.markPoison _ _ _

theorem partWrite (ps : List (Space × Nat × Nat)) (bs : List (Byte × Bool)) : o.SameHolders (s.partWrite ps bs) := by
  induction ps generalizing s bs with
  | nil => exact h
  | cons p ps ih => exact ih (((h.slPost _ _).ite h).engWrite _ _) _

theorem crewSet (cr : Crew) (off n x : Nat) : o.SameHolders (s.crewSet cr off n x) := (h.meetCrew cr off n).update (by rfl)

/-! Descriptors of tile buffers (17 R349-R353, R360) -/

theorem onHome (job n : Nat) (f : TbHome → TbHome) : o.SameHolders (s.onHome job n f) := h.update (by rfl)

theorem tbSet (jd : JobDesc) (n lo k v : Nat) : o.SameHolders (s.tbSet jd n lo k v) :=
  (((h.slPost _ _).meet fun _ hk => State.inMem_of_sites hk).writeBytes _ _).ite h

theorem tbState (jd : JobDesc) (n v : Nat) : o.SameHolders (s.tbState jd n v) := h.tbSet jd n 320 2 v
theorem tbSpecv (jd : JobDesc) (n : Nat) (v : Bool) : o.SameHolders (s.tbSpecv jd n v) := h.tbSet jd n 322 1 v.toNat
theorem tbHcnt (jd : JobDesc) (n v : Nat) : o.SameHolders (s.tbHcnt jd n v) := h.tbSet jd n 328 2 v
theorem tbVer (jd : JobDesc) (n v : Nat) : o.SameHolders (s.tbVer jd n v) := h.tbSet jd n 352 32 v
theorem tbRefs (jd : JobDesc) (n v : Nat) : o.SameHolders (s.tbRefs jd n v) := h.tbSet jd n 480 16 v

theorem predict (jd : JobDesc) (n : Nat) : o.SameHolders (s.predict jd n) := by
  unfold State.predict
  simp only
  split
  · exact h
  · exact (((h.meetParts _).partWrite _ _).onHome _ _ _).tbState _ _ _

theorem tbBeginRead (jd : JobDesc) (l : Launch) (e : Nat × TbRead) : o.SameHolders (s.tbBeginRead jd l e) := by
  have href := h.ite (c := l.refs.contains e.1) (h.tbRefs jd e.1 ((s.tb jd e.1).refs + 1))
  exact SameHolders.ite (((href.predict jd e.1).ite href).onHome _ _ _) href

/-- Unfolded as a function, before it meets its arguments: of `histCopy` at arguments against its body the kernel would evaluate
the translations that the body matches on. -/
theorem histCopy {u : State} {jd : JobDesc} {n : Nat} (hu : s.histCopy jd n = some u) : o.SameHolders u := by
  rw [show State.histCopy = _ by delta State.histCopy; rfl] at hu
  extract_lets b unit at hu
  split at hu
  · cases hu
    exact ((h.meetParts _).partWrite _ _).tbHcnt _ _ _
  · cases hu

theorem histStep (jd : JobDesc) (n : Nat) : o.SameHolders (s.histStep jd n) := by
  unfold State.histStep
  cases hu : s.histCopy jd n with
  | none => exact h.tbHcnt jd n 0
  | some u => exact h.histCopy hu

theorem histEnd (c : Compare) : o.SameHolders (s.histEnd c) := by
  have h' : o.SameHolders { s with history := s.history.filter fun x => decide (x ≠ c) } := h.update (by rfl)
  have told : ∀ u, o.SameHolders u → o.SameHolders (match (u.tbHome c.job c.tb).producer with
      | some p => (u.onHome c.job c.tb fun h => { h with producer := none }).tellReaders p.1 c.tb
      | none => u) := by
    intro u hu
    split
    · exact hu.update (by rfl)
    · exact hu
  unfold State.histEnd
  simp only
  split
  · exact told _ h'
  · refine SameHolders.ite ?_ (SameHolders.ite (told _ ?_) h')
    · exact (((h'.tbVer _ _ _).histStep _ _).tbSpecv _ _ _).tbState _ _ _
    · exact (h'.histStep _ _).tbSpecv _ _ _

theorem tbVerdict (jd : JobDesc) (n : Nat) (t : Tb) (commit : Bool) (err : Nat) :
    o.SameHolders (s.tbVerdict jd n t commit err) := by
  have h' := (h.tbSet jd n 323 3 (if commit then min (t.conf + 1) 7 else 0)).tbSet jd n 326 2 (t.lastv % 2 * 2 + commit.toNat)
  exact ((h'.tbSet _ _ _ _ _).ite (h'.tbSet _ _ _ _ _)).tbSet _ _ _ _ _

theorem tellStarters (job n : Nat) (commit : Bool) : o.SameHolders (s.tellStarters job n commit) := h.update (by rfl)

theorem verdictEnd (c : Compare) : o.SameHolders (s.verdictEnd c) := by
  unfold State.verdictEnd
  extract_lets u home w
  have hu : o.SameHolders u := h.update (by rfl)
  split
  · exact hu
  rename_i jd _
  extract_lets b parts oks met raised
  clear_value parts
  have hmet : o.SameHolders met := by
    simp only [met]
    split
    · exact hu.meetParts _
    · exact hu
  have hraised : o.SameHolders raised := hmet.tbVer _ _ _
  clear_value oks raised
  refine hu.ite ?_
  cases oks with
  | none => exact ((((hraised.tbVerdict _ _ _ _ _).tbHcnt _ _ _).tbSpecv _ _ _).tbState _ _ _).tellStarters _ _ _
  | some es => exact ((((hraised.tbVerdict _ _ _ _ _).histStep _ _).tbSpecv _ _ _).tbState _ _ _).tellStarters _ _ _

theorem tbSettle (job n : Nat) : o.SameHolders (s.tbSettle job n) := by
  have hv := (h.verdictEnd { job := job, tb := n }).ite (c := s.compares.contains { job := job, tb := n }) h
  exact (hv.histEnd _).ite hv

theorem tbPublish (l n : Nat) : o.SameHolders (s.tbPublish l n) := by
  unfold State.tbPublish
  split
  · exact h
  · split
    · exact h
    · rename_i jd _
      have hs := (h.tbSettle jd.job n).onHome jd.job n fun x => { x with writer := none }
      refine h.ite (SameHolders.ite (hs.update (by rfl)) (hs.ite (SameHolders.ite ?_ (hs.update (by rfl)))))
      exact (((hs.tbVer _ _ _).tbSpecv _ _ _).tbState _ _ _).onHome _ _ _

/-! Records, groups and frames (09 R197, 15 R318, 20 R410, 13 R288) -/

theorem orphan (cr : Crew) (sub place : Nat) (r : Report) (pc : Nat) : o.SameHolders (s.orphan cr sub place r pc) :=
  (h.onCore cr.core fun k => { k with seq := (k.seq + 1) % 2 ^ 32 }).update (by rfl)

theorem refusal (host : Option (Nat × Nat)) : o.SameHolders (s.refusal host) := by
  cases host with
  | none => exact h
  | some r => exact h.update (by rfl)

theorem groupAdd (level job id : Nat) (x : Int) : o.SameHolders (s.groupAdd level job id x) :=
  (h.update (by rfl)).ite (h.update (by rfl))

theorem groupsAdd (r : LRec) (x : Int) : o.SameHolders (s.groupsAdd r x) :=
  ((h.groupAdd _ _ _ _).groupAdd _ _ _ _).groupAdd _ _ _ _

theorem markRun (jd : JobDesc) (run : Nat × Nat) (used : Bool) : o.SameHolders (s.markRun jd run used) :=
  h.foldl fun _ _ _ hs => ((hs.meet fun _ hk => State.inMem_of_sites hk).slPost _ _).writeBytes _ _

theorem freeFrames (cr : Crew) : o.SameHolders (s.freeFrames cr) := h.foldl fun _ _ _ hs => hs.markRun _ _ _

/-! A core's text, caches and scratchpad at a placement (10 R210, R220, R265) -/

theorem freshText (core job : Nat) (hd : Header) : o.SameHolders (s.freshText core job hd) := h.ite (h.update (by rfl))

theorem flash (core : Nat) : o.SameHolders (s.flash core) := h.update (by rfl)

theorem initSpad (cr : Crew) : o.SameHolders (s.initSpad cr) := by
  unfold State.initSpad
  simp only
  refine SameHolders.ite (SameHolders.foldl (fun _ _ _ hs => hs.crewSet cr _ _ _) ?_) ?_ <;>
    exact SameHolders.foldl (fun _ _ _ hs => (hs.crewSet cr _ _ _).ite hs) (h.update (by rfl))

end
end State.SameHolders

/-! ### What the end of a crew leaves alone (20 R410) -/

/-- From `o` to `s` no cohort, tile or slot has changed, and the crews are those of the same keys. -/
structure State.SameUnits (o s : State) : Prop where
  cohorts : s.cohorts = o.cohorts
  tiles : s.tiles = o.tiles
  slots : s.slots = o.slots
  crewKeys : s.crews.map (·.key) = o.crews.map (·.key)

/-- Changing elements of a list keeps a number that the change keeps. -/
theorem map_mapIf {α : Type} {p : α → Bool} {f : α → α} {key : α → Nat} (h : ∀ x, key (f x) = key x) (l : List α) :
    (mapIf p f l).map key = l.map key := by
  unfold mapIf
  rw [List.map_map]
  refine List.map_congr_left fun x _ => ?_
  by_cases hp : p x = true <;> simp [hp, h]

namespace State.SameUnits

theorem refl (s : State) : s.SameUnits s := ⟨rfl, rfl, rfl, rfl⟩

section
variable {o s t : State}

theorem trans (h : o.SameUnits s) (g : s.SameUnits t) : o.SameUnits t :=
  ⟨g.cohorts.trans h.cohorts, g.tiles.trans h.tiles, g.slots.trans h.slots, g.crewKeys.trans h.crewKeys⟩

theorem of_sameHolders (h : s.SameHolders t) : s.SameUnits t := ⟨h.cohorts, h.tiles, h.slots, by rw [h.crews]⟩

theorem ite {c : Prop} [Decidable c] (h : o.SameUnits s) (g : o.SameUnits t) : o.SameUnits (if c then s else t) := by
  split
  · exact h
  · exact g

theorem foldl {β : Type} {f : State → β → State} {l : List β} (hf : ∀ s b, o.SameUnits s → o.SameUnits (f s b))
    (h : o.SameUnits s) : o.SameUnits (l.foldl f s) := by
  induction l generalizing s with
  | nil => exact h
  | cons b l ih => exact ih (hf s b h)

end

section
variable {o s : State} (h : o.SameUnits s)
include h

/-- Work in memory keeps the units. -/
theorem work {t : State} (g : s.SameHolders s → s.SameHolders t) : o.SameUnits t :=
  h.trans (of_sameHolders (g (.refl s)))

theorem onLaunch (k : Nat) (f : Launch → Launch) :
    o.SameUnits (s.onLaunch k f) :=
  ⟨h.cohorts, h.tiles, h.slots, h.crewKeys⟩

theorem onCrew (k : Nat) {f : Crew → Crew} (hf : ∀ c, (f c).key = c.key) : o.SameUnits (s.onCrew k f) :=
  ⟨h.cohorts, h.tiles, h.slots, (map_mapIf hf s.crews).trans h.crewKeys⟩

theorem tbDrop (jd : JobDesc) (l n : Nat) : o.SameUnits (s.tbDrop jd l n) := by
  have hs := ((h.work (·.tbSettle jd.job n)).work (·.tbRefs jd n (((s.tbSettle jd.job n).tb jd n).refs - 1))).onLaunch l
    fun l => { l with refs := l.refs.filter (· != n) }
  exact (hs.work (·.tbState _ _ _)).ite hs

theorem tbRelease (l n : Nat) : o.SameUnits (s.tbRelease l n) := by
  unfold State.tbRelease
  split
  · exact h
  · split
    · exact h
    · exact (h.tbDrop _ _ _).ite h

theorem tbRetired (l : Nat) : o.SameUnits (s.tbRetired l) := by
  unfold State.tbRetired
  split
  · exact h
  · exact h.foldl fun _ _ hs => (hs.work (·.tbPublish _ _)).ite (hs.tbRelease _ _)

theorem accept (e : LRec × List Chan × List (Nat × Bool)) (host : Option (Nat × Nat)) (parent : Parent) (system : Bool)
    (join : Nat) : o.SameUnits (s.accept e host parent system join).1 := by
  show o.SameUnits (State.groupsAdd _ e.1 1)
  exact work (by exact ⟨h.cohorts, h.tiles, h.slots, h.crewKeys⟩) (·.groupsAdd e.1 1)

theorem contRun (job addr : Nat) (system : Bool) (host : Option (Nat × Nat)) :
    o.SameUnits (s.contRun job addr system host) := by
  have hm : o.SameUnits (((s.jobCtx job).map fun jd => s.meetVa 640 jd addr 128).getD s) := by
    cases s.jobCtx job with
    | none => exact h
    | some jd => exact h.work (·.meetVa _ _ _ _ _)
  unfold State.contRun
  simp only
  split
  · exact hm.work (·.refusal _)
  · exact hm.accept _ _ _ _ _

theorem launchDone (k : Nat) : o.SameUnits (s.launchDone k) := by
  unfold State.launchDone
  split
  · exact h
  rename_i l _
  extract_lets dropped system gone told joined counted
  have hdropped : o.SameUnits dropped := by
    simp only [dropped]
    split
    · exact h.foldl fun _ _ hs => hs.tbDrop _ _ _
    · exact h
  have htold : o.SameUnits told := by
    simp only [told]
    split
    · exact ⟨hdropped.cohorts, hdropped.tiles, hdropped.slots, hdropped.crewKeys⟩
    · exact ⟨hdropped.cohorts, hdropped.tiles, hdropped.slots, hdropped.crewKeys⟩
  have hjoined : o.SameUnits joined := by
    simp only [joined]
    split
    · exact htold
    · exact htold.onCrew _ fun _ => rfl
    · exact htold.onLaunch _ _
  have hcounted : o.SameUnits counted := hjoined.work (·.groupsAdd l.lrec (-1))
  exact hcounted.ite ((hcounted.contRun _ _ _ _).ite ⟨hcounted.cohorts, hcounted.tiles, hcounted.slots, hcounted.crewKeys⟩)

theorem crewGone (cr : Crew) : o.SameUnits (s.crewGone cr) := by
  unfold State.crewGone
  split
  · exact h
  · rename_i l _
    have hl := h.onLaunch l.handle fun l => { l with left := l.left - 1, retired := l.retired ++ [cr.index] }
    have hr := hl.ite (c := l.torn) (hl.tbRetired l.handle)
    exact h.ite ((hr.launchDone _).ite hr)

end
end State.SameUnits

/-! ### COHORT_RETIRE (03 R76, 07 R159, 08 R190) -/

theorem exec_cohortRetire {k : Nat} {s t : State} (h : cohortRetire k s = t) : exec (.cohortRetire k) s = .next t :=
  congrArg Host.Outcome.next h

/-- Whether a crew of a key is there depends on the keys alone. -/
theorem State.crew_eq_none (s : State) (k : Nat) : s.crew k = none ↔ k ∉ s.crews.map (·.key) := by
  simp [State.crew, List.find?_eq_none]

theorem State.SameUnits.crew_none {o s : State} (h : o.SameUnits s) {k : Nat} (hk : o.crew k = none) : s.crew k = none := by
  rw [State.crew_eq_none] at hk ⊢
  rwa [h.crewKeys]

/-- A crew that retires is gone; the cohorts, tiles and slots are as before. -/
theorem State.crewRetire_frame (s : State) (k : Nat) : (s.crewRetire k).crew k = none ∧
    (s.crewRetire k).cohorts = s.cohorts ∧ (s.crewRetire k).tiles = s.tiles ∧ (s.crewRetire k).slots = s.slots := by
  unfold State.crewRetire
  split
  · exact ⟨‹_›, rfl, rfl, rfl⟩
  · rename_i cr _
    have hf := (State.SameHolders.refl s).freeFrames cr
    simp only
    generalize s.freeFrames cr = u at hf
    let v : State := { u with
      crews := u.crews.filter (fun x => x.key != k), l1 := u.l1.filter (fun l => l.priv != k),
      bins := u.bins.filter fun e => e.2.crew != k }
    have hg := (State.SameUnits.refl v).crewGone cr
    refine ⟨hg.crew_none ((v.crew_eq_none k).mpr ?_), hg.cohorts.trans hf.cohorts, hg.tiles.trans hf.tiles,
      hg.slots.trans hf.slots⟩
    simp [v]

/-- A crew without the rays of a cohort's threads. -/
def Crew.dropRays (cr : Crew) (c : Cohort) : Crew :=
  { cr with rays := cr.rays.filter fun r => !((c.threads.map (·.tid)).contains r.tid) }

/-- What a cohort that retires does before its crew may go: reports become ORPHAN records, its units are freed and its rays,
batches and copies drop. -/
def State.leave (s : State) (k : Nat) (c : Cohort) : State :=
  let cr := s.crewOf c
  let s := c.reports.foldl (fun s r => s.orphan cr c.sub c.place r r.ipc) s
  let gone := (s.batchesOf k).map (·.id)
  let s := s.onCrew c.crew (·.dropRays c)
  { s.freeUnits k with
    cohorts := s.cohorts.filter (fun x => x.key != k), running := s.running.filter (fun e => e.2 != k),
    batches := s.batches.filter (fun b => b.cohort != k), copies := s.copies.filter fun x => !(gone.contains x.batch) }

section
variable {s : State} {k : Nat} {c : Cohort} (hc : s.cohort k = some c)
include hc

theorem cohortRetire_stays (h : s.mayRetire c (s.crewOf c) = false ∨ (s.cohortsOf c.crew).length ≤ 1 ∧
    s.crewBinned (s.crewOf c) = false ∧ s.crewMay (s.crewOf c) = false) : cohortRetire k s = s := by
  unfold cohortRetire
  simp only [hc]
  refine if_pos ?_
  rcases h with h | ⟨hl, hb, hm⟩
  · simp [h]
  · simp [hl, hb, hm]

theorem cohortRetire_last (hr : s.mayRetire c (s.crewOf c) = true) (hl : (s.cohortsOf c.crew).length ≤ 1)
    (hb : s.crewBinned (s.crewOf c) = false) (hm : s.crewMay (s.crewOf c) = true) :
    cohortRetire k s = (s.leave k c).crewRetire c.crew := by
  unfold cohortRetire
  simp only [hc]
  rw [if_neg (by simp [hr, hm]), if_pos (by simp [hl, hb])]
  rfl

theorem cohortRetire_leaves (hr : s.mayRetire c (s.crewOf c) = true)
    (h : 2 ≤ (s.cohortsOf c.crew).length ∨ s.crewBinned (s.crewOf c) = true) : cohortRetire k s = s.leave k c := by
  have hlast : (decide ((s.cohortsOf c.crew).length ≤ 1) && !(s.crewBinned (s.crewOf c))) = false := by
    rcases h with h | h
    · have : ¬ (s.cohortsOf c.crew).length ≤ 1 := by omega
      simp [this]
    · simp [h]
  unfold cohortRetire
  simp only [hc, hlast]
  rw [if_neg (by simp [hr])]
  rfl

end

/-- A table reads only what it lists, or its default. -/
theorem Tab.read_of_all {α : Type} {p : α → Prop} {d : α} {t : Tab α} (hd : p d) (h : ∀ e ∈ t, p e.2) (n : Nat) :
    p (Tab.read d t n) := by
  induction t with
  | nil => exact hd
  | cons e t ih =>
    obtain ⟨ht, h⟩ := List.forall_mem_cons.mp h
    simp only [Tab.read]
    split
    · exact ht
    · exact ih h

theorem State.freeUnits_owner {s : State} {k : Nat} (hk : k ≠ 0) (n : Nat) :
    (Tab.read {} (s.freeUnits k).tiles n).owner ≠ k ∧ (Tab.read {} (s.freeUnits k).slots n).owner ≠ k := by
  refine ⟨Tab.read_of_all (p := fun z : Tile => z.owner ≠ k) hk.symm (fun e he => ?_) n,
    Tab.read_of_all (p := fun z : Slot => z.owner ≠ k) hk.symm (fun e he => ?_) n⟩
  all_goals
    obtain ⟨x, -, rfl⟩ := List.mem_map.mp he
    split
    · exact hk.symm
    · assumption

/-- A crew after a change of a crew that keeps its key. -/
theorem State.crew_onCrew (s : State) (k j : Nat) {f : Crew → Crew} (h : ∀ c, (f c).key = c.key) :
    (s.onCrew k f).crew j = if j = k then (s.crew k).map f else s.crew j :=
  find?_mapIf Crew.key k j f h s.crews

theorem State.leave_crews (s : State) (k : Nat) (c : Cohort) :
    (s.leave k c).crews = (s.onCrew c.crew (·.dropRays c)).crews := by
  have h : s.SameHolders (c.reports.foldl (fun u r => u.orphan (s.crewOf c) c.sub c.place r r.ipc) s) :=
    (State.SameHolders.refl s).foldl fun _ r _ hs => hs.orphan _ _ _ r _
  exact congrArg (mapIf _ _) h.crews

/-- A cohort that leaves is gone, and owns no tile and no slot. -/
theorem State.leave_frees (s : State) {k : Nat} (c : Cohort) (hk : k ≠ 0) : (s.leave k c).cohort k = none ∧
    (∀ n, (Tab.read {} (s.leave k c).tiles n).owner ≠ k) ∧ ∀ n, (Tab.read {} (s.leave k c).slots n).owner ≠ k :=
  ⟨List.find?_eq_none.mpr fun x hx => by simpa using (List.mem_filter.mp hx).2,
    fun n => (State.freeUnits_owner hk n).1, fun n => (State.freeUnits_owner hk n).2⟩

/-- The crew of a cohort that leaves loses rays alone. -/
theorem State.leave_crew {s : State} {k : Nat} {c : Cohort} {x : Crew} (h : s.crew c.crew = some x) :
    ∃ y, (s.leave k c).crew c.crew = some y ∧ y = { x with rays := y.rays } := by
  refine ⟨x.dropRays c, ?_, rfl⟩
  calc (s.leave k c).crew c.crew
    _ = (s.onCrew c.crew (·.dropRays c)).crew c.crew := by simp only [State.crew, State.leave_crews]
    _ = some (x.dropRays c) := by rw [State.crew_onCrew (f := (·.dropRays c)) _ _ _ fun _ => rfl, if_pos rfl, h]; rfl

/-- A cohort that may retire does, with its units and, the last one of a crew without binned threads, with its crew. -/
theorem cohortRetire_retires {s : State} {k : Nat} {c : Cohort} (hc : s.cohort k = some c) (hk : k ≠ 0)
    (hr : s.mayRetire c (s.crewOf c) = true) (h : 2 ≤ (s.cohortsOf c.crew).length ∨ s.crewMay (s.crewOf c) = true ∨
      s.crewBinned (s.crewOf c) = true) :
    (cohortRetire k s).cohort k = none ∧ (∀ n, (Tab.read {} (cohortRetire k s).tiles n).owner ≠ k) ∧
      (∀ n, (Tab.read {} (cohortRetire k s).slots n).owner ≠ k) ∧
      ((s.cohortsOf c.crew).length ≤ 1 → s.crewBinned (s.crewOf c) = false → (cohortRetire k s).crew c.crew = none) ∧
      (s.crewBinned (s.crewOf c) = true → ∀ x, s.crew c.crew = some x → ∃ y, (cohortRetire k s).crew c.crew = some y ∧
        y = { x with rays := y.rays }) := by
  obtain ⟨hgone, htiles, hslots⟩ := s.leave_frees c hk
  by_cases hlast : (s.cohortsOf c.crew).length ≤ 1 ∧ s.crewBinned (s.crewOf c) = false
  · obtain ⟨hl, hb⟩ := hlast
    have hm : s.crewMay (s.crewOf c) = true := by
      rcases h with h | h | h
      · omega
      · exact h
      · simp [hb] at h
    obtain ⟨hcrew, hco, hti, hsl⟩ := (s.leave k c).crewRetire_frame c.crew
    rw [cohortRetire_last hc hr hl hb hm]
    refine ⟨?_, hti ▸ htiles, hsl ▸ hslots, fun _ _ => hcrew, fun h => by simp [hb] at h⟩
    unfold State.cohort
    rw [hco]
    exact hgone
  · have hstay : 2 ≤ (s.cohortsOf c.crew).length ∨ s.crewBinned (s.crewOf c) = true := by
      by_cases hl : (s.cohortsOf c.crew).length ≤ 1
      · exact .inr (by simpa [hl] using hlast)
      · exact .inl (by omega)
    rw [cohortRetire_leaves hc hr hstay]
    exact ⟨hgone, htiles, hslots, fun hl hb => absurd ⟨hl, hb⟩ hlast, fun _ _ => State.leave_crew⟩

/-- By the key of a crew, which no cohort has, the event concerns the crew alone. -/
theorem cohortRetire_crew {s : State} {k : Nat} {cr : Crew} (hc : s.cohort k = none) (hk : s.crew k = some cr) :
    cohortRetire k s = if (s.cohortsOf k).isEmpty && s.crewMay cr then s.crewRetire k else s := by
  unfold cohortRetire
  simp only [hc, hk]

/-! ### STORE_ENTRY_GRANT (15 R319) -/

theorem exec_storeEntryGrant {s t : State} (h : storeEntryGrant s = t) : exec .storeEntryGrant s = .next t :=
  congrArg Host.Outcome.next h

theorem storeEntryGrant_full {s : State} (h : s.storeFree = false) : storeEntryGrant s = s := by
  unfold storeEntryGrant
  exact if_pos (by simp [h])

theorem storeEntryGrant_noRequest {s : State} (h : s.storeWait.find? s.mayServe = none) : storeEntryGrant s = s := by
  unfold storeEntryGrant
  simp only [h, ite_self]

/-- The oldest request that can be served, of a spawnw: its threads issue again. -/
theorem storeEntryGrant_spawnw {s : State} {k : Nat} {ts : List Nat} (hf : s.storeFree = true)
    (h : s.storeWait.find? s.mayServe = some (.spawnw k ts)) : storeEntryGrant s = s.onCohort k fun c =>
      (c.mapT (fun t => decide (t.st = .waiting .spawn) && ts.contains t.tid) fun t => { t with st := .eligible }).settle := by
  unfold storeEntryGrant
  simp only [h]
  exact if_neg (by simp [hf])

theorem State.mayServe_spawnw {s : State} {k : Nat} {ts : List Nat} {c : Cohort} (hc : s.cohort k = some c) :
    s.mayServe (.spawnw k ts) = true ↔
      (s.crewOf c).shadow = false ∧ ∃ t ∈ c.threads, t.tid ∈ ts ∧ (c.tmode = false ∨ t.inH = true) := by
  simp [State.mayServe, hc]

/-! ### IDLE_CORE_REQUEST (15 R326) -/

theorem exec_idleCoreRequest {core : Nat} {s t : State} (h : idleRequest core s = t) :
    exec (.idleCoreRequest core) s = .next t := congrArg Host.Outcome.next h

theorem idleRequest_busy {s : State} {core : Nat} (h : (s.core core).task ≠ none) : idleRequest core s = s := by
  unfold idleRequest
  exact if_pos (Option.isSome_iff_ne_none.mpr h)

/-- The only launch, of which a crew fits the core, gives it a task. -/
theorem idleRequest_only {s : State} {core a b : Nat} {l : Launch} (h : (s.core core).task = none) (hs : s.launches = [l])
    (ht : l.tasks = [(a, b)]) (hco : l.lrec.cosched = false) (hp : (s.placeOne l.handle core a).isSome = true) :
    idleRequest core s = s.takeTask core l := by
  obtain ⟨u, hu⟩ := Option.isSome_iff_exists.mp hp
  simp [idleRequest, h, hs, ht, hco, hu, sortBy, insertBy]

/-- A core reads back the task that it is given. -/
theorem State.setTask_some (s : State) (core : Nat) (t : Nat × Nat × Nat) :
    ((s.setTask core (some t)).core core).task = some t := by
  refine congrArg CoreSt.task (Tab.read_put_self _ _ _ _ fun he => ?_)
  simpa using congrArg CoreSt.task he

theorem State.takeTask_whole {s : State} {core a b : Nat} {l : Launch} (ht : l.tasks = [(a, b)]) (hn : b - a ≤ l.lrec.grain) :
    s.takeTask core l = (s.shrinkHolder l.handle (a, b) none).setTask core (some (l.handle, a, b)) := by
  unfold State.takeTask
  simp only [ht]
  exact if_pos hn

/-- A task larger than GRAIN is cut, and the core takes the upper part. -/
theorem State.takeTask_upper {s : State} {core a b : Nat} {l : Launch} (hs : s.launches = [l]) (ht : l.tasks = [(a, b)])
    (hn : ¬ b - a ≤ l.lrec.grain) :
    let m := max ((b - a) / 2) l.lrec.grain
    (s.takeTask core l).crews = s.crews ∧ (s.takeTask core l).launches = [{ l with tasks := [(a, b - m), (b - m, b)] }] ∧
      ((s.takeTask core l).core core).task = some (l.handle, b - m, b) := by
  unfold State.takeTask
  simp only [ht, if_neg hn]
  refine ⟨rfl, ?_, State.setTask_some _ _ _⟩
  simp [State.setTask, State.shrinkHolder, State.onLaunch, Launch.retask, mapIf, hs, ht]

/-! ### CREW_PLACEMENT (15 R327, 03 R72) -/

theorem exec_crewPlacement {core : Nat} {s t : State} (h : crewPlacement core s = t) :
    exec (.crewPlacement core) s = .next t := congrArg Host.Outcome.next h

/-- A cohort as a crew starts with it: the launch's argument in s0, every thread eligible at its role's entry. -/
def Cohort.StartsIn (c : Cohort) (cr : Crew) (arg : Nat) : Prop :=
  c.crew = cr.key ∧ c.sr 0 = BitVec.ofNat 64 arg ∧ c.fpst = 0 ∧ c.mstat = 0 ∧ c.tmode = false ∧
    ∀ t ∈ c.threads, t.st = .eligible ∧ t.v = [] ∧ t.p = 0 ∧ t.pc = BitVec.ofNat 64 (cr.hdr.text + (cr.role c.role).entry)

theorem startsIn_of_startCohorts {cr : Crew} {arg key : Nat} {c : Cohort} (h : c ∈ startCohorts cr arg key) :
    c.StartsIn cr arg := by
  obtain ⟨e, -, rfl⟩ := List.mem_map.mp h
  refine ⟨rfl, Tab.read_put (lo := 0) rfl 0 _, rfl, rfl, rfl, fun t ht => ?_⟩
  obtain ⟨j, -, rfl⟩ := List.mem_map.mp ht
  exact ⟨rfl, rfl, rfl, rfl⟩

/-- Seating gives cohorts their places and changes nothing else of them. -/
theorem mem_seatPlaces {used : Nat → List Nat} {l : List Cohort} {c : Cohort} (h : c ∈ seatPlaces used l) :
    ∃ d ∈ l, ∃ p, c = { d with place := p } := by
  induction l generalizing used with
  | nil => cases h
  | cons d l ih =>
    rcases List.mem_cons.mp h with h | h
    · exact ⟨d, List.mem_cons_self .., _, h⟩
    · obtain ⟨e, he, hp⟩ := ih h
      exact ⟨e, List.mem_cons_of_mem _ he, hp⟩

/-- From `s` to `t` one crew has been placed, of launch `h` with argument `arg` and with index `a`, on a core. -/
def State.Placed (s t : State) (h arg a core : Nat) : Prop :=
  (Tab.wf {} s.cores = true → Tab.wf {} t.cores = true) ∧ ∃ cr cs, t.crews = s.crews ++ [cr] ∧ cr.launch = h ∧ cr.index = a ∧
    cr.core = core ∧ t.cohorts = s.cohorts ++ cs ∧ ∀ c ∈ cs, c.StartsIn cr arg

theorem State.putCrew_placed (s : State) (l : Launch) (jd : JobDesc) (core a : Nat) (hd : Header) (z : Seat) :
    s.Placed (s.putCrew l jd core a hd z) l.handle l.lrec.arg a core := by
  unfold State.putCrew
  extract_lets reads key cr cs first met flashed
  have hm : s.SameHolders met := ((State.SameHolders.refl s).freshText _ _ _).meetVa _ _ _ _ _
  have hf : s.SameHolders flashed := (hm.flash core).ite hm
  have hi := (State.SameHolders.refl { flashed with
    fresh := key + 1 + cs.length, crews := flashed.crews ++ [cr], cohorts := flashed.cohorts ++ cs }).initSpad cr
  refine ⟨fun w => hi.cores (hf.cores w), cr, cs, hi.crews.trans (congrArg (· ++ [cr]) hf.crews), rfl, rfl, rfl,
    hi.cohorts.trans (congrArg (· ++ cs) hf.cohorts), fun c hc => ?_⟩
  obtain ⟨d, hd, p, rfl⟩ := mem_seatPlaces hc
  have hs : d.StartsIn cr l.lrec.arg := startsIn_of_startCohorts hd
  exact hs

/-- A launch after a change of a launch that keeps its handle. -/
theorem State.launch_onLaunch (s : State) (k j : Nat) {f : Launch → Launch} (h : ∀ l, (f l).handle = l.handle) :
    (s.onLaunch k f).launch j = if j = k then (s.launch k).map f else s.launch j :=
  find?_mapIf Launch.handle k j f h s.launches

/-- The first placement of a launch is work in memory and a change of the launch that keeps its record. -/
theorem State.tbBegin_eq (s : State) (jd : JobDesc) (l : Launch) (d : Nat) (rs : List (Nat × TbRead)) : ∃ v f,
    s.SameHolders v ∧ s.tbBegin jd l d rs = v.onLaunch l.handle f ∧ ∀ x, (f x).handle = x.handle ∧ (f x).lrec = x.lrec := by
  unfold State.tbBegin
  extract_lets read written waits order
  have hr : s.SameHolders read := (State.SameHolders.refl s).foldl fun _ _ _ hs => hs.tbBeginRead _ _ _
  have hw : s.SameHolders written := hr.foldl fun _ _ _ hs => hs.onHome _ _ _
  exact ⟨{ written with fresh := order + 1 }, _, hw.update (by rfl), rfl, fun _ => ⟨rfl, rfl⟩⟩

/-- A launch that may be placed: no crew or cohort is touched by what its first placement takes, and its record stays. -/
theorem State.placeHead_keeps {s u : State} {h : Nat} {l : Launch} (hl : s.launch h = some l) (hu : s.placeHead h = some u) :
    u.crews = s.crews ∧ u.cohorts = s.cohorts ∧ (Tab.wf {} s.cores = true → Tab.wf {} u.cores = true) ∧
      ∃ l', u.launch h = some l' ∧ l'.handle = h ∧ l'.lrec = l.lrec := by
  have hh : l.handle = h := by simpa using List.find?_some hl
  unfold State.placeHead at hu
  simp only [hl] at hu
  split at hu
  · cases hu
  rename_i jd _
  split at hu
  · cases hu
  split at hu
  · cases hu
    exact ⟨rfl, rfl, id, l, hl, hh, rfl⟩
  obtain ⟨p, -, rfl⟩ := Option.map_eq_some_iff.mp hu
  obtain ⟨v, f, hv, e, hf⟩ := s.tbBegin_eq jd l p.1 p.2
  have hlv : v.launch h = some l := by
    unfold State.launch
    rw [hv.launches]
    exact hl
  rw [e, hh]
  refine ⟨hv.crews, hv.cohorts, hv.cores, f l, ?_, (hf l).1.trans hh, (hf l).2⟩
  rw [State.launch_onLaunch _ _ _ fun x => (hf x).1, if_pos rfl, hlv]
  rfl

/-- One crew placed: the launch is eligible, its header can be read and a seat is free. -/
theorem State.placeOne_placed {s t : State} {h core a : Nat} {l : Launch} (hl : s.launch h = some l)
    (ht : s.placeOne h core a = some t) : s.Placed t h l.lrec.arg a core := by
  unfold State.placeOne at ht
  split at ht
  · cases ht
  rename_i u hu
  obtain ⟨hcrews, hcohorts, hcores, l', hl', hh, hrec⟩ := State.placeHead_keeps hl hu
  simp only [hl'] at ht
  split at ht
  · cases ht
  split at ht
  · cases ht
  split at ht
  · cases ht
  obtain ⟨z, -, rfl⟩ := Option.map_eq_some_iff.mp ht
  obtain ⟨hw, cr, cs, hcr, hlaunch, hindex, hcore, hcs, hstarts⟩ := u.putCrew_placed l' _ core a _ z
  exact ⟨fun w => hw (hcores w), cr, cs, hcrews ▸ hcr, hlaunch.trans hh, hindex, hcore, hcohorts ▸ hcs, hrec ▸ hstarts⟩

section
variable {s : State} {core h a b : Nat} {l : Launch} (ht : (s.core core).task = some (h, a, b)) (hl : s.launch h = some l)
  (hm : (a, b) ∈ l.tasks)
include ht hl hm

theorem crewPlacement_none (hp : s.placeOne h core a = none) : crewPlacement core s = s := by
  unfold crewPlacement
  simp [ht, hl, hm, hp]

/-- A crew of the task's lowest index is placed, and the core keeps the rest of the task. -/
theorem crewPlacement_placed {t : State} (hw : Tab.wf {} s.cores = true) (hp : s.placeOne h core a = some t) :
    s.Placed (crewPlacement core s) h l.lrec.arg a core ∧
      ((crewPlacement core s).core core).task = if a + 1 < b then some (h, a + 1, b) else none := by
  obtain ⟨hcores, hrest⟩ := State.placeOne_placed hl hp
  have e : crewPlacement core s =
      ((t.onLaunch h fun l => l.retask (a, b) (if a + 1 < b then [(a + 1, b)] else [])).entryEnd h).setTask core
        ((if a + 1 < b then [(a + 1, b)] else []).head?.map fun r => (h, r)) := by
    unfold crewPlacement
    simp [ht, hl, hm, hp]
  rw [e]
  refine ⟨⟨fun w => Tab.wf_put core _ (hcores w), hrest⟩, ?_⟩
  refine (congrArg CoreSt.task (Tab.read_put (lo := 0) (hcores hw) core _)).trans ?_
  by_cases hab : a + 1 < b <;> simp [hab]

end

/-! ### O45 -/

/-- Settles O45: a retirement touches the cohort, its units and its crew, since what the end of a launch does in memory keeps the
units; the store and the idle core follow their definitions case by case; a placement adds one crew, since the first placement's
work in memory keeps every cohort and crew. -/
theorem launchEvents : Obligations.LaunchEvents := by
  unfold Obligations.LaunchEvents
  refine ⟨fun s k c hc hk => ⟨fun hr h => ?_, fun h => exec_cohortRetire (cohortRetire_stays hc h)⟩,
    fun s k cr hc hk => ⟨fun he hm => ?_, fun h => ?_⟩,
    fun s => ⟨fun h => exec_storeEntryGrant (storeEntryGrant_full h), fun h => exec_storeEntryGrant (storeEntryGrant_noRequest h),
      fun k ts hf h => exec_storeEntryGrant (storeEntryGrant_spawnw hf h)⟩,
    fun s k ts c hc => State.mayServe_spawnw hc,
    fun s core => ⟨fun h => exec_idleCoreRequest (idleRequest_busy h), fun l a b h hs ht hco hp _ _ => ?_⟩,
    fun s core h a b l hw ht hl hm => ⟨fun hp => exec_crewPlacement (crewPlacement_none ht hl hm hp), fun hp => ?_⟩⟩
  · exact ⟨_, exec_cohortRetire rfl, cohortRetire_retires hc hk hr h⟩
  · exact ⟨_, exec_cohortRetire ((cohortRetire_crew hc hk).trans (if_pos (by simp [he, hm]))), (s.crewRetire_frame k).1⟩
  · refine exec_cohortRetire ((cohortRetire_crew hc hk).trans (if_neg ?_))
    rcases h with h | h <;> simp [h]
  · have e := exec_idleCoreRequest (idleRequest_only h hs ht hco hp)
    by_cases hn : b - a ≤ l.lrec.grain
    · rw [State.takeTask_whole ht hn] at e
      exact ⟨_, l, e, rfl, hs, by rw [if_pos hn]; exact ⟨rfl, State.setTask_some _ _ _⟩⟩
    · obtain ⟨hcrews, hlaunches, htask⟩ := State.takeTask_upper (core := core) hs ht hn
      exact ⟨_, _, e, hcrews, hlaunches, by rw [if_neg hn]; exact ⟨rfl, htask⟩⟩
  · obtain ⟨u, hu⟩ := Option.isSome_iff_exists.mp hp
    obtain ⟨⟨-, cr, cs, hcrews, hlaunch, hindex, hcore, hcohorts, hstarts⟩, htask⟩ := crewPlacement_placed ht hl hm hw hu
    exact ⟨_, cr, cs, exec_crewPlacement rfl, hcrews, hlaunch, hindex, hcore, hcohorts, htask, hstarts⟩

end Sys2Proof.Machine
end
section
/-!
PROOFS. Integer: the scalar, vector and predicate forms, row by row of their tables (O1-O4): a row runs in one of the two shared
frames of Operands.lean with the row's own function.
-/

namespace Sys2Proof.Machine

/-! ### Tables of forms that run in one frame -/

section
variable {γ : Type} {s : State} {c : Cohort} {g : Nat} {l : List (Instr × Info × γ)}

/-- Row `e` runs in the frame `frame` with its words and the guard field `g`. -/
def RunsIn (s : State) (g : Nat) (frame : Info → γ → Out) (e : Instr × Info × γ) : Prop :=
  exec e.1 s = frame e.2.1 e.2.2 ∧ e.2.1.len = (encode e.1).length ∧ e.2.1.g = g

theorem cohortRows_complete {f : γ → Cohort → Cohort} (hf : ∀ x c, (f x c).key = c.key)
    (hl : ∀ e ∈ l, RunsIn s g (fun i x => perCohort i s (f x)) e) :
    ∀ e ∈ l, Issues s e.2.1 c → Completes e.1 s c fun c => if c.guard g then f e.2.2 c else c := by
  intro e he h
  obtain ⟨hx, hn, rfl⟩ := hl e he
  exact perCohort_completes hx hn (hf e.2.2) h

theorem cohortRows_always {f : γ → Cohort → Cohort} (hf : ∀ x c, (f x c).key = c.key)
    (hl : ∀ e ∈ l, RunsIn s 7 (fun i x => perCohort i s (f x)) e) :
    ∀ e ∈ l, Issues s e.2.1 c → Completes e.1 s c (f e.2.2) := fun e he h =>
  completes_congr (by simp only [Issues.guard7 h, if_true]) (cohortRows_complete hf hl e he h)

theorem laneRows_complete {f : γ → Cohort → Thread → Thread} (hl : ∀ e ∈ l, RunsIn s g (fun i x => perLane i s (f x)) e) :
    ∀ e ∈ l, Issues s e.2.1 c → Completes e.1 s c fun c => c.mapT (·.acts g) (f e.2.2 c) := by
  intro e he h
  obtain ⟨hx, hn, rfl⟩ := hl e he
  exact perLane_completes hx hn h

theorem laneRows_always {f : γ → Cohort → Thread → Thread} (hl : ∀ e ∈ l, RunsIn s 7 (fun i x => perLane i s (f x)) e) :
    ∀ e ∈ l, Issues s e.2.1 c → Completes e.1 s c fun c => c.mapT (·.act) (f e.2.2 c) := fun e he h =>
  completes_congr (by simp only [acts7]) (laneRows_complete hl e he h)

end

/-! ### What the tables and the model write differently -/

theorem ite_toInt_le {w : Nat} {α : Type} (x y : BitVec w) (u v : α) :
    (if x.toInt ≤ y.toInt then u else v) = if x.sle y then u else v := by
  simp only [sle_toInt, decide_eq_true_eq]

theorem ite_toNat_le {w : Nat} {α : Type} (x y : BitVec w) (u v : α) :
    (if x.toNat ≤ y.toNat then u else v) = if x.ule y then u else v := by
  simp only [ule_toNat, decide_eq_true_eq]

/-- sat of 00 R5 is a bound on both sides. -/
theorem satInt_eq_max_min (x : Int) {lo hi : Int} (h : lo ≤ hi) : satInt x lo hi = max lo (min hi x) := by
  unfold satInt
  split
  case isTrue hx => omega
  case isFalse hx => split <;> omega

theorem ofInt_max_min (x : Int) : BitVec.ofInt 32 (max (-2147483648) (min 2147483647 x)) = sat32 x :=
  congrArg (BitVec.ofInt 32) (satInt_eq_max_min x (by decide)).symm

theorem ofInt_natAbs (x : Word) : BitVec.ofInt 32 x.toInt.natAbs = if x.msb then 0 - x else x := by
  rw [BitVec.msb_eq_toInt]
  by_cases h : x.toInt < 0
  · rw [if_pos (decide_eq_true h), Int.ofNat_natAbs_of_nonpos (by omega), BitVec.ofInt_neg, BitVec.ofInt_toInt]
    exact (BitVec.zero_sub x).symm
  · rw [if_neg (by simpa using h), Int.natAbs_of_nonneg (by omega), BitVec.ofInt_toInt]

theorem bit_toNat {w : Nat} (x : BitVec w) (k : Nat) : bit x.toNat k = x.getLsbD k := by
  rw [BitVec.getLsbD, Nat.testBit_eq_decide_div_mod_eq]; rfl

theorem countP_getLsbD (x : Word) (n : Nat) : ((List.range n).countP fun k => x.getLsbD k) = popc x.toNat n := by
  induction n with
  | zero => rfl
  | succ n ih =>
    rw [List.range_succ, List.countP_append, List.countP_singleton, popc, ih, bit_toNat]
    cases x.getLsbD n <;> simp [Nat.add_comm]

theorem ofNat_toNat_mod {k w : Nat} (x : BitVec w) : BitVec.ofNat w (x.toNat % 2 ^ k) = (x.truncate k).zeroExtend w := by
  apply BitVec.eq_of_toNat_eq; simp

/-! ### O1-O3 -/

/-- Settles O1: each form is a scalar result of its row's function. -/
theorem scalarArithmetic : Obligations.ScalarArithmetic := by
  unfold Obligations.ScalarArithmetic
  refine ⟨fun s c d a b g => cohortRows_complete
      (f := fun (f : Dword → Dword → Dword) c => c.setS d (f (a.val c) (b.val c))) (fun _ c => c.key_setS d _) ?_,
    fun s c d a imm => cohortRows_always (f := fun (f : Dword → Dword) c => c.setS d (f (c.sr a))) (fun _ c => c.key_setS d _) ?_,
    fun s c d a n => cohortRows_always (f := fun (f : Dword → Dword) c => c.setS d (f (c.sr a))) (fun _ c => c.key_setS d _) ?_,
    fun s c d imm h => scalarOp_always rfl rfl rfl h⟩
  · simp only [List.forall_mem_cons, List.not_mem_nil, false_imp_iff, implies_true, and_true, ite_toInt_le, ite_toNat_le]
    and_intros <;> rfl
  · simp only [List.forall_mem_cons, List.not_mem_nil, false_imp_iff, implies_true, and_true]
    and_intros <;> rfl
  · simp only [List.forall_mem_cons, List.not_mem_nil, false_imp_iff, implies_true, and_true]
    and_intros <;> rfl

/-- Settles O2: each form writes whether its row's condition holds. -/
theorem integerCompare : Obligations.IntegerCompare := by
  unfold Obligations.IntegerCompare
  refine ⟨fun s c d a b g => cohortRows_complete
      (f := fun (f : Dword → Dword → Bool) c => c.mapT (·.act) fun t => t.setP d (f (a.val c) (b.val c))) (fun _ _ => rfl) ?_,
    fun s c d a b g => laneRows_complete (f := fun (f : Word → Word → Bool) c t => t.setP d (f (t.vr a) (b.val c t))) ?_⟩
  · simp only [List.forall_mem_cons, List.not_mem_nil, false_imp_iff, implies_true, and_true, ne_eq, decide_not]
    and_intros <;> rfl
  · simp only [List.forall_mem_cons, List.not_mem_nil, false_imp_iff, implies_true, and_true, ne_eq, decide_not]
    and_intros <;> rfl

/-- Settles O3: each form is a vector result of its row's function, vsel one of every active lane. -/
theorem vectorArithmetic : Obligations.VectorArithmetic := by
  unfold Obligations.VectorArithmetic
  refine ⟨fun s c d a b g => laneRows_complete (f := fun (f : Word → Word → Word) c t => t.setV d (f (t.vr a) (b.val c t))) ?_,
    fun s c d a g => laneRows_complete (f := fun (f : Word → Word) _ t => t.setV d (f (t.vr a))) ?_,
    fun s c d a b g => laneRows_complete
      (f := fun (f : Word → Word → Word → Word) c t => t.setV d (f (t.vr a) (b.val c t) (t.vr d))) ?_,
    fun s c d a b g h => perLane_always rfl rfl rfl h,
    fun s c d a imm => laneRows_always (f := fun (f : Word → Word) _ t => t.setV d (f (t.vr a))) ?_,
    fun s c d a n => laneRows_always (f := fun (f : Word → Word) _ t => t.setV d (f (t.vr a))) ?_,
    fun s c d imm h => perLane_always rfl rfl rfl h⟩
  · simp only [List.forall_mem_cons, List.not_mem_nil, false_imp_iff, implies_true, and_true, ite_toInt_le, ite_toNat_le,
      ofInt_max_min]
    and_intros <;> rfl
  · simp only [List.forall_mem_cons, List.not_mem_nil, false_imp_iff, implies_true, and_true, ofInt_natAbs, countP_getLsbD,
      ofNat_toNat_mod]
    and_intros <;> rfl
  · simp only [List.forall_mem_cons, List.not_mem_nil, false_imp_iff, implies_true, and_true]
    and_intros <;> rfl
  · simp only [List.forall_mem_cons, List.not_mem_nil, false_imp_iff, implies_true, and_true]
    and_intros <;> rfl
  · simp only [List.forall_mem_cons, List.not_mem_nil, false_imp_iff, implies_true, and_true]
    and_intros <;> rfl

/-! ### The words of major 0x0A (05 R112) -/

theorem decode_ok {w : Word} {ws rest : List Word} {i : Instr} (h : decode (w :: ws) = .ok (i, rest)) :
    readFields w.toNat ws = some i ∧ i.wellFormed = true ∧ startsWith (encode i) (w :: ws) = true := by
  simp only [decode] at h
  split at h
  case h_1 => cases h
  case h_2 j hj =>
    split at h
    case isFalse => cases h
    case isTrue hw =>
      split at h
      case isFalse => cases h
      case isTrue hs =>
        cases h
        exact ⟨hj, hw, hs⟩

theorem readFields_0A {w : Word} (ws : List Word) (h : wOp w = 10) : readFields w.toNat ws = read0A w.toNat ws := by
  unfold wOp at h
  unfold readFields
  simp only [h]
  rfl

/-- A legal word of PRED: fields that name a predicate, SB = 0, six values of FN, and no B in the two forms without it. -/
def PredWord (w : Word) : Prop :=
  ∃ d a b g fn, asmA 10 d a b 0 g fn = w ∧ d < 8 ∧ a < 8 ∧ b < 8 ∧ g < 8 ∧ fn < 6 ∧ (4 ≤ fn → b = 0)

section
variable {w : Word} {ws : List Word} {d a b g fn : Nat}

theorem eq_of_startsWith {x : Word} (h : startsWith [x] (w :: ws) = true) : x = w := by
  simpa only [startsWith, Bool.and_true, beq_iff_eq] using h

theorem predWord_binary (hs : startsWith [asmA 10 d a b 0 g fn] (w :: ws) = true)
    (hw : (okP d && okP a && okP b && okG g) = true) (hfn : fn < 4) : PredWord w := by
  simp only [okP, okG, Bool.and_eq_true, decide_eq_true_eq] at hw
  obtain ⟨⟨⟨hd, ha⟩, hb⟩, hg⟩ := hw
  exact ⟨d, a, b, g, fn, eq_of_startsWith hs, hd, ha, hb, hg, by omega, by omega⟩

theorem predWord_unary (hs : startsWith [asmA 10 d a 0 0 g fn] (w :: ws) = true)
    (hw : (okP d && okP a && okG g) = true) (hfn : fn < 6) : PredWord w := by
  simp only [okP, okG, Bool.and_eq_true, decide_eq_true_eq] at hw
  obtain ⟨⟨hd, ha⟩, hg⟩ := hw
  exact ⟨d, a, 0, g, fn, eq_of_startsWith hs, hd, ha, by decide, hg, hfn, fun _ => rfl⟩

end

theorem predWord_of_decode {w : Word} {ws rest : List Word} {i : Instr} (hop : wOp w = 10)
    (h : decode (w :: ws) = .ok (i, rest)) : PredWord w := by
  obtain ⟨hr, hw, hs⟩ := decode_ok h
  rw [readFields_0A ws hop] at hr
  unfold read0A at hr
  split_ifs at hr <;> obtain rfl := Option.some.inj hr
  · exact predWord_binary hs hw (by decide)
  · exact predWord_binary hs hw (by decide)
  · exact predWord_binary hs hw (by decide)
  · exact predWord_binary hs hw (by decide)
  · exact predWord_unary hs hw (by decide)
  · exact predWord_unary hs hw (by decide)

/-- Its fields, as a statement names them. -/
theorem PredWord.fields {w : Word} (h : PredWord w) : wFn w < 6 ∧ w.getLsbD 7 = false ∧ w.toNat / 2 ^ 20 % 64 < 8 ∧
    w.toNat / 2 ^ 14 % 64 < 8 ∧ w.toNat / 2 ^ 8 % 64 < 8 ∧ (4 ≤ wFn w → w.toNat / 2 ^ 8 % 64 = 0) := by
  obtain ⟨d, a, b, g, fn, rfl, hd, ha, hb, hg, hfn, hz⟩ := h
  obtain ⟨-, fd, fa, fb, fsb, -, ffn⟩ := asmA_fields (op := 10) (d := d) (a := a) (b := b) (sb := 0) (g := g) (fn := fn)
    (by omega) (by omega) (by omega) (by omega) (by omega) hg (by omega)
  rw [bit_toNat] at fsb
  unfold wFn
  rw [ffn]
  exact ⟨hfn, fsb, fd.trans_lt hd, fa.trans_lt ha, fb.trans_lt hb, fun h => fb.trans (hz h)⟩

/-- Settles O4: each form is a predicate result of its row's function, and a legal word is the encoding of one. -/
theorem predicateLogic : Obligations.PredicateLogic := by
  unfold Obligations.PredicateLogic
  refine ⟨fun s c d a b g => laneRows_complete (f := fun (f : Bool → Bool → Bool) _ t => t.setP d (f (t.pr a) (t.pr b))) ?_,
    fun t => t.pr_7, fun t b => t.setP_7 b, fun d a b g _ _ _ _ => ⟨rfl, rfl, rfl, rfl, rfl, rfl⟩, fun w ws hop h => ?_⟩
  · simp only [List.forall_mem_cons, List.not_mem_nil, false_imp_iff, implies_true, and_true, ne_eq, decide_not]
    and_intros <;> rfl
  · cases hd : decode (w :: ws) with
    | error r => exact ⟨r, rfl⟩
    | ok p =>
      obtain ⟨hfn, hsb, hd, ha, hb, hz⟩ := (predWord_of_decode hop hd).fields
      simp only [hsb, Bool.false_eq_true, false_or] at h
      omega

end Sys2Proof.Machine
end

section
/-!
PROOFS. Transfers: br, call, meet, ret, brx, callx, mrget and mrset (O17, O18): what the check of their targets answers, and the two
outcomes of a transfer.
-/

namespace Sys2Proof.Machine

/-! ### Going on in one cohort -/

theorem State.goesOn_trans {s t u : State} {k : Nat} (a : s.goesOn t k) (b : t.goesOn u k) : s.goesOn u k := by
  obtain ⟨a1, c, d, hc, hd, hf⟩ := a
  obtain ⟨b1, d', e, hd', he, hg⟩ := b
  cases hd.symm.trans hd'
  exact ⟨State.onlyCohort_trans a1 b1, c, e, hc, he, Cohort.flow_trans hf hg⟩

theorem Cohort.flow_of_eq {c d : Cohort} (h : c = d) : c.flow d := h ▸ c.flow_refl

/-- Two changes of the cohort of a key, of which one goes on from the other in the cohort that is found. -/
theorem State.goesOn_onCohort {s : State} {k : Nat} {c : Cohort} {f f' : Cohort → Cohort} (hc : s.cohort k = some c)
    (hk : ∀ c, (f c).key = c.key) (hk' : ∀ c, (f' c).key = c.key) (hf : (f c).flow (f' c)) :
    (s.onCohort k f).goesOn (s.onCohort k f') k := by
  refine ⟨⟨rfl, fun j hj => ?_, fun _ => rfl⟩, f c, f' c, ?_, ?_, hf⟩
  · rw [State.cohort_onCohort _ _ _ _ hk, State.cohort_onCohort _ _ _ _ hk', if_neg hj, if_neg hj]
  · rw [State.cohort_onCohort _ _ _ _ hk, if_pos rfl, hc]; rfl
  · rw [State.cohort_onCohort _ _ _ _ hk', if_pos rfl, hc]; rfl

section
variable {i : Instr} {n : Info} {s : State} {c : Cohort} {body : Cohort → State → Res} {r : Bool}

/-- An instruction whose answer goes on from an effect moves its threads by that effect. -/
theorem moves_of_goesOn {u : State} {e : State → State} (he : exec i s = issue n s body) (h : Issues s n c)
    (hb : body c s.unheld = .moved u r) (hg : (e s.unheld).goesOn u c.key) : Moves i s c e := by
  obtain ⟨-, -, d, -, hd, -⟩ := id hg
  obtain ⟨t, ht, hu⟩ := issue_moved h hb hd
  exact ⟨t, he.trans ht, State.goesOn_trans hg hu⟩

/-- The effect on the cohort itself is all that matters. -/
theorem moves_onCohort {f f' : Cohort → Cohort} (he : exec i s = issue n s body) (h : Issues s n c)
    (hb : body c s.unheld = .moved (s.unheld.onCohort c.key f') r) (hk : ∀ c, (f c).key = c.key)
    (hk' : ∀ c, (f' c).key = c.key) (hf : f c = f' c) : Moves i s c fun s => s.onCohort c.key f :=
  moves_of_goesOn he h hb (State.goesOn_onCohort (State.cohort_of_issuer h.1) hk hk' (Cohort.flow_of_eq hf))

end

/-! ### The winners of causes that differ in the thread alone (09 R194) -/

theorem winners_uniform {l : List LCause} {code detail info entry : Nat}
    (h : ∀ x ∈ l, x = ⟨x.tid, code, detail, info, entry⟩) : winners l = l := by
  by_cases hn : l = []
  · rw [hn]; rfl
  have hcode : ∀ x ∈ l, causeRank x.code = causeRank code := fun x hx => congrArg (fun x : LCause => causeRank x.code) (h x hx)
  have hbest : leastD 12 (l.map fun c => causeRank c.code) = causeRank code := by
    refine leastD_of_all (fun r hr => ?_) (by simpa using hn)
    obtain ⟨x, hx, rfl⟩ := List.mem_map.mp hr
    exact hcode x hx
  have htop : (l.filter fun c => causeRank c.code == causeRank code) = l :=
    List.filter_eq_self.mpr fun x hx => beq_iff_eq.mpr (hcode x hx)
  simp only [winners, hbest, htop]
  refine List.filter_eq_self.mpr fun x hx => beq_iff_eq.mpr ?_
  obtain ⟨y, hy⟩ := Option.isSome_iff_exists.mp (List.find?_isSome (p := fun y : LCause => y.tid == x.tid).mpr
    ⟨x, hx, beq_self_eq_true x.tid⟩)
  have htid : y.tid = x.tid := by simpa using List.find?_some hy
  rw [hy, h y (List.mem_of_find?_eq_some hy), htid, ← h x hx]

/-! ### The check of targets (02 R40, 05 R119) -/

section
variable {s : State} {cr : Crew}

theorem State.badTarget_outside {a : Nat} (h : a % 4 ≠ 0 ∨ a < cr.hdr.text ∨ cr.hdr.text + cr.hdr.tlen ≤ a) :
    s.badTarget cr a = some (8, a) := by
  have ht : cr.inText a = false := by
    simp only [Crew.inText, Bool.and_eq_false_iff, beq_eq_false_iff_ne, decide_eq_false_iff_not]
    omega
  unfold State.badTarget
  rw [ht]; rfl

theorem State.badTarget_inside {a : Nat} (h4 : a % 4 = 0) (hlo : cr.hdr.text ≤ a) (hhi : a < cr.hdr.text + cr.hdr.tlen) :
    s.badTarget cr a = match s.mapBit cr a with
      | .ok true => none
      | .ok false => some (8, a)
      | .error e => some e := by
  have ht : cr.inText a = true := by simp [Crew.inText, h4, hlo, hhi]
  unfold State.badTarget
  rw [ht]
  cases s.mapBit cr a with
  | error e => rfl
  | ok b => cases b <;> rfl

@[simp] theorem State.unheld_badTarget (s : State) (cr : Crew) (a : Nat) : s.unheld.badTarget cr a = s.badTarget cr a := rfl
@[simp] theorem State.unheld_crewOf (s : State) (c : Cohort) : s.unheld.crewOf c = s.crewOf c := rfl

/-- The cause of a thread whose target fails: BAD_TARGET, or that of a map byte that cannot be read, with DETAIL 4. -/
def targetCause (e : Nat × Nat) (tid : Nat) : LCause := ⟨tid, e.1, if e.1 = 8 then 0 else 4, e.2, 0⟩

/-- The causes of the threads whose targets fail. -/
def State.failing (s : State) (cr : Crew) (l : List (Nat × Dword)) : List LCause :=
  l.filterMap fun e => (s.badTarget cr e.2.toNat).map fun b => targetCause b e.1

@[simp] theorem State.unheld_targetFaults (s : State) (cr : Crew) (l : List (Nat × Dword)) :
    s.unheld.targetFaults cr l = s.targetFaults cr l := by
  simp only [State.targetFaults, State.unheld_badTarget]

theorem State.targetFaults_legal {l : List (Nat × Dword)} (h : ∀ e ∈ l, s.badTarget cr e.2.toNat = none) :
    s.targetFaults cr l = [] := by
  have e : (s.failing cr l) = [] := by
    refine List.filterMap_eq_nil_iff.mpr fun x hx => ?_
    rw [h x hx]; rfl
  simp only [State.failing, targetCause] at e
  simp only [State.targetFaults, e]
  rfl

theorem State.targetFaults_failing {l : List (Nat × Dword)} {x : LCause} {xs : List LCause}
    (h : winners (s.failing cr l) = x :: xs) :
    s.targetFaults cr l = (x :: xs).map fun y => if x.code = 8 then { y with info := x.info } else y := by
  simp only [State.failing, targetCause] at h
  simp only [State.targetFaults, h]
  split
  · rfl
  · exact (List.map_id' _).symm

/-- One failing target of every thread is every thread's cause. -/
theorem State.targetFaults_one {l : List Nat} {a : Dword} {e : Nat × Nat} (h : s.badTarget cr a.toNat = some e) :
    s.targetFaults cr (l.map fun tid => (tid, a)) = l.map (targetCause e) := by
  have hf : s.failing cr (l.map fun tid => (tid, a)) = l.map (targetCause e) := by
    unfold State.failing
    simp only [List.filterMap_map, Function.comp_def, h, Option.map_some, List.filterMap_eq_map']
  have hw : winners (s.failing cr (l.map fun tid => (tid, a))) = l.map (targetCause e) := by
    rw [hf]
    refine winners_uniform (code := e.1) (detail := if e.1 = 8 then 0 else 4) (info := e.2) (entry := 0) fun x hx => ?_
    obtain ⟨tid, -, rfl⟩ := List.mem_map.mp hx
    rfl
  cases l with
  | nil => rfl
  | cons tid l =>
    rw [State.targetFaults_failing hw]
    refine (List.map_congr_left fun y hy => ?_).trans (List.map_id _)
    rw [← List.map_cons (f := targetCause e)] at hy
    obtain ⟨t, -, rfl⟩ := List.mem_map.mp hy
    exact ite_self (targetCause e t)

end

/-! ### The two outcomes of a transfer (05 R117, R119) -/

section
variable {i : Instr} {n : Info} {s : State} {c : Cohort} {takes : Thread → Bool} {target : Thread → Dword} {lr : Bool}
  {body : Cohort → State → Res}

/-- What a transfer makes of an active thread. -/
def Thread.goesTo (t : Thread) (takes : Thread → Bool) (target : Thread → Dword) (lr : Bool) (next : Dword) : Thread :=
  if takes t then { t with pc := target t, lr := if lr then next else t.lr } else { t with pc := next }

theorem transfer_moves (he : exec i s = issue n s body) (h : Issues s n c)
    (hx : body c s.unheld = transfer c s.unheld takes target lr)
    (hl : s.targetFaults (s.crewOf c) ((c.threads.filter takes).map fun t => (t.tid, target t)) = []) :
    Moves i s c fun s => s.onCohort c.key fun d =>
      d.mapT (·.act) fun t => t.goesTo takes target lr (BitVec.ofNat 64 c.nextHeader) := by
  have hb : transfer c s.unheld takes target lr = .moved (s.unheld.onCohort c.key fun d => d.mapT (·.act) fun t =>
      t.goesTo takes target lr (BitVec.ofNat 64 c.nextHeader)) (decide (c.threads.filter takes ≠ [])) := by
    simp only [transfer, State.unheld_targetFaults, State.unheld_crewOf, hl, ne_eq, not_true_eq_false, if_false]
    rfl
  exact moves_onCohort he h (hx.trans hb) (fun _ => rfl) (fun _ => rfl) rfl

theorem transfer_raises (he : exec i s = issue n s body) (h : Issues s n c)
    (hx : body c s.unheld = transfer c s.unheld takes target lr) {l : List LCause}
    (hl : s.targetFaults (s.crewOf c) ((c.threads.filter takes).map fun t => (t.tid, target t)) = l) (hn : l ≠ []) :
    Raises i s c l := by
  refine raises_of he h (hx.trans ?_)
  simp only [transfer, State.unheld_targetFaults, State.unheld_crewOf, hl, hn, ne_eq, not_false_eq_true, if_true]

end

/-! ### br, call and meet (05 R117) -/

/-- The guard of format B, with field 7 read as true. -/
theorem Thread.actsB_eq (t : Thread) (g : Nat) (n : Bool) : t.actsB g n = (t.act && (if g = 7 then !n else t.pr g != n)) := by
  unfold Thread.actsB
  by_cases h : g = 7
  · rw [if_pos h, h, Thread.pr_7]; cases n <;> rfl
  · rw [if_neg h]

section
variable {i : Instr} {f : Info} {s : State} {c : Cohort} {g : Nat} {n lr : Bool} {off : BitVec 22}

/-- The one target of the takers: it passes, or nobody takes it. -/
theorem oneTarget_legal {ts : List Thread} {a : Dword} (hl : s.badTarget (s.crewOf c) a.toNat = none ∨ ts = []) :
    s.targetFaults (s.crewOf c) (ts.map fun t => (t.tid, a)) = [] := by
  refine State.targetFaults_legal fun e he => ?_
  obtain ⟨t, ht, rfl⟩ := List.mem_map.mp he
  rcases hl with hl | hl
  · exact hl
  · rw [hl] at ht; cases ht

theorem oneTarget_fails {ts : List Thread} {a : Dword} {e : Nat × Nat} (hb : s.badTarget (s.crewOf c) a.toNat = some e) :
    s.targetFaults (s.crewOf c) (ts.map fun t => (t.tid, a)) = ts.map fun t => targetCause e t.tid := by
  have := State.targetFaults_one (l := ts.map (·.tid)) hb
  rwa [List.map_map, List.map_map] at this

theorem branch_moves (he : exec i s = branch f g n off lr s) (h : Issues s f c)
    (hl : s.badTarget (s.crewOf c) (c.bTarget off).toNat = none ∨ c.threads.filter (·.actsB g n) = []) :
    Moves i s c fun s => s.onCohort c.key fun d =>
      d.mapT (·.act) fun t => t.goesTo (·.actsB g n) (fun _ => c.bTarget off) lr (BitVec.ofNat 64 c.nextHeader) :=
  transfer_moves he h rfl (oneTarget_legal hl)

theorem branch_raises (he : exec i s = branch f g n off lr s) (h : Issues s f c) {e : Nat × Nat}
    (hb : s.badTarget (s.crewOf c) (c.bTarget off).toNat = some e) (ht : c.threads.filter (·.actsB g n) ≠ []) :
    Raises i s c ((c.threads.filter (·.actsB g n)).map fun t => targetCause e t.tid) :=
  transfer_raises he h rfl (oneTarget_fails hb) (by simpa using ht)

theorem meet_completes (he : exec i s = Machine.meet f g n off s) (hn : f.len = (encode i).length) (h : Issues s f c)
    (hl : s.badTarget (s.crewOf c) (c.bTarget off).toNat = none ∨ c.threads.filter (·.actsB g n) = []) :
    Completes i s c fun c' => c'.mapT (·.actsB g n) fun t => { t with mr := c.bTarget off } :=
  completes_of he hn (fun _ => rfl) h
    (by simp only [State.unheld_targetFaults, State.unheld_crewOf, oneTarget_legal hl])

theorem meet_raises (he : exec i s = Machine.meet f g n off s) (h : Issues s f c) {e : Nat × Nat}
    (hb : s.badTarget (s.crewOf c) (c.bTarget off).toNat = some e) (ht : c.threads.filter (·.actsB g n) ≠ []) :
    Raises i s c ((c.threads.filter (·.actsB g n)).map fun t => targetCause e t.tid) := by
  have hf := oneTarget_fails (ts := c.threads.filter (·.actsB g n)) hb
  obtain ⟨x, xs, hx⟩ := List.exists_cons_of_ne_nil ht
  rw [hx] at hf ⊢
  exact raises_of he h (by simp only [State.unheld_targetFaults, State.unheld_crewOf, hx, hf]; rfl)

end

/-- Settles O17: the three check one target, which is legal for all takers or failing for all. -/
theorem branches : Obligations.Branches := by
  unfold Obligations.Branches
  refine ⟨fun s c g n off => ?_, fun s cr a h => State.badTarget_outside h, fun s cr a h4 hlo hhi => ?_,
    fun off => ⟨rfl, rfl, rfl⟩⟩
  · intro target takes next check takers legal bad
    have htarget : target = c.bTarget off := rfl
    have htakes : takes = (·.actsB g n) := funext fun t => (t.actsB_eq g n).symm
    clear_value target takes
    subst htarget htakes
    refine ⟨fun h => ⟨fun hl => ?_, fun e he ht => branch_raises rfl h he ht⟩,
      fun h => ⟨fun hl => branch_moves (f := infoBr 12 g n off) (lr := true) rfl h hl, fun e he ht => branch_raises rfl h he ht⟩,
      fun h => ⟨fun hl => meet_completes rfl rfl h hl, fun e he ht => meet_raises rfl h he ht⟩⟩
    have hgo : ∀ t : Thread, { t with pc := if t.actsB g n then c.bTarget off else next } =
        t.goesTo (·.actsB g n) (fun _ => c.bTarget off) false next := fun t => by
      unfold Thread.goesTo
      split <;> rfl
    simp only [hgo]
    exact branch_moves (f := infoBr 11 g n off) rfl h hl
  · refine (State.badTarget_inside h4 hlo hhi).trans ?_
    cases s.mapBit cr a with
    | error e => rfl
    | ok b => cases b <;> rfl

/-! ### Jumps to each thread's own target (05 R119, R121) -/

section
variable {i : Instr} {f : Info} {s : State} {c : Cohort} {target : Thread → Dword}

theorem ownTargets_legal {ts : List Thread} (h : ∀ t ∈ ts, s.badTarget (s.crewOf c) (target t).toNat = none) :
    s.targetFaults (s.crewOf c) (ts.map fun t => (t.tid, target t)) = [] := by
  refine State.targetFaults_legal fun e he => ?_
  obtain ⟨t, ht, rfl⟩ := List.mem_map.mp he
  exact h t ht

/-- The causes that a statement lists for failing targets win as the model's. -/
theorem ownTargets_fail {ts : List Thread} {x : LCause} {xs : List LCause}
    (h : (winners (ts.filterMap fun t => (s.badTarget (s.crewOf c) (target t).toNat).map fun e => targetCause e t.tid)) = x :: xs) :
    s.targetFaults (s.crewOf c) (ts.map fun t => (t.tid, target t)) =
      (x :: xs).map fun y => if x.code = 8 then { y with info := x.info } else y := by
  refine State.targetFaults_failing ?_
  unfold State.failing
  rw [List.filterMap_map]
  exact h

theorem jump_moves {lr : Bool} (he : exec i s = jump f target lr s) (h : Issues s f c)
    (hl : ∀ t ∈ c.actors f.g, s.badTarget (s.crewOf c) (target t).toNat = none) :
    Moves i s c fun s => s.onCohort c.key fun d =>
      d.mapT (·.act) fun t => t.goesTo (·.acts f.g) target lr (BitVec.ofNat 64 c.nextHeader) :=
  transfer_moves he h rfl (ownTargets_legal hl)

theorem jump_raises {lr : Bool} (he : exec i s = jump f target lr s) (h : Issues s f c) {x : LCause} {xs : List LCause}
    (hw : (winners ((c.actors f.g).filterMap fun t =>
      (s.badTarget (s.crewOf c) (target t).toNat).map fun e => targetCause e t.tid)) = x :: xs) :
    Raises i s c ((x :: xs).map fun y => if x.code = 8 then { y with info := x.info } else y) :=
  transfer_raises he h rfl (ownTargets_fail hw) (by simp)

theorem mrset_completes {a : Nat} (he : exec i s = mrset f a s) (hn : f.len = (encode i).length) (h : Issues s f c)
    (hl : ∀ t ∈ c.actors f.g, t.vPair a = BitVec.allOnes 64 ∨ s.badTarget (s.crewOf c) (t.vPair a).toNat = none) :
    Completes i s c fun c => c.mapT (·.acts f.g) fun t => { t with mr := t.vPair a } := by
  have hf : s.targetFaults (s.crewOf c)
      (((c.actors f.g).filter fun t => t.vPair a != BitVec.allOnes 64).map fun t => (t.tid, t.vPair a)) = [] := by
    refine ownTargets_legal (target := (·.vPair a)) fun t ht => ?_
    obtain ⟨hm, hne⟩ := List.mem_filter.mp ht
    exact (hl t hm).resolve_left (bne_iff_ne.mp hne)
  exact completes_of he hn (fun _ => rfl) h (by simp only [State.unheld_targetFaults, State.unheld_crewOf, hf])

theorem mrset_raises {a : Nat} (he : exec i s = mrset f a s) (h : Issues s f c) {x : LCause} {xs : List LCause}
    (hw : (winners (((c.actors f.g).filter fun t => t.vPair a != BitVec.allOnes 64).filterMap fun t =>
      (s.badTarget (s.crewOf c) (t.vPair a).toNat).map fun e => targetCause e t.tid)) = x :: xs) :
    Raises i s c ((x :: xs).map fun y => if x.code = 8 then { y with info := x.info } else y) := by
  have hf := ownTargets_fail (target := (·.vPair a)) hw
  exact raises_of he h (by simp only [State.unheld_targetFaults, State.unheld_crewOf, hf, List.map_cons])

end

/-- Settles O18: every acting thread's target is legal, or the winning causes of the failing ones are raised. -/
theorem jumps : Obligations.Jumps := by
  unfold Obligations.Jumps
  refine ⟨fun s c a g => ⟨fun h hl => jump_moves (f := infoGonly 14 0 g) rfl h hl,
      fun h hl => jump_moves (f := infoPairA 14 3 a g) rfl h hl, fun h hl => jump_moves (f := infoPairA 14 4 a g) rfl h hl,
      fun h hl => mrset_completes (f := infoPairA 14 6 a g) rfl rfl h hl,
      fun h x l hw => jump_raises (f := infoGonly 14 0 g) rfl h hw, fun h x l hw => jump_raises (f := infoPairA 14 3 a g) rfl h hw,
      fun h x l hw => jump_raises (f := infoPairA 14 4 a g) rfl h hw,
      fun h x l hw => mrset_raises (f := infoPairA 14 6 a g) rfl h hw⟩,
    fun s c d g h => perLane_completes (n := infoPairD 14 5 d g) rfl rfl h⟩

end Sys2Proof.Machine
end

section
/-!
PROOFS. Threads: exit, yield, csign and nop (O19): the states of the threads that reach them, and the barriers that an exit lowers.
-/

namespace Sys2Proof.Machine

/-! ### A crew's barrier words, whatever the cohorts (16 R347) -/

/-- The state with these cohorts. -/
def State.withCohorts (s : State) (cs : List Cohort) : State := { s with cohorts := cs }

section
variable {s : State} (cs : List Cohort)

theorem State.foldl_withCohorts {β : Type} {f : State → β → State} {l : List β}
    (hf : ∀ s, ∀ b ∈ l, f (s.withCohorts cs) b = (f s b).withCohorts cs) :
    l.foldl f (s.withCohorts cs) = (l.foldl f s).withCohorts cs := by
  induction l generalizing s with
  | nil => rfl
  | cons b l ih =>
    rw [List.foldl_cons, List.foldl_cons, hf s b (List.mem_cons_self ..)]
    exact ih fun s b hb => hf s b (List.mem_cons_of_mem _ hb)

theorem State.meetOne_withCohorts {e : Site × Bool} (he : e.1.inMem = true) :
    (s.withCohorts cs).meetOne e = (s.meetOne e).withCohorts cs := by
  obtain ⟨k, b⟩ := e
  unfold State.meetOne
  cases k with
  | glob | burst | chip | spad => cases b <;> rfl
  | slot | tile | vreg | sreg | priv => cases he

theorem State.meet_withCohorts {ks : List Site} (hk : ∀ k ∈ ks, k.inMem = true) :
    (s.withCohorts cs).meet ks = (s.meet ks).withCohorts cs :=
  State.foldl_withCohorts cs fun s e he => s.meetOne_withCohorts cs (hk e.1 (by simpa using (List.mem_filter.mp he).2))

theorem State.meetCrew_withCohorts (cr : Crew) (off n : Nat) :
    (s.withCohorts cs).meetCrew cr off n = (s.meetCrew cr off n).withCohorts cs := by
  unfold State.meetCrew
  by_cases hl : s.latent = []
  · exact (if_pos hl).trans (congrArg (State.withCohorts · cs) (if_pos hl).symm)
  · refine (if_neg hl).trans (.trans ?_ (congrArg (State.withCohorts · cs) (if_neg hl).symm))
    refine State.meet_withCohorts cs fun k hk => ?_
    obtain ⟨w, -, rfl⟩ := List.mem_map.mp hk
    rfl

theorem State.setBar_withCohorts (cr : Crew) (n : Nat) (b : Bar) :
    (s.withCohorts cs).setBar cr n b = (s.setBar cr n b).withCohorts cs := by
  unfold State.setBar State.crewSet
  rw [s.meetCrew_withCohorts cs]
  rfl

theorem State.barExit_withCohorts (cr : Crew) (k : Nat) :
    (s.withCohorts cs).barExit cr k = (s.barExit cr k).withCohorts cs := by
  unfold State.barExit
  split
  case isTrue => rfl
  case isFalse =>
    refine State.foldl_withCohorts cs fun s _ _ => State.foldl_withCohorts cs fun s n _ => ?_
    show (if (s.bar cr n).expect = 0 then _ else _) = State.withCohorts (if (s.bar cr n).expect = 0 then _ else _) cs
    split
    · rfl
    · exact s.setBar_withCohorts cs cr n _

end

theorem State.SameHolders.barExit {o s : State} (h : o.SameHolders s) (cr : Crew) (k : Nat) : o.SameHolders (s.barExit cr k) := by
  unfold State.barExit
  exact h.ite (h.foldl fun s _ _ hs => hs.foldl fun s n _ hs => hs.ite (hs.crewSet _ _ _ _))

/-- The barriers of a crew fall whatever becomes of a cohort. -/
theorem State.barExit_onCohort (s : State) (k : Nat) (f : Cohort → Cohort) (cr : Crew) (n : Nat) :
    (s.onCohort k f).barExit cr n = (s.barExit cr n).onCohort k f := by
  have hc : (s.barExit cr n).cohorts = s.cohorts := ((State.SameHolders.refl s).barExit cr n).cohorts
  refine (s.barExit_withCohorts _ cr n).trans ?_
  unfold State.onCohort State.withCohorts
  rw [hc]

theorem State.cohort_barExit (s : State) (cr : Crew) (n k : Nat) : (s.barExit cr n).cohort k = s.cohort k := by
  unfold State.cohort
  rw [((State.SameHolders.refl s).barExit cr n).cohorts]

/-! ### exit (05 R120, 13 R292) -/

@[simp] theorem Cohort.closeSigs_key (c : Cohort) : c.closeSigs.key = c.key := by
  unfold Cohort.closeSigs
  simp only
  split <;> rfl

section
variable {s : State} {c : Cohort} {g : Nat}

/-- The threads of an exit: the acting ones leave, the other active ones go to the next header. -/
def Cohort.exits (c : Cohort) (g : Nat) (next : Dword) : Cohort :=
  Cohort.closeSigs (c.mapT (·.act) fun t =>
    if t.acts g then { t with st := .exited, act := false, inH := false, cv := 0 } else { t with pc := next })

theorem exit_leaves (h : Issues s (infoGonly 14 1 g) c) (hs : (s.crewOf c).saving = false) :
    Moves (.exit g) s c fun s =>
      (s.onCohort c.key fun c => c.exits g (BitVec.ofNat 64 c.nextHeader)).barExit (s.crewOf c) (c.actors g).length := by
  refine moves_of_goesOn (n := infoGonly 14 1 g)
    (u := (s.unheld.onCohort c.key fun d => d.exits g (BitVec.ofNat 64 c.nextHeader)).barExit (s.crewOf c) (c.actors g).length)
    rfl h (if_neg (by simp [hs])) ?_
  rw [State.barExit_onCohort, State.barExit_onCohort]
  refine State.goesOn_onCohort ?_ (fun d => Cohort.closeSigs_key _) (fun d => Cohort.closeSigs_key _) (Cohort.flow_refl _)
  rw [State.cohort_barExit]
  exact State.cohort_of_issuer h.1

theorem exit_saves (h : Issues s (infoGonly 14 1 g) c) (hs : (s.crewOf c).saving = true) :
    Moves (.exit g) s c fun s => s.onCohort c.key fun c => c.mapT (·.act) fun t =>
      if t.acts g then { t with st := .saved, act := false } else { t with pc := BitVec.ofNat 64 c.nextHeader } :=
  moves_onCohort (n := infoGonly 14 1 g) rfl h (if_pos hs) (fun _ => rfl) (fun _ => rfl) rfl

end

/-! ### yield, csign and nop (05 R116, R118, R123) -/

/-- The effect on the cohort itself is all that matters. -/
theorem performs_onCohort {i : Instr} {n : Info} {s : State} {c : Cohort} {body : Cohort → State → Res} {f f' : Cohort → Cohort}
    (he : exec i s = issue n s body) (hn : n.len = (encode i).length) (h : Issues s n c)
    (hb : body c s.unheld = .done (s.unheld.onCohort c.key f')) (hk : ∀ c, (f c).key = c.key) (hk' : ∀ c, (f' c).key = c.key)
    (hf : f c = f' c) : Performs i s c fun s => s.onCohort c.key f := by
  have hc : s.unheld.cohort c.key = some c := State.cohort_of_issuer h.1
  have hown : (s.unheld.onCohort c.key f').cohort c.key = some (f' c) := by
    rw [State.cohort_onCohort _ _ _ _ hk', if_pos rfl, hc]; rfl
  refine performs_congr (e' := fun s => s.onCohort c.key f') rfl (fun j => ?_) (performs_of he hn h hb hown)
  by_cases hj : j = c.key
  · subst hj
    rw [hown, State.cohort_onCohort _ _ _ _ hk, if_pos rfl, hc, ← hf]; rfl
  · rw [State.cohort_onCohort _ _ _ _ hk, State.cohort_onCohort _ _ _ _ hk', if_neg hj, if_neg hj]

section
variable {s : State} {c : Cohort}

theorem yield_alone {g : Nat} (h : Issues s (infoGonly 14 2 g) c)
    (hw : (c.threads.filter fun t => c.elig t && !t.act).map (·.tid) = []) : Completes (.yield g) s c id :=
  completes_id (n := infoGonly 14 2 g) rfl rfl h (if_pos hw)

theorem yield_behind {g : Nat} (h : Issues s (infoGonly 14 2 g) c)
    (hw : (c.threads.filter fun t => c.elig t && !t.act).map (·.tid) ≠ []) :
    Performs (.yield g) s c fun s => s.onCohort c.key fun d => d.mapT (·.acts g) fun t =>
      { t with st := .yielded ((c.threads.filter fun t => c.elig t && !t.act).map (·.tid)), act := false, pc := t.pc + 4 } :=
  performs_onCohort (n := infoGonly 14 2 g) rfl rfl h (if_neg hw) (fun _ => rfl) (fun _ => rfl) rfl

/-- The active threads of a cohort sign at the word `here`. -/
def Cohort.signs (c : Cohort) (n : Nat) (here : Dword) : Cohort :=
  let d := c.mapT (·.act) fun t => { t with st := .signed n, act := false, pc := t.pc + 4, cv := t.cv ||| (1#7 <<< n) }
  Cohort.closeSigs { d with sigs := if (c.sig n).isSome then c.sigs else c.sigs ++ [⟨n, here, true⟩] }

theorem csign_signs {n : Nat} (h : Issues s (infoCsign 14 8 n) c)
    (hs : c.sig n = none ∨ ∃ x, c.sig n = some x ∧ (x.pc = BitVec.ofNat 64 c.pc ∨ x.csign = true)) :
    Performs (.csign n) s c fun s => s.onCohort c.key fun c => c.signs n (BitVec.ofNat 64 c.pc) := by
  have hsign : csign.sign n c s.unheld (BitVec.ofNat 64 c.pc) =
      .done (s.unheld.onCohort c.key fun d => d.signs n (BitVec.ofNat 64 c.pc)) := by
    refine congrArg (fun f => Res.done (s.unheld.onCohort c.key f)) (funext fun d => congrArg Cohort.closeSigs ?_)
    show (if (d.sig n).isSome = true then _ else _) = _
    cases d.sig n <;> rfl
  refine performs_onCohort (n := infoCsign 14 8 n) rfl rfl h (.trans ?_ hsign) (fun d => Cohort.closeSigs_key _)
    (fun d => Cohort.closeSigs_key _) rfl
  rcases hs with hs | ⟨x, hs, hx⟩
  · simp only [hs]
  · simp only [hs]
    refine if_neg ?_
    rcases hx with hx | hx <;> simp [hx]

end

/-- Settles O19, instruction by instruction. -/
theorem exitYieldSign : Obligations.ExitYieldSign := by
  unfold Obligations.ExitYieldSign
  exact ⟨fun s c g => exit_leaves, fun s c g => exit_saves, fun s c g h => ⟨yield_alone h, yield_behind h⟩,
    fun s c n => csign_signs, fun s c h => completes_id (n := infoNone 14 7) rfl rfl h rfl⟩

end Sys2Proof.Machine
end

section
/-!
PROOFS. Exceptions: trap, brk, tret and the taking of an exception of one cause (O20): what a delivery leaves of a thread, and
when it kills the crew instead.
-/

namespace Sys2Proof.Machine

/-! ### The end of a clause, thread by thread (05 R114-R116) -/

/-- Settling changes the state of a thread and its MR alone. -/
def Thread.settles (t u : Thread) : Prop := u = { t with st := u.st, mr := u.mr }

theorem Thread.settles_refl (t : Thread) : t.settles t := rfl

theorem Thread.settles_trans {t u v : Thread} (h : t.settles u) (g : u.settles v) : t.settles v := by
  unfold Thread.settles at *
  rw [g, h]

theorem Cohort.settles_mapT (c : Cohort) (p : Thread → Bool) (f : Thread → Thread) (h : ∀ t : Thread, t.settles (f t)) :
    List.Forall₂ Thread.settles c.threads (c.mapT p f).threads :=
  forall₂_map _ (fun t => by
    split
    · exact h t
    · exact t.settles_refl) _

theorem Cohort.settles_unyield (c : Cohort) : List.Forall₂ Thread.settles c.threads c.unyield.threads :=
  forall₂_map _ (fun t => by
    cases t.st with
    | yielded w => exact rfl
    | _ => exact t.settles_refl) _

theorem Cohort.settles_settle (c : Cohort) : List.Forall₂ Thread.settles c.threads c.settle.threads := by
  have trans := @forall₂_trans _ Thread.settles fun _ _ _ => Thread.settles_trans
  have hheld : ∀ t : Thread, t.settles { t with st := .held } := fun _ => rfl
  have hopen : ∀ t : Thread, t.settles { t with st := .eligible, mr := BitVec.allOnes 64 } := fun _ => rfl
  refine trans (m := (if c.clause = none then
    ({ c with tmode := c.tmode && c.threads.any (·.inH) } : Cohort).mapT (fun t => decide (t.st = .eligible ∧ t.pc = t.mr)) fun t =>
      { t with st := .held } else { c with tmode := c.tmode && c.threads.any (·.inH) }).threads) ?_
    (trans (Cohort.settles_mapT _ _ _ hopen) (Cohort.settles_unyield _))
  split
  · exact Cohort.settles_mapT _ _ _ hheld
  · exact forall₂_refl Thread.settles_refl _

theorem Cohort.settle_tmode (c : Cohort) : c.settle.tmode = (c.tmode && c.threads.any (·.inH)) := by
  simp only [Cohort.settle]
  split <;> rfl

/-- A thread at the end of its clause. -/
def Thread.ends (t u : Thread) : Prop := u = { t with st := u.st, mr := u.mr, act := false }

/-- The cohort whose clause has ended, before it settles. -/
def Cohort.stops (c : Cohort) (r : Bool) : Cohort :=
  { c with
    clause := none, chain := (match c.clause with | some cl => hChain cl.word | none => false) && !r,
    threads := c.threads.map fun t => { t with act := false } }

theorem Cohort.endClause_threads (c : Cohort) (r : Bool) : List.Forall₂ Thread.ends c.threads (c.endClause r).threads :=
  (List.forall₂_map_left_iff (f := fun t : Thread => { t with act := false })).mp (c.stops r).settles_settle

@[simp] theorem Cohort.endClause_clause (c : Cohort) (r : Bool) : (c.endClause r).clause = none := Cohort.settle_clause _

theorem Cohort.endClause_tmode (c : Cohort) (r : Bool) : (c.endClause r).tmode = (c.tmode && c.threads.any (·.inH)) := by
  refine (Cohort.settle_tmode _).trans ?_
  simp only [List.any_map, Function.comp_def]

/-! ### One cause of several threads -/

/-- One cause, found by each of these threads. -/
def sameCause (ts : List Thread) (code detail info : Nat) : List LCause := ts.map fun t => ⟨t.tid, code, detail, info, 0⟩

section
variable {ts : List Thread} {code detail info : Nat}

theorem sameCause_eq {x : LCause} (h : x ∈ sameCause ts code detail info) : x = ⟨x.tid, code, detail, info, 0⟩ := by
  obtain ⟨t, -, rfl⟩ := List.mem_map.mp h
  rfl

theorem winners_sameCause : winners (sameCause ts code detail info) = sameCause ts code detail info :=
  winners_uniform fun _ => sameCause_eq

theorem lowestLane_mem (l : LCause) (ls : List LCause) : lowestLane l ls ∈ l :: ls := by
  unfold lowestLane
  induction ls generalizing l with
  | nil => exact List.mem_singleton_self l
  | cons x ls ih =>
    rw [List.foldl_cons]
    rcases List.mem_cons.mp (ih (if x.tid < l.tid then x else l)) with h | h
    · rw [h]
      split
      · exact List.mem_cons_of_mem _ (List.mem_cons_self ..)
      · exact List.mem_cons_self ..
    · exact List.mem_cons_of_mem _ (List.mem_cons_of_mem _ h)

/-- The record of a kill by one cause of several threads. -/
theorem State.killFault_sameCause (s : State) (c : Cohort) (who : Thread → Bool) (pc : Nat) {x : LCause} {xs : List LCause}
    (h : sameCause ts code detail info = x :: xs) : s.killFault c who pc (lowestLane x xs) =
      s.killCrew c who { code := code, detail := detail, info := BitVec.ofNat 64 info, pc := BitVec.ofNat 64 pc, sub := c.sub,
                         place := c.place } := by
  unfold State.killFault
  have hl : lowestLane x xs ∈ sameCause ts code detail info := h ▸ lowestLane_mem x xs
  rw [sameCause_eq hl]

end

/-! ### Taking an exception of one cause (09 R191, R196) -/

/-- The threads `who` enter the handler with one cause. -/
def Cohort.delivers (c : Cohort) (who : Thread → Bool) (tpc code detail info trappc : Nat) : Cohort :=
  { c.mapT who (fun t => t.deliver tpc info (tcauseOf code detail 0 false false false) trappc) with tmode := true }

theorem Cohort.deliverAll_sameCause {c : Cohort} {who : Thread → Bool} {ts : List Thread} (tpc code detail info trappc : Nat)
    (h : ∀ t ∈ c.threads, who t = true → t ∈ ts) :
    c.deliverAll who tpc code detail (sameCause ts code detail info) trappc =
      (c.delivers who tpc code detail info trappc).endClause true := by
  refine congrArg (fun l => Cohort.endClause { c with threads := l, tmode := true } true) ?_
  refine List.map_congr_left fun t ht => ?_
  split
  case isFalse => rfl
  case isTrue hw =>
    obtain ⟨x, hx⟩ := Option.isSome_iff_exists.mp (List.find?_isSome (p := fun x : LCause => x.tid == t.tid).mpr
      ⟨_, List.mem_map_of_mem (f := fun t => (⟨t.tid, code, detail, info, 0⟩ : LCause)) (h t ht hw), beq_self_eq_true t.tid⟩)
    have hx' : (sameCause ts code detail info).find? (fun x => x.tid == t.tid) = some x := hx
    simp only [hx']
    rw [sameCause_eq (List.mem_of_find?_eq_some hx')]

section
variable {s : State} {k : Nat} {c : Cohort} {who : Thread → Bool} {ts : List Thread} {code detail info pc tpc : Nat}

theorem State.takeFault_kills (hc : s.cohort k = some c) (hts : ts ≠ []) (hx : code ≠ 5)
    (h : (c.tmode || s.trapRefused (s.crewOf c) || (s.crewOf c).saving) = true) :
    s.takeFault k who pc tpc (sameCause ts code detail info) =
      s.killCrew c who { code := code, detail := detail, info := BitVec.ofNat 64 info, pc := BitVec.ofNat 64 tpc, sub := c.sub,
                         place := c.place } := by
  obtain ⟨x, xs, hl⟩ := List.exists_cons_of_ne_nil (l := sameCause ts code detail info) (by simpa [sameCause] using hts)
  have hcode : x.code = code := congrArg LCause.code (sameCause_eq (hl ▸ List.mem_cons_self ..))
  unfold State.takeFault
  simp only [hc, winners_sameCause]
  simp only [hl, hcode, hx, h, if_false, if_true]
  exact s.killFault_sameCause c who tpc hl

/-- Each of the threads that take the exception found it, and no other cause: they enter the handler. -/
theorem State.takeFault_delivers (hc : s.cohort k = some c) (hts : ts ≠ []) (hx : code ≠ 5) (ht : c.tmode = false)
    (hr : s.trapRefused (s.crewOf c) = false) (hs : (s.crewOf c).saving = false) :
    s.takeFault k who pc tpc (sameCause ts code detail info) =
      (s.endWaits k ((c.threads.filter who).map (·.tid))).onCohort k fun c' =>
        c'.deliverAll who tpc code detail (sameCause ts code detail info) (s.crewOf c).hdr.trappc := by
  obtain ⟨x, xs, hl⟩ := List.exists_cons_of_ne_nil (l := sameCause ts code detail info) (by simpa [sameCause] using hts)
  have hx' : x = ⟨x.tid, code, detail, info, 0⟩ := sameCause_eq (hl ▸ List.mem_cons_self ..)
  unfold State.takeFault
  simp only [hc, winners_sameCause]
  simp only [hl]
  rw [hx']
  simp only [hx, ht, hr, hs, Bool.or_self, Bool.false_eq_true, if_false]

end

/-! ### trap and brk (05 R124, 09 R207) -/

theorem State.onCohort_onCohort (s : State) (k : Nat) {f g : Cohort → Cohort} (hf : ∀ c, (f c).key = c.key) :
    (s.onCohort k f).onCohort k g = s.onCohort k fun c => g (f c) := by
  unfold State.onCohort
  refine congrArg (fun l => ({ s with cohorts := l } : State)) ?_
  refine List.map_map.trans (List.map_congr_left fun c _ => ?_)
  by_cases hc : c.key = k
  · simp [hc, hf]
  · simp [hc]

/-- The active threads that a software trap leaves out go on at `next`. -/
def Cohort.spares (c : Cohort) (g : Nat) (next : Dword) : Cohort :=
  c.mapT (fun t => t.act && !t.acts g) fun t => { t with pc := next, act := false }

theorem Cohort.spares_actives (c : Cohort) (g : Nat) (next : Dword) : (c.spares g next).actives = c.actors g := by
  unfold Cohort.actives Cohort.actors Cohort.spares Cohort.mapT mapIf
  have hact : ((·.act) ∘ fun t : Thread => if t.act && !t.acts g then { t with pc := next, act := false } else t) =
      fun t => t.acts g := by
    funext t
    unfold Thread.acts
    cases ha : t.act <;> cases hp : t.pr g <;> simp [ha, hp]
  rw [List.filter_map, hact]
  refine (List.map_congr_left fun t ht => ?_).trans (List.map_id _)
  simp [(List.mem_filter.mp ht).2]

/-- The trap registers and the state that a software trap gives the acting threads, as a statement writes them. -/
def Thread.trapped (t : Thread) (g at_ info trappc : Nat) : Thread :=
  if t.acts g then { t with tpc := BitVec.ofNat 64 at_, tmr := t.mr, tcause := 9, tinfo := BitVec.ofNat 64 info,
                            pc := BitVec.ofNat 64 trappc, inH := true }
  else { t with pc := BitVec.ofNat 64 at_ }

theorem Cohort.flow_traps (c : Cohort) (g at_ info trappc : Nat) :
    ({ c.mapT (·.act) (fun t => t.trapped g at_ info trappc) with tmode := true } : Cohort).flow
      ((c.spares g (BitVec.ofNat 64 at_)).delivers (·.act) at_ 9 0 info trappc) := by
  refine ⟨rfl, .inl rfl, ?_⟩
  refine List.forall₂_map_left_iff.mpr (List.forall₂_map_right_iff.mpr (List.forall₂_map_right_iff.mpr
    (List.forall₂_same.mpr fun t _ => ?_)))
  unfold Thread.trapped
  cases ha : t.act with
  | false => simp [ha, Thread.flow_refl]
  | true =>
    cases hp : t.acts g with
    | false => simp [ha, hp, Thread.flow]
    | true =>
      simp only [ha, hp, Bool.not_true, Bool.and_false, Bool.false_eq_true, if_true, if_false]
      exact ⟨rfl, .inl rfl⟩

section
variable {i : Instr} {n : Info} {s : State} {c : Cohort} {body : Cohort → State → Res} {at_ info : Nat}

theorem softTrap_delivers (he : exec i s = issue n s body) (h : Issues s n c)
    (hb : body c s.unheld = softTrap c s.unheld n at_ info)
    (ht : c.tmode = false) (hr : s.trapRefused (s.crewOf c) = false) (hs : (s.crewOf c).saving = false)
    (ha : c.actors n.g ≠ []) :
    Moves i s c fun s => (s.endWaits c.key ((c.actors n.g).map (·.tid))).onCohort c.key fun c =>
      { c.mapT (·.act) (fun t => t.trapped n.g at_ info (s.crewOf c).hdr.trappc) with tmode := true } := by
  let next := BitVec.ofNat 64 at_
  let d := c.spares n.g next
  have hk : ∀ d : Cohort, (d.spares n.g next).key = d.key := fun _ => rfl
  have hc : s.unheld.cohort c.key = some c := State.cohort_of_issuer h.1
  have hd : (s.unheld.onCohort c.key (·.spares n.g next)).cohort c.key = some d := by
    rw [State.cohort_onCohort _ _ _ _ hk, if_pos rfl, hc]; rfl
  have hact : d.threads.filter (·.act) = c.actors n.g := c.spares_actives n.g next
  have hu : body c s.unheld = .moved (((s.unheld.onCohort c.key (·.spares n.g next)).endWaits c.key
      ((c.actors n.g).map (·.tid))).onCohort c.key fun d =>
        d.deliverAll (·.act) at_ 9 0 (sameCause (c.actors n.g) 9 0 info) (s.crewOf c).hdr.trappc) := by
    have hf := State.takeFault_delivers (who := (·.act)) (code := 9) (detail := 0) (info := info) (pc := c.pc) (tpc := at_) hd ha
      (by decide) ht hr hs
    rw [hact] at hf
    rw [hb]
    unfold softTrap
    simp only [ha, if_false]
    exact congrArg (Res.moved · true) hf
  refine moves_of_goesOn he h hu ?_
  show State.goesOn _ (((s.unheld.endWaits c.key ((c.actors n.g).map (·.tid))).onCohort c.key (·.spares n.g next)).onCohort c.key
    fun d => d.deliverAll (·.act) at_ 9 0 (sameCause (c.actors n.g) 9 0 info) (s.crewOf c).hdr.trappc) c.key
  rw [State.onCohort_onCohort _ _ hk]
  refine State.goesOn_onCohort (c := c) hc (fun _ => rfl) (fun d => Cohort.key_endClause _ true) ?_
  rw [Cohort.deliverAll_sameCause _ _ _ _ _ fun t ht hw => hact ▸ List.mem_filter.mpr ⟨ht, hw⟩]
  exact Cohort.flow_trans (c.flow_traps n.g at_ info _) (Cohort.flow_endClause _ true)

end

/-- A software trap of no acting thread only sends the active ones on. -/
theorem trap_spares {k g : Nat} {s : State} {c : Cohort} (h : Issues s (infoNum 14 9 k g) c) (ha : c.actors g = []) :
    Moves (.trap k g) s c fun s => s.onCohort c.key fun c =>
      c.mapT (·.act) fun t => { t with pc := BitVec.ofNat 64 c.nextHeader } := by
  refine moves_of_goesOn (n := infoNum 14 9 k g) (r := false)
    (u := s.unheld.onCohort c.key (·.spares g (BitVec.ofNat 64 c.nextHeader))) rfl h (if_pos ha) ?_
  refine State.goesOn_onCohort (c := c) (State.cohort_of_issuer h.1) (fun _ => rfl) (fun _ => rfl) ⟨rfl, .inl rfl, ?_⟩
  refine List.forall₂_map_left_iff.mpr (List.forall₂_map_right_iff.mpr (List.forall₂_same.mpr fun t ht => ?_))
  cases hact : t.act with
  | false => simp [hact, Thread.flow_refl]
  | true =>
    have hno : t.acts g = false := by
      refine Bool.eq_false_iff.mpr fun hacts => List.not_mem_nil (a := t) ?_
      exact ha ▸ List.mem_filter.mpr ⟨ht, hacts⟩
    simp [hact, hno, Thread.flow]

/-! ### tret and tret.skip (05 R125, 09 R206) -/

theorem forall₂_comp {α : Type} {r q p : α → α → Prop} (h : ∀ x y z, r x y → q y z → p x z) {l m n : List α}
    (a : List.Forall₂ r l m) (b : List.Forall₂ q m n) : List.Forall₂ p l n := by
  induction a generalizing n with
  | nil => cases b; exact .nil
  | cons hxy _ ih => cases b with
    | cons hyz b => exact .cons (h _ _ _ hxy hyz) (ih b)

/-- The active threads leave their handler for their %tpc, as a statement writes it. -/
def Thread.home (t : Thread) : Thread := { t with pc := t.tpc, inH := false }

/-- The cohort of a return from its handler. -/
def Cohort.comesHome (c : Cohort) (skip : Bool) : Cohort := (c.mapT (·.act) (·.leave skip)).endClause true

theorem Cohort.key_comesHome (c : Cohort) (skip : Bool) : (c.comesHome skip).key = c.key := Cohort.key_endClause _ true

theorem Cohort.flow_comesHome (c : Cohort) (skip : Bool) : (c.mapT (·.act) Thread.home).flow (c.comesHome skip) := by
  have h : (c.mapT (·.act) Thread.home).flow (c.mapT (·.act) (·.leave skip)) := by
    refine ⟨rfl, .inl rfl, ?_⟩
    refine List.forall₂_map_left_iff.mpr (List.forall₂_map_right_iff.mpr (List.forall₂_same.mpr fun t _ => ?_))
    split
    · exact ⟨rfl, .inl rfl⟩
    · exact t.flow_refl
  exact Cohort.flow_trans h (Cohort.flow_endClause _ true)

theorem Cohort.comesHome_tid (c : Cohort) (skip : Bool) (ids : List Nat) :
    List.Forall₂ (fun x y : Thread => y.tid = x.tid) c.threads ((c.comesHome skip).issued ids).threads := by
  have hflow := Cohort.flow_trans (c.flow_comesHome skip) (Cohort.flow_issued _ ids)
  refine (List.forall₂_map_left_iff.mp hflow.2.2).imp fun x y hf => ?_
  rw [hf.1]
  show (if x.act = true then x.home else x).tid = x.tid
  split <;> rfl

/-- The threads `ids` get their watch skip, and the clause ends. -/
def Cohort.reskips (c : Cohort) (skip : Bool) (ids : List Nat) : Cohort :=
  (c.mapT (fun t => ids.contains t.tid) fun t => { t with skipW := skip }).endClause true

theorem Cohort.flow_reskips (c : Cohort) (skip : Bool) (ids : List Nat) : c.flow (c.reskips skip ids) :=
  have h : c.flow (c.mapT (fun t => ids.contains t.tid) fun t => { t with skipW := skip }) :=
    c.flow_mapT _ _ fun _ _ => ⟨rfl, .inl rfl⟩
  Cohort.flow_trans h (Cohort.flow_endClause _ true)

theorem Cohort.reskips_threads (c : Cohort) (skip : Bool) (ids : List Nat) :
    List.Forall₂ (fun x y : Thread => ids.contains x.tid = true → y.skipW = skip ∧ y.act = false) c.threads
      (c.reskips skip ids).threads := by
  have hends := Cohort.endClause_threads (c.mapT (fun t => ids.contains t.tid) fun t => { t with skipW := skip }) true
  refine (List.forall₂_map_left_iff.mp hends).imp fun x y hxy hx => ?_
  rw [if_pos hx] at hxy
  rw [hxy]
  exact ⟨rfl, rfl⟩

/-- The threads that return are the active ones. -/
theorem Cohort.comesHome_reskips (c : Cohort) (skip : Bool) {ids : List Nat} (hids : ids = c.actives.map (·.tid)) :
    List.Forall₂ (fun x y : Thread => x.act = true → y.skipW = skip ∧ y.act = false) c.threads
      (((c.comesHome skip).issued ids).reskips skip ids).threads := by
  have hin : ∀ t ∈ c.threads, t.act = true → ids.contains t.tid = true := fun t ht ha => by
    rw [hids]
    exact List.contains_iff_mem.mpr (List.mem_map_of_mem (List.mem_filter.mpr ⟨ht, ha⟩))
  refine forall₂_comp (fun x y z hx hy ha => hy ?_) ((List.forall₂_and_left _ _).mpr ⟨hin, c.comesHome_tid skip ids⟩)
    (Cohort.reskips_threads _ skip ids)
  obtain ⟨hx, htid⟩ := hx
  rw [htid]
  exact hx ha

/-- The copies of a cohort whose watch report a handler received go on. -/
def State.resumeCopies (s : State) (k : Nat) : State :=
  { s with copies := mapIf (fun x => x.cohort == k && x.pausedW == some true) (fun x => { x with pausedW := none }) s.copies }

section
variable {i : Instr} {n : Info} {s : State} {c : Cohort} {body : Cohort → State → Res} {skip : Bool}

/-- A return sends the active threads to their %tpc, out of the handler. -/
theorem issue_returns (he : exec i s = issue n s body) (h : Issues s n c)
    (hb : body c s.unheld = .returns (s.unheld.returnTrap c.key skip) skip) :
    Moves i s c (fun s => (s.resumeCopies c.key).onCohort c.key fun c => c.mapT (·.act) Thread.home) ∧
    ∃ t d, exec i s = .next t ∧ t.cohort c.key = some d ∧
      List.Forall₂ (fun x y : Thread => x.act = true → y.skipW = skip ∧ y.act = false) c.threads d.threads := by
  generalize hids : c.actives.map (·.tid) = ids
  have hc : (s.unheld.resumeCopies c.key).cohort c.key = some c := State.cohort_of_issuer h.1
  have hcomes : ∀ d : Cohort, (d.comesHome skip).key = d.key := fun d => d.key_comesHome skip
  have hskips : ∀ d : Cohort, (d.reskips skip ids).key = d.key := fun d => Cohort.flow_key (d.flow_reskips skip ids)
  have hd : ((s.unheld.resumeCopies c.key).onCohort c.key (·.comesHome skip)).cohort c.key = some (c.comesHome skip) := by
    rw [State.cohort_onCohort _ _ _ _ hcomes, if_pos rfl, hc]; rfl
  obtain ⟨honly, hissued⟩ := State.wordIssued_spec ids hd
  let u := (s.unheld.resumeCopies c.key).onCohort c.key (·.comesHome skip)
  let t := (u.wordIssued c.key ids).onCohort c.key (·.reskips skip ids)
  have ht : exec i s = .next t := by subst hids; rw [he, issue_eq h, hb]; rfl
  have htd : t.cohort c.key = some (((c.comesHome skip).issued ids).reskips skip ids) := by
    rw [State.cohort_onCohort _ _ _ _ hskips, if_pos rfl, hissued]; rfl
  refine ⟨⟨t, ht, ?_⟩, t, _, ht, htd, c.comesHome_reskips skip hids.symm⟩
  refine State.goesOn_trans (State.goesOn_onCohort hc (fun _ => rfl) hcomes (c.flow_comesHome skip)) ?_
  exact ⟨State.onlyCohort_trans honly (State.onlyCohort_onCohort _ _ _ hskips), _, _, hd, htd,
    Cohort.flow_trans (Cohort.flow_issued _ ids) (Cohort.flow_reskips _ skip ids)⟩

end

section
variable {s : State} {c : Cohort} {dd : Nat} {skip : Bool}

/-- tret in trap mode, every %tpc legal. -/
theorem tret_returns {i : Instr} (he : exec i s = tret (infoTret dd) skip s) (h : Issues s (infoTret dd) c) (ht : c.tmode = true)
    (hl : ∀ t ∈ c.actives, s.badTpc (s.crewOf c) t.tpc.toNat = none) :
    Moves i s c (fun s => (s.resumeCopies c.key).onCohort c.key fun c => c.mapT (·.act) Thread.home) ∧
    ∃ t d, exec i s = .next t ∧ t.cohort c.key = some d ∧
      List.Forall₂ (fun x y : Thread => x.act = true → y.skipW = skip ∧ y.act = false) c.threads d.threads := by
  refine issue_returns he h ((if_neg (by simp [ht])).trans (if_neg (not_not.mpr ?_)))
  refine List.filterMap_eq_nil_iff.mpr fun t htc => ?_
  have hu : s.unheld.badTpc (s.unheld.crewOf c) t.tpc.toNat = none := hl t htc
  rw [hu]; rfl

/-- tret outside trap mode kills its crew, with its word in the record. -/
theorem tret_kills {i : Instr} (he : exec i s = tret (infoTret dd) skip s) (h : Issues s (infoTret dd) c) (ht : c.tmode = false) :
    exec i s = .next (s.unheld.killCrew c (·.act)
      { code := 1, detail := 0, info := BitVec.ofNat 64 ((infoTret dd).words.headD 0).toNat, pc := BitVec.ofNat 64 c.pc,
        sub := c.sub, place := c.place }) := by
  have hb : (tret (infoTret dd) skip s) = .next (s.unheld.finish c (infoTret dd).len []
      (.kills (sameCause c.actives 1 0 ((infoTret dd).words.headD 0).toNat))) := by
    unfold tret
    rw [issue_eq h]
    simp only [ht, Bool.not_false, if_true]
    rfl
  obtain ⟨x, xs, hl⟩ := List.exists_cons_of_ne_nil
    (l := sameCause c.actives 1 0 ((infoTret dd).words.headD 0).toNat) (by simpa [sameCause] using State.actives_of_issuer h.1)
  rw [he, hb]
  simp only [State.finish, winners_sameCause]
  simp only [hl]
  exact congrArg _ (State.killFault_sameCause s.unheld c _ _ hl)

end

/-! ### An exception that every active thread found (09 R191, R192, R194, R196) -/

/-- A thread after an exception of its cohort: with the trap registers of the delivery, or as it was. -/
def Thread.excepted (x y : Thread) (pc code detail info trappc : Nat) : Prop :=
  (x.act = true → y.tpc = BitVec.ofNat 64 pc ∧ y.tmr = x.mr ∧ y.tcause.toNat = code + 256 * detail ∧
    y.tinfo = BitVec.ofNat 64 info ∧ y.pc = BitVec.ofNat 64 trappc ∧ y.inH = true ∧ y.act = false ∧ y.v = x.v ∧ y.p = x.p) ∧
  (x.act = false → y.tpc = x.tpc ∧ y.tmr = x.tmr ∧ y.tcause = x.tcause ∧ y.tinfo = x.tinfo ∧ y.pc = x.pc ∧ y.inH = x.inH ∧
    y.v = x.v ∧ y.p = x.p)

theorem tcauseOf_toNat {code detail : Nat} (hc : code < 256) (hd : detail < 256) :
    (tcauseOf code detail 0 false false false).toNat = code + 256 * detail := by
  unfold tcauseOf
  simp only [Bool.toNat_false, Nat.zero_mul, Nat.add_zero, BitVec.toNat_ofNat]
  omega

section
variable {s : State} {c : Cohort} {pc code detail info trappc : Nat}

theorem Cohort.delivers_excepted (c : Cohort) (pc info trappc : Nat) (hc : code < 256) (hd : detail < 256) :
    List.Forall₂ (fun x y : Thread => x.excepted y pc code detail info trappc) c.threads
      ((c.delivers (·.act) pc code detail info trappc).endClause true).threads := by
  have hends := Cohort.endClause_threads (c.delivers (·.act) pc code detail info trappc) true
  refine (List.forall₂_map_left_iff.mp hends).imp fun x y hxy => ?_
  cases hx : x.act with
  | true =>
    rw [if_pos hx] at hxy
    rw [hxy]
    exact ⟨fun _ => ⟨rfl, rfl, tcauseOf_toNat hc hd, rfl, rfl, rfl, rfl, rfl, rfl⟩, fun h => by rw [hx] at h; cases h⟩
  | false =>
    rw [if_neg (Bool.eq_false_iff.mp hx)] at hxy
    rw [hxy]
    exact ⟨fun h => (by rw [hx] at h; cases h), fun _ => ⟨rfl, rfl, rfl, rfl, rfl, rfl, rfl, rfl⟩⟩

/-- A delivery leaves a thread in the handler, so %tmode stands. -/
theorem Cohort.delivers_tmode (ha : c.actives ≠ []) :
    ((c.delivers (·.act) pc code detail info trappc).endClause true).tmode = true := by
  obtain ⟨t, ht⟩ := List.exists_mem_of_ne_nil _ ha
  obtain ⟨htc, hact⟩ := List.mem_filter.mp ht
  rw [Cohort.endClause_tmode]
  refine Bool.and_eq_true_iff.mpr ⟨rfl, List.any_eq_true.mpr ⟨_, List.mem_map_of_mem htc, ?_⟩⟩
  rw [if_pos hact]
  rfl

theorem State.takeFault_excepts (hc : s.cohort c.key = some c) (ha : c.actives ≠ []) (hx : code ≠ 5) (hcode : code < 256)
    (hdetail : detail < 256) (ht : c.tmode = false) (hr : s.trapRefused (s.crewOf c) = false)
    (hs : (s.crewOf c).saving = false) :
    ∃ u d, s.takeFault c.key (·.act) c.pc c.pc (c.every code detail info) = u ∧
      u = { s.endWaits c.key (c.actives.map (·.tid)) with cohorts := u.cohorts } ∧ u.cohort c.key = some d ∧
      d.tmode = true ∧ d.clause = none ∧ d.s = c.s ∧ d.fpst = c.fpst ∧ d.ops = c.ops ∧
      (∀ j, j ≠ c.key → u.cohort j = s.cohort j) ∧
      List.Forall₂ (fun x y : Thread => x.excepted y c.pc code detail info (s.crewOf c).hdr.trappc) c.threads d.threads := by
  let f := fun d : Cohort => d.deliverAll (·.act) c.pc code detail (sameCause c.actives code detail info) (s.crewOf c).hdr.trappc
  let e := c.delivers (·.act) c.pc code detail info (s.crewOf c).hdr.trappc
  have hf : ∀ d, (f d).key = d.key := fun d => Cohort.key_endClause _ true
  have hfc : f c = e.endClause true := Cohort.deliverAll_sameCause _ _ _ _ _ fun t ht hw => List.mem_filter.mpr ⟨ht, hw⟩
  have hflow : e.flow (e.endClause true) := e.flow_endClause true
  have hc' : (s.endWaits c.key (c.actives.map (·.tid))).cohort c.key = some c := hc
  refine ⟨_, e.endClause true, State.takeFault_delivers (who := (·.act)) hc ha hx ht hr hs, rfl, ?_, Cohort.delivers_tmode ha,
    Cohort.endClause_clause _ true, ?_, ?_, ?_, fun j hj => ?_, c.delivers_excepted _ _ _ hcode hdetail⟩
  · exact (State.cohort_onCohort _ _ _ _ hf).trans (by rw [if_pos rfl]; exact (congrArg _ hc').trans (congrArg some hfc))
  · exact (congrArg Cohort.s hflow.1 :)
  · exact (congrArg Cohort.fpst hflow.1 :)
  · exact (congrArg Cohort.ops hflow.1 :)
  · exact (State.cohort_onCohort _ _ _ _ hf).trans (if_neg hj)

/-- In trap mode or without a usable trap PC the exception kills a crew that is not speculative. -/
theorem State.takeFault_killsNow {cr : Crew} (hc : s.cohort c.key = some c) (ha : c.actives ≠ []) (hx : code ≠ 5)
    (h : c.tmode = true ∨ s.trapRefused (s.crewOf c) = true) (hcr : s.crew c.crew = some cr) (hsp : cr.spec = false) :
    s.takeFault c.key (·.act) c.pc c.pc (c.every code detail info) =
      s.killNow c.crew { code := code, detail := detail, info := BitVec.ofNat 64 info, pc := BitVec.ofNat 64 c.pc, sub := c.sub,
                         place := c.place } := by
  have hspec : (s.crewOf c).spec = false := by
    unfold State.crewOf
    rw [hcr]
    exact hsp
  refine (State.takeFault_kills hc ha hx ?_).trans ?_
  · rcases h with h | h <;> simp [h]
  · unfold State.killCrew
    rw [hspec]
    rfl

/-- A word that begins no instruction. -/
theorem step_illegalWord {e : Reject} (hg : s.agenda = []) (hs : s.stalled = false) (hc : s.issuer = some c)
    (he : decode c.fetched = .error e) :
    step s = .next (s.takeFault c.key (·.act) c.pc c.pc (c.every 1 0 (c.fetched.headD 0).toNat)) := by
  have hu : ({ s with stalled := false } : State) = s := by rw [← hs]
  have hw : s.illegalWord c = s.takeFault c.key (·.act) c.pc c.pc (c.every 1 0 (c.fetched.headD 0).toNat) := by
    unfold State.illegalWord
    rw [hu]
    rfl
  have hd : s.default = s.issueWord c := by
    unfold State.default
    rw [hs, hc]
    rfl
  rw [step_default hg, hd, ← hw]
  unfold State.issueWord
  rw [he]

end

/-- Settles O20: the software traps, the returns, the delivery of one cause and the kill that stands in its place. -/
theorem exceptions : Obligations.Exceptions := by
  unfold Obligations.Exceptions
  refine ⟨⟨?_, ?_, ?_, ?_⟩, ?_, ?_⟩
  · intro s c n g ht hr hs ha
    exact ⟨fun h => softTrap_delivers (n := infoNum 14 9 n g) rfl h rfl ht hr hs ha,
      fun h => softTrap_delivers (n := infoNum 62 0 n g) rfl h (if_neg ha) ht hr hs ha⟩
  · intro s c n g ha
    exact ⟨fun h => trap_spares h ha, fun h => completes_id (n := infoNum 62 0 n g) rfl rfl h (if_pos ha)⟩
  · intro s c e he h ht hl
    rcases List.mem_pair.mp he with rfl | rfl
    · exact tret_returns (dd := 0) rfl h ht hl
    · exact tret_returns (dd := 1) rfl h ht hl
  · exact fun s c ht => ⟨fun h => tret_kills (dd := 0) (skip := false) rfl h ht,
      fun h => tret_kills (dd := 1) (skip := true) rfl h ht⟩
  · intro s c code detail info hc ha hx hcode hdetail
    refine ⟨fun ht hr hs => ?_, fun h k hk hsp => State.takeFault_killsNow hc ha hx h hk hsp⟩
    obtain ⟨u, d, rfl, h⟩ := State.takeFault_excepts hc ha hx hcode hdetail ht hr hs
    exact ⟨d, h⟩
  · exact fun s c e hg hs hc he => step_illegalWord hg hs hc he

end Sys2Proof.Machine
end

section
/-!
PROOFS. Width: the refutation of O21. Its last clause has every cohort of another crew in the state after a re-slice as it was
before, whatever keys the cohorts have.
-/

namespace Sys2Proof.Machine

/-- A cohort of crew 99 with the key of the cohort of crew 1, and threads of the same %tid. -/
def bystander : Cohort := { me with crew := 99 }

/-- Crew 1, of width 16, waits at a wreq of 64 with nothing outstanding; the bystander has its cohort's key, and register v0 of the
thread 0 of that key holds an uncorrectable error that no read has met. -/
def sharedKey : State :=
  { wideS id with cohorts := (wideS id).cohorts ++ [bystander], latent := [(.vreg 2 0 0, true)] }

/-- Crew 1 gathers at its wreq, and the grant is 64. -/
theorem sharedKey_gathers : ∃ cr, sharedKey.crew 1 = some cr ∧ cr.torn = false ∧ cr.shadow = false ∧ cr.out = none ∧ cr.gw = 16 ∧
    let cs := (sharedKey.cohortsOf 1).filter fun c => !c.live.isEmpty
    cs ≠ [] ∧ (∀ c ∈ cs, c.atWreq ≠ none) ∧
    sharedKey.grant cr.core cr.base (reqOf (leastD 64 (cs.filterMap fun c => c.atWreq.map (·.2.1)))) cr.hdr (fun g =>
      (sliceAll { cr with gw := g } (sharedKey.cohortsOf 1) g 0 (slicesOf cr.hdr g)).map fun c => (c.cid, c.role)) 1 = some 64 :=
  ⟨_, rfl, by decide⟩

theorem sharedKey_latent : ∀ e ∈ sharedKey.latent, ∀ k n, e.1 ≠ .sreg k n := by
  intro e he k n
  rw [List.mem_singleton.mp he]
  exact nofun

theorem sharedKey_free : (sharedKey.bins.any fun e => e.2.held && e.2.crew == 1) = false ∧ sharedKey.crewHolds 1 = false ∧
    sharedKey.crewQuiet 1 = true ∧ sharedKey.draining 1 = false := by decide

/-- The re-slice reads the registers that move, and the error of v0 marks every cohort of the key. -/
theorem bystander_marked : ∀ c ∈ (wreqGrant 1 sharedKey).cohorts, c.crew = 99 →
    c.threads.map (·.vPoison) ≠ bystander.threads.map (·.vPoison) := by
  decide

/-- Refutes O21: in `sharedKey` the re-slice of crew 1 meets the error of a register of its cohort, which marks the register in the
cohort of crew 99 that has the same key, so that cohort does not stay as it was. The statement takes every state, also those in
which two cohorts share a key; the refutation is about that clause alone. -/
theorem not_widthRequest : ¬ Obligations.WidthRequest := by
  unfold Obligations.WidthRequest
  rintro ⟨-, -, hgrant⟩
  obtain ⟨cr, hcr, htorn, hshadow, hout, hgw, hcs, hwait, hwidth⟩ := sharedKey_gathers
  obtain ⟨hbins, hholds, hquiet, hdrain⟩ := sharedKey_free
  obtain ⟨-, hnew⟩ := hgrant sharedKey 1 cr hcr htorn hshadow hout
  obtain ⟨-, hnew⟩ := hnew (fun e he c _ n => sharedKey_latent e he c.key n) hcs hwait hbins
  obtain ⟨-, -, hslices⟩ := hnew 64 hwidth (by rw [hgw]; decide)
  obtain ⟨t, ht, -, -, -, -, -, hstays, -⟩ := hslices hholds hquiet hdrain
  have hst : t = wreqGrant 1 sharedKey := (Host.Outcome.next.inj ht).symm
  have hin : bystander ∈ t.cohorts := hstays bystander (List.mem_append_right _ (List.mem_singleton_self _)) (by decide)
  rw [hst] at hin
  exact bystander_marked bystander hin rfl rfl

end Sys2Proof.Machine
end

section
/-!
PROOFS. Float: FALU, FALUD, FALUH, FALUB and CVT, row by row of their tables (O5-O7): a row is a floating-point result of its own
function, in the shared frame of `floatOp`.
-/

namespace Sys2Proof.Machine

/-! ### Sticky bits of several lanes (06 R128) -/

/-- Flags that lane after lane ORs into what is there. -/
theorem foldl_or_flags {α : Type} (f : α → FFlags) (l : List α) (x : FFlags) :
    l.foldl (fun k t => k ||| f t) x = x ||| orFlags (l.map f) := by
  induction l generalizing x with
  | nil => exact BitVec.or_zero.symm
  | cons t l ih => rw [List.foldl_cons, ih, BitVec.or_assoc]; rfl

theorem foldl_flags {α : Type} (f : α → FFlags) (l : List α) : l.foldl (fun k t => k ||| f t) 0 = orFlags (l.map f) :=
  (foldl_or_flags f l 0).trans BitVec.zero_or

/-- %fpst after the flags of lane after lane. -/
theorem foldl_addFp {α : Type} (f : α → FFlags) (l : List α) (c : Cohort) :
    l.foldl (fun k t => k.addFp (f t)) c = c.addFp (orFlags (l.map f)) := by
  induction l generalizing c with
  | nil => simp [orFlags, Cohort.addFp]
  | cons t l ih =>
    rw [List.foldl_cons, ih]
    simp [orFlags, Cohort.addFp, BitVec.or_assoc, BitVec.setWidth_or]

/-! ### A floating-point result -/

/-- The effect of `floatOp` on the cohort, as the statements write it. -/
theorem floats_eq (c : Cohort) (g d : Nat) (f : Thread → FRes) :
    (((c.actors g).foldl (fun k t => k.addFp (f t).2) c).mapT (·.acts g) fun t => t.setV d (BitVec.ofNat 32 (f t).1)) =
      c.floats g d f := by
  rw [foldl_addFp (fun t => (f t).2)]; rfl

theorem floatOp_completes {i : Instr} {n : Info} {d : Nat} {s : State} {c : Cohort} {f : Cohort → Thread → FRes}
    (he : exec i s = floatOp n d s f) (hn : n.len = (encode i).length) (h : Issues s n c) :
    Completes i s c fun c => c.floats n.g d (f c) :=
  completes_of he hn (fun _ => rfl) h (by simp only [floats_eq])

section
variable {γ : Type} {s : State} {c : Cohort} {d g : Nat} {l : List (Instr × Info × γ)}

/-- Rows that run in a frame which `floatOp` is, with the function `f` of the row. -/
theorem floatRows_complete {frame : Info → γ → Out} {f : γ → Cohort → Thread → FRes}
    (hf : ∀ i x, frame i x = floatOp i d s (f x)) (hl : ∀ e ∈ l, RunsIn s g frame e) :
    ∀ e ∈ l, Issues s e.2.1 c → Completes e.1 s c fun c => c.floats g d (f e.2.2 c) := by
  intro e he h
  obtain ⟨hx, hn, rfl⟩ := hl e he
  exact floatOp_completes (hx.trans (hf _ _)) hn h

end

/-! ### Two elements of 16 bits (06 R132) -/

theorem half_zero (x : Nat) : half x 0 = x % 2 ^ 16 := by simp [half]

theorem half_one (x : Word) : half x.toNat 1 = x.toNat / 2 ^ 16 := by
  show x.toNat / 65536 ^ 1 % 65536 = x.toNat / 65536 ^ 1
  exact Nat.mod_eq_of_lt (Nat.div_lt_of_lt_mul x.isLt)

/-- The elements of a packed operation of one, two or three sources, as the statements write them. -/
theorem fun2_eq (i : Info) (d a : Nat) (s : State) (f : Nat → FRes) : fun2 i d a s f = floatOp i d s fun _ t =>
    pairOf (f ((t.vr a).toNat % 2 ^ 16)) (f ((t.vr a).toNat / 2 ^ 16)) := by
  simp only [← half_zero, ← half_one]; rfl

theorem fbin2_eq (i : Info) (d a : Nat) (b : VSrc) (s : State) (f : Nat → Nat → FRes) : fbin2 i d a b s f = floatOp i d s fun c t =>
    pairOf (f ((t.vr a).toNat % 2 ^ 16) ((b.val c t).toNat % 2 ^ 16)) (f ((t.vr a).toNat / 2 ^ 16) ((b.val c t).toNat / 2 ^ 16)) := by
  simp only [← half_zero, ← half_one]; rfl

theorem ftri2_eq (i : Info) (d a : Nat) (b : VSrc) (s : State) (f : Nat → Nat → Nat → FRes) :
    ftri2 i d a b s f = floatOp i d s fun c t =>
      pairOf (f ((t.vr a).toNat % 2 ^ 16) ((b.val c t).toNat % 2 ^ 16) ((t.vr d).toNat % 2 ^ 16))
        (f ((t.vr a).toNat / 2 ^ 16) ((b.val c t).toNat / 2 ^ 16) ((t.vr d).toNat / 2 ^ 16)) := by
  simp only [← half_zero, ← half_one]; rfl

/-! ### The forms of one, two and three sources -/

section
variable {s : State} {c : Cohort} {d a g : Nat} {b : VSrc}

theorem fun1Rows_complete {l : List (Instr × Info × (Nat → FRes))} (hl : ∀ e ∈ l, RunsIn s g (fun i f => fun1 i d a s f) e) :
    ∀ e ∈ l, Issues s e.2.1 c → Completes e.1 s c fun c => c.floats g d fun t => e.2.2 (t.vr a).toNat :=
  floatRows_complete (f := fun (f : Nat → FRes) _ t => f (t.vr a).toNat) (fun _ _ => rfl) hl

theorem fbinRows_complete {l : List (Instr × Info × (Nat → Nat → FRes))}
    (hl : ∀ e ∈ l, RunsIn s g (fun i f => fbin i d a b s f) e) :
    ∀ e ∈ l, Issues s e.2.1 c → Completes e.1 s c fun c => c.floats g d fun t => e.2.2 (t.vr a).toNat (b.val c t).toNat :=
  floatRows_complete (f := fun (f : Nat → Nat → FRes) c t => f (t.vr a).toNat (b.val c t).toNat) (fun _ _ => rfl) hl

theorem ftriRows_complete {l : List (Instr × Info × (Nat → Nat → Nat → FRes))}
    (hl : ∀ e ∈ l, RunsIn s g (fun i f => ftri i d a b s f) e) :
    ∀ e ∈ l, Issues s e.2.1 c →
      Completes e.1 s c fun c => c.floats g d fun t => e.2.2 (t.vr a).toNat (b.val c t).toNat (t.vr d).toNat :=
  floatRows_complete (f := fun (f : Nat → Nat → Nat → FRes) c t => f (t.vr a).toNat (b.val c t).toNat (t.vr d).toNat)
    (fun _ _ => rfl) hl

theorem fun2Rows_complete {l : List (Instr × Info × (Nat → FRes))} (hl : ∀ e ∈ l, RunsIn s g (fun i f => fun2 i d a s f) e) :
    ∀ e ∈ l, Issues s e.2.1 c → Completes e.1 s c fun c => c.floats g d fun t =>
      pairOf (e.2.2 ((t.vr a).toNat % 2 ^ 16)) (e.2.2 ((t.vr a).toNat / 2 ^ 16)) :=
  floatRows_complete (f := fun (f : Nat → FRes) _ t => pairOf (f ((t.vr a).toNat % 2 ^ 16)) (f ((t.vr a).toNat / 2 ^ 16)))
    (fun i f => fun2_eq i d a s f) hl

theorem fbin2Rows_complete {l : List (Instr × Info × (Nat → Nat → FRes))}
    (hl : ∀ e ∈ l, RunsIn s g (fun i f => fbin2 i d a b s f) e) :
    ∀ e ∈ l, Issues s e.2.1 c → Completes e.1 s c fun c => c.floats g d fun t =>
      pairOf (e.2.2 ((t.vr a).toNat % 2 ^ 16) ((b.val c t).toNat % 2 ^ 16))
        (e.2.2 ((t.vr a).toNat / 2 ^ 16) ((b.val c t).toNat / 2 ^ 16)) :=
  floatRows_complete (f := fun (f : Nat → Nat → FRes) c t =>
      pairOf (f ((t.vr a).toNat % 2 ^ 16) ((b.val c t).toNat % 2 ^ 16)) (f ((t.vr a).toNat / 2 ^ 16) ((b.val c t).toNat / 2 ^ 16)))
    (fun i f => fbin2_eq i d a b s f) hl

theorem ftri2Rows_complete {l : List (Instr × Info × (Nat → Nat → Nat → FRes))}
    (hl : ∀ e ∈ l, RunsIn s g (fun i f => ftri2 i d a b s f) e) :
    ∀ e ∈ l, Issues s e.2.1 c → Completes e.1 s c fun c => c.floats g d fun t =>
      pairOf (e.2.2 ((t.vr a).toNat % 2 ^ 16) ((b.val c t).toNat % 2 ^ 16) ((t.vr d).toNat % 2 ^ 16))
        (e.2.2 ((t.vr a).toNat / 2 ^ 16) ((b.val c t).toNat / 2 ^ 16) ((t.vr d).toNat / 2 ^ 16)) :=
  floatRows_complete (f := fun (f : Nat → Nat → Nat → FRes) c t =>
      pairOf (f ((t.vr a).toNat % 2 ^ 16) ((b.val c t).toNat % 2 ^ 16) ((t.vr d).toNat % 2 ^ 16))
        (f ((t.vr a).toNat / 2 ^ 16) ((b.val c t).toNat / 2 ^ 16) ((t.vr d).toNat / 2 ^ 16)))
    (fun i f => ftri2_eq i d a b s f) hl

end

/-! ### O5-O7 -/

/-- Settles O5: each form of one, two or three sources is a floating-point result of its row's function. -/
theorem floatArithmetic : Obligations.FloatArithmetic := by
  unfold Obligations.FloatArithmetic
  refine ⟨fun s c d a g => fun1Rows_complete ?_, fun s c d a b g => fbinRows_complete ?_,
    fun s c d a b g => ftriRows_complete ?_⟩
  all_goals
    refine List.forall_iff_forall_mem.mp ?_
    repeat' apply And.intro
    all_goals rfl

/-- Settles O6: each form is its row's function of either element. -/
theorem packedFloat : Obligations.PackedFloat := by
  unfold Obligations.PackedFloat
  refine ⟨fun s c d a g => fun2Rows_complete ?_, fun s c d a b g => fbin2Rows_complete ?_,
    fun s c d a b g => ftri2Rows_complete ?_⟩
  all_goals
    refine List.forall_iff_forall_mem.mp ?_
    repeat' apply And.intro
    all_goals rfl

/-- Settles O7: each form is a conversion of its row, or a pair of conversions. -/
theorem conversions : Obligations.Conversions := by
  unfold Obligations.Conversions
  refine ⟨fun s c d a g => fun1Rows_complete ?_, fun s c d a b g => fbinRows_complete ?_⟩
  all_goals
    refine List.forall_iff_forall_mem.mp ?_
    repeat' apply And.intro
    all_goals rfl

end Sys2Proof.Machine
end

section
/-!
PROOFS. FloatOrder: FCMP and the minimum and maximum forms (O8, O9): the class, the sign and the magnitude of an FP32 code, and the
order of two codes that are no NaN.
-/

namespace Sys2Proof.Machine

/-! ### The fields of an FP32 code (04 R86) -/

theorem fp32_sign : fp32.sign = 2 ^ 31 := rfl

theorem fp32_exponent (x : Nat) : x / 8388608 % 256 = x % 2 ^ 31 / 8388608 := (Nat.mod_mul_right_div_self x 8388608 256).symm

theorem fp32_significand (x : Nat) : x % 8388608 = x % 2 ^ 31 % 8388608 := (Nat.mod_mul_right_mod x 8388608 256).symm

/-- The value of a code, by the exponent and the significand field of its magnitude. -/
theorem fp32_val (x : Nat) : fp32.val x =
    if x % 2 ^ 31 / 8388608 = 0 then .fin (x / fp32.sign % 2 == 1) (x % 2 ^ 31 % 8388608) (-149)
    else if x % 2 ^ 31 / 8388608 = 255 then
      if x % 2 ^ 31 % 8388608 = 0 then .inf (x / fp32.sign % 2 == 1) else .nan (decide (x % 2 ^ 31 % 8388608 < 4194304))
    else .fin (x / fp32.sign % 2 == 1) (8388608 + x % 2 ^ 31 % 8388608) ((x % 2 ^ 31 / 8388608 : Nat) - 127 - 23) := by
  rw [← fp32_exponent, ← fp32_significand]
  unfold Fmt.val
  simp [show fp32.mw = 23 from rfl, show fp32.ew = 8 from rfl, show fp32.bias = 127 from rfl, show fp32.top = .ieee from rfl]

theorem fp32_isNan (x : Nat) : (fp32.val x).isNan = decide (0x7F800000 < x % 2 ^ 31) := by
  have hlt : x % 2 ^ 31 < 2 ^ 31 := Nat.mod_lt _ (by decide)
  rw [fp32_val, eq_comm]
  generalize x % 2 ^ 31 = mag at *
  split_ifs <;> simp only [FVal.isNan, decide_eq_true_eq, decide_eq_false_iff_not] <;> omega

theorem fp32_isSnan (x : Nat) :
    (fp32.val x).isSnan = (decide (0x7F800000 < x % 2 ^ 31) && decide (x % 2 ^ 23 < 2 ^ 22)) := by
  rw [← fp32_isNan, show x % 2 ^ 23 = _ from fp32_significand x, fp32_val]
  split_ifs <;> rfl

theorem fp32_key {x : Nat} (h : x < 2 ^ 32) :
    fp32.key x = if x < 2 ^ 31 then (x : Int) else 2 ^ 31 - 1 - (x : Int) := by
  unfold Fmt.key
  rw [fp32_sign]
  by_cases hx : x < 2 ^ 31
  · rw [if_pos hx, Nat.div_eq_of_lt hx, Nat.mod_eq_of_lt hx]; rfl
  · rw [if_neg hx, if_pos (by omega)]; omega

/-! ### Minimum and maximum (06 R130) -/

section
variable {x y : Nat} {m : Bool}

theorem minMax_numbers (hx : (fp32.val x).isNan = false) (hy : (fp32.val y).isNan = false) :
    fp32.minMax m x y = (if decide (fp32.key x ≤ fp32.key y) != m then x else y, 0) ∧
    fp32.minMaxNm m x y = (if decide (fp32.key x ≤ fp32.key y) != m then x else y, 0) := by
  simp only [Fmt.minMax, Fmt.minMaxNm, hx, hy, Bool.or_self, Bool.and_self, Bool.false_eq_true, if_false]
  constructor <;> split <;> rfl

theorem minMax_nan (h : (fp32.val x).isNan = true ∨ (fp32.val y).isNan = true) :
    fp32.minMax m x y = (fp32.nan, snanFlag [fp32.val x, fp32.val y]) := by
  simp only [Fmt.minMax, Bool.or_eq_true, h, if_true, Fmt.nanRes]

theorem minMaxNm_nan_left (hx : (fp32.val x).isNan = true) (hy : (fp32.val y).isNan = false) :
    fp32.minMaxNm m x y = (y, snanFlag [fp32.val x, fp32.val y]) := by
  simp [Fmt.minMaxNm, hx, hy]

theorem minMaxNm_nan_right (hx : (fp32.val x).isNan = false) (hy : (fp32.val y).isNan = true) :
    fp32.minMaxNm m x y = (x, snanFlag [fp32.val x, fp32.val y]) := by
  simp [Fmt.minMaxNm, hx, hy]

theorem minMaxNm_nans (hx : (fp32.val x).isNan = true) (hy : (fp32.val y).isNan = true) :
    fp32.minMaxNm m x y = (fp32.nan, snanFlag [fp32.val x, fp32.val y]) := by
  simp [Fmt.minMaxNm, hx, hy, Fmt.nanRes]

end

/-- Settles O9: without a NaN the keys decide; with one, each form answers as its own lemma says. -/
theorem floatMinMax : Obligations.FloatMinMax := by
  unfold Obligations.FloatMinMax
  intro nan snan key iv x y hx hy
  have hnan : ∀ x, nan x = (fp32.val x).isNan := fun x => (fp32_isNan x).symm
  have hiv : iv x y = snanFlag [fp32.val x, fp32.val y] := by
    simp only [iv, snan, nan, snanFlag, List.any_cons, List.any_nil, Bool.or_false, fp32_isSnan]
  have hkx : key x = fp32.key x := (fp32_key hx).symm
  have hky : key y = fp32.key y := (fp32_key hy).symm
  simp only [hnan, hiv, hkx, hky]
  refine ⟨fun ⟨nx, ny⟩ => ?_, fun h m => minMax_nan h, fun ⟨nx, ny⟩ m => minMaxNm_nan_left nx ny,
    fun ⟨nx, ny⟩ m => minMaxNm_nan_right nx ny, fun ⟨nx, ny⟩ m => minMaxNm_nans nx ny⟩
  obtain ⟨hmin, hminnm⟩ := minMax_numbers (m := false) nx ny
  obtain ⟨hmax, hmaxnm⟩ := minMax_numbers (m := true) nx ny
  rw [hmin, hminnm, hmax, hmaxnm]
  by_cases h : fp32.key x ≤ fp32.key y <;> simp [h]

/-! ### Exact comparison in units of a power of two -/

theorem pow2_add {a b : Int} (ha : 0 ≤ a) (hb : 0 ≤ b) : pow2 (a + b) = pow2 a * pow2 b := by
  rw [pow2, Int.toNat_add ha hb, Nat.pow_add]; rfl

theorem X.sgn_eq_sign (a : X) : a.sgn = Int.sign a.n := by
  unfold X.sgn
  split_ifs with hneg hzero
  · exact (Int.sign_eq_neg_one_of_neg hneg).symm
  · rw [hzero]; rfl
  · exact (Int.sign_eq_one_of_pos (by omega)).symm

/-- The order of two values with no denominator, in a unit that divides both. -/
theorem X.sgn_sub {a b : X} {k : Int} (ha : a.d = 1) (hb : b.d = 1) (hka : k ≤ a.e) (hkb : k ≤ b.e) :
    (a.sub b).sgn = Int.sign (a.n * pow2 (a.e - k) - b.n * pow2 (b.e - k)) := by
  let e := Min.min a.e b.e
  have hpa : pow2 (a.e - k) = pow2 (a.e - e) * pow2 (e - k) := by rw [← pow2_add (by omega) (by omega)]; congr 1; omega
  have hpb : pow2 (b.e - k) = pow2 (b.e - e) * pow2 (e - k) := by rw [← pow2_add (by omega) (by omega)]; congr 1; omega
  have hn : (a.sub b).n = a.n * pow2 (a.e - e) - b.n * pow2 (b.e - e) := by
    simp only [X.sub, X.add, X.neg, ha, hb, e, Nat.cast_one, mul_one, neg_mul, ← sub_eq_add_neg]
  have hpos : Int.sign (pow2 (e - k)) = 1 := Int.sign_eq_one_of_pos (by exact_mod_cast Nat.two_pow_pos _)
  rw [X.sgn_eq_sign, hn, hpa, hpb, Nat.cast_mul, Nat.cast_mul, ← mul_assoc, ← mul_assoc, ← sub_mul, Int.sign_mul, hpos, mul_one]

/-- Differences of two pairs of integers in one order have one sign. -/
theorem sign_sub_congr {p q p' q' : Int} (hlt : p < q ↔ p' < q') (hgt : q < p ↔ q' < p') : (p - q).sign = (p' - q').sign := by
  rcases lt_trichotomy p' q' with h | h | h
  · rw [Int.sign_eq_neg_one_of_neg (Int.sub_neg_of_lt h), Int.sign_eq_neg_one_of_neg (Int.sub_neg_of_lt (hlt.mpr h))]
  · rw [h, le_antisymm (not_lt.mp fun hp => (hgt.mp hp).ne' h) (not_lt.mp fun hp => (hlt.mp hp).ne h), Int.sub_self, Int.sub_self]
  · rw [Int.sign_eq_one_of_pos (Int.sub_pos_of_lt h), Int.sign_eq_one_of_pos (Int.sub_pos_of_lt (hgt.mpr h))]

/-- A magnitude with a sign. -/
def signed (neg : Bool) (n : Nat) : Int := if neg then -(n : Int) else n

theorem signed_mul (neg : Bool) (m n : Nat) : signed neg m * n = signed neg (m * n) := by
  cases neg <;> simp [signed]

/-- Signed magnitudes are in one order with those that a strictly monotone function makes of them. -/
theorem signed_lt_signed {u : Nat → Nat} (hu : StrictMono u) (h0 : u 0 = 0) (s t : Bool) (a b : Nat) :
    signed s (u a) < signed t (u b) ↔ signed s a < signed t b := by
  have ha : 0 < u a ↔ 0 < a := by rw [← h0, hu.lt_iff_lt, h0]
  have hb : 0 < u b ↔ 0 < b := by rw [← h0, hu.lt_iff_lt, h0]
  cases s <;> cases t
  · exact Int.ofNat_lt.trans (hu.lt_iff_lt.trans Int.ofNat_lt.symm)
  · simp only [signed, Bool.false_eq_true, if_false, if_true]; omega
  · simp only [signed, Bool.false_eq_true, if_false, if_true]; omega
  · exact neg_lt_neg_iff.trans (Int.ofNat_lt.trans (hu.lt_iff_lt.trans (Int.ofNat_lt.symm.trans neg_lt_neg_iff.symm)))

theorem sign_signed_sub {u : Nat → Nat} (hu : StrictMono u) (h0 : u 0 = 0) (s t : Bool) (a b : Nat) :
    Int.sign (signed s (u a) - signed t (u b)) = Int.sign (signed s a - signed t b) :=
  sign_sub_congr (signed_lt_signed hu h0 s t a b) (signed_lt_signed hu h0 t s b a)

/-! ### The order of FP32 codes (06 R134) -/

/-- The finite magnitude of a code in units of 2^-149, the least subnormal. -/
def fp32Units (c : Nat) : Nat := if c < 8388608 then c else (8388608 + c % 8388608) * 2 ^ (c / 8388608 - 1)

theorem fp32Units_strictMono : StrictMono fp32Units := by
  refine strictMono_nat_of_lt_succ fun n => ?_
  unfold fp32Units
  by_cases hsub : n + 1 < 8388608
  · rw [if_pos (Nat.lt_of_succ_lt hsub), if_pos hsub]; exact n.lt_succ_self
  by_cases hmin : n = 8388607
  · rw [hmin]; decide
  rw [if_neg (by omega), if_neg hsub]
  by_cases hcarry : n % 8388608 = 8388607
  · obtain ⟨k, hk⟩ : ∃ k, n / 8388608 = k + 1 := ⟨n / 8388608 - 1, by omega⟩
    rw [show (n + 1) % 8388608 = 0 by omega, show (n + 1) / 8388608 = k + 2 by omega, hcarry, hk]
    show (8388608 + 8388607) * 2 ^ k < (8388608 + 0) * 2 ^ (k + 1)
    rw [Nat.pow_succ', ← Nat.mul_assoc]
    exact Nat.mul_lt_mul_of_pos_right (by decide) (Nat.two_pow_pos k)
  · rw [show (n + 1) / 8388608 = n / 8388608 by omega, show (n + 1) % 8388608 = n % 8388608 + 1 by omega]
    exact Nat.mul_lt_mul_of_pos_right (Nat.lt_succ_self _) (Nat.two_pow_pos _)

section
variable {x y : Nat}

theorem fp32_val_inf (h : x % 2 ^ 31 = 0x7F800000) : fp32.val x = .inf (x / fp32.sign % 2 == 1) := by
  rw [fp32_val, h]; rfl

theorem fp32_val_fin (h : x % 2 ^ 31 < 0x7F800000) : ∃ m e, fp32.val x = .fin (x / fp32.sign % 2 == 1) m e ∧ -149 ≤ e ∧
    m * pow2 (e - -149) = fp32Units (x % 2 ^ 31) := by
  rw [fp32_val]
  unfold fp32Units
  generalize x % 2 ^ 31 = mag at *
  by_cases h0 : mag < 8388608
  · rw [if_pos h0, Nat.div_eq_of_lt h0, if_pos rfl, Nat.mod_eq_of_lt h0]
    exact ⟨_, _, rfl, le_rfl, Nat.mul_one mag⟩
  · rw [if_neg h0, if_neg (by omega), if_neg (by omega)]
    refine ⟨_, _, rfl, by omega, ?_⟩
    rw [pow2]
    congr 2
    omega

/-- A signed magnitude lies between those of a greater magnitude. -/
theorem signed_bounds {n m : Nat} (s : Bool) (h : n < m) : signed true m < signed s n ∧ signed s n < signed false m := by
  cases s <;> simp only [signed, if_true, Bool.false_eq_true, if_false] <;> omega

theorem fp32_order_fin (hx : x % 2 ^ 31 < 0x7F800000) (hy : y % 2 ^ 31 < 0x7F800000) : fp32.order x y =
    some (Int.sign (signed (x / fp32.sign % 2 == 1) (x % 2 ^ 31) - signed (y / fp32.sign % 2 == 1) (y % 2 ^ 31))) := by
  obtain ⟨m, e, hvx, hex, hmx⟩ := fp32_val_fin hx
  obtain ⟨n, f, hvy, hey, hmy⟩ := fp32_val_fin hy
  rw [← sign_signed_sub fp32Units_strictMono rfl, ← hmx, ← hmy, ← signed_mul, ← signed_mul, Fmt.order, hvx, hvy]
  exact congrArg some (X.sgn_sub (k := -149) rfl rfl hex hey)

/-- Two codes that are no NaN are ordered as their magnitudes with their signs. -/
theorem fp32_order (hx : x % 2 ^ 31 ≤ 0x7F800000) (hy : y % 2 ^ 31 ≤ 0x7F800000) : fp32.order x y =
    some (Int.sign (signed (x / fp32.sign % 2 == 1) (x % 2 ^ 31) - signed (y / fp32.sign % 2 == 1) (y % 2 ^ 31))) := by
  rcases hx.lt_or_eq with hx | hx <;> rcases hy.lt_or_eq with hy | hy
  · exact fp32_order_fin hx hy
  · obtain ⟨m, e, hvx, -, -⟩ := fp32_val_fin hx
    obtain ⟨hlo, hhi⟩ := signed_bounds (x / fp32.sign % 2 == 1) hx
    rw [Fmt.order, hvx, fp32_val_inf hy, hy]
    cases y / fp32.sign % 2 == 1
    · exact congrArg some (Int.sign_eq_neg_one_of_neg (Int.sub_neg_of_lt hhi)).symm
    · exact congrArg some (Int.sign_eq_one_of_pos (Int.sub_pos_of_lt hlo)).symm
  · obtain ⟨m, e, hvy, -, -⟩ := fp32_val_fin hy
    obtain ⟨hlo, hhi⟩ := signed_bounds (y / fp32.sign % 2 == 1) hy
    rw [Fmt.order, hvy, fp32_val_inf hx, hx]
    cases x / fp32.sign % 2 == 1
    · exact congrArg some (Int.sign_eq_one_of_pos (Int.sub_pos_of_lt hhi)).symm
    · exact congrArg some (Int.sign_eq_neg_one_of_neg (Int.sub_neg_of_lt hlo)).symm
  · rw [Fmt.order, fp32_val_inf hx, fp32_val_inf hy, hx, hy]
    cases x / fp32.sign % 2 == 1 <;> cases y / fp32.sign % 2 == 1 <;> rfl

theorem fp32_order_nan (h : (fp32.val x).isNan = true ∨ (fp32.val y).isNan = true) : fp32.order x y = none := by
  simp only [Fmt.order, Bool.or_eq_true, h, if_true]

end

/-- A code's sign and magnitude as the statement writes them. -/
theorem signed_code {x : Nat} (h : x < 2 ^ 32) :
    signed (x / fp32.sign % 2 == 1) (x % 2 ^ 31) = if x < 2 ^ 31 then (x : Int) else 2 ^ 31 - (x : Int) := by
  rw [fp32_sign]
  by_cases hx : x < 2 ^ 31
  · rw [if_pos hx, Nat.div_eq_of_lt hx, Nat.mod_eq_of_lt hx]; rfl
  · rw [if_neg hx, show x / 2 ^ 31 = 1 by omega]
    simp [signed]; omega

/-! ### FCMP (06 R134) -/

theorem holds_unordered (k : FCond) : k.holds none = decide (k = .ne ∨ k = .un) := by cases k <;> rfl

/-- Each condition of the order of two numbers is that of the numbers. -/
theorem holds_sign (p q : Int) :
    FCond.eq.holds (some (p - q).sign) = decide (p = q) ∧ FCond.ne.holds (some (p - q).sign) = decide (p ≠ q) ∧
    FCond.lt.holds (some (p - q).sign) = decide (p < q) ∧ FCond.le.holds (some (p - q).sign) = decide (p ≤ q) ∧
    FCond.gt.holds (some (p - q).sign) = decide (q < p) ∧ FCond.ge.holds (some (p - q).sign) = decide (q ≤ p) ∧
    FCond.un.holds (some (p - q).sign) = false ∧ FCond.ord.holds (some (p - q).sign) = true := by
  rcases lt_trichotomy p q with h | rfl | h
  · rw [Int.sign_eq_neg_one_of_neg (Int.sub_neg_of_lt h)]
    exact ⟨(decide_eq_false h.ne).symm, (decide_eq_true h.ne).symm, (decide_eq_true h).symm, (decide_eq_true h.le).symm,
      (decide_eq_false h.not_gt).symm, (decide_eq_false h.not_ge).symm, rfl, rfl⟩
  · rw [Int.sub_self]
    exact ⟨(decide_eq_true rfl).symm, (decide_eq_false (· rfl)).symm, (decide_eq_false (lt_irrefl p)).symm,
      (decide_eq_true le_rfl).symm, (decide_eq_false (lt_irrefl p)).symm, (decide_eq_true le_rfl).symm, rfl, rfl⟩
  · rw [Int.sign_eq_one_of_pos (Int.sub_pos_of_lt h)]
    exact ⟨(decide_eq_false h.ne').symm, (decide_eq_true h.ne').symm, (decide_eq_false h.not_gt).symm,
      (decide_eq_false h.not_ge).symm, (decide_eq_true h).symm, (decide_eq_true h.le).symm, rfl, rfl⟩

/-- What an FCMP leaves: the predicate of each acting lane, and IV. -/
def Cohort.compared (c : Cohort) (g d a : Nat) (b : VSrc) (k : FCond) : Cohort :=
  { c.mapT (·.acts g) fun t => t.setP d (k.holds (fp32.order (t.vr a).toNat (b.val c t).toNat)) with
    fpst := c.fpst ||| (orFlags ((c.actors g).map fun t =>
      k.invalid (fp32.val (t.vr a).toNat) (fp32.val (b.val c t).toNat))).zeroExtend 64 }

theorem fcmp_completes {i : Instr} {n : Info} {k : FCond} {d a : Nat} {b : VSrc} {s : State} {c : Cohort}
    (he : exec i s = fcmp n k d a b s) (hn : n.len = (encode i).length) (h : Issues s n c) :
    Completes i s c fun c => c.compared n.g d a b k := by
  refine completes_of he hn (fun _ => rfl) h ?_
  simp only [fun c : Cohort => foldl_addFp (fun t => k.invalid (fp32.val (t.vr a).toNat) (fp32.val (b.val c t).toNat))]
  rfl

theorem fcmpRows_complete {s : State} {c : Cohort} {d a g : Nat} {b : VSrc} {l : List (Instr × Info × FCond)}
    (hl : ∀ e ∈ l, RunsIn s g (fun i k => fcmp i k d a b s) e) :
    ∀ e ∈ l, Issues s e.2.1 c → Completes e.1 s c fun c => c.compared g d a b e.2.2 := by
  intro e he h
  obtain ⟨hx, hn, rfl⟩ := hl e he
  exact fcmp_completes hx hn h

/-- Settles O8: each form writes its row's condition of the order of the codes, which is that of the numbers they stand for. -/
theorem floatCompare : Obligations.FloatCompare := by
  unfold Obligations.FloatCompare
  refine ⟨fun s c d a b g => fcmpRows_complete (d := d) (a := a) (g := g) (b := b) ?_, fun k x y h => ?_, fun x y hx hy nx ny => ?_⟩
  · refine List.forall_iff_forall_mem.mp ?_
    repeat' apply And.intro
    all_goals rfl
  · rw [fp32_order_nan h, holds_unordered]
  · rw [fp32_order nx ny, signed_code hx, signed_code hy]
    exact holds_sign _ _

end Sys2Proof.Machine
end

section
/-!
PROOFS. Emulated: the long-latency floating-point forms (O10, O11): SFU, whose operation holds its results from the issue on, and
F64, which parks for the routine of feature bit 0 and is completed by its return.
-/

namespace Sys2Proof.Machine

/-! ### SFU (06 R135, 03 R84) -/

/-- The operation of an SFU instruction: its results and its sticky bits wait for the completion. -/
def Cohort.sfuOp (c : Cohort) (g d : Nat) (f : Thread → FRes) : Op :=
  { id := 0, sfu := true, regsV := dst d, res := (c.actors g).map fun t => .v t.tid d (BitVec.ofNat 32 (f t).1) false,
    fp := (orFlags ((c.actors g).map fun t => (f t).2)).zeroExtend 64 }

theorem sfu_performs {i : Instr} {n : Info} {d len : Nat} {s : State} {c : Cohort} {f : Cohort → Thread → FRes}
    (he : exec i s = sfu n d s f) (hn : n.len = (encode i).length) (hl : n.len = len) (h : Issues s n c) :
    Performs i s c fun s => (s.startOp c.key len (c.sfuOp n.g d (f c))).1 := by
  obtain ⟨-, -, -, b, hb, -⟩ := State.startOp_spec (s := s.unheld) (len := len) (c.sfuOp n.g d (f c)) (State.cohort_of_issuer h.1)
  refine performs_of he hn h ?_ hb
  rw [← hl]
  simp only [foldl_flags (fun t => (f c t).2)]
  rfl

theorem sfu1Rows_perform {s : State} {c : Cohort} {d a g : Nat} {l : List (Instr × Info × (Nat → FRes))}
    (hl : ∀ e ∈ l, RunsIn s g (fun i f => sfu1 { i with long := true } d a s f) e ∧ e.2.1.len = 1) :
    ∀ e ∈ l, Issues s { e.2.1 with long := true } c →
      Performs e.1 s c fun s => (s.startOp c.key 1 (c.sfuOp g d fun t => e.2.2 (t.vr a).toNat)).1 := by
  intro e he h
  obtain ⟨⟨hx, hn, rfl⟩, hlen⟩ := hl e he
  exact sfu_performs (n := { e.2.1 with long := true }) (f := fun _ t => e.2.2 (t.vr a).toNat) hx hn hlen h

/-- Settles O10: each form starts the operation of its row's function. -/
theorem specialFunctions : Obligations.SpecialFunctions := by
  unfold Obligations.SpecialFunctions
  refine ⟨fun s c d a g => sfu1Rows_perform (d := d) (a := a) (g := g) ?_, fun s c d a b g h =>
    sfu_performs (n := { infoVal 20 3 d a b g with long := true }) (d := d)
      (f := fun c t => fp32.divV .ne (fp32.val (t.vr a).toNat) (fp32.val (b.val c t).toNat))
      rfl rfl (Nat.add_comm b.lits.length 1) h⟩
  refine List.forall_iff_forall_mem.mp ?_
  repeat' apply And.intro
  all_goals rfl

/-! ### F64: the park (06 R140, 09 R199) -/

/-- An answer that has parked the cohort: the clause ends, as where an answer has set the PCs. -/
theorem moves_of_parks {i : Instr} {n : Info} {s : State} {c d : Cohort} {body : Cohort → State → Res} {e : State → State}
    (he : exec i s = issue n s body) (h : Issues s n c) (hb : body c s.unheld = .parks (e s.unheld))
    (hd : (e s.unheld).cohort c.key = some d) : Moves i s c e := by
  obtain ⟨t, ht, hg⟩ := issue_moved (r := true) (body := fun _ _ => .moved (e s.unheld) true) h rfl hd
  refine ⟨t, ?_, hg⟩
  rw [he, issue_eq h, hb, ← ht, issue_eq h]
  rfl

/-- The operation of an F64 instruction: no register write completes it. -/
def f64Op (regs : List Nat) : Op := { id := 0, sfu := true, regsV := regs, left := 1 }

/-- The park: the active threads wait for the routine, which finds what it is to compute. -/
def Cohort.parkF64 (e : Emul) (c : Cohort) : Cohort :=
  { c.mapT (·.act) fun t => { t with st := .parked .feature } with emul := some e }

theorem Cohort.key_parkF64 (e : Emul) (c : Cohort) : (c.parkF64 e).key = c.key := rfl

theorem f64_moves {i : Instr} {n : Info} {fn d a b : Nat} {s : State} {c : Cohort} (he : exec i s = f64 n fn d a b s)
    (h : Issues s n c) (hr : Tab.read 0 s.emul 0 ≠ 0) : Moves i s c fun s =>
      (s.startOp c.key n.len (f64Op n.vd)).1.onCohort c.key (Cohort.parkF64 ⟨fn, d, a, b, n.g, s.fresh⟩) := by
  obtain ⟨-, -, -, o, ho, -⟩ := State.startOp_spec (s := s.unheld) (len := n.len) (f64Op n.vd) (State.cohort_of_issuer h.1)
  refine moves_of_parks (d := o.parkF64 ⟨fn, d, a, b, n.g, s.fresh⟩) he h (if_neg hr) ?_
  rw [State.cohort_onCohort _ _ _ _ (Cohort.key_parkF64 _), if_pos rfl]
  exact congrArg (Option.map _) ho

theorem f64Rows_move {s : State} {c : Cohort} {d a b g : Nat} {l : List (Instr × Info × Nat)}
    (hl : ∀ e ∈ l, RunsIn s g (fun i fn => f64 { i with long := true } fn d a b s) e ∧ e.2.1.len = 1) :
    ∀ e ∈ l, Issues s { e.2.1 with long := true } c → Tab.read 0 s.emul 0 ≠ 0 → Moves e.1 s c fun s =>
      (s.startOp c.key 1 (f64Op e.2.1.vd)).1.onCohort c.key (Cohort.parkF64 ⟨e.2.2, d, a, b, g, s.fresh⟩) := by
  intro e he h hr
  obtain ⟨⟨hx, -, rfl⟩, hlen⟩ := hl e he
  rw [← hlen]
  exact f64_moves (n := { e.2.1 with long := true }) hx h hr

/-! ### EMULATION_RETURN (06 R139, R140; 13 R282) -/

section
variable {s : State} {k : Nat} {c : Cohort} {e : Emul}

theorem exec_emulationReturn (no : Bool) : exec (.emulationReturn k no) s = .next (emulationReturn k no s) := rfl

/-- A cohort of a halting core goes first. -/
theorem State.emulLater_of_halting (hc : (s.core (s.crewOf c).core).phase ≠ .halting)
    (ho : ∃ o ∈ s.cohorts, o.emul ≠ none ∧ (s.core (s.crewOf o).core).phase = .halting ∧ (s.crewOf o).shadow = false) :
    s.emulLater c = true := by
  obtain ⟨o, hmem, hemul, hhalt, hshadow⟩ := ho
  simp only [State.emulLater, hc, decide_false, Bool.false_and, Bool.not_false, Bool.true_and]
  refine List.any_eq_true.mpr ⟨o, hmem, ?_⟩
  simp [hhalt, hshadow, Option.isSome_iff_ne_none.mpr hemul]

theorem emulationReturn_later (hc : s.cohort k = some c) (he : c.emul = some e) (hl : s.emulLater c = true) (no : Bool) :
    emulationReturn k no s = s := by
  simp [emulationReturn, hc, he, hl]

/-- What the routine leaves: each parked thread with its result, the sticky bits, and the operation completed. -/
def Cohort.emulated (e : Emul) (c : Cohort) : Cohort :=
  let parked := fun (t : Thread) => decide (t.st = .parked .feature)
  let fl := orFlags ((c.threads.filter fun t => parked t && t.pr e.g).map fun t => (f64Result e t).1.2)
  (({ c with emul := none,
             threads := c.threads.map fun t =>
               if parked t then { (f64Write e t) with st := .eligible, pc := t.pc + 4 } else t } : Cohort).addFp
    fl).completeOp e.op

theorem emulationReturn_completes (hc : s.cohort k = some c) (he : c.emul = some e) (hl : s.emulLater c = false)
    (hs : ∀ x ∈ s.latent, x.1 ∉ c.emulReads e ++ c.emulWrites e) :
    emulationReturn k false s = s.onCohort k (Cohort.emulated e) := by
  have hmeet : s.meet (c.emulReads e) = s := State.meet_none fun x hx hm => hs x hx (List.mem_append_left _ hm)
  have hrewrite : s.rewrite (c.emulWrites e) = s := State.rewrite_none fun x hx hm => hs x hx (List.mem_append_right _ hm)
  simp only [emulationReturn, hc, he, Option.bind_some, Option.map_some, hl, Bool.false_eq_true, if_false, hmeet, hrewrite,
    foldl_flags (fun t => (f64Result e t).1.2)]
  rfl

end

/-- Settles O11: the park of each form, the two outcomes of the return, and the result of each number of operation. -/
theorem doubleFloat : Obligations.DoubleFloat := by
  unfold Obligations.DoubleFloat
  refine ⟨⟨fun s c d a b g => f64Rows_move ?_, fun s c d a g => f64Rows_move ?_⟩,
    fun s k c e hc he no hp ho => ?_, fun s k c e hc he hl hs => ?_, fun t d a b g op => ?_⟩
  · refine List.forall_iff_forall_mem.mp ?_
    repeat' apply And.intro
    all_goals rfl
  · refine List.forall_iff_forall_mem.mp ?_
    repeat' apply And.intro
    all_goals rfl
  · rw [exec_emulationReturn, emulationReturn_later hc he (State.emulLater_of_halting hp ho)]
  · rw [exec_emulationReturn, emulationReturn_completes hc he hl hs]; rfl
  · exact ⟨rfl, rfl, rfl, rfl, rfl, rfl, rfl, rfl⟩

end Sys2Proof.Machine
end

section
/-!
PROOFS. Lanes: the cross-lane forms of LANE and VRED (O12, O13): a row of a table runs in one of the shared frames of Lanes.lean with
the row's own function; the refutation of O14, at the scan of lane 0.
-/

namespace Sys2Proof.Machine

/-! ### Shuffles (07 R146) -/

/-- What a shuffle leaves in a cohort of `gw` lanes; `k` finds the source lane from the lane and b. -/
def Cohort.shuffled (c : Cohort) (gw g d a : Nat) (b : Cohort → Thread → Word) (k : Nat → Nat → Int) : Cohort :=
  c.mapT (·.acts g) fun t =>
    let n := k t.lane (b c t).toNat
    t.setV d (if 0 ≤ n ∧ n < gw then c.laneVal a n.toNat else t.vr a)

section
variable {s : State} {c : Cohort} {d a : Nat}

theorem shuffle_completes {i : Instr} {n : Info} {b : Cohort → Thread → Word} {k : Nat → Nat → Int}
    (he : exec i s = shuffle n d a b k s) (hn : n.len = (encode i).length) (h : Issues s n c) :
    Completes i s c fun c => c.shuffled (s.crewOf c).gw n.g d a b k :=
  completes_congr rfl (completes_of (f := fun e => e.shuffled (s.crewOf c).gw n.g d a b k) he hn (fun _ => rfl) h rfl)

theorem shuffleRows_complete {b : VSrc} {g : Nat} {l : List (Instr × Info × (Nat → Nat → Int))}
    (hl : ∀ e ∈ l, RunsIn s g (fun i k => shuffle i d a (fun c t => b.val c t) k s) e) :
    ∀ e ∈ l, Issues s e.2.1 c → Completes e.1 s c fun c => c.shuffled (s.crewOf c).gw g d a (fun c t => b.val c t) e.2.2 := by
  intro e he h
  obtain ⟨hx, hn, rfl⟩ := hl e he
  exact shuffle_completes hx hn h

end

/-- Settles O12: each shuffle takes the lane of its row; that of bcast is never negative, so its upper bound alone is asked. -/
theorem shuffles : Obligations.Shuffles := by
  unfold Obligations.Shuffles
  refine ⟨fun s c d a b g => shuffleRows_complete (d := d) (a := a) (b := b) (g := g) ?_, fun s c d a b g h => ?_⟩
  · simp only [List.forall_mem_cons, List.not_mem_nil, false_imp_iff, implies_true, and_true]
    and_intros <;> rfl
  · refine completes_congr ?_ (shuffle_completes (n := infoBcast 22 4 d a b g) (b := fun c _ => (b.val c).truncate 32)
      (k := fun _ n => n) rfl rfl h)
    simp only [Cohort.shuffled, Int.natCast_nonneg, true_and, Int.ofNat_lt, Int.toNat_natCast, BitVec.truncate_eq_setWidth,
      BitVec.toNat_setWidth]
    rfl

/-! ### Results of the acting lanes (07 R145) -/

section
variable {s : State} {c : Cohort} {d g : Nat}

theorem reduceOp_completes {i : Instr} {n : Info} {f : Cohort → List Thread → Dword} (he : exec i s = reduceOp n d s f)
    (hn : n.len = (encode i).length) (h : Issues s n c) : Completes i s c fun c => c.setS d (f c (c.actors n.g)) :=
  completes_of he hn (fun c => c.key_setS d _) h rfl

theorem reduceRows_complete {l : List (Instr × Info × (List Thread → Dword))}
    (hl : ∀ e ∈ l, RunsIn s g (fun i f => reduceOp i d s fun _ l => f l) e) :
    ∀ e ∈ l, Issues s e.2.1 c → Completes e.1 s c fun c => c.setS d (e.2.2 (c.actors g)) := by
  intro e he h
  obtain ⟨hx, hn, rfl⟩ := hl e he
  exact reduceOp_completes hx hn h

theorem crossOp_completes {i : Instr} {n : Info} {f : List Thread → Thread → Word} (he : exec i s = crossOp n d s f)
    (hn : n.len = (encode i).length) (h : Issues s n c) :
    Completes i s c fun c => c.mapT (·.acts n.g) fun t => t.setV d (f (c.actors n.g) t) :=
  completes_congr rfl (completes_of (f := fun e => e.mapT (·.acts n.g) fun t => t.setV d (f (c.actors n.g) t)) he hn
    (fun _ => rfl) h rfl)

theorem crossRows_complete {l : List (Instr × Info × (List Thread → Thread → Word))}
    (hl : ∀ e ∈ l, RunsIn s g (fun i f => crossOp i d s f) e) :
    ∀ e ∈ l, Issues s e.2.1 c →
      Completes e.1 s c fun c => c.mapT (·.acts g) fun t => t.setV d (e.2.2 (c.actors g) t) := by
  intro e he h
  obtain ⟨hx, hn, rfl⟩ := hl e he
  exact crossOp_completes hx hn h

end

/-! ### What the tables and the model write differently -/

section
variable (a : Nat) (l : List Thread) (t : Thread)

theorem rminI_eq : BitVec.ofInt 64 ((l.map fun t : Thread => (t.vr a).toInt).foldl min (2 ^ 31 - 1)) = rminI a l := by
  unfold rminI
  rw [List.foldl_map]
  congr 2
  funext m t
  rw [min_comm, min_def]
  split <;> split <;> omega

theorem rmaxI_eq : BitVec.ofInt 64 ((l.map fun t : Thread => (t.vr a).toInt).foldl max (-2 ^ 31)) = rmaxI a l := by
  unfold rmaxI
  rw [List.foldl_map]
  congr 2
  funext m t
  rw [max_def]
  split <;> split <;> omega

theorem rbits_eq (e : Word) (f : Word → Word → Word) :
    ((l.map fun t : Thread => t.vr a).foldl f e).zeroExtend 64 = rbits a e f l := by
  rw [List.foldl_map]; rfl

theorem getLsbD_ballotOf {k : Nat} (hk : k < 64) : (ballotOf l a).getLsbD k = l.any fun t => t.lane == k && t.pr a := by
  suffices h : ∀ m : Dword, (l.foldl (fun m t => if t.pr a then m ||| (1#64 <<< t.lane) else m) m).getLsbD k =
      (m.getLsbD k || l.any fun t => t.lane == k && t.pr a) from (h 0).trans (by simp)
  induction l with
  | nil => simp
  | cons t l ih =>
    intro m
    have hbit : (1#64 <<< t.lane).getLsbD k = (t.lane == k) := by
      rw [BitVec.getLsbD_shiftLeft, Bool.eq_iff_iff]
      simp only [BitVec.getLsbD_one, hk, decide_true, Bool.true_and, Bool.and_eq_true, Bool.not_eq_true', decide_eq_false_iff_not,
        decide_eq_true_eq, beq_iff_eq]
      omega
    rw [List.foldl_cons, ih, List.any_cons]
    cases t.pr a <;> simp [hbit, Bool.or_assoc]

/-- The lower lanes of a lane's match group are the lower lanes that match. -/
theorem before_groupOf : ((before l t).filter fun x => x.vr a == t.vr a) = before (groupOf a l t) t := by
  simp only [before, groupOf, List.filter_filter, Bool.and_comm]

theorem find?_groupOf : (l.find? fun x => x.vr a == t.vr a) = (groupOf a l t).head? := (List.head?_filter ..).symm

theorem compOf_eq (b : Nat) : (((l.filter (·.pr b))[(before l t).length]?.map (·.vr a)).getD 0) = compOf a b l t := by
  unfold compOf
  cases (l.filter (·.pr b))[(before l t).length]? <;> rfl

theorem expdOf_eq {d b : Nat} (h : t.pr b = true) :
    (((l[(before l t).countP (·.pr b)]?).map (·.vr a)).getD (t.vr d)) = expdOf d a b l t := by
  unfold expdOf
  rw [if_pos h, List.countP_eq_length_filter]
  cases l[((before l t).filter (·.pr b)).length]? <;> rfl

end

/-! ### vexpd and top-k (07 R148, R150) -/

theorem Cohort.mapT_congr {c : Cohort} {p : Thread → Bool} {f f' : Thread → Thread} (h : ∀ t, p t = true → f t = f' t) :
    c.mapT p f = c.mapT p f' :=
  congrArg (fun l => { c with threads := l }) (List.map_congr_left fun t _ => by
    by_cases hp : p t = true
    · rw [if_pos hp, if_pos hp, h t hp]
    · rw [if_neg hp, if_neg hp])

/-- Is a thread among the `n` of the list with the greatest values or magnitudes (07 R150)? -/
def amongTop (mag : Bool) (a n : Nat) (l : List Thread) (t : Thread) : Bool :=
  decide ((l.countP fun x => decide (topKey mag (t.vr a).toNat < topKey mag (x.vr a).toNat ∨
    topKey mag (x.vr a).toNat = topKey mag (t.vr a).toNat ∧ x.tid < t.tid)) < n)

/-- What a top-k of the threads `l` leaves: the predicate of each acting lane, and IV for a NaN that is selected. -/
def Cohort.selectsTop (c : Cohort) (mag : Bool) (g d a n : Nat) (l : List Thread) : Cohort :=
  (c.addFp (if l.any fun t => amongTop mag a n l t && (fp32.val (t.vr a).toNat).isNan then fIV else 0)).mapT (·.acts g)
    fun t => t.setP d (amongTop mag a n l t)

section
variable {s : State} {c : Cohort} {d a g : Nat}

theorem vexpd_completes {b : Nat} (h : Issues s { infoVcomp 22 10 d a b g with part := true } c)
    (hs : ∀ e ∈ s.latent, ∀ t ∈ c.threads, e.1 ≠ .vreg c.key t.tid d) :
    Completes (.vexpd d a b g) s c fun c => c.mapT (fun t => t.acts g && t.pr b) fun t => t.setV d (expdOf d a b (c.actors g) t) := by
  refine completes_of (n := { infoVcomp 22 10 d a b g with part := true }) rfl rfl (fun _ => rfl) h ?_
  have hclean : ∀ sel : Thread → Bool, s.unheld.rewrite ((c.threads.filter sel).map fun t => .vreg c.key t.tid d) = s.unheld := by
    refine fun sel => State.rewrite_none fun e he hm => ?_
    obtain ⟨t, ht, hte⟩ := List.mem_map.mp hm
    exact hs e he t (List.mem_of_mem_filter ht) hte.symm
  simp only [hclean, ite_self]
  rfl

theorem topk_completes {i : Instr} {n : Info} {mag : Bool} {b : SSrc} (he : exec i s = topk n mag d a b s)
    (hn : n.len = (encode i).length) (h : Issues s n c) :
    Completes i s c fun c => c.selectsTop mag n.g d a (b.val c).toNat (c.actors n.g) := by
  refine completes_congr rfl (completes_of (f := fun e => e.selectsTop mag n.g d a (b.val c).toNat (c.actors n.g)) he hn
    (fun _ => rfl) h ?_)
  simp only [Cohort.selectsTop, amongTop, List.countP_eq_length_filter]

end

/-- Settles O13: each reduction and each per-lane result is its row's function of the acting lanes; vexpd and top-k apart. -/
theorem crossLane : Obligations.CrossLane := by
  unfold Obligations.CrossLane
  refine ⟨fun s c d a g => ⟨reduceRows_complete ?_, fun l k => getLsbD_ballotOf a l⟩, fun s c d a g => crossRows_complete ?_,
    fun s c d a b g h => ?_, fun s c d a b g h hs => ?_, fun s c d a b g e he h => ?_⟩
  · simp only [List.forall_mem_cons, List.not_mem_nil, false_imp_iff, implies_true, and_true, rminI_eq, rmaxI_eq, rbits_eq]
    and_intros <;> rfl
  · simp only [List.forall_mem_cons, List.not_mem_nil, false_imp_iff, implies_true, and_true, before_groupOf, find?_groupOf,
      List.countP_eq_length_filter]
    and_intros <;> rfl
  · simp only [compOf_eq]
    exact crossOp_completes (n := infoVcomp 22 9 d a b g) rfl rfl h
  · refine completes_congr (Cohort.mapT_congr fun t ht => ?_) (vexpd_completes h hs)
    rw [expdOf_eq _ _ _ (Bool.and_eq_true_iff.mp ht).2]
  · obtain rfl | rfl : e = _ ∨ e = _ := by simpa using he
    · exact topk_completes (n := infoVtopk 22 14 d a b g) rfl rfl h
    · exact topk_completes (n := infoVtopk 22 15 d a b g) rfl rfl h

/-! ### The scan of lane 0 (07 R154) -/

theorem forall₂_flow_v {l m : List Thread} (h : List.Forall₂ Thread.flow l m) : m.map (·.v) = l.map (·.v) := by
  induction h with
  | nil => rfl
  | cons hflow _ ih => rw [List.map_cons, List.map_cons, ih, hflow.1]

theorem Cohort.passes_v (c : Cohort) (n : Nat) : (c.passes n).threads.map (·.v) = c.threads.map (·.v) := by
  simp only [Cohort.passes, Cohort.mapT, mapIf, List.map_map]
  exact List.map_congr_left fun t _ => by simp only [Function.comp]; split <;> rfl

/-- An instruction completes with one content of the vector registers. -/
theorem completes_v {i : Instr} {s : State} {c : Cohort} {f f' : Cohort → Cohort} (h : Completes i s c f)
    (h' : Completes i s c f') : (f c).threads.map (·.v) = (f' c).threads.map (·.v) := by
  obtain ⟨t, d, hx, -, hd, -, -, hflow⟩ := h
  obtain ⟨t', d', hx', -, hd', -, -, hflow'⟩ := h'
  obtain rfl : t = t' := Host.Outcome.next.inj (hx.symm.trans hx')
  obtain rfl : d = d' := Option.some.inj (hd.symm.trans hd')
  rw [← Cohort.passes_v, ← forall₂_flow_v hflow, forall₂_flow_v hflow', Cohort.passes_v]

/-- What the scan of the leaves `lv` leaves: a NaN that no addition delivers is made the canonical one (04 R88). -/
def Cohort.scanned (c : Cohort) (g d : Nat) (lv : List FRes) : Cohort :=
  c.floats g d fun t => canonF (nestSum (splitNodes lv 7 (t.lane + 1)))

theorem scanF32_completes {s : State} {c : Cohort} {d a g : Nat} (h : Issues s (infoVun 23 11 d a g) c) :
    Completes (.scanF32 d a g) s c fun c => c.scanned g d (c.leaves g (s.crewOf c).gw a) :=
  completes_congr rfl (completes_of (n := infoVun 23 11 d a g) (f := fun e => e.scanned g d (c.leaves g (s.crewOf c).gw a))
    rfl rfl (fun _ => rfl) h (by simp only [Cohort.scanned, ← floats_eq]; rfl))

/-- A cohort whose lanes all hold a quiet NaN that is not the canonical one, in v2. -/
def nanLanes : Cohort := vregs [(2, 0x7FC00001)] me

theorem nanLanes_issue : Issues (machOf fun _ => nanLanes) (infoVun 23 11 1 2 7) nanLanes := by
  unfold Issues; decide

/-- Lane 0 adds nothing: the nested sum is its NaN as it stands. -/
theorem nanLanes_scanned : (nanLanes.scanned 7 1 (nanLanes.leaves 7 16 2)).threads.map (·.v) ≠
    (nanLanes.floats 7 1 fun t => nestSum (splitNodes (nanLanes.leaves 7 16 2) 7 (t.lane + 1))).threads.map (·.v) := by
  decide

/-- Refutes O14: in lane 0 the split of position 0 is one leaf, which no addition touches, so the statement leaves a NaN of that lane
as it stands, where the scan delivers the canonical NaN (04 R88). The refutation is about the clause of scan.f32 alone. -/
theorem not_floatReductions : ¬ Obligations.FloatReductions := by
  unfold Obligations.FloatReductions
  rintro ⟨-, hscan, -⟩
  exact nanLanes_scanned (completes_v (scanF32_completes nanLanes_issue) (hscan _ _ 1 2 7 nanLanes_issue))

end Sys2Proof.Machine
end

section
/-!
PROOFS. Regroup: the cohort that a regroup bin forms, and the events of bins (O16); the refutation of O15, at a bin that is free and
lists a thread.
-/

namespace Sys2Proof.Machine

/-! ### A free bin that lists a thread -/

/-- A cohort of which the thread with %tid 3 alone acts under p0. -/
def depositor : Cohort := me.mapT (fun t => t.tid == 3) (·.setP 0 true)

/-- A thread that no cohort holds. -/
def stray : Thread := { tid := 40, lane := 0 }

/-- The machine of the depositor; bin 0 of its sub-core is free, and lists a thread all the same. -/
def staleBin : State := { machOf (fun _ => depositor) with bins := [(0, { threads := [stray] })] }

theorem staleBin_deposits : Issues staleBin (infoRgput 24 0 (.r 9) 0) depositor ∧ depositor.tmode = false ∧ depositor.acks = 0 ∧
    depositor.ops = [] ∧ staleBin.latent = [] ∧
    (∀ n, n < 8 → (Tab.read {} staleBin.bins (binIx (staleBin.crewOf depositor).core depositor.sub n)).held = false) ∧
    (depositor.actors 0).length = 1 ∧ (staleBin.crewOf depositor).gw = 16 := by
  unfold Issues; decide

/-- The deposit leaves the stray thread in the bin that it opens. -/
theorem staleBin_keeps :
    let ts := (depositor.actors 0).map (·.binned (BitVec.ofNat 64 depositor.nextHeader))
    let cr := staleBin.crewOf depositor
    let r := State.deposit depositor cr ((SSrc.r 9).val depositor).toNat depositor.nextHeader 9 none staleBin ts
    stray ∈ (Tab.read {} r.1.bins (binIx cr.core depositor.sub 0)).threads ∧ stray ∉ ts := by
  decide

/-- Refutes O15: in `staleBin` every bin is free, but bin 0 lists a thread, as the model itself leaves no free bin; that thread is then
in the bin besides those deposited. The statement takes every state, also those in which a free bin lists threads; the refutation is
about its clause on bin 0 alone. -/
theorem not_regrouping : ¬ Obligations.Regrouping := by
  unfold Obligations.Regrouping
  rintro ⟨hput, -⟩
  obtain ⟨hissue, htmode, hacks, hops, hlatent, hfree, hone, hgw⟩ := staleBin_deposits
  obtain ⟨-, hbin⟩ := hput staleBin depositor (.r 9) 0 hissue htmode hacks hops (by rw [hlatent]; exact nofun)
  have hlen : ((depositor.actors 0).map (·.binned (BitVec.ofNat 64 depositor.nextHeader))).length = 1 := by
    rw [List.length_map, hone]
  obtain ⟨-, -, -, -, -, -, -, hmem⟩ := hbin hfree (List.ne_nil_of_length_pos (by rw [hlen]; decide)) (by rw [hlen, hgw]; decide)
  obtain ⟨hin, hout⟩ := staleBin_keeps
  exact hout ((hmem stray).mp hin)

/-! ### Forming a cohort (07 R160) -/

/-- The threads of a bin in the lanes of the cohort that it forms. -/
def Bin.seated (b : Bin) : List Thread :=
  (List.zip b.threads (upto b.threads.length)).map fun e => { e.1 with lane := e.2, st := .eligible, act := false }

/-- Reading the seated threads by what they keep, and by the lane that they get. -/
theorem Bin.map_seated_thread {β : Type} (b : Bin) (f : Thread → β)
    (hf : ∀ (t : Thread) n, f { t with lane := n, st := .eligible, act := false } = f t) : b.seated.map f = b.threads.map f := by
  have hfst : (List.zip b.threads (upto b.threads.length)).map Prod.fst = b.threads := List.map_fst_zip (by simp [upto])
  rw [Bin.seated, List.map_map, ← List.map_map.symm.trans (congrArg (List.map f) hfst)]
  exact List.map_congr_left fun e _ => hf e.1 e.2

theorem Bin.map_seated_lane (b : Bin) : b.seated.map (·.lane) = List.range b.threads.length := by
  rw [Bin.seated, List.map_map]
  exact List.map_snd_zip (by simp [upto])

theorem Bin.seated_eligible (b : Bin) : ∀ x ∈ b.seated, x.st = .eligible := by
  intro x hx
  obtain ⟨e, -, rfl⟩ := List.mem_map.mp hx
  rfl

/-- The cohort that a bin forms: its threads and the snapshot's scalar registers and sticky bits; the rest is fresh. -/
def Bin.cohort (b : Bin) (key cid sub port place : Nat) : Cohort :=
  { key := key, crew := b.crew, cid := cid, role := b.role, sub := sub, port := port, place := place, threads := b.seated,
    s := b.s, sPoison := b.sPoison, fpst := b.fpst, mstat := b.mstat, regrouped := true }

section
variable {s : State} {core sub n : Nat}

/-- A bin whose crew is on its core, with a place and register bytes free, forms its cohort. -/
theorem State.formBin_forms {b : Bin} {cr : Crew} {pl : Nat} (hb : Tab.read {} s.bins (binIx core sub n) = b) (ht : b.threads ≠ [])
    (hcr : s.crew b.crew = some cr) (hshadow : cr.shadow = false) (hout : cr.out = none) (hpl : s.freePlace core sub = some pl)
    (hregs : cr.cohortBytes b.role ≤ s.freeRegs core sub) :
    ∃ cid port, s.formBin core sub n = some { s with
      fresh := s.fresh + 1, bins := Tab.put {} s.bins (binIx core sub n) {},
      cohorts := s.cohorts ++ [b.cohort s.fresh cid sub port pl] } := by
  subst hb
  simp only [State.formBin, hcr, hpl]
  rw [if_neg (not_or.mpr ⟨not_lt.mpr hregs, not_or.mpr ⟨ht, by simp [hshadow, hout]⟩⟩)]
  exact ⟨_, _, rfl⟩

/-- Without a place or without the register bytes no cohort forms. -/
theorem State.formBin_none (h : s.freePlace core sub = none ∨ ∃ cr,
    s.crew (Tab.read {} s.bins (binIx core sub n)).crew = some cr ∧
      s.freeRegs core sub < cr.cohortBytes (Tab.read {} s.bins (binIx core sub n)).role) : s.formBin core sub n = none := by
  unfold State.formBin
  rcases h with hpl | ⟨cr, hcr, hregs⟩
  · simp only [hpl]; split <;> rfl
  · simp only [hcr, hregs, true_or, if_true]; split <;> rfl

end

/-! ### The events -/

section
variable {s t : State} {core sub n : Nat}

theorem exec_binFormation : exec (.binFormation core sub n) s = .next (binFormation core sub n s) := rfl

theorem binFormation_forms (hfull : (Tab.read {} s.bins (binIx core sub n)).full = true) (hform : s.formBin core sub n = some t) :
    exec (.binFormation core sub n) s = .next t := by
  rw [exec_binFormation, binFormation, if_pos hfull, hform]; rfl

theorem binFormation_keeps (h : (Tab.read {} s.bins (binIx core sub n)).full = true → s.formBin core sub n = none) :
    exec (.binFormation core sub n) s = .next s := by
  rw [exec_binFormation, binFormation]
  split
  case isTrue hfull => rw [h hfull]; rfl
  case isFalse => rfl

end

/-- A crew's bins are flushed when it is in no saved context and its non-exited threads wait at a wreq (07 R161). -/
def State.flushDue (s : State) (k : Nat) : Prop :=
  (∀ cr, s.crew k = some cr → cr.shadow = false ∧ cr.out = none) ∧
  ∀ c ∈ s.cohortsOf k, c.live ≠ [] → ∀ t ∈ c.threads, t.st = .exited ∨ ∃ d r n, t.st = .waiting (.wreq d r n)

section
variable {s : State} {k : Nat}

theorem autoFlush_eq [Decidable (s.flushDue k)] : autoFlush k s = if s.flushDue k then s.flushCrew k else s := by
  have hsaved : ((s.crew k).any fun cr => cr.shadow || cr.out.isSome) = false ↔
      ∀ cr, s.crew k = some cr → cr.shadow = false ∧ cr.out = none := by
    cases s.crew k <;> simp
  refine if_congr ?_ rfl rfl
  rw [State.flushDue, ← hsaved]
  simp only [Bool.and_eq_true, Bool.not_eq_true', List.all_eq_true, List.mem_filter, List.isEmpty_eq_false_iff, and_imp]
  refine and_congr_right fun _ => forall₃_congr fun c _ _ => forall₂_congr fun t _ => ?_
  split <;> simp_all

theorem exec_autoFlush : exec (.autoFlush k) s = .next (autoFlush k s) := rfl

theorem autoFlush_flushes (h : s.flushDue k) : exec (.autoFlush k) s = .next (s.flushCrew k) := by
  classical rw [exec_autoFlush, autoFlush_eq, if_pos h]

theorem autoFlush_keeps (h : ¬ s.flushDue k) : exec (.autoFlush k) s = .next s := by
  classical rw [exec_autoFlush, autoFlush_eq, if_neg h]

end

end Sys2Proof.Machine

namespace Sys2Proof

open Machine

/-- Settles O16: the cohort that a full bin forms, the two refusals, and the condition of the flush. -/
theorem binFormation : Obligations.BinFormation := by
  unfold Obligations.BinFormation
  refine ⟨fun s core sub n cr pl => ?_, fun s core sub n => ?_, fun s k => ?_⟩
  · intro b hfull ht hcr hshadow hout hpl hregs
    obtain ⟨cid, port, hform⟩ := State.formBin_forms (b := b) rfl ht hcr hshadow hout hpl hregs
    exact ⟨_, b.cohort s.fresh cid sub port pl, binFormation_forms hfull hform, rfl, rfl,
      b.map_seated_thread (·.tid) fun _ _ => rfl, b.map_seated_lane, b.seated_eligible,
      b.map_seated_thread (·.v) fun _ _ => rfl, rfl, rfl, rfl, rfl, rfl, rfl, rfl, rfl, rfl, rfl⟩
  · exact fun h => binFormation_keeps fun hfull => State.formBin_none (h.resolve_left (ne_of_eq_of_ne hfull (by decide)))
  · exact ⟨fun hhere hwreq => autoFlush_flushes ⟨hhere, hwreq⟩, autoFlush_keeps⟩

end Sys2Proof
end

section
/-!
PROOFS. Stream: the head of a cohort's stream (O40): the tile or slot that it takes, the start of a product in its sector's window, and
its completion.
-/

namespace Sys2Proof.Machine

/-! ### The operations of the state that the events of a stream share -/

section

variable {s : State} {k core sub n j : Nat} {c : Cohort} {m : MtxOp} {rest : List MtxOp}

theorem Cohort.onHead_cons {f : MtxOp → MtxOp} (h : c.stream = m :: rest) : c.onHead f = { c with stream := f m :: rest } := by
  unfold Cohort.onHead
  rw [h]

@[simp] theorem Cohort.key_onHead (c : Cohort) (f : MtxOp → MtxOp) : (c.onHead f).key = c.key := by
  unfold Cohort.onHead
  split <;> rfl

/-- The changed cohort is found in the place of the old one. -/
theorem State.cohort_onCohort_self {f : Cohort → Cohort} (hf : ∀ c, (f c).key = c.key) (h : s.cohort k = some c) :
    (s.onCohort k f).cohort k = some (f c) := by
  rw [State.cohort_onCohort s k k f hf, if_pos rfl, h]
  rfl

theorem State.rewrite_only (s : State) (ws : List Site) : s.rewrite ws = { s with latent := (s.rewrite ws).latent } := by
  unfold State.rewrite
  split <;> rfl

theorem unitIx_ne (h : j ≠ n) : unitIx core sub j ≠ unitIx core sub n := by
  unfold unitIx
  omega

theorem State.tiles_newTile {t : Tile} : (s.newTile core sub n t).tiles = Tab.put {} s.tiles (unitIx core sub n) t := by
  unfold State.newTile
  rw [State.rewrite_only]
  rfl

@[simp] theorem State.cohort_newTile {t : Tile} : (s.newTile core sub n t).cohort k = s.cohort k := by
  unfold State.newTile
  rw [State.rewrite_only]
  rfl

theorem State.tile_newTile_self {t : Tile} (h : Tab.wf {} s.tiles = true) : (s.newTile core sub n t).tile core sub n = t := by
  unfold State.tile
  rw [State.tiles_newTile, Tab.read_put h]

theorem State.tile_newTile_other {t : Tile} (h : j ≠ n) : (s.newTile core sub n t).tile core sub j = s.tile core sub j := by
  unfold State.tile
  rw [State.tiles_newTile, Tab.read_put_other _ _ _ _ _ (unitIx_ne h)]

theorem State.slot_setSlot_self {z : Slot} (h : Tab.wf {} s.slots = true) : (s.setSlot core sub n z).slot core sub n = z :=
  Tab.read_put h _ z

end

/-! ### TILE_BIND (08 R169, R170) -/

/-- The cohort whose head has taken tile `t` for the name `n`. -/
def Cohort.tileTaken (n t : Nat) (c : Cohort) : Cohort :=
  { c.onHead fun m => { m with tile := some t } with acc := Tab.put 0 c.acc n (t + 1) }

theorem Cohort.key_tileTaken (n t : Nat) (c : Cohort) : (c.tileTaken n t).key = c.key := c.key_onHead _

theorem Cohort.tileTaken_tileOf (n t : Nat) (c : Cohort) : (c.tileTaken n t).tileOf n = some t := by
  unfold Cohort.tileOf
  rw [show (c.tileTaken n t).acc = Tab.put 0 c.acc n (t + 1) from rfl, Tab.read_put_self _ _ _ _ (Nat.succ_ne_zero t)]

theorem Cohort.tileTaken_stream {n t : Nat} {c : Cohort} {m : MtxOp} {rest : List MtxOp} (h : c.stream = m :: rest) :
    (c.tileTaken n t).stream = { m with tile := some t } :: rest := by
  unfold Cohort.tileTaken
  rw [Cohort.onHead_cons h]

section

variable {s : State} {k : Nat} {c : Cohort} {m : MtxOp} {rest : List MtxOp} (hc : s.cohort k = some c) (hm : c.stream = m :: rest)
  (hh : s.mtxHolds c = false)
include hc hm hh

theorem tileBind_takes {n t : Nat} (hn : m.binds c = some n) (ht : m.tile = none) (ho : c.tileOf n = none)
    (hf : ((List.range 16).find? fun t => (s.tile (s.crewOf c).core c.sub t).owner == 0) = some t) :
    tileBind k s = (s.newTile (s.crewOf c).core c.sub t { owner := k }).onCohort k (Cohort.tileTaken n t) := by
  simp only [tileBind, hc, hh, hm, hn, ht, ho, upto, hf, Bool.false_eq_true, if_false, List.head?_cons]
  rfl

theorem tileBind_keeps (h : ∀ t, t < 16 → (s.tile (s.crewOf c).core c.sub t).owner ≠ 0) : tileBind k s = s := by
  have hnone : ((List.range 16).find? fun t => (s.tile (s.crewOf c).core c.sub t).owner == 0) = none :=
    List.find?_eq_none.mpr fun t ht => by simpa using h t (List.mem_range.mp ht)
  simp only [tileBind, hc, hh, hm, upto, hnone, Bool.false_eq_true, if_false, List.head?_cons]
  rcases m.binds c with _ | n <;> rcases m.tile with _ | t <;> rfl

end

/-! ### SLOT_CLAIM (08 R166, R184) -/

/-- The slot as cohort `k` of a crew claims it: the contents of another crew are cleared. -/
def Slot.claimedBy (z : Slot) (k crew : Nat) : Slot :=
  if z.lastCrew = crew then { z with owner := k } else { owner := k, lastCrew := crew }

/-- The slot's claim, without the mark on the stream's head. -/
def State.claimSlot (s : State) (k crew core sub n : Nat) : State :=
  (if (s.slot core sub n).lastCrew = crew then s else s.slotWritten core sub n (upto 10242)).setSlot core sub n
    ((s.slot core sub n).claimedBy k crew)

theorem State.claimSlot_only (s : State) (k crew core sub n : Nat) :
    s.claimSlot k crew core sub n = { s.setSlot core sub n ((s.slot core sub n).claimedBy k crew) with
      latent := (s.claimSlot k crew core sub n).latent } := by
  unfold State.claimSlot
  split
  · rfl
  · unfold State.slotWritten
    rw [State.rewrite_only]
    rfl

theorem State.cohort_claimSlot (s : State) (k crew core sub n j : Nat) :
    (s.claimSlot k crew core sub n).cohort j = s.cohort j := by
  rw [State.claimSlot_only]
  rfl

theorem State.slot_claimSlot {s : State} {k crew core sub n : Nat} (h : Tab.wf {} s.slots = true) :
    (s.claimSlot k crew core sub n).slot core sub n = (s.slot core sub n).claimedBy k crew := by
  rw [State.claimSlot_only]
  exact State.slot_setSlot_self h

section

variable {s : State} {k n : Nat} {c : Cohort} {m : MtxOp} {rest : List MtxOp} (hc : s.cohort k = some c)
  (hm : c.stream = m :: rest) (hh : s.mtxHolds c = false) (hn : m.kind = .oclaim n)
include hc hm hh hn

theorem slotClaim_takes (h : (s.slot (s.crewOf c).core c.sub n).owner = 0 ∨ (s.slot (s.crewOf c).core c.sub n).owner = k) :
    slotClaim k s = (s.claimSlot k c.crew (s.crewOf c).core c.sub n).onCohort k (·.onHead fun m => { m with claimed := true }) := by
  have hfree : ¬ ((s.slot (s.crewOf c).core c.sub n).owner ≠ 0 ∧ (s.slot (s.crewOf c).core c.sub n).owner ≠ k) := by tauto
  simp only [slotClaim, hc, hh, hm, hn, Bool.false_eq_true, if_false, List.head?_cons, Option.map_some, hfree]
  rfl

theorem slotClaim_keeps (h0 : (s.slot (s.crewOf c).core c.sub n).owner ≠ 0)
    (hk : (s.slot (s.crewOf c).core c.sub n).owner ≠ k) : slotClaim k s = s := by
  simp only [slotClaim, hc, hh, hm, hn, Bool.false_eq_true, if_false, List.head?_cons, Option.map_some, ne_eq, h0, hk,
    not_false_eq_true, and_self, if_true]

end

/-! ### MATRIX_START_ADMISSION and ADMISSION_WINDOW (21 R430, R431) -/

/-- The head of cohort `k` starts its product on the array of a sub-core. -/
def State.startProduct (s : State) (k core sub : Nat) : State :=
  { (s.countPm core sub 5 1).onCohort k (·.onHead fun m => { m with admitted := true }) with
      busy := Tab.put false s.busy (subIx core sub) true,
      admWait := s.admWait.filter fun e => e.2 != k }

@[simp] theorem State.startProduct_admitted (s : State) (k core sub : Nat) :
    (s.startProduct k core sub).admitted = s.admitted := by
  unfold State.startProduct
  rw [(s.countPm_only core sub 5 1 0).1]
  rfl

theorem State.cohort_startProduct {s : State} {k core sub : Nat} {c : Cohort} (h : s.cohort k = some c) :
    (s.startProduct k core sub).cohort k = some (c.onHead fun m => { m with admitted := true }) :=
  State.cohort_onCohort_self (fun c => c.key_onHead _) ((s.cohort_countPm core sub 5 1 0 k).trans h)

/-- The state with one more start in the window of a sector. -/
def State.countStart (s : State) (sec : Nat) : State :=
  { s with admitted := Tab.put 0 s.admitted sec (Tab.read 0 s.admitted sec + 1) }

theorem State.countStart_counts (s : State) (sec : Nat) :
    Tab.read 0 (s.countStart sec).admitted sec = Tab.read 0 s.admitted sec + 1 :=
  Tab.read_put_self _ _ _ _ (Nat.succ_ne_zero _)

theorem State.countStart_other (s : State) {sec j : Nat} (h : j ≠ sec) :
    Tab.read 0 (s.countStart sec).admitted j = Tab.read 0 s.admitted j :=
  Tab.read_put_other _ _ _ _ _ h

section

variable {s : State} {k : Nat} {c : Cohort} {m : MtxOp} {rest : List MtxOp}

theorem State.startReady_of_product {n a b fs : Nat} (hm : c.stream = m :: rest) (hh : s.mtxHolds c = false)
    (hk : m.kind = .mma n a b fs ∨ m.kind = .mmaz n a b fs ∧ m.tile ≠ none) (ha : m.admitted = false)
    (hr : s.arrayRuns (s.crewOf c).core c.sub = false) (hmay : s.opMayHead c = true) : s.startReady c = true := by
  obtain hk | ⟨hk, ht⟩ := hk
  · simp [State.startReady, hm, hh, hk, ha, hr, hmay]
  · simp [State.startReady, hm, hh, hk, ha, hr, hmay, Option.isSome_iff_ne_none, ht]

variable (hc : s.cohort k = some c) (hr : s.startReady c = true)
include hc hr

theorem matrixAdmission_continues (hb : Tab.read false s.busy (subIx (s.crewOf c).core c.sub) = true) :
    matrixAdmission k s = s.startProduct k (s.crewOf c).core c.sub := by
  simp only [matrixAdmission, hc, hr, hb, Bool.not_true, Bool.false_eq_true, if_false, if_true]
  rfl

variable (hb : Tab.read false s.busy (subIx (s.crewOf c).core c.sub) = false) (hw : s.admWait = [])
include hb hw

/-- On an idle array, where no earlier start of the sector waits. -/
theorem matrixAdmission_idle :
    matrixAdmission k s =
      if Tab.read 0 s.admitted (sectorOf (s.crewOf c).core) < s.admitLimit ∧
          (s.newStarts (sectorOf (s.crewOf c).core)).head? = some k then
        (s.countStart (sectorOf (s.crewOf c).core)).startProduct k (s.crewOf c).core c.sub
      else if (s.newStarts (sectorOf (s.crewOf c).core)).head? = some k ∧
          s.admitLimit ≤ Tab.read 0 s.admitted (sectorOf (s.crewOf c).core) then
        { s with admWait := s.admWait ++ [(sectorOf (s.crewOf c).core, k)] }
      else s := by
  have hold : (s.admWait.find? fun e => e.1 == sectorOf (s.crewOf c).core && (s.cohort e.2).any s.startReady) = none := by
    rw [hw, List.find?_nil]
  simp only [matrixAdmission, hc, hr, hb, hold, Bool.not_true, Bool.false_eq_true, if_false, Option.map_none, Option.none_or]
  rfl

theorem matrixAdmission_keeps (hf : (s.newStarts (sectorOf (s.crewOf c).core)).head? ≠ some k) : matrixAdmission k s = s := by
  rw [matrixAdmission_idle hc hr hb hw, if_neg fun h => hf h.2, if_neg fun h => hf h.1]

variable (hf : (s.newStarts (sectorOf (s.crewOf c).core)).head? = some k)
include hf

theorem matrixAdmission_starts (hl : Tab.read 0 s.admitted (sectorOf (s.crewOf c).core) < s.admitLimit) :
    matrixAdmission k s = (s.countStart (sectorOf (s.crewOf c).core)).startProduct k (s.crewOf c).core c.sub := by
  rw [matrixAdmission_idle hc hr hb hw, if_pos ⟨hl, hf⟩]

theorem matrixAdmission_queues (hl : s.admitLimit ≤ Tab.read 0 s.admitted (sectorOf (s.crewOf c).core)) :
    matrixAdmission k s = { s with admWait := [(sectorOf (s.crewOf c).core, k)] } := by
  rw [matrixAdmission_idle hc hr hb hw, if_neg fun h => absurd h.1 (Nat.not_lt.mpr hl), if_pos ⟨hf, hl⟩, hw, List.nil_append]

end

/-! ### MTX_COMPLETION (08 R172, R173) -/

section

variable {s : State} {k : Nat} {c : Cohort} {m : MtxOp} {rest : List MtxOp} (hc : s.cohort k = some c) (hm : c.stream = m :: rest)
include hc hm

theorem mtxCompletion_completes (hh : s.mtxHolds c = false) (hr : m.ready c = true) (hmay : s.opMayHead c = true) :
    let u := (s.mtxEffect c m).onCohort k fun c => ({ c with stream := rest } : Cohort).completeOp m.op
    mtxCompletion k s = if m.admitted then u.coolArrays (· == subIx (u.crewOf c).core c.sub) else u := by
  simp only [mtxCompletion, hc, hm, hh, hr, hmay, Bool.not_true, Bool.and_false, Bool.or_false, Bool.false_eq_true, if_false]

theorem mtxCompletion_keeps (h : m.ready c = false ∨ s.opMayHead c = false) : mtxCompletion k s = s := by
  have hheld : (!m.ready c || !m.admitted && s.mtxHolds c || !s.opMayHead c) = true := by
    obtain h | h := h <;> simp [h]
  simp only [mtxCompletion, hc, hm, hheld, if_true]

end

/-- Settles O40: each clause is what its event's equation says of the head. -/
theorem matrixStream : Obligations.MatrixStream := by
  unfold Obligations.MatrixStream
  intro s k c m rest hc hm _ htiles hslots hh
  refine ⟨?tileTaken, ?noTile, ?slot, ?admission, ?window, ?completes, ?keeps⟩
  case tileTaken =>
    intro n t hn ht ho hf
    exact ⟨_, c.tileTaken n t, congrArg Host.Outcome.next (tileBind_takes hc hm hh hn ht ho hf),
      State.cohort_onCohort_self (Cohort.key_tileTaken n t) (State.cohort_newTile.trans hc), c.tileTaken_tileOf n t,
      Cohort.tileTaken_stream hm, State.tile_newTile_self htiles, fun j _ hj => State.tile_newTile_other hj⟩
  case noTile => exact fun h => congrArg Host.Outcome.next (tileBind_keeps hc hm hh h)
  case slot =>
    refine fun n hn => ⟨fun h => ?_, fun h0 h => congrArg Host.Outcome.next (slotClaim_keeps hc hm hh hn h0 h)⟩
    exact ⟨_, c.onHead fun m => { m with claimed := true }, congrArg Host.Outcome.next (slotClaim_takes hc hm hh hn h),
      State.cohort_onCohort_self (fun c => c.key_onHead _) ((s.cohort_claimSlot ..).trans hc),
      congrArg Cohort.stream (Cohort.onHead_cons hm), State.slot_claimSlot hslots⟩
  case admission =>
    intro n a b fs hkind ha hruns hmay hw
    have hready := State.startReady_of_product hm hh hkind ha hruns hmay
    have hstream := congrArg Cohort.stream (Cohort.onHead_cons (f := fun m => { m with admitted := true }) hm)
    refine ⟨fun hb => ?_, fun hb hf => congrArg Host.Outcome.next (matrixAdmission_keeps hc hready hb hw hf),
      fun hb hf hl => ?_, fun hb hf hl => congrArg Host.Outcome.next (matrixAdmission_queues hc hready hb hw hf hl)⟩
    · exact ⟨_, _, congrArg Host.Outcome.next (matrixAdmission_continues hc hready (Bool.eq_true_of_not_eq_false hb)),
        State.cohort_startProduct hc, hstream, State.startProduct_admitted ..⟩
    · refine ⟨_, _, congrArg Host.Outcome.next (matrixAdmission_starts hc hready hb hw hf hl),
        State.cohort_startProduct hc, hstream, ?_⟩
      rw [State.startProduct_admitted]
      exact ⟨s.countStart_counts _, fun j hj => s.countStart_other hj⟩
  case window =>
    exact fun sec hadm => ⟨admissionWindow sec s, rfl, Tab.read_put hadm sec 0,
      fun j hj => Tab.read_put_other _ _ _ _ _ hj, rfl⟩
  case completes => exact fun hr hmay => congrArg Host.Outcome.next (mtxCompletion_completes hc hm hh hr hmay)
  case keeps => exact fun h => congrArg Host.Outcome.next (mtxCompletion_keeps hc hm h)

end Sys2Proof.Machine
end

section
/-!
PROOFS. Errors: what a meeting of errors does to the list of errors, to the marks and to the counts (10 R233, R235).
-/

namespace Sys2Proof.Machine

/-! ### Folds and tables -/

/-- What one element of a list establishes in any state, and every element keeps, holds after the fold. -/
theorem foldl_reaches {β σ : Type} {Q : σ → Prop} {f : σ → β → σ} {l : List β} {b : β} (hb : b ∈ l) (hset : ∀ s, Q (f s b))
    (hkeep : ∀ s, ∀ x ∈ l, Q s → Q (f s x)) (s : σ) : Q (l.foldl f s) := by
  obtain ⟨l₁, l₂, rfl⟩ := List.append_of_mem hb
  rw [List.foldl_append, List.foldl_cons]
  exact List.foldlRecOn l₂ f (hset _) fun s hs x hx => hkeep s x (List.mem_append_right _ (List.mem_cons_of_mem _ hx)) hs

/-- One value written at many keys is read at each of them, and stays where it was. -/
theorem Tab.read_putAll_const {α : Type} [DecidableEq α] {d x : α} (hx : x ≠ d) {t : Tab α} {l : List (Nat × α)} {a : Nat}
    (hl : ∀ e ∈ l, e.2 = x) (h : (∃ e ∈ l, e.1 = a) ∨ Tab.read d t a = x) : Tab.read d (Tab.putAll d t l) a = x := by
  induction l generalizing t with
  | nil => exact h.resolve_left (by simp)
  | cons e l ih =>
    obtain ⟨he, hl⟩ := List.forall_mem_cons.mp hl
    refine ih hl ?_
    by_cases ha : a = e.1
    · exact .inr (by rw [ha, he]; exact Tab.read_put_self d t e.1 x hx)
    · rw [Tab.read_put_other _ _ _ _ _ ha]
      refine h.imp_left fun ⟨b, hb, hba⟩ => ⟨b, (List.mem_cons.mp hb).resolve_left ?_, hba⟩
      rintro rfl
      exact ha hba.symm

/-! ### The list of errors -/

section
variable {s t : State} {k : Site} {e : Site × Bool}

@[simp] theorem State.mark_latent : (s.mark k).latent = s.latent := by
  cases k <;> rfl

@[simp] theorem State.countEcc_latent : (s.countEcc k).latent = s.latent := by
  cases k with
  | vreg | sreg =>
    simp only [State.countEcc]
    split <;> rfl
  | glob | burst | chip | spad | slot | tile | priv => rfl

theorem State.meetOne_latent : (s.meetOne e).latent = s.latent.filter fun x => decide (x ≠ e) := by
  unfold State.meetOne
  simp only
  split <;> simp

theorem State.mem_latent_foldl {l : List (Site × Bool)} {x : Site × Bool} :
    x ∈ (l.foldl State.meetOne s).latent ↔ x ∈ s.latent ∧ x ∉ l := by
  induction l generalizing s with
  | nil => simp
  | cons e l ih =>
    rw [List.foldl_cons, ih, State.meetOne_latent]
    simp only [List.mem_filter, decide_eq_true_eq, List.mem_cons, not_or, and_assoc]

/-- The errors of the words that are read are met, and no other. -/
theorem State.mem_latent_meet {ks : List Site} {x : Site × Bool} :
    x ∈ (s.meet ks).latent ↔ x ∈ s.latent ∧ x.1 ∉ ks := by
  rw [State.meet, State.mem_latent_foldl, List.mem_filter]
  simp +contextual

/-! ### Marks -/

/-- The marks that an uncorrectable error leaves: on the word, on the four words of a burst, on the bytes of a word of a slot. -/
def State.marked (s : State) : Site → Prop
  | .glob w => Tab.read false s.gPoison w = true
  | .burst n => ∀ j, j < 4 → Tab.read false s.gPoison (4 * n + j) = true
  | .chip w => Tab.read false s.cPoison w = true
  | .spad w => Tab.read false s.sPoison w = true
  | .slot u w => w < 1280 → ∀ j, j < 8 → Tab.read false (Tab.read {} s.slots u).poison (8 * w + j) = true
  | _ => True

theorem State.marked_mark : (s.mark k).marked k := by
  have htrue : true ≠ false := nofun
  cases k with
  | glob w => exact Tab.read_put_self _ _ _ _ htrue
  | chip w => exact Tab.read_put_self _ _ _ _ htrue
  | spad w => exact Tab.read_put_self _ _ _ _ htrue
  | burst n => exact fun j hj => Tab.read_putAll_const htrue (by simp) (.inl (by simpa [upto] using hj))
  | slot u w =>
    intro hw j hj
    have hbytes := fun j (hj : j < 8) => Tab.read_putAll_const (t := (Tab.read {} s.slots u).poison)
      (l := (upto 8).map fun j => (8 * w + j, true)) (a := 8 * w + j) htrue (by simp) (.inl (by simpa [upto] using hj))
    simp only [State.mark, if_neg (show w ≠ 1280 by omega)]
    rw [Tab.read_put_self]
    · exact hbytes j hj
    · intro hdef
      have := hbytes j hj
      rw [show Tab.putAll false _ _ = [] from congrArg Slot.poison hdef] at this
      cases this
  | tile | vreg | sreg | priv => trivial

theorem State.countEcc_marks : (s.countEcc k).gPoison = s.gPoison ∧ (s.countEcc k).cPoison = s.cPoison ∧
    (s.countEcc k).sPoison = s.sPoison ∧ (s.countEcc k).slots = s.slots := by
  cases k with
  | vreg | sreg =>
    simp only [State.countEcc]
    split <;> exact ⟨rfl, rfl, rfl, rfl⟩
  | glob | burst | chip | spad | slot | tile | priv => exact ⟨rfl, rfl, rfl, rfl⟩

theorem State.marked_congr (hg : t.gPoison = s.gPoison) (hc : t.cPoison = s.cPoison) (hs : t.sPoison = s.sPoison)
    (hsl : t.slots = s.slots) (h : s.marked k) : t.marked k := by
  cases k with
  | glob | burst | chip | spad | slot => simpa only [State.marked, hg, hc, hs, hsl] using h
  | tile | vreg | sreg | priv => trivial

/-- An error met at a marked word leaves it marked. -/
theorem State.marked_meetOne (h : s.marked e.1) : (s.meetOne e).marked e.1 := by
  unfold State.meetOne
  simp only
  split
  · exact State.marked_mark
  · obtain ⟨hg, hc, hs, hsl⟩ := State.countEcc_marks (s := { s with latent := s.latent.filter fun x => decide (x ≠ e) }) (k := e.1)
    exact State.marked_congr hg hc hs hsl h

/-- A read of a word that holds an uncorrectable error marks it. -/
theorem State.marked_meet (h : (k, true) ∈ s.latent) : (s.meet [k]).marked k := by
  have hmet : (k, true) ∈ s.latent.filter fun e => [k].contains e.1 := List.mem_filter.mpr ⟨h, by simp⟩
  refine foldl_reaches (Q := fun t : State => t.marked k) hmet (fun t => ?_) (fun t x hx ht => ?_) s
  · exact State.marked_mark (k := k)
  · have hx : x.1 = k := by simpa using (List.mem_filter.mp hx).2
    rw [← hx] at ht ⊢
    exact State.marked_meetOne ht

/-! ### Corrected errors -/

/-- Nothing has changed but the list of errors and the counts of corrected ones. -/
def State.corrects (s t : State) : Prop := t = { s with latent := t.latent, cores := t.cores, slEcc := t.slEcc }

theorem State.corrects_countEcc : s.corrects (s.countEcc k) := by
  cases k with
  | vreg | sreg =>
    simp only [State.countEcc]
    split <;> rfl
  | glob | burst | chip | spad | slot | tile | priv => rfl

theorem State.meetOne_corrected (hpar : e.1.parity = false) (he : e.2 = false) :
    s.meetOne e = ({ s with latent := s.latent.filter fun x => decide (x ≠ e) } : State).countEcc e.1 := by
  simp only [State.meetOne, he, hpar, Bool.or_self, Bool.false_eq_true, if_false]

theorem State.corrects_meet {ks : List Site} (h : ∀ e ∈ s.latent, e.1 ∈ ks → e.1.parity = false ∧ e.2 = false) :
    s.corrects (s.meet ks) := by
  refine List.foldlRecOn (motive := s.corrects) _ State.meetOne rfl fun t ht e he => ?_
  obtain ⟨he, hk⟩ := List.mem_filter.mp he
  obtain ⟨hpar, hcorr⟩ := h e he (by simpa using hk)
  have hone := State.corrects_countEcc (s := { t with latent := t.latent.filter fun x => decide (x ≠ e) }) (k := e.1)
  rw [State.meetOne_corrected hpar hcorr]
  unfold State.corrects at *
  rw [hone, ht]

/-! ### Words of global memory that an access finds bad -/

/-- The words that an error of global memory spoils. -/
def Site.spoils (k : Site) (w : Nat) : Prop := k = .glob w ∨ k = .burst (w / 4)

theorem State.wordBad_glob_iff {w : Nat} : s.wordBad (.glob w) = true ↔
    Tab.read false s.gPoison w = true ∨ ∃ k, Site.spoils k w ∧ (k, true) ∈ s.latent := by
  simp only [State.wordBad, Bool.or_eq_true, List.contains_iff_mem, or_assoc, Site.spoils, or_and_right, exists_or, exists_eq_left]

theorem State.read_gPoison_mark {w : Nat} (hk : k.inGlob = true) :
    Tab.read false (s.mark k).gPoison w = true ↔ k.spoils w ∨ Tab.read false s.gPoison w = true := by
  have htrue : true ≠ false := nofun
  cases k with
  | glob v =>
    by_cases h : v = w
    · subst h
      exact iff_of_true (Tab.read_put_self _ _ _ _ htrue) (.inl (.inl rfl))
    · simp only [State.mark, Tab.read_put_other _ _ _ _ _ (Ne.symm h), Site.spoils, Site.glob.injEq, h, reduceCtorEq, or_self, false_or]
  | burst n =>
    by_cases h : n = w / 4
    · refine iff_of_true (Tab.read_putAll_const htrue (by simp) (.inl ⟨(w, true), ?_, rfl⟩)) (.inl (.inr (h ▸ rfl)))
      exact List.mem_map.mpr ⟨w % 4, List.mem_range.mpr (by omega), by rw [h, Nat.div_add_mod]⟩
    · have hne : ∀ e ∈ (upto 4).map fun j => (4 * n + j, true), w ≠ e.1 := by
        simp only [upto, List.mem_map, List.mem_range]
        rintro _ ⟨j, hj, rfl⟩
        show w ≠ 4 * n + j
        omega
      simp only [State.mark, Tab.read_putAll_ne _ _ hne, Site.spoils, Site.burst.injEq, h, reduceCtorEq, or_self, false_or]
  | chip | spad | slot | tile | vreg | sreg | priv => cases hk

/-- An error met at words that an access finds bad in any case: it finds the same words bad. -/
theorem State.wordBad_meetOne (hk : e.1.inGlob = true) (he : e.2 = true → ∀ w, e.1.spoils w → s.wordBad (.glob w) = true) (w : Nat) :
    (s.meetOne e).wordBad (.glob w) = s.wordBad (.glob w) := by
  have hpar : e.1.parity = false := by
    cases hs : e.1 with
    | priv => rw [hs] at hk; cases hk
    | _ => rfl
  rw [Bool.eq_iff_iff, State.wordBad_glob_iff, State.meetOne_latent]
  obtain ⟨k, bad⟩ := e
  cases bad with
  | true =>
    have hmarks : Tab.read false (s.meetOne (k, true)).gPoison w = true ↔ k.spoils w ∨ Tab.read false s.gPoison w = true :=
      State.read_gPoison_mark (s := { s with latent := _ }) hk
    rw [hmarks]
    constructor
    · rintro ((h | h) | ⟨x, hx, hmem⟩)
      · exact he rfl w h
      · exact State.wordBad_glob_iff.mpr (.inl h)
      · exact State.wordBad_glob_iff.mpr (.inr ⟨x, hx, (List.mem_filter.mp hmem).1⟩)
    · intro h
      rcases State.wordBad_glob_iff.mp h with h | ⟨x, hx, hmem⟩
      · exact .inl (.inr h)
      · by_cases hxk : x = k
        · exact .inl (.inl (hxk ▸ hx))
        · exact .inr ⟨x, hx, List.mem_filter.mpr ⟨hmem, by simpa using hxk⟩⟩
  | false =>
    have hmarks : (s.meetOne (k, false)).gPoison = s.gPoison := by
      rw [State.meetOne_corrected hpar rfl]
      exact State.countEcc_marks.1
    rw [hmarks, State.wordBad_glob_iff]
    simp

/-- Meeting errors of global memory leaves the words that an access finds bad. -/
theorem State.wordBad_meet {ks : List Site} (hks : ∀ k ∈ ks, k.inGlob = true) (w : Nat) :
    (s.meet ks).wordBad (.glob w) = s.wordBad (.glob w) := by
  refine List.foldlRecOn (motive := fun t : State => ∀ w, t.wordBad (.glob w) = s.wordBad (.glob w)) _ State.meetOne (fun _ => rfl)
    (fun t ht e he w => ?_) w
  obtain ⟨he, hk⟩ := List.mem_filter.mp he
  refine (State.wordBad_meetOne (hks e.1 (by simpa using hk)) (fun hbad w hw => ?_) w).trans (ht w)
  rw [ht w]
  exact State.wordBad_glob_iff.mpr (.inr ⟨e.1, hw, hbad ▸ he⟩)

end

end Sys2Proof.Machine
end

section
/-!
PROOFS. Walks: what a walk leaves in the translation caches (10 R226, R227): the end of one that requesters share, and one that begins
and ends with its access, whose result the errors that it meets do not change.
-/

namespace Sys2Proof.Machine

/-! ### An entry enters a translation cache (10 R227) -/

/-- An entry enters behind those that are kept: all of the other caches, and of its own all but the oldest of a full one. -/
theorem tlbPut_eq (cap : Nat) (e : TlbE) (l : List TlbE) : ∃ kept, tlbPut cap e l = kept ++ [e] ∧ (∀ x ∈ kept, x ∈ l) ∧
    ∀ x ∈ l, x.where_ ≠ e.where_ → x ∈ kept := by
  refine ⟨_, rfl, ?_⟩
  split
  next => exact ⟨fun _ => id, fun _ hx _ => hx⟩
  next =>
    split
    next => exact ⟨fun _ => id, fun _ hx _ => hx⟩
    next o rest hmine =>
      have ho : o ∈ l.filter fun x => x.where_ == e.where_ := hmine ▸ List.mem_cons_self
      have ho : o.where_ = e.where_ := by simpa using (List.mem_filter.mp ho).2
      refine ⟨fun x hx => (List.mem_filter.mp hx).1, fun x hx hne => List.mem_filter.mpr ⟨hx, decide_eq_true ?_⟩⟩
      rintro rfl
      exact hne ho

theorem mem_tlbPut_self {cap : Nat} {e : TlbE} {l : List TlbE} : e ∈ tlbPut cap e l :=
  List.mem_append_right _ (List.mem_singleton_self e)

theorem mem_tlbPut_of_ne {cap : Nat} {e x : TlbE} {l : List TlbE} (h : x ∈ l) (hx : x.where_ ≠ e.where_) : x ∈ tlbPut cap e l := by
  obtain ⟨kept, heq, -, hkept⟩ := tlbPut_eq cap e l
  rw [heq]
  exact List.mem_append_left _ (hkept x h hx)

theorem mem_of_mem_tlbPut {cap : Nat} {e x : TlbE} {l : List TlbE} (h : x ∈ tlbPut cap e l) : x ∈ l ∨ x = e := by
  obtain ⟨kept, heq, hkept, -⟩ := tlbPut_eq cap e l
  rw [heq] at h
  exact (List.mem_append.mp h).imp (hkept x) List.mem_singleton.mp

/-- An entry is found behind others that are not looked for. -/
theorem find?_tlbPut {cap : Nat} {e : TlbE} {l : List TlbE} {p : TlbE → Bool} (hl : ∀ x ∈ l, p x = false) (he : p e = true) :
    (tlbPut cap e l).find? p = some e := by
  obtain ⟨kept, heq, hkept, -⟩ := tlbPut_eq cap e l
  have hnone : kept.find? p = none := List.find?_eq_none.mpr fun x hx => ne_true_of_eq_false (hl x (hkept x hx))
  rw [heq, List.find?_append, hnone, Option.none_or, List.find?_cons_of_pos he]

/-- A translation cache with an entry for a page of an address space. -/
def hasPage (t : List TlbE) (place asid vpage : Nat) : Prop := ∃ e ∈ t, e.where_ = place ∧ e.asid = asid ∧ e.vpage = vpage

/-- The caches with an entry in its place, unless its page is there. -/
def tlbEnter (cap : Nat) (e : TlbE) (t : List TlbE) : List TlbE :=
  if t.any fun x => x.where_ == e.where_ && x.asid == e.asid && x.vpage == e.vpage then t else tlbPut cap e t

theorem hasPage_iff_any {t : List TlbE} {place asid vpage : Nat} : hasPage t place asid vpage ↔
    (t.any fun x => x.where_ == place && x.asid == asid && x.vpage == vpage) = true := by
  simp only [hasPage, List.any_eq_true, Bool.and_eq_true, beq_iff_eq, and_assoc]

theorem hasPage_tlbEnter {cap : Nat} {e : TlbE} {t : List TlbE} : hasPage (tlbEnter cap e t) e.where_ e.asid e.vpage := by
  unfold tlbEnter
  split
  next h => exact hasPage_iff_any.mpr h
  next => exact ⟨e, mem_tlbPut_self, rfl, rfl, rfl⟩

/-- A page stays when the same page enters, and when an entry of another cache does. -/
theorem hasPage_tlbEnter_of_hasPage {cap : Nat} {e : TlbE} {t : List TlbE} {place : Nat} (h : hasPage t place e.asid e.vpage) :
    hasPage (tlbEnter cap e t) place e.asid e.vpage := by
  by_cases hp : e.where_ = place
  · exact hp ▸ hasPage_tlbEnter
  · obtain ⟨x, hx, rfl, hpage⟩ := h
    unfold tlbEnter
    split
    · exact ⟨x, hx, rfl, hpage⟩
    · exact ⟨x, mem_tlbPut_of_ne hx (Ne.symm hp), rfl, hpage⟩

/-! ### The end of a walk that requesters share (10 R227) -/

/-- The result of a walk for its requester. -/
def PageWalk.entry (k : PageWalk) : TlbE := ⟨k.core, k.asid, k.vpage, k.size, k.ppage, k.r, k.w, k.x⟩

/-- A walk's result enters the sector's L2 TLB and its requester's L1 TLB. -/
def PageWalk.enter (sector : Nat) (t : List TlbE) (k : PageWalk) : List TlbE :=
  tlbEnter 64 k.entry (tlbEnter 4096 { k.entry with where_ := 640 + sector } t)

/-- Is the walk one of a sector for a page? -/
def PageWalk.isOf (sector : Nat) (page : Nat × Nat) (k : PageWalk) : Bool := sectorOf k.core == sector && (k.asid, k.vpage) == page

theorem PageWalk.isOf_iff {sector : Nat} {page : Nat × Nat} {k : PageWalk} :
    k.isOf sector page = true ↔ sectorOf k.core = sector ∧ k.asid = page.1 ∧ k.vpage = page.2 := by
  simp only [PageWalk.isOf, Bool.and_eq_true, beq_iff_eq, Prod.ext_iff]

section
variable {s t : State} {sector : Nat} {page : Nat × Nat}

theorem State.endWalk_eq : s.endWalk sector page =
    { s with tlb := (s.walks.filter fun k => k.isOf sector page && k.install).foldl (PageWalk.enter sector) s.tlb,
             walks := s.walks.filter fun k => !(k.isOf sector page) } := rfl

theorem State.mem_walks_endWalk {w : PageWalk} :
    w ∈ (s.endWalk sector page).walks ↔ w ∈ s.walks ∧ ¬ (sectorOf w.core = sector ∧ w.asid = page.1 ∧ w.vpage = page.2) := by
  simp only [State.endWalk_eq, List.mem_filter, Bool.not_eq_true', ← Bool.not_eq_true, PageWalk.isOf_iff]

/-- A walk that every requester's tlbinv has marked enters no cache. -/
theorem State.tlb_endWalk_of_marked (h : ∀ w ∈ s.walks, w.isOf sector page = true → w.install = false) :
    (s.endWalk sector page).tlb = s.tlb := by
  have hnone : (s.walks.filter fun k => k.isOf sector page && k.install) = [] := by
    refine List.filter_eq_nil_iff.mpr fun w hw => ?_
    rw [Bool.and_eq_true, not_and, Bool.not_eq_true]
    exact h w hw
  rw [State.endWalk_eq, hnone]
  rfl

/-- Each requester's cache holds the page. -/
theorem State.hasPage_endWalk {w : PageWalk} (hw : w ∈ s.walks) (hof : w.isOf sector page = true) (hin : w.install = true) :
    hasPage (s.endWalk sector page).tlb w.core w.asid w.vpage := by
  have hmem : w ∈ s.walks.filter fun k => k.isOf sector page && k.install :=
    List.mem_filter.mpr ⟨hw, by rw [hof, hin]; rfl⟩
  refine foldl_reaches (Q := fun t => hasPage t w.core w.asid w.vpage) hmem (fun t => ?_) (fun t k hk ht => ?_) s.tlb
  · exact hasPage_tlbEnter (e := w.entry)
  · obtain ⟨-, hasid, hpage⟩ := PageWalk.isOf_iff.mp (Bool.and_eq_true_iff.mp (List.mem_filter.mp hk).2).1
    obtain ⟨-, hasid', hpage'⟩ := PageWalk.isOf_iff.mp hof
    rw [hasid'.trans hasid.symm, hpage'.trans hpage.symm] at ht ⊢
    exact hasPage_tlbEnter_of_hasPage (e := k.entry)
      (hasPage_tlbEnter_of_hasPage (e := { k.entry with where_ := 640 + sector }) ht)

end

/-! ### The leaf of an address (10 R224-R227) -/

section
variable {s t : State} {core : Nat} {jd : JobDesc} {va : Nat} {l : Leaf}

theorem State.poisoned_glob {a n : Nat} : s.poisoned .glob a n = (s.poisonKeys .glob a n).any s.wordBad := by
  unfold State.poisoned
  split
  next h =>
    obtain ⟨hg, -, -, hl⟩ := h
    refine (List.any_eq_false.mpr fun k hk => ?_).symm
    obtain ⟨w, -, rfl⟩ := List.mem_map.mp hk
    simp [State.wordBad, hg, hl, Tab.read]
  next => rfl

/-- Machines with the same bytes and bad words of global memory, tables of walks and caches find the same leaves. -/
theorem State.leafOf_congr (hg : t.gmem = s.gmem) (hb : t.boot = s.boot) (ht : t.tlb = s.tlb) (hw : t.walks = s.walks)
    (hbad : ∀ w, t.wordBad (.glob w) = s.wordBad (.glob w)) : t.leafOf core jd va = s.leafOf core jd va := by
  have hpois : ∀ a n, t.poisoned .glob a n = s.poisoned .glob a n := fun a n => by
    rw [State.poisoned_glob, State.poisoned_glob]
    simp only [State.poisonKeys, List.any_map, funext hbad, Function.comp_def]
  have htier : t.tierOk = s.tierOk := by
    funext pa n
    rw [State.tierOk, State.tierOk, State.tier2Size, State.tier2Size, hb]
  have hpte : t.pte = s.pte := by
    funext tbl ix entries
    simp only [State.pte, hg, hpois, htier]
  have hleaf : t.pteLeaf = s.pteLeaf := by
    funext e size
    simp only [State.pteLeaf, htier]
  have hwalk : t.walk jd.root va = s.walk jd.root va := by
    unfold State.walk
    rw [hpte, hleaf]
  simp only [State.leafOf, State.tlbHit, ht, hw, hwalk]

theorem State.pteLeaf_size {e size : Nat} (h : s.pteLeaf e size = some l) : l.size = size := by
  unfold State.pteLeaf at h
  simp only at h
  split at h
  · rw [← Option.some.inj h]
  · cases h

theorem State.walk_size_pos {root : Nat} (h : s.walk root va = some l) : 0 < l.size := by
  simp only [State.walk, Option.bind_eq_bind, Option.bind_none, Option.bind_some] at h
  obtain ⟨-, h⟩ := Option.ite_none_right_eq_some.mp h
  simp only [Option.bind_eq_some_iff] at h
  obtain ⟨e0, -, t1, -, e1, -, t2, -, e2, -, h⟩ := h
  split at h
  · rw [State.pteLeaf_size h]
    exact Nat.two_pow_pos _
  · obtain ⟨t3, -, h⟩ := Option.bind_eq_some_iff.mp h
    split at h
    · obtain ⟨e3, -, h⟩ := Option.bind_eq_some_iff.mp h
      rw [State.pteLeaf_size h]
      exact Nat.two_pow_pos _
    · split at h
      · cases h
      · obtain ⟨e3, -, h⟩ := Option.bind_eq_some_iff.mp h
        rw [State.pteLeaf_size h]
        exact Nat.two_pow_pos _

theorem State.covers_of_tlbHit {place asid : Nat} {e : TlbE} (h : s.tlbHit place asid va = some e) :
    e.vpage ≤ va ∧ va < e.vpage + e.size := by
  have hcov := List.find?_some (show s.tlb.find? _ = some e from h)
  simpa using (Bool.and_eq_true_iff.mp hcov).2

theorem State.leafOf_size_pos (h : s.leafOf core jd va = some l) : 0 < l.size := by
  unfold State.leafOf at h
  split at h
  next e he =>
    have hcov : e.vpage ≤ va ∧ va < e.vpage + e.size :=
      (Option.or_eq_some_iff.mp he).elim State.covers_of_tlbHit fun h => State.covers_of_tlbHit h.2
    rw [← Option.some.inj h]
    show 0 < e.size
    omega
  next =>
    split at h
    next k hk =>
      have hserves : k.serves (sectorOf core) jd.asid va = true := by simpa using List.find?_some hk
      have hcov : k.vpage ≤ va ∧ va < k.vpage + k.size := by
        simpa using (Bool.and_eq_true_iff.mp hserves).2
      rw [← Option.some.inj h]
      show 0 < k.size
      omega
    next => exact State.walk_size_pos h

/-! ### A walk of its own (10 R227) -/

/-- The walker has read its entries and the miss is counted. -/
def State.walked (s : State) (core : Nat) (jd : JobDesc) (va : Nat) : State :=
  let t := s.meetPtes core jd [va]
  if core < 640 then t.countPm core 0 7 1 else t

theorem State.leafOf_meetPtes {vas : List Nat} : (s.meetPtes core jd vas).leafOf core jd va = s.leafOf core jd va := by
  unfold State.meetPtes
  split
  · rfl
  · obtain ⟨_, _, _, _, _, _, _, _, _, _, hm⟩ := s.meet_eq ((s.pteReads core jd vas).flatMap fun a => s.sites .glob a 8)
    refine State.leafOf_congr ?_ ?_ ?_ ?_ fun w => State.wordBad_meet State.inGlob_of_flatMap w
    all_goals rw [hm]

theorem State.tlb_meetPtes {vas : List Nat} : (s.meetPtes core jd vas).tlb = s.tlb := by
  unfold State.meetPtes
  split
  · rfl
  · obtain ⟨_, _, _, _, _, _, _, _, _, _, hm⟩ := s.meet_eq ((s.pteReads core jd vas).flatMap fun a => s.sites .glob a 8)
    rw [hm]

theorem State.walked_leafOf : (s.walked core jd va).leafOf core jd va = s.leafOf core jd va := by
  unfold State.walked
  split
  · rw [(State.countPm_only _ core 0 7 1 0).1]
    exact State.leafOf_meetPtes
  · exact State.leafOf_meetPtes

theorem State.walked_tlb : (s.walked core jd va).tlb = s.tlb := by
  unfold State.walked
  split
  · rw [(State.countPm_only _ core 0 7 1 0).1]
    exact State.tlb_meetPtes
  · exact State.tlb_meetPtes

theorem State.touchTlb_of_hit {e : TlbE} (h : s.tlbHit core jd.asid va = some e) : s.touchTlb core jd va = s := by
  rw [State.touchTlb, h]
  rfl

theorem State.tlb_touchTlb_unmapped (h : s.leafOf core jd va = none) : (s.touchTlb core jd va).tlb = s.tlb := by
  cases hmiss : s.tlbHit core jd.asid va with
  | some e => rw [State.touchTlb_of_hit hmiss]
  | none =>
    have hwalk := State.walked_leafOf.trans h
    unfold State.walked at hwalk
    rw [State.touchTlb, hmiss]
    simp only [Option.isSome_none, Bool.false_eq_true, if_false, hwalk]
    exact State.walked_tlb

/-- The entry for the leaf of an address in a core's L1 TLB. -/
def Leaf.entry (l : Leaf) (core asid va : Nat) : TlbE := ⟨core, asid, va / l.size * l.size, l.size, l.ppage, l.r, l.w, l.x⟩

/-- The walk of a core leaves its L1 TLB with the leaf: the newest entry, behind none that covers the address. -/
theorem State.tlbHit_touchTlb (hcore : core < 640) (hmiss : s.tlbHit core jd.asid va = none) (h : s.leafOf core jd va = some l) :
    (s.touchTlb core jd va).tlbHit core jd.asid va = some (l.entry core jd.asid va) := by
  have hwalk := State.walked_leafOf.trans h
  have htlb := s.walked_tlb (core := core) (jd := jd) (va := va)
  unfold State.walked at hwalk htlb
  rw [State.touchTlb, hmiss]
  simp only [Option.isSome_none, Bool.false_eq_true, if_false, hwalk]
  simp only [State.tlbHit, if_pos hcore] at htlb hmiss ⊢
  rw [htlb]
  refine find?_tlbPut (e := l.entry core jd.asid va) (fun x hx => ?_) ?_
  · have hold : x ∈ s.tlb ∨ x.where_ = 640 + sectorOf core := by
      split at hx
      · exact .inl hx
      · exact (mem_of_mem_tlbPut hx).imp_right fun h => congrArg TlbE.where_ h
    rcases hold with hx | hx
    · exact Bool.eq_false_iff.mpr (List.find?_eq_none.mp hmiss x hx)
    · have hne : x.where_ ≠ core := by omega
      simp [hne]
  · have hcov : va / l.size * l.size ≤ va ∧ va < va / l.size * l.size + l.size :=
      ⟨Nat.div_mul_le_self va l.size, Nat.lt_div_mul_add (State.leafOf_size_pos h)⟩
    simp [Leaf.entry, hcov.1, hcov.2]

end

end Sys2Proof.Machine
end

section
/-!
PROOFS. FaultRecords: a fault record at its ring (14 R310, R312): written whole, held, or dropped and counted.
-/

namespace Sys2Proof.Machine

/-! ### Reads of memory through writes elsewhere -/

theorem Memory.nat_congr {m m' : Memory} {a n : Nat} (h : ∀ b, a ≤ b → b < a + n → m'.byte b = m.byte b) : m'.nat a n = m.nat a n := by
  refine congrArg leNat ?_
  unfold Memory.bytes
  induction n generalizing a with
  | zero => rfl
  | succ n ih =>
    rw [Tab.readN, Tab.readN, ih fun b hb hn => h b (by omega) (by omega)]
    exact congrArg (· :: _) (h a le_rfl (by omega))

/-! ### What work on a ring leaves alone -/

/-- No cohort and no memory but the global one has changed. -/
structure State.GlobOnly (s t : State) : Prop where
  cohorts : t.cohorts = s.cohorts
  cmem : t.cmem = s.cmem
  smem : t.smem = s.smem

section
variable {s t u : State} {pa a n : Nat} {atomic : Bool} {as : List Nat}

theorem State.GlobOnly.trans (h : s.GlobOnly t) (g : t.GlobOnly u) : s.GlobOnly u :=
  ⟨g.cohorts.trans h.cohorts, g.cmem.trans h.cmem, g.smem.trans h.smem⟩

theorem State.globOnly_meet {ks : List Site} (hk : ∀ k ∈ ks, k.inMem = true) : s.GlobOnly (s.meet ks) :=
  ⟨((State.SameHolders.refl s).meet hk).cohorts, (s.sameMem_meet ks).2.1, (s.sameMem_meet ks).2.2⟩

theorem State.globOnly_meet_sites : s.GlobOnly (s.meet (s.sites .glob a n)) :=
  State.globOnly_meet fun _ => State.inMem_of_sites

theorem State.globOnly_writeNat {x : Nat} : s.GlobOnly (s.writeNat .glob a n x) :=
  ⟨((State.SameHolders.refl s).writeBytes .glob _).cohorts, (s.sameMem_meet _).2.1, (s.sameMem_meet _).2.2⟩

theorem State.globOnly_ringPush {x : Nat} : s.GlobOnly (s.ringPush pa x) := State.globOnly_writeNat.trans State.globOnly_writeNat

theorem State.globOnly_ringPushes {ws : List Nat} : s.GlobOnly (ws.foldl (fun s x => s.ringPush pa x) s) :=
  List.foldlRecOn ws _ ⟨rfl, rfl, rfl⟩ fun _ h _ _ => h.trans State.globOnly_ringPush

/-- A slice watch posts a record and changes nothing else. -/
theorem State.slPost_eq : s.slPost atomic as = { s with posts := (s.slPost atomic as).posts } := by
  unfold State.slPost
  split
  · rfl
  · split <;> rfl

theorem State.globOnly_slPost : s.GlobOnly (s.slPost atomic as) := by
  rw [State.slPost_eq]
  exact ⟨rfl, rfl, rfl⟩

theorem State.gmem_slPost : (s.slPost atomic as).gmem = s.gmem := by
  rw [State.slPost_eq]

/-- What it posts depends on the watches and their ring alone. -/
theorem State.posts_slPost_congr (hp : t.posts = s.posts) (ha : t.swatchA = s.swatchA) (hc : t.swatchC = s.swatchC)
    (hr : t.swring = s.swring) : (t.slPost atomic as).posts = (s.slPost atomic as).posts := by
  have hstrike : t.slStrike atomic as = s.slStrike atomic as := by
    have hbyte : ∀ i, t.slByte i atomic = s.slByte i atomic := fun i => by
      funext a
      simp only [State.slByte, ha, hc]
    simp only [State.slStrike, hc, hbyte]
  unfold State.slPost
  rw [hstrike, hr]
  split
  · exact hp
  · split
    · exact hp
    · exact congrArg (· ++ _) hp

theorem State.posts_meet {ks : List Site} : (s.meet ks).posts = s.posts := by
  obtain ⟨_, _, _, _, _, _, _, _, _, _, hm⟩ := s.meet_eq ks
  rw [hm]

theorem State.posts_writeNat {x : Nat} : (s.writeNat .glob a n x).posts = s.posts := State.posts_meet

/-! ### Elements enter a ring (14 R310) -/

theorem State.ringSlot_ge : pa + 64 ≤ s.ringSlot pa n := by
  unfold State.ringSlot
  omega

/-- Elements `ws` have entered the ring at `pa`: they stand in the next slots and TAIL has advanced; no other byte has changed. -/
structure State.Enqueued (s t : State) (pa : Nat) (ws : List Nat) : Prop where
  wf : t.MemWf
  tail : t.ringTail pa = s.ringTail pa + ws.length
  slots : ∀ k w, ws[k]? = some w → t.gmem.nat (s.ringSlot pa (s.ringTail pa + k)) 8 = w % 2 ^ 64
  rest : ∀ a, (a < pa + 24 ∨ pa + 32 ≤ a) →
    (∀ k, k < ws.length → a < s.ringSlot pa (s.ringTail pa + k) ∨ s.ringSlot pa (s.ringTail pa + k) + 8 ≤ a) →
      t.gmem.byte a = s.gmem.byte a

/-- What has entered a ring is told by global memory alone. -/
theorem State.Enqueued.of_gmem {ws : List Nat} (h : t.Enqueued u pa ws) (hg : t.gmem = s.gmem) : s.Enqueued u pa ws := by
  have htail : t.ringTail pa = s.ringTail pa := by rw [State.ringTail, hg, State.ringTail]
  have hslot : t.ringSlot pa = s.ringSlot pa := by
    funext n
    rw [State.ringSlot, State.ringDepth, hg, State.ringSlot, State.ringDepth]
  obtain ⟨hw, ht, hs, hr⟩ := h
  rw [htail] at ht hs hr
  rw [hslot] at hs hr
  exact ⟨hw, ht, hs, hg ▸ hr⟩

/-- A number of the block before TAIL stays. -/
theorem State.Enqueued.block {ws : List Nat} (h : s.Enqueued t pa ws) (hn : a + n ≤ 24) :
    t.gmem.nat (pa + a) n = s.gmem.nat (pa + a) n :=
  Memory.nat_congr fun b _ hb => h.rest b (.inl (by omega)) fun k _ =>
    .inl (lt_of_lt_of_le (by omega) (State.ringSlot_ge (s := s) (n := s.ringTail pa + k)))

theorem State.Enqueued.depth {ws : List Nat} (h : s.Enqueued t pa ws) : t.ringDepth pa = s.ringDepth pa := h.block (a := 0) (by omega)

theorem State.Enqueued.head {ws : List Nat} (h : s.Enqueued t pa ws) : t.ringHead pa = s.ringHead pa := h.block (by omega)

theorem State.Enqueued.ringSlot {ws : List Nat} (h : s.Enqueued t pa ws) : t.ringSlot pa n = s.ringSlot pa n := by
  rw [State.ringSlot, h.depth, State.ringSlot]

theorem State.enqueued_nil (hw : s.MemWf) : s.Enqueued s pa [] :=
  ⟨hw, (Nat.add_zero _).symm, by simp, fun _ _ _ => rfl⟩

theorem State.enqueued_ringPush {x : Nat} (hw : s.MemWf) (ht : s.ringTail pa + 1 < 2 ^ 64) :
    s.Enqueued (s.ringPush pa x) pa [x] := by
  have hslot := State.ringSlot_ge (s := s) (pa := pa) (n := s.ringTail pa)
  obtain ⟨hval, hrest⟩ := State.writeNat_glob hw (s.ringSlot pa (s.ringTail pa)) 8 x
  obtain ⟨htail, hrest'⟩ := State.writeNat_glob (hw.writeNat .glob (s.ringSlot pa (s.ringTail pa)) 8 x) (pa + 24) 8 (s.ringTail pa + 1)
  rw [show 256 ^ 8 = 2 ^ 64 by norm_num] at hval htail
  rw [Nat.mod_eq_of_lt ht] at htail
  refine ⟨(hw.writeNat ..).writeNat .., by rw [List.length_singleton]; exact htail, fun k w hk => ?_, fun a ha hs => ?_⟩
  · obtain ⟨rfl, rfl⟩ : k = 0 ∧ x = w := by
      cases k with
      | zero => exact ⟨rfl, Option.some.inj hk⟩
      | succ => cases hk
    rw [Nat.add_zero, ← hval]
    exact Memory.nat_congr fun b hb _ => hrest' b (.inr (by omega))
  · have hs := hs 0 Nat.one_pos
    rw [Nat.add_zero] at hs
    exact (hrest' a (by omega)).trans (hrest a hs)

/-- Slots of sequence numbers that differ by less than the depth lie apart. -/
theorem State.ringSlot_apart {k : Nat} (hk : 0 < k) (hd : k < s.ringDepth pa) :
    s.ringSlot pa n + 8 ≤ s.ringSlot pa (n + k) ∨ s.ringSlot pa (n + k) + 8 ≤ s.ringSlot pa n := by
  have hne : n % s.ringDepth pa ≠ (n + k) % s.ringDepth pa := by
    intro h
    have hmod : n + k ≡ n + 0 [MOD s.ringDepth pa] := h.symm
    have h0 := Nat.ModEq.add_left_cancel' n hmod
    rw [Nat.ModEq, Nat.mod_eq_of_lt hd, Nat.zero_mod] at h0
    omega
  unfold State.ringSlot
  omega

theorem State.Enqueued.cons {x : Nat} {ws : List Nat} (h : s.Enqueued t pa [x]) (g : t.Enqueued u pa ws)
    (hd : ws.length < s.ringDepth pa) : s.Enqueued u pa (x :: ws) := by
  have hslot : ∀ k, t.ringSlot pa (t.ringTail pa + k) = s.ringSlot pa (s.ringTail pa + (k + 1)) := fun k => by
    rw [h.ringSlot, h.tail, List.length_singleton, Nat.add_assoc, Nat.add_comm 1 k]
  refine ⟨g.wf, ?_, fun k w hk => ?_, fun a ha hs => ?_⟩
  · rw [g.tail, h.tail, List.length_singleton, List.length_cons, Nat.add_assoc, Nat.add_comm 1]
  · cases k with
    | zero =>
      refine (Memory.nat_congr fun b hb hb8 => g.rest b ?_ fun j hj => ?_).trans (h.slots 0 w hk)
      · have := State.ringSlot_ge (s := s) (pa := pa) (n := s.ringTail pa + 0)
        omega
      · rw [hslot]
        have := State.ringSlot_apart (s := s) (pa := pa) (n := s.ringTail pa) (k := j + 1) (by omega) (by omega)
        simp only [Nat.add_zero] at hb hb8
        omega
    | succ k => exact hslot k ▸ g.slots k w hk
  · refine (g.rest a ha fun k hk => ?_).trans (h.rest a ha fun k hk => ?_)
    · rw [hslot]
      exact hs (k + 1) (Nat.succ_lt_succ hk)
    · exact hs k (lt_of_lt_of_le hk (by simp))

/-- As many elements as the ring has slots enter it one after another. -/
theorem State.enqueued_ringPushes {ws : List Nat} (hw : s.MemWf) (hd : ws.length ≤ s.ringDepth pa)
    (ht : s.ringTail pa + ws.length < 2 ^ 64) : s.Enqueued (ws.foldl (fun s x => s.ringPush pa x) s) pa ws := by
  induction ws generalizing s with
  | nil => exact State.enqueued_nil hw
  | cons x ws ih =>
    rw [List.length_cons] at hd ht
    have hpush := State.enqueued_ringPush (x := x) hw (show s.ringTail pa + 1 < 2 ^ 64 by omega)
    refine hpush.cons (ih hpush.wf ?_ ?_) hd
    · rw [hpush.depth]
      omega
    · rw [hpush.tail, List.length_singleton]
      omega

/-! ### A record is dropped (14 R312) -/

/-- DROPPED of a ring block, a slice watch on it posting a record of its own. -/
theorem State.ringDrop_spec (hw : s.MemWf) (ht : s.tierOk pa 64 = true) :
    (s.ringDrop pa).posts = (s.slPost false ((upto 4).map (pa + 8 + ·))).posts ∧
    (s.ringDrop pa).gmem.nat (pa + 8) 4 = min (s.gmem.nat (pa + 8) 4 + 1) (2 ^ 32 - 1) ∧
    ∀ a, a < pa + 8 ∨ pa + 12 ≤ a → (s.ringDrop pa).gmem.byte a = s.gmem.byte a := by
  rw [State.ringDrop, if_pos ht]
  rw [State.slPost_eq]
  set p : State := { s with posts := (s.slPost false ((upto 4).map (pa + 8 + ·))).posts }
  have hmem := p.sameMem_meet (s.sites .glob (pa + 8) 4)
  obtain ⟨hval, hrest⟩ := State.writeNat_glob (State.MemWf.meet (s := p) hw (s.sites .glob (pa + 8) 4)) (pa + 8) 4
    (min (s.gmem.nat (pa + 8) 4 + 1) (2 ^ 32 - 1))
  refine ⟨State.posts_writeNat.trans State.posts_meet, hval.trans (Nat.mod_eq_of_lt ?_), fun a ha => ?_⟩
  · omega
  · rw [hrest a ha, hmem.1]

end

/-! ### FAULT_RECORD_POST (14 R312) -/

/-- A record waits at its ring: behind one of the ring that arrived earlier and is held, or for four free slots. -/
def State.recordWaits (s : State) (n : Nat) (p : Post) : Prop :=
  (∃ q ∈ if p.held then s.posts.take n else s.posts, q.held = true ∧ q.ring = p.ring) ∨
    s.ringDepth p.ring < s.ringFill p.ring + 4

/-- The slice of the ring holds as many records as it can. -/
def State.recordsFull (s : State) (p : Post) : Prop :=
  64 ≤ (s.posts.filter fun q => q.held && s.slice q.ring == s.slice p.ring).length

/-- The bytes of the four slots behind TAIL. -/
def State.recordSlots (s : State) (pa : Nat) : List Nat :=
  (upto 4).flatMap fun k => (upto 8).map fun j => s.ringSlot pa (s.ringTail pa + k) + j

section
variable {s : State} {n : Nat} {p : Post}

/-- The errors of the block are met. -/
def State.blockMet (s : State) (p : Post) : State := s.meet (s.sites .glob p.ring 64)

theorem State.globOnly_blockMet : s.GlobOnly (s.blockMet p) := State.globOnly_meet_sites

theorem State.gmem_blockMet : (s.blockMet p).gmem = s.gmem := (s.sameMem_meet _).1

theorem State.posts_blockMet : (s.blockMet p).posts = s.posts := State.posts_meet

theorem State.blockMet_watches : (s.blockMet p).swatchA = s.swatchA ∧ (s.blockMet p).swatchC = s.swatchC ∧
    (s.blockMet p).swring = s.swring := by
  obtain ⟨_, _, _, _, _, _, _, _, _, _, hm⟩ := s.meet_eq (s.sites .glob p.ring 64)
  rw [State.blockMet, hm]
  exact ⟨rfl, rfl, rfl⟩

theorem State.tierOk_blockMet {a k : Nat} : (s.blockMet p).tierOk a k = s.tierOk a k := by
  obtain ⟨_, _, _, _, _, _, _, _, _, _, hm⟩ := s.meet_eq (s.sites .glob p.ring 64)
  rw [State.blockMet, hm]
  rfl

/-- The slice watches have seen the writes of the record, which leaves the list of those under way. -/
def State.recordLeaves (s : State) (n : Nat) (p : Post) : State :=
  (((s.blockMet p).slPost false (s.recordSlots p.ring)).slPost false ((upto 8).map (p.ring + 24 + ·))).unpost n

theorem State.globOnly_recordLeaves : s.GlobOnly (s.recordLeaves n p) :=
  (State.globOnly_blockMet.trans (State.globOnly_slPost.trans State.globOnly_slPost)).trans ⟨rfl, rfl, rfl⟩

theorem State.gmem_recordLeaves : (s.recordLeaves n p).gmem = s.gmem :=
  (State.gmem_slPost.trans State.gmem_slPost).trans State.gmem_blockMet

/-- What a record meets at its ring, by the block, the records before it and the places of the slice. -/
theorem faultRecordPost_eq [Decidable (s.recordWaits n p)] [Decidable (s.recordsFull p)] (hp : s.posts[n]? = some p)
    (ht : s.tierOk p.ring 64 = true) : faultRecordPost n s =
      if s.ringBad p.ring (p.ring / 65536 * 65536) 65536 = true then (s.unpost n).ringDrop p.ring
      else if s.recordWaits n p then
        if p.held then s.blockMet p
        else if s.recordsFull p then ((s.blockMet p).unpost n).ringDrop p.ring
        else { s.blockMet p with posts := (s.unpost n).posts ++ [{ p with held := true }] }
      else p.words.foldl (fun s x => s.ringPush p.ring x) (s.recordLeaves n p) := by
  have hwaits : ((if p.held then s.posts.take n else s.posts).any (fun q => q.held && q.ring == p.ring) ||
      decide (s.ringDepth p.ring < s.ringFill p.ring + 4)) = true ↔ s.recordWaits n p := by
    simp only [State.recordWaits, Bool.or_eq_true, List.any_eq_true, Bool.and_eq_true, beq_iff_eq, decide_eq_true_eq]
  unfold faultRecordPost State.recordLeaves State.blockMet
  rw [hp]
  simp only [ht, Bool.not_true, Bool.false_or]
  refine ite_congr rfl (fun _ => rfl) fun _ => ?_
  obtain ⟨_, _, _, _, _, _, _, _, _, _, hm⟩ := s.meet_eq (s.sites .glob p.ring 64)
  rw [hm]
  refine ite_congr (propext hwaits) (fun _ => ?_) fun _ => rfl
  exact ite_congr rfl (fun _ => rfl) fun _ => ite_congr rfl (fun _ => rfl) fun _ => rfl

end

end Sys2Proof.Machine
end

section
/-!
PROOFS. MemoryEvents (O31): the other events of the memory system, and fault records at their rings.
-/

namespace Sys2Proof.Machine

/-! ### IMPRECISE_REPORT_ARRIVAL (09 R202) -/

section
variable {l : List Report} {r x : Report}

/-- Two reports that merge. -/
def Report.same (r x : Report) : Bool := x.code == r.code && x.eng == r.eng && x.unit == r.unit && x.ipc == r.ipc

theorem mergeReport_eq : mergeReport l r =
    if l.any r.same then l.map fun x => if r.same x then { x with detail := max x.detail r.detail, entry := min x.entry r.entry } else x
    else if l.length < 4 then l ++ [r] else l.take 3 ++ (l.drop 3).map fun x => { x with overrun := true } := rfl

theorem mergeReport_queued (h : l.any r.same = false) (hl : l.length < 4) : mergeReport l r = l ++ [r] := by
  rw [mergeReport_eq, h, if_neg Bool.false_ne_true, if_pos hl]

theorem mergeReport_merged (h : l.any r.same = true) : mergeReport l r = l.map fun x =>
    if r.same x then { x with detail := max x.detail r.detail, entry := min x.entry r.entry } else x := by
  rw [mergeReport_eq, if_pos h]

theorem mergeReport_overrun (h : l.any r.same = false) (hl : l.length = 4) (hx : l[3]? = some x) :
    mergeReport l r = l.take 3 ++ [{ x with overrun := true }] := by
  have hdrop : l.drop 3 = [x] := by
    obtain ⟨h3, rfl⟩ := List.getElem?_eq_some_iff.mp hx
    rw [List.drop_eq_getElem_cons h3, List.drop_of_length_le (by omega)]
  rw [mergeReport_eq, h, if_neg Bool.false_ne_true, if_neg (by omega), hdrop]
  rfl

end

section
variable {s : State} {r : RepIn} {before after : List RepIn} {c : Cohort}

/-- The cohort with a report that has reached it. -/
def Cohort.reported (c : Cohort) (r : Report) : Cohort := { c with reports := mergeReport c.reports r }

@[simp] theorem Cohort.key_reported (c : Cohort) (r : Report) : (c.reported r).key = c.key := rfl

theorem State.reportTo_live {k crew : Nat} {r : Report} (hc : s.cohort k = some c) (hl : c.live ≠ []) :
    s.reportTo k crew r = s.onCohort k fun c => c.reported r := by
  rw [State.reportTo, hc]
  exact if_neg hl

theorem reportArrival_merges (hrep : s.repIn = before ++ r :: after) (hc : s.cohort r.cohort = some c) (hl : c.live ≠ []) :
    exec (.impreciseReportArrival before.length) s = .next (({ s with repIn := before ++ after } : State).onCohort r.cohort
      fun c => c.reported r.report) := by
  have hget : s.repIn[before.length]? = some r := by rw [hrep]; simp
  have hrest : s.repIn.take before.length ++ s.repIn.drop (before.length + 1) = before ++ after := by rw [hrep]; simp
  refine congrArg Host.Outcome.next ?_
  rw [reportArrival, hget]
  simp only [hrest]
  exact State.reportTo_live hc hl

end

/-! ### TRANSLATION_WALK (10 R226, R227, R230) -/

section
variable {s : State} {core asid : Nat} {va : BitVec 64} {cr : Crew} {k : PageWalk}

/-- The walk under way of a page, as the event finds it. -/
def State.walkAt (s : State) (core asid va : Nat) : Option PageWalk :=
  s.walks.find? fun k => sectorOf k.core == sectorOf core && k.asid == asid && decide (k.vpage ≤ va ∧ va < k.vpage + k.size)

theorem translationWalk_own (hw : s.walkAt core asid va.toNat = none)
    (hc : (s.crews.find? fun x => x.core == core && x.jd.asid == asid) = some cr) :
    exec (.translationWalk core asid va) s = .next (s.atHomes 640 (walkKey core asid (va.toNat / 65536 * 65536))
      (s.pteReads core cr.jd [va.toNat]) fun s => s.touchTlb core cr.jd va.toNat) := by
  unfold State.walkAt at hw
  refine congrArg Host.Outcome.next ?_
  rw [translationWalk, hw, hc]

theorem translationWalk_shared (hw : s.walkAt core asid va.toNat = some k) :
    exec (.translationWalk core asid va) s = .next (if (asid, k.vpage) ∈ s.walking (sectorOf core) then
      s.atHomes 640 (walkKey core asid k.vpage) k.ptes fun s => s.endWalk (sectorOf core) (asid, k.vpage) else s) := by
  unfold State.walkAt at hw
  refine congrArg Host.Outcome.next ?_
  rw [translationWalk, hw]
  simp only [List.contains_iff_mem]

theorem State.atHomes_nacked {key : Requester × Nat} {pas : List Nat} {work : State → State} (h : s.mustReplay pas = true) :
    s.atHomes core key pas work = s.nack core key := by
  rw [State.atHomes, if_pos h]

theorem State.atHomes_done {key : Requester × Nat} {pas : List Nat} {work : State → State} (h : s.mustReplay pas = false) :
    s.atHomes core key pas work = work (s.replayed key) := by
  rw [State.atHomes, h, if_neg Bool.false_ne_true]

theorem State.replayed_eq (s : State) (key : Requester × Nat) :
    ∃ nacked replays, s.replayed key = { s with nacked := nacked, replays := replays } := by
  unfold State.replayed
  split <;> exact ⟨_, _, rfl⟩

theorem State.replayed_frame (s : State) (key : Requester × Nat) : (s.replayed key).gmem = s.gmem ∧
    (s.replayed key).cohorts = s.cohorts ∧ (s.replayed key).tlb = s.tlb := by
  obtain ⟨nacked, replays, hu⟩ := s.replayed_eq key
  rw [hu]
  exact ⟨rfl, rfl, rfl⟩

theorem State.leafOf_replayed {key : Requester × Nat} {jd : JobDesc} {va : Nat} :
    (s.replayed key).leafOf core jd va = s.leafOf core jd va := by
  obtain ⟨nacked, replays, hu⟩ := s.replayed_eq key
  rw [hu]
  rfl

theorem touchTlb_frame (s : State) (core : Nat) (jd : JobDesc) (va : Nat) : (s.touchTlb core jd va).gmem = s.gmem ∧
    (s.touchTlb core jd va).cohorts = s.cohorts := by
  have hframe := s.fetchOnly_touchTlb core jd va
  unfold State.fetchOnly at hframe
  rw [hframe]
  exact ⟨rfl, rfl⟩

/-- The walk of a core's own leaves its L1 TLB with the leaf. -/
theorem touchTlb_finds {jd : JobDesc} {va : Nat} {l : Leaf} (hcore : core < 640) (hl : s.leafOf core jd va = some l) :
    ∃ e, (s.touchTlb core jd va).tlbHit core jd.asid va = some e ∧ l = ⟨e.size, e.ppage, e.r, e.w, e.x⟩ := by
  cases hmiss : s.tlbHit core jd.asid va with
  | some e =>
    refine ⟨e, by rw [State.touchTlb_of_hit hmiss, hmiss], ?_⟩
    rw [State.leafOf, hmiss] at hl
    exact (Option.some.inj hl).symm
  | none => exact ⟨l.entry core jd.asid va, State.tlbHit_touchTlb hcore hmiss hl, rfl⟩

end

/-! ### PATROL_SCRUB (10 R233, R235) -/

section
variable {s : State} {n : Nat} {e : Site × Bool}

theorem patrolScrub_skips (he : s.latent[n]? = some e) (h : s.scrubs e.1 = false) : exec (.patrolScrub n) s = .next s := by
  refine congrArg Host.Outcome.next ?_
  simp only [patrolScrub, he, h, Bool.false_eq_true, if_false]

theorem patrolScrub_reads (he : s.latent[n]? = some e) (h : s.scrubs e.1 = true) :
    exec (.patrolScrub n) s = .next (s.meet [e.1]) := by
  refine congrArg Host.Outcome.next ?_
  simp only [patrolScrub, he, h, if_true]

/-- What the scrubber reads is guarded by a correcting code. -/
theorem State.parity_of_scrubs {k : Site} (h : s.scrubs k = true) : k.parity = false := by
  cases k with
  | priv => cases h
  | glob | burst | chip | spad | slot | tile | vreg | sreg => rfl

/-- The slice of a word of global memory counts its one corrected error. -/
theorem State.slEcc_meet_glob {w : Nat} (he : e.1 = .glob w) (hcorr : e.2 = false)
    (hone : (s.latent.filter fun x => decide (x.1 = e.1)) = [e]) :
    Tab.read 0 (s.meet [e.1]).slEcc (s.slice (8 * w)) = min (Tab.read 0 s.slEcc (s.slice (8 * w)) + 1) (2 ^ 32 - 1) := by
  have hone' : (s.latent.filter fun x => [e.1].contains x.1) = [e] := by
    rw [← hone]
    refine List.filter_congr fun x _ => ?_
    simp
  have hmeet : s.meet [e.1] = s.meetOne e := by
    rw [State.meet, hone', List.foldl_cons, List.foldl_nil]
  rw [hmeet, State.meetOne_corrected (by rw [he]; rfl) hcorr, he]
  exact Tab.read_put_self _ _ _ _ (by omega)

end

/-! ### ARITHMETIC_CLOCK_CYCLE (03 R79) -/

section
variable {s : State} {core : Nat}

theorem clockCycle_core {j : Nat} : (clockCycle core s).core j =
    ((s.onCore core fun k => { k with cyc := k.cyc + 1 }).countPm core 0 1 1).core j := rfl

theorem clockCycle_cyc (hw : Tab.wf {} s.cores = true) : ((clockCycle core s).core core).cyc = (s.core core).cyc + 1 := by
  have hcount := (State.countPm_only (s.onCore core fun k => { k with cyc := k.cyc + 1 }) core 0 1 1 0).2 core
  rw [clockCycle_core, hcount]
  show (Tab.read {} (Tab.put {} s.cores core _) core).cyc = _
  rw [Tab.read_put hw]

theorem clockCycle_other {j : Nat} (hj : j ≠ core) : (clockCycle core s).core j = s.core j := by
  rw [clockCycle_core]
  unfold State.countPm
  simp only
  split
  · exact Tab.read_put_other _ _ _ _ _ hj
  · exact (Tab.read_put_other _ _ _ _ _ hj).trans (Tab.read_put_other _ _ _ _ _ hj)

theorem clockCycle_frame : (clockCycle core s).cohorts = s.cohorts ∧ (clockCycle core s).gmem = s.gmem ∧
    (clockCycle core s).cmem = s.cmem ∧ (clockCycle core s).smem = s.smem := by
  rw [clockCycle, (State.countPm_only _ core 0 1 1 0).1]
  exact ⟨rfl, rfl, rfl, rfl⟩

end

/-! ### FAULT_RECORD_POST (14 R312) -/

section
variable {s : State} {n : Nat} {p : Post}

/-- The record is gone and counted in DROPPED. -/
theorem faultRecordPost_drops (hw : s.MemWf) (hp : s.posts[n]? = some p) (ht : s.tierOk p.ring 64 = true)
    (h : s.ringBad p.ring (p.ring / 65536 * 65536) 65536 ≠ false ∨ (s.recordWaits n p ∧ p.held = false ∧ s.recordsFull p)) :
    ∃ t, exec (.faultRecordPost n) s = .next t ∧
      t.posts = ((s.unpost n).slPost false ((List.range 4).map (p.ring + 8 + ·))).posts ∧
      t.gmem.nat (p.ring + 8) 4 = min (s.gmem.nat (p.ring + 8) 4 + 1) (2 ^ 32 - 1) ∧
      ∀ a, a < p.ring + 8 ∨ p.ring + 12 ≤ a → t.gmem.byte a = s.gmem.byte a := by
  classical
  refine ⟨_, congrArg Host.Outcome.next (faultRecordPost_eq hp ht), ?_⟩
  by_cases hbad : s.ringBad p.ring (p.ring / 65536 * 65536) 65536 = true
  · rw [if_pos hbad]
    exact State.ringDrop_spec (s := s.unpost n) hw ht
  · obtain ⟨hwaits, hheld, hfull⟩ := h.resolve_left (by simpa using hbad)
    rw [if_neg hbad, if_pos hwaits, hheld, if_neg Bool.false_ne_true, if_pos hfull]
    obtain ⟨ha, hc, hr⟩ := s.blockMet_watches (p := p)
    have hposts : ((s.blockMet p).unpost n).posts = (s.unpost n).posts := by
      rw [State.unpost, State.posts_blockMet, State.unpost]
    have hdrop := State.ringDrop_spec (s := (s.blockMet p).unpost n) (hw.meet _) (State.tierOk_blockMet.trans ht)
    rw [State.posts_slPost_congr hposts ha hc hr, show ((s.blockMet p).unpost n).gmem = s.gmem from State.gmem_blockMet] at hdrop
    exact hdrop

/-- The record is held, the last of those held, or stays so. -/
theorem faultRecordPost_holds (hp : s.posts[n]? = some p) (ht : s.tierOk p.ring 64 = true)
    (hbad : s.ringBad p.ring (p.ring / 65536 * 65536) 65536 = false) (hwaits : s.recordWaits n p)
    (hfull : p.held = true ∨ ¬ s.recordsFull p) :
    ∃ t, exec (.faultRecordPost n) s = .next t ∧ t.cohorts = s.cohorts ∧ t.gmem = s.gmem ∧ t.cmem = s.cmem ∧ t.smem = s.smem ∧
      t.posts = if p.held then s.posts else (s.unpost n).posts ++ [{ p with held := true }] := by
  classical
  obtain ⟨hcohorts, hcmem, hsmem⟩ := s.globOnly_blockMet (p := p)
  refine ⟨_, congrArg Host.Outcome.next (faultRecordPost_eq hp ht), ?_⟩
  rw [hbad, if_neg Bool.false_ne_true, if_pos hwaits]
  cases hheld : p.held with
  | true => exact ⟨hcohorts, State.gmem_blockMet, hcmem, hsmem, State.posts_blockMet⟩
  | false =>
    rw [if_neg Bool.false_ne_true, if_neg (hfull.resolve_left (by simp [hheld]))]
    exact ⟨hcohorts, State.gmem_blockMet, hcmem, hsmem, rfl⟩

/-- The record enters its ring, word after word. -/
theorem faultRecordPost_writes (hw : s.MemWf) (hp : s.posts[n]? = some p) (ht : s.tierOk p.ring 64 = true)
    (hbad : s.ringBad p.ring (p.ring / 65536 * 65536) 65536 = false) (hwaits : ¬ s.recordWaits n p)
    (hd : p.words.length ≤ s.ringDepth p.ring) (htail : s.ringTail p.ring + p.words.length < 2 ^ 64) :
    ∃ t, exec (.faultRecordPost n) s = .next t ∧ s.GlobOnly t ∧ s.Enqueued t p.ring p.words := by
  classical
  have hgmem := s.gmem_recordLeaves (n := n) (p := p)
  have hglob := s.globOnly_recordLeaves (n := n) (p := p)
  refine ⟨_, congrArg Host.Outcome.next (faultRecordPost_eq hp ht), ?_⟩
  rw [hbad, if_neg Bool.false_ne_true, if_neg hwaits]
  refine ⟨hglob.trans State.globOnly_ringPushes, State.Enqueued.of_gmem (State.enqueued_ringPushes ?_ ?_ ?_) hgmem⟩
  · exact hw.of_eq hgmem hglob.cmem hglob.smem
  · rw [State.ringDepth, hgmem]
    exact hd
  · rw [State.ringTail, hgmem]
    exact htail

end

/-- Settles O31: each clause is what its event's equation says. -/
theorem memoryEvents : Obligations.MemoryEvents := by
  unfold Obligations.MemoryEvents
  refine ⟨⟨?report, ?merge, ?ownWalk, ?sharedWalk, ?scrubbed, ?scrub, fun _ _ => rfl, ?clock⟩, ?record⟩
  case report =>
    intro s r before after c hrep hc hl
    have hkey : ∀ c : Cohort, (c.reported r.report).key = c.key := fun c => c.key_reported r.report
    exact ⟨_, _, reportArrival_merges hrep hc hl, rfl, fun j hj => (State.cohort_onCohort _ _ _ _ hkey).trans (if_neg hj),
      State.cohort_onCohort_self hkey hc, rfl⟩
  case merge => exact fun l r => ⟨mergeReport_queued, mergeReport_merged, fun x => mergeReport_overrun⟩
  case ownWalk =>
    intro s core asid va cr hcore hw hc homes
    have hmine := List.find?_some hc
    obtain rfl : cr.jd.asid = asid := eq_of_beq (Bool.and_eq_true_iff.mp hmine).2
    rw [translationWalk_own hw hc]
    refine ⟨fun h => congrArg Host.Outcome.next (State.atHomes_nacked h), fun h => ?_⟩
    let key := walkKey core cr.jd.asid (va.toNat / 65536 * 65536)
    obtain ⟨hg, hco, htlb⟩ := s.replayed_frame key
    obtain ⟨hg', hco'⟩ := touchTlb_frame (s.replayed key) core cr.jd va.toNat
    rw [State.atHomes_done h]
    exact ⟨_, rfl, hg'.trans hg, hco'.trans hco, fun l hl => touchTlb_finds hcore (State.leafOf_replayed.trans hl),
      fun hl => (State.tlb_touchTlb_unmapped (State.leafOf_replayed.trans hl)).trans htlb⟩
  case sharedWalk =>
    intro s core asid va k hw mine now
    have hmine := List.find?_some hw
    obtain rfl : k.asid = asid := eq_of_beq (Bool.and_eq_true_iff.mp (Bool.and_eq_true_iff.mp hmine).1).2
    rw [translationWalk_shared hw]
    refine ⟨fun h => congrArg Host.Outcome.next (if_neg h), fun h hr => ?_, fun h hr => ?_⟩
    · rw [if_pos h, State.atHomes_nacked hr]
    · obtain ⟨nacked, replays, hu⟩ := s.replayed_eq (walkKey core k.asid k.vpage)
      rw [if_pos h, State.atHomes_done hr, hu]
      refine ⟨_, rfl, rfl, fun w => State.mem_walks_endWalk, fun hm => ?_, fun w hw hmine hin hcore => ?_⟩
      · exact State.tlb_endWalk_of_marked fun w hw hof => hm w hw (PageWalk.isOf_iff.mp hof)
      · exact State.hasPage_endWalk hw (PageWalk.isOf_iff.mpr hmine) hin
  case scrubbed =>
    intro s k l u w
    refine ⟨rfl, fun h => ?_, fun h => ?_, fun c r t hc => ?_⟩
    · exact decide_eq_false (by omega)
    · exact decide_eq_true (by omega)
    · simp only [State.scrubs, hc, and_self]
  case scrub =>
    intro s n e he
    have hmem := List.mem_of_getElem? he
    refine ⟨patrolScrub_skips he, fun h => ⟨_, patrolScrub_reads he h, ?_⟩⟩
    obtain ⟨hg, hc, hs⟩ := s.sameMem_meet [e.1]
    refine ⟨hg, hc, hs, fun x => by rw [State.mem_latent_meet, List.mem_singleton], fun hbad w => ?_,
      fun hcorr => ⟨?_, fun w hw hone => ?_⟩⟩
    · have hmark := State.marked_meet (hbad ▸ hmem : (e.1, true) ∈ s.latent)
      refine ⟨?_, ?_, ?_, ?_, fun u => ?_⟩ <;>
      · intro hk
        rw [hk] at hmark ⊢
        exact hmark
    · exact State.corrects_meet fun x hx hk =>
        have hk := List.mem_singleton.mp hk
        ⟨hk ▸ State.parity_of_scrubs h, hcorr x hx hk⟩
    · exact State.slEcc_meet_glob hw (hcorr e hmem rfl) hone
  case clock =>
    intro s core hw
    exact ⟨clockCycle core s, rfl, clockCycle_cyc hw, fun j hj => clockCycle_other hj, clockCycle_frame⟩
  case record =>
    intro s n p w0 w1 w2 w3 hw hp hwords ht pa ok before waits full
    refine ⟨fun hok hwaits htail => ?_, fun hok hwaits hfull => faultRecordPost_holds hp ht hok hwaits hfull,
      faultRecordPost_drops hw hp ht⟩
    have hd : 4 ≤ s.ringDepth pa := by
      have := not_lt.mp (not_or.mp hwaits).2
      omega
    obtain ⟨t, hexec, hglob, hq⟩ := faultRecordPost_writes hw hp ht hok hwaits (hwords ▸ hd) (hwords ▸ htail)
    rw [hwords] at hq
    exact ⟨t, hexec, hglob.cohorts, hglob.cmem, hglob.smem, hq.tail, hq.head, hq.depth, hq.slots, hq.rest⟩

end Sys2Proof.Machine
end

section
/-!
PROOF. Canonical memories (O60). Every function of the machine that yields a state has a rule here: from a state whose memories are
in canonical form it yields one. A function that writes no memory passes the hypothesis on (`h`), one that writes does so through
the operations of Laws/Memory, and each rule follows the branches of its function. The rules stand in the order of the model. This
part: the shapes that all of them meet. Where a function writes other fields before it calls another, the hypothesis is given as
`by exact h`: it is looked at only when the written state is known.
-/

namespace Sys2Proof.Machine

-- A definition then unfolds to its bare case distinctions, which the rules of `ite`, `option`, `list` and `except` speak of.
set_option smartUnfolding false

/-- Canonical form of the three memories, as a predicate on the memories alone. -/
def MemsWf (g c m : Memory) : Prop := g.wf = true ∧ c.wf = true ∧ m.wf = true

/-- A state is judged by its memories: what an update does to its other fields does not matter. -/
theorem State.MemWf.frame {s : State} (h : MemsWf s.gmem s.cmem s.smem) : s.MemWf := h

theorem State.MemWf.reset : State.reset.MemWf := ⟨rfl, rfl, rfl⟩

theorem State.MemWf.ite {p : Prop} [Decidable p] {s t : State} (hs : s.MemWf) (ht : t.MemWf) : (if p then s else t).MemWf := by
  split <;> assumption

theorem State.MemWf.option {α : Type} {o : Option α} {s : State} {f : α → State} (hs : s.MemWf) (hf : ∀ a, (f a).MemWf) :
    State.MemWf (Option.casesOn o s f) := by
  cases o
  · exact hs
  · exact hf _

theorem State.MemWf.list {α : Type} {l : List α} {s : State} {f : α → List α → State} (hs : s.MemWf) (hf : ∀ a l, (f a l).MemWf) :
    State.MemWf (List.casesOn l s f) := by
  cases l
  · exact hs
  · exact hf _ _

theorem State.MemWf.except {α ε : Type} {x : Except ε α} {f : ε → State} {g : α → State} (hf : ∀ a, (f a).MemWf)
    (hg : ∀ a, (g a).MemWf) : State.MemWf (Except.casesOn x f g) := by
  cases x
  · exact hf _
  · exact hg _

theorem State.MemWf.bool {b : Bool} {s t : State} (hs : s.MemWf) (ht : t.MemWf) : State.MemWf (Bool.casesOn b s t) := by
  cases b <;> assumption

theorem State.MemWf.getD {o : Option State} {s : State} (ho : ∀ t ∈ o, t.MemWf) (h : s.MemWf) : (o.getD s).MemWf := by
  cases o with
  | none => exact h
  | some t => exact ho t rfl

theorem State.MemWf.iteFst {γ : Type} {p : Prop} [Decidable p] {a b : State × γ} (ha : a.1.MemWf) (hb : b.1.MemWf) :
    (if p then a else b).1.MemWf := by
  split <;> assumption

theorem State.MemWf.optionFst {α γ : Type} {o : Option α} {a : State × γ} {f : α → State × γ} (ha : a.1.MemWf)
    (hf : ∀ x, (f x).1.MemWf) : State.MemWf (Prod.fst (Option.casesOn o a f)) := by
  cases o
  · exact ha
  · exact hf _

theorem State.MemWf.foldlFst {β γ : Type} {f : State × γ → β → State × γ} (hf : ∀ a b, State.MemWf a.1 → State.MemWf (f a b).1)
    {a : State × γ} (h : a.1.MemWf) (l : List β) : State.MemWf (l.foldl f a).1 := by
  induction l generalizing a with
  | nil => exact h
  | cons b l ih => exact ih (hf a b h)

/-- A next state, where there is one, has its memories in canonical form. -/
def Out.MemWf : Out → Prop
  | .next s => s.MemWf
  | _ => True

/-- The state that a word's answer carries, where it carries one, has its memories in canonical form. -/
def Res.MemWf : Res → Prop
  | .done s | .moved s _ | .held s | .faultIn s _ | .wait s _ | .parks s | .returns s _ => s.MemWf
  | .hold | .fault _ | .spec | .kills _ => True

theorem Res.MemWf.ite {p : Prop} [Decidable p] {q r : Res} (hq : q.MemWf) (hr : r.MemWf) : (if p then q else r).MemWf := by
  split <;> assumption

theorem Res.MemWf.option {α : Type} {o : Option α} {r : Res} {f : α → Res} (hr : r.MemWf) (hf : ∀ a, (f a).MemWf) :
    Res.MemWf (Option.casesOn o r f) := by
  cases o
  · exact hr
  · exact hf _

theorem Res.MemWf.list {α : Type} {l : List α} {r : Res} {f : α → List α → Res} (hr : r.MemWf) (hf : ∀ a l, (f a l).MemWf) :
    Res.MemWf (List.casesOn l r f) := by
  cases l
  · exact hr
  · exact hf _ _

theorem Res.MemWf.except {α ε : Type} {x : Except ε α} {f : ε → Res} {g : α → Res} (hf : ∀ a, (f a).MemWf) (hg : ∀ a, (g a).MemWf) :
    Res.MemWf (Except.casesOn x f g) := by
  cases x
  · exact hf _
  · exact hg _

theorem Out.MemWf.ite {p : Prop} [Decidable p] {a b : Out} (ha : a.MemWf) (hb : b.MemWf) : (if p then a else b).MemWf := by
  split <;> assumption

theorem Out.MemWf.option {α : Type} {o : Option α} {a : Out} {f : α → Out} (ha : a.MemWf) (hf : ∀ x, (f x).MemWf) :
    Out.MemWf (Option.casesOn o a f) := by
  cases o
  · exact ha
  · exact hf _

end Sys2Proof.Machine
end

section
/-!
PROOF. Canonical memories (O60): the core state, memory at home, and what a word shares.
-/

namespace Sys2Proof.Machine

-- A definition then unfolds to its bare case distinctions, which the rules of `ite`, `option`, `list` and `except` speak of.
set_option smartUnfolding false

/-! ### Machine/Get -/

theorem State.MemWf.countPm {s : State} (h : s.MemWf) (core sub ev n mark : Nat) : (s.countPm core sub ev n mark).MemWf :=
  .ite h h

/-! ### Machine/Mem -/

theorem State.MemWf.syncEnd {s : State} (h : s.MemWf) (d : Nat) (new : Dom) : (s.syncEnd d new).1.MemWf := h

theorem State.MemWf.nack {s : State} (h : s.MemWf) (core : Nat) (key : Requester × Nat) : (s.nack core key).MemWf :=
  .ite h <| .frame <| h.countPm ..

theorem State.MemWf.replayed {s : State} (h : s.MemWf) (key : Requester × Nat) : (s.replayed key).MemWf := .ite h h

theorem State.MemWf.atHomes {s : State} (h : s.MemWf) {core : Nat} {key : Requester × Nat} {pas : List Nat}
    {work : State → State} (hw : ∀ s, State.MemWf s → (work s).MemWf) : (s.atHomes core key pas work).MemWf :=
  .ite (h.nack ..) <| hw _ (h.replayed _)

theorem State.MemWf.mark {s : State} (h : s.MemWf) (k : Site) : (s.mark k).MemWf := by
  cases k <;> exact h

theorem State.MemWf.markPoison {s : State} (h : s.MemWf) (sp : Space) (a n : Nat) : (s.markPoison sp a n).MemWf :=
  h.foldl (fun _ _ h => h.mark ..) _

theorem State.MemWf.meetPtes {s : State} (h : s.MemWf) (core : Nat) (jd : JobDesc) (vas : List Nat) :
    (s.meetPtes core jd vas).MemWf :=
  .ite h <| h.meet ..

theorem State.MemWf.touchTlb {s : State} (h : s.MemWf) (core : Nat) (jd : JobDesc) (va : Nat) : (s.touchTlb core jd va).MemWf :=
  .ite h <| .option (.ite ((h.meetPtes ..).countPm ..) <| h.meetPtes ..) fun _ => .frame <|
    State.MemWf.ite ((h.meetPtes ..).countPm ..) <| h.meetPtes ..

theorem State.MemWf.startWalks {s : State} (h : s.MemWf) (core : Nat) (jd : JobDesc) (vas : List Nat) :
    (s.startWalks core jd vas).MemWf :=
  .frame <| State.MemWf.ite h <| h.meet ..

theorem State.MemWf.useTlb {s : State} (h : s.MemWf) (core : Nat) (jd : JobDesc) (vas : List Nat) :
    (s.useTlb core jd vas).MemWf :=
  .foldl (fun _ _ h => .ite (h.touchTlb ..) <| .ite h <| h.countPm ..) (h.startWalks ..) _

theorem State.MemWf.slPost {s : State} (h : s.MemWf) (atomic : Bool) (as : List Nat) : (s.slPost atomic as).MemWf :=
  .option h fun _ => .ite h h

theorem State.MemWf.privOut {s : State} (h : s.MemWf) (k : Nat) (p : Nat → Bool) : (s.privOut k p).MemWf :=
  .option h fun _ => .frame <| State.MemWf.foldl (by exact fun _ _ h => h.mark ..) (State.MemWf.writeBytes (.foldl
    (by exact fun _ _ h => h.slPost ..) (h.meet ..) _) ..) _

theorem State.MemWf.l1Room {s : State} (h : s.MemWf) (core : Nat) : (s.l1Room core).MemWf :=
  .ite h <| .list h fun _ _ => .frame <| State.MemWf.ite h <| h.privOut ..

theorem State.MemWf.l1Put {s : State} (h : s.MemWf) (core line priv : Nat) (data : List Byte) :
    (s.l1Put core line priv data).MemWf :=
  .frame <| State.MemWf.l1Room (by exact h) ..

theorem State.MemWf.l1Fill {s : State} (h : s.MemWf) (core line priv : Nat) : (s.l1Fill core line priv).MemWf := h.l1Put ..

theorem State.MemWf.l1Drop {s : State} (h : s.MemWf) (core : Nat) (lines : List Nat) : (s.l1Drop core lines).MemWf := h

theorem State.MemWf.flash {s : State} (h : s.MemWf) (core : Nat) : (s.flash core).MemWf := h

/-- Said of this one field, so that the kernel need not compare the lines with those from before (see `ifill`). -/
theorem State.MemWf.withICache {s : State} (h : s.MemWf) (ls : List ILine) : State.MemWf { s with icache := ls } := h

theorem State.MemWf.ifill {s t : State} (h : s.MemWf) {cr : Crew} {line : Nat} (hf : s.ifill cr line = .ok t) : t.MemWf := by
  delta State.ifill at hf
  split at hf <;> cases hf
  exact ((h.useTlb ..).meet _).withICache _

/-! ### Machine/Ops -/

theorem State.MemWf.startOp {s : State} (h : s.MemWf) (k len : Nat) (op : Op) : (s.startOp k len op).1.MemWf := h

theorem State.MemWf.quickOp {s : State} (h : s.MemWf) (k len : Nat) (op : Op) : (s.quickOp k len op).MemWf := h

theorem State.MemWf.markCancelled {s : State} (h : s.MemWf) (hd : Nat) : (s.markCancelled hd).MemWf := .option h fun _ => h

theorem State.MemWf.tearCrew {s : State} (h : s.MemWf) (k : Nat) (squash : Bool) : (s.tearCrew k squash).MemWf :=
  .option h fun _ => .frame <| State.MemWf.foldl (by exact fun _ _ h => .option h fun _ => h.syncEnd ..) (by exact h) _

theorem State.MemWf.killNow {s : State} (h : s.MemWf) (k : Nat) (r : Kill) : (s.killNow k r).MemWf :=
  .option h fun _ => (State.MemWf.markCancelled (by exact h) ..).tearCrew ..

theorem State.MemWf.killCrew {s : State} (h : s.MemWf) (c : Cohort) (who : Thread → Bool) (r : Kill) :
    (s.killCrew c who r).MemWf :=
  .ite h <| h.killNow ..

theorem State.MemWf.xpark {s : State} (h : s.MemWf) (c : Cohort) (who : Thread → Bool) (word tpc : Nat) (lanes : List LCause) :
    (s.xpark c who word tpc lanes).MemWf :=
  .frame <| State.MemWf.foldlFst (by exact fun _ _ h => h) h _

theorem State.MemWf.killFault {s : State} (h : s.MemWf) (c : Cohort) (who : Thread → Bool) (tpc : Nat) (l : LCause) :
    (s.killFault c who tpc l).MemWf :=
  h.killCrew ..

theorem State.MemWf.takeFault {s : State} (h : s.MemWf) (k : Nat) (who : Thread → Bool) (word tpc : Nat) (lanes : List LCause) :
    (s.takeFault k who word tpc lanes).MemWf := by
  delta State.takeFault
  split
  · exact .ite (h.xpark ..) <| .ite (h.killFault ..) h
  · exact h

theorem State.MemWf.rejectPark {s : State} (h : s.MemWf) (c : Cohort) (p : XPark) : (s.rejectPark c p).MemWf :=
  .ite (State.MemWf.killFault (by exact h) ..) h

theorem State.MemWf.deliverReport {s : State} (h : s.MemWf) (k : Nat) (who : Thread → Bool) : (s.deliverReport k who).MemWf :=
  .option h fun _ => .list h fun _ _ => .ite h h

theorem State.MemWf.rewrite {s : State} (h : s.MemWf) (ws : List Site) : (s.rewrite ws).MemWf := .ite h h

theorem State.MemWf.stall {s : State} (h : s.MemWf) : s.stall.MemWf := .frame <| h.countPm ..

theorem State.MemWf.specPark {s : State} (h : s.MemWf) (k : Nat) : (s.specPark k).MemWf := State.MemWf.countPm (by exact h) ..

theorem State.MemWf.wordIssued {s : State} (h : s.MemWf) (k : Nat) (ids : List Nat) : (s.wordIssued k ids).MemWf :=
  State.MemWf.countPm (by exact h) ..

theorem State.MemWf.finish {s : State} (h : s.MemWf) {c : Cohort} {len : Nat} {poison : List LCause} {r : Res}
    (hr : r.MemWf) : (s.finish c len poison r).MemWf := by
  cases r with
  | done t | moved t _ | parks t => exact .frame <| State.MemWf.wordIssued hr ..
  | returns t _ => exact .frame <| State.MemWf.wordIssued hr ..
  | hold => exact h.stall
  | held t => exact State.MemWf.stall hr
  | kills ls => exact .list h fun _ _ => h.killFault ..
  | wait t _ => exact hr
  | spec => exact h.specPark _
  | faultIn t ls => exact State.MemWf.takeFault hr ..
  | fault ls => exact h.takeFault ..

theorem Cohort.answer_memWf {s : State} (h : s.MemWf) {c : Cohort} {i : Info} {body : Cohort → State → Res}
    (hb : ∀ c s, State.MemWf s → (body c s).MemWf) : (c.answer i s body).MemWf := by
  refine .ite (hb c s h) ?_
  split
  · exact hb _ _ (h.rewrite _)
  · exact hb _ _ h

theorem State.MemWf.wordActs {s : State} (h : s.MemWf) {c : Cohort} {i : Info} {body : Cohort → State → Res}
    (hb : ∀ c s, State.MemWf s → (body c s).MemWf) : (s.wordActs c i body).MemWf :=
  (h.meet _).finish <| .ite trivial <| Cohort.answer_memWf (h.meet _) hb

theorem issue_memWf {s : State} (h : s.MemWf) (i : Info) {body : Cohort → State → Res}
    (hb : ∀ c s, State.MemWf s → (body c s).MemWf) : Out.MemWf (Sys2Proof.Machine.issue i s body) :=
  .option trivial fun _ => .ite (State.MemWf.takeFault (by exact h) ..) <| .ite (State.MemWf.stall (by exact h)) <|
    State.MemWf.wordActs (by exact h) hb

end Sys2Proof.Machine
end

section
/-!
PROOF. Canonical memories (O60): operands, barriers, control, lanes, memory operations and rings.
-/

namespace Sys2Proof.Machine

-- A definition then unfolds to its bare case distinctions, which the rules of `ite`, `option`, `list` and `except` speak of.
set_option smartUnfolding false

/-! ### Machine/Operands -/

theorem perCohort_memWf {s : State} (h : s.MemWf) (i : Info) (f : Cohort → Cohort) : Out.MemWf (perCohort i s f) :=
  issue_memWf h _ fun _ _ h => State.MemWf.ite h h

theorem perLane_memWf {s : State} (h : s.MemWf) (i : Info) (f : Cohort → Thread → Thread) : Out.MemWf (perLane i s f) :=
  issue_memWf h _ fun _ _ h => h

theorem scalarOp_memWf {s : State} (h : s.MemWf) (i : Info) (d : Nat) (f : Cohort → Dword) : Out.MemWf (scalarOp i d s f) :=
  perCohort_memWf h ..

theorem vectorOp_memWf {s : State} (h : s.MemWf) (i : Info) (d : Nat) (f : Cohort → Thread → Word) :
    Out.MemWf (vectorOp i d s f) :=
  perLane_memWf h ..

theorem predOp_memWf {s : State} (h : s.MemWf) (i : Info) (d : Nat) (f : Cohort → Thread → Bool) : Out.MemWf (predOp i d s f) :=
  perLane_memWf h ..

theorem floatOp_memWf {s : State} (h : s.MemWf) (i : Info) (d : Nat) (f : Cohort → Thread → FRes) :
    Out.MemWf (floatOp i d s f) :=
  issue_memWf h _ fun _ _ h => h

/-! ### Machine/Barrier -/

theorem State.MemWf.setBar {s : State} (h : s.MemWf) (cr : Crew) (n : Nat) (b : Bar) : (s.setBar cr n b).MemWf := h.crewSet ..

theorem State.MemWf.barExit {s : State} (h : s.MemWf) (cr : Crew) (k : Nat) : (s.barExit cr k).MemWf :=
  .ite h <| h.foldl (fun _ _ h => h.foldl (fun _ _ h => .ite h <| h.setBar ..) _) _

theorem barinit_memWf {s : State} (h : s.MemWf) (i : Info) (n a : Nat) : Out.MemWf (barinit i n a s) :=
  issue_memWf h _ fun _ _ h => .ite h <| .ite trivial <| .ite trivial <| h.setBar ..

theorem bararr_memWf {s : State} (h : s.MemWf) (i : Info) (d n : Nat) : Out.MemWf (bararr i d n s) :=
  issue_memWf h _ fun _ _ h => .ite h <| .ite trivial <| .ite trivial <| State.MemWf.setBar (by exact h) ..

theorem barwait_memWf {s : State} (h : s.MemWf) (i : Info) (n a : Nat) : Out.MemWf (barwait i n a s) :=
  issue_memWf h _ fun _ _ h => .ite h <| .ite trivial <| .ite ((h.meetCrew ..).quickOp ..) h

theorem barsync_memWf {s : State} (h : s.MemWf) (i : Info) (n : Nat) : Out.MemWf (barsync i n s) :=
  issue_memWf h _ fun _ _ h => .ite h <| .ite trivial <| .ite trivial <| (State.MemWf.onCohort ..).2 (.ite (.ite h <|
    h.setBar ..) <| State.MemWf.quickOp (.ite h <| h.setBar ..) ..)

theorem wflag_memWf {s : State} (h : s.MemWf) (i : Info) (n : Nat) : Out.MemWf (wflag i n s) :=
  issue_memWf h _ fun _ _ h => .ite h <| .ite h h

/-! ### Machine/Control -/

theorem transfer_memWf {s : State} (h : s.MemWf) (c : Cohort) (takes : Thread → Bool) (target : Thread → Dword) (lr : Bool) :
    (transfer c s takes target lr).MemWf :=
  .ite trivial h

theorem branch_memWf {s : State} (h : s.MemWf) (i : Info) (g : Nat) (n : Bool) (off : BitVec 22) (lr : Bool) :
    Out.MemWf (branch i g n off lr s) :=
  issue_memWf h _ fun _ _ h => transfer_memWf h ..

theorem meet_memWf {s : State} (h : s.MemWf) (i : Info) (g : Nat) (n : Bool) (off : BitVec 22) : Out.MemWf (meet i g n off s) :=
  issue_memWf h _ fun _ _ h => .list h fun _ _ => trivial

theorem jump_memWf {s : State} (h : s.MemWf) (i : Info) (target : Thread → Dword) (lr : Bool) : Out.MemWf (jump i target lr s) :=
  issue_memWf h _ fun _ _ h => transfer_memWf h ..

theorem mrset_memWf {s : State} (h : s.MemWf) (i : Info) (a : Nat) : Out.MemWf (mrset i a s) :=
  issue_memWf h _ fun _ _ h => .list h fun _ _ => trivial

theorem exitThreads_memWf {s : State} (h : s.MemWf) (i : Info) : Out.MemWf (exitThreads i s) :=
  issue_memWf h _ fun _ _ h => .ite h <| State.MemWf.barExit (by exact h) ..

theorem yield_memWf {s : State} (h : s.MemWf) (i : Info) : Out.MemWf (yield i s) := issue_memWf h _ fun _ _ h => .ite h h

theorem csign_memWf {s : State} (h : s.MemWf) (i : Info) (cv : Nat) : Out.MemWf (csign i cv s) :=
  issue_memWf h i fun _ _ h => .option h fun _ => .ite trivial h

theorem softTrap_memWf {s : State} (h : s.MemWf) (c : Cohort) (i : Info) (tpc info : Nat) : (softTrap c s i tpc info).MemWf :=
  .ite h <| State.MemWf.takeFault (by exact h) ..

theorem trap_memWf {s : State} (h : s.MemWf) (i : Info) (n : Nat) : Out.MemWf (trap i n s) :=
  issue_memWf h _ fun _ _ h => softTrap_memWf h ..

theorem brk_memWf {s : State} (h : s.MemWf) (i : Info) (n : Nat) : Out.MemWf (brk i n s) :=
  issue_memWf h _ fun _ _ h => .ite h <| softTrap_memWf h ..

theorem tret_memWf {s : State} (h : s.MemWf) (i : Info) (skip : Bool) : Out.MemWf (tret i skip s) :=
  issue_memWf h _ fun _ _ h => .ite trivial <| .ite trivial h

theorem wreq_memWf {s : State} (h : s.MemWf) (i : Info) (d : Nat) (a : SSrc) : Out.MemWf (wreq i d a s) :=
  issue_memWf h _ fun _ _ h => .ite trivial h

/-! ### Machine/Special -/

theorem rdsp_memWf {s : State} (h : s.MemWf) (i : Info) (d : Nat) (sc : Bool) (x : Nat) : Out.MemWf (rdsp i d sc x s) :=
  issue_memWf h _ fun _ _ h => .ite trivial <| .ite trivial <| .ite (.ite h <|
    (State.MemWf.onCohort ..).2 (by exact .ite h h)) h

theorem wrsp_memWf {s : State} (h : s.MemWf) (i : Info) (x : Nat) (a : VSrc) : Out.MemWf (wrsp i x a s) := by
  refine issue_memWf h _ fun _ _ h => .ite trivial <| .ite trivial <| ?_
  split
  · exact h
  · exact .ite h h

theorem rdcnt_memWf {s : State} (h : s.MemWf) (i : Info) (d n : Nat) : Out.MemWf (rdcnt i d n s) :=
  issue_memWf h _ fun _ _ h => .option trivial fun _ => State.MemWf.ite h h

theorem mark_memWf {s : State} (h : s.MemWf) (i : Info) (n : Nat) : Out.MemWf (mark i n s) :=
  issue_memWf h _ fun _ _ h => State.MemWf.ite (h.countPm ..) h

/-! ### Machine/Lanes -/

theorem shuffle_memWf {s : State} (h : s.MemWf) (i : Info) (d a : Nat) (b : Cohort → Thread → Word) (k : Nat → Nat → Int) :
    Out.MemWf (shuffle i d a b k s) :=
  issue_memWf h _ fun _ _ h => h

theorem reduceOp_memWf {s : State} (h : s.MemWf) (i : Info) (d : Nat) (f : Cohort → List Thread → Dword) :
    Out.MemWf (reduceOp i d s f) :=
  issue_memWf h _ fun _ _ h => h

theorem crossOp_memWf {s : State} (h : s.MemWf) (i : Info) (d : Nat) (f : List Thread → Thread → Word) :
    Out.MemWf (crossOp i d s f) :=
  issue_memWf h _ fun _ _ h => h

theorem expand_memWf {s : State} (h : s.MemWf) (i : Info) (d a b : Nat) : Out.MemWf (expand i d a b s) :=
  issue_memWf h _ fun _ _ h => (State.MemWf.onCohort ..).2 (.ite h <| h.rewrite ..)

theorem topk_memWf {s : State} (h : s.MemWf) (i : Info) (mag : Bool) (d a : Nat) (b : SSrc) : Out.MemWf (topk i mag d a b s) :=
  issue_memWf h _ fun _ _ h => h

theorem freduce_memWf {s : State} (h : s.MemWf) (i : Info) (d : Nat) (f : Cohort → Nat → FRes) : Out.MemWf (freduce i d s f) :=
  issue_memWf h _ fun _ _ h => h

theorem scanF_memWf {s : State} (h : s.MemWf) (i : Info) (d a : Nat) : Out.MemWf (scanF i d a s) :=
  issue_memWf h _ fun _ _ h => h

theorem State.MemWf.formBin {s : State} (h : s.MemWf) (core sub n : Nat) : ∀ t ∈ s.formBin core sub n, t.MemWf := by
  intro t ht
  delta State.formBin at ht
  dsimp only at ht
  split at ht
  · cases ht
  · split at ht
    · cases ht
    · split at ht <;> cases ht
      exact h

theorem State.MemWf.deposit {s : State} (h : s.MemWf) (c : Cohort) (cr : Crew) (key cpc fuel : Nat) (same : Option Nat)
    (ts : List Thread) : (State.deposit c cr key cpc fuel same s ts).1.MemWf := by
  induction fuel generalizing same s ts with
  | zero => exact h
  | succ fuel ih =>
    cases ts with
    | nil => exact h
    | cons t ts =>
      refine .optionFst h fun n => ?_
      dsimp only
      split
      · next hf =>
        split at hf
        · exact ih (State.MemWf.formBin (by exact h) _ _ _ _ hf) ..
        · cases hf
      · exact ih (by exact h) ..

theorem rgput_memWf {s : State} (h : s.MemWf) (i : Info) (a : SSrc) : Out.MemWf (rgput i a s) :=
  issue_memWf h _ fun _ _ h => .ite trivial <| .ite trivial <|
    (State.MemWf.onCohort ..).2 (((h.meet ..).rewrite ..).deposit ..)

theorem State.MemWf.flushCrew {s : State} (h : s.MemWf) (k : Nat) : (s.flushCrew k).MemWf :=
  .foldl (by exact fun _ _ h => .getD (State.MemWf.formBin (by exact h) _ _ _) h) h _

theorem rgflush_memWf {s : State} (h : s.MemWf) (i : Info) : Out.MemWf (rgflush i s) :=
  issue_memWf h _ fun _ _ h => .ite trivial <| State.MemWf.ite (h.flushCrew ..) h

theorem rgqry_memWf {s : State} (h : s.MemWf) (i : Info) (d : Nat) : Out.MemWf (rgqry i d s) :=
  issue_memWf h _ fun _ _ h => State.MemWf.ite h h

theorem binFormation_memWf {s : State} (h : s.MemWf) (core sub n : Nat) : (binFormation core sub n s).MemWf :=
  .ite (.getD (h.formBin _ _ _) h) h

theorem autoFlush_memWf {s : State} (h : s.MemWf) (k : Nat) : (autoFlush k s).MemWf := .ite (h.flushCrew ..) h

/-! ### Machine/Access -/

theorem State.MemWf.send {s : State} (h : s.MemWf) (c : Cohort) (core op : Nat) (sp : Space) (addr : Nat) (k : PKind)
    (need : List Nat) (counts : Bool) :
    (s.send c core op sp addr k need counts).MemWf :=
  .ite h h

theorem State.MemWf.doAtom {s : State} (h : s.MemWf) (sp : Space) (addr aop n : Nat) (lanes : List (Nat × Nat × Nat))
    (ret : Option Nat) :
    (s.doAtom sp addr aop n lanes ret).1.MemWf :=
  .optionFst (.ite h <| h.writeNat ..) fun _ => .ite h <| h.writeNat ..

/-! ### Machine/Memory -/

theorem State.MemWf.tlbStart {s : State} (h : s.MemWf) (cr : Crew) (sp : Spc) (lanes : List (Thread × List Piece)) :
    (s.tlbStart cr sp lanes).MemWf :=
  h.startWalks ..

theorem State.MemWf.countAccess {s : State} (h : s.MemWf) (c : Cohort) (cr : Crew) (sp : Spc)
    (lanes : List (Thread × List Piece)) (missed : Nat) :
    (s.countAccess c cr sp lanes missed).MemWf := by
  delta State.countAccess
  split
  · exact (h.useTlb ..).countPm ..
  · exact (h.useTlb ..).countPm ..
  · exact h.countPm ..
  · exact h

theorem State.MemWf.meetOwn {s : State} (h : s.MemWf) (sp : Spc) (lanes : List (Thread × List Piece)) :
    (s.meetOwn sp lanes).MemWf :=
  .ite (h.meet ..) h

theorem State.MemWf.beginLoad {s : State} (h : s.MemWf) (i : Info) (c : Cohort) (cr : Crew) (sp : Spc) (t ord scope : Nat)
    (lanes : List (Thread × List Piece)) :
    (s.beginLoad i c cr sp t ord scope lanes).MemWf :=
  State.MemWf.countAccess (.foldl (fun _ _ h => h.send ..) ((h.meetOwn ..).startOp ..) _) ..

theorem load_memWf {s : State} (h : s.MemWf) (i : Info) (sp : Spc) (t a : Nat) (u : Bool) (size ord scope : Nat)
    (off : Option (BitVec 32)) :
    Out.MemWf (load i sp t a u size ord scope off s) :=
  issue_memWf h _ fun _ _ h => .ite trivial <| .except (fun _ => trivial) fun _ => .ite trivial <| .ite (h.tlbStart ..) <|
    h.beginLoad ..

theorem State.MemWf.holdStore {s : State} (h : s.MemWf) (c : Cohort) (size t : Nat) (th : Thread) (va : Nat) :
    (s.holdStore c size t th va).MemWf :=
  .option h fun _ => State.MemWf.setSpad (by exact h) ..

theorem State.MemWf.sendStore {s : State} (h : s.MemWf) (c : Cohort) (cr : Crew) (sp : Spc) (pk : List (Space × List (Nat × Byte)))
    (need : List Nat) : (s.sendStore c cr sp pk need).MemWf := by
  delta State.sendStore
  extract_lets s1
  have h1 : s1.MemWf := .foldl (by exact fun _ _ h => .ite (.frame <| h.writeBytes ..) <| h.send ..) h _
  exact .ite (.frame h1) h1

theorem State.MemWf.l1Store {s : State} (h : s.MemWf) (core line priv : Nat) (bytes : List (Nat × Byte)) :
    (s.l1Store core line priv bytes).MemWf :=
  .ite h <| h.l1Put ..

theorem State.MemWf.storePriv {s : State} (h : s.MemWf) (c : Cohort) (cr : Crew) (bytes : List (Nat × Byte)) :
    (s.storePriv c cr bytes).MemWf :=
  (State.MemWf.onCrew ..).2 (h.foldl (fun _ _ h => h.l1Store ..) _)

theorem store_memWf {s : State} (h : s.MemWf) (i : Info) (sp : Spc) (t a : Nat) (u : Bool) (size ord : Nat)
    (off : Option (BitVec 32)) :
    Out.MemWf (store i sp t a u size ord off s) :=
  issue_memWf h _ fun _ _ h => .ite trivial <| .ite trivial <| .except (fun _ => trivial) fun _ => .ite trivial <|
    .ite trivial <| .ite (h.tlbStart ..) <| State.MemWf.countAccess (.ite ((h.foldl (fun _ _ h => h.holdStore ..)
    _).storePriv ..) <| (h.foldl (fun _ _ h => h.holdStore ..) _).sendStore ..) ..

theorem State.MemWf.sendAtom {s : State} (h : s.MemWf) (c : Cohort) (cr : Crew) (sp : Spc) (op aop n : Nat) (ret : Option Nat)
    (need : List Nat) (k : Space × Nat × Nat × List (Nat × Nat × Nat)) :
    (s.sendAtom c cr sp op aop n ret need k).MemWf := by
  refine .ite (.ite h ?_) <| h.send ..
  extract_lets r
  have hr : r.1.MemWf := by
    unfold r
    split <;> exact h.doAtom ..
  clear_value r
  exact hr

theorem atomic_memWf {s : State} (h : s.MemWf) (i : Info) (sp : Spc) (t a : Nat) (u : Bool) (aop : Nat) (w : Bool)
    (ord scope : Nat) (ret : Bool) (off : Option (BitVec 32)) : Out.MemWf (atomic i sp t a u aop w ord scope ret off s) := by
  refine issue_memWf h i fun c s h => .ite trivial <| .ite trivial <| .except (fun _ => trivial) fun lanes => .ite trivial <|
    .ite (h.tlbStart ..) ?_
  extract_lets s1 r s2 s3
  have h1 : s1.MemWf := h.meetOwn ..
  have hr : r.1.MemWf := .iteFst (.frame h1) h1
  have h2 : s2.MemWf := .foldl (fun _ _ h => h.sendAtom ..) hr _
  have h3 : s3.MemWf := .ite (.frame h2) h2
  exact h3.countAccess ..

theorem acquireHalf_memWf {s : State} (h : s.MemWf) (c : Cohort) (scope : Nat) : (acquireHalf c s scope).MemWf :=
  .ite trivial <| State.MemWf.ite h h

theorem fenceAcq_memWf {s : State} (h : s.MemWf) (i : Info) (scope : Nat) : Out.MemWf (fenceAcq i scope s) :=
  issue_memWf h _ fun _ _ h => .ite trivial <| acquireHalf_memWf h ..

theorem fenceRel_memWf {s : State} (h : s.MemWf) (i : Info) (scope : Nat) : Out.MemWf (fenceRel i scope s) :=
  issue_memWf h _ fun _ _ h => .ite trivial <| .ite trivial h

theorem fenceAr_memWf {s : State} (h : s.MemWf) (i : Info) (scope : Nat) : Out.MemWf (fenceAr i scope s) :=
  issue_memWf h _ fun _ _ h => .ite trivial <| .ite trivial <| acquireHalf_memWf h ..

theorem fenceSc_memWf {s : State} (h : s.MemWf) (i : Info) (scope : Nat) : Out.MemWf (fenceSc i scope s) := by
  refine issue_memWf h i fun c s h => .ite trivial <| .ite trivial <| .ite trivial ?_
  have hr := acquireHalf_memWf h c scope
  split
  · exact State.MemWf.frame <| h.send ..
  · split
    · next he => rwa [he] at hr
    · exact hr
  · trivial

theorem ackwait_memWf {s : State} (h : s.MemWf) (i : Info) : Out.MemWf (ackwait i s) :=
  issue_memWf h _ fun _ _ h => .ite trivial h

/-! ### Machine/Rings -/

theorem State.MemWf.ringPush {s : State} (h : s.MemWf) (pa x : Nat) : (s.ringPush pa x).MemWf := (h.writeNat ..).writeNat ..

theorem State.MemWf.ringPop {s : State} (h : s.MemWf) (pa : Nat) : (s.ringPop pa).2.MemWf := h.writeNat ..

theorem State.MemWf.ringOp {s : State} (h : s.MemWf) (push : Bool) (pa page size x : Nat) :
    (s.ringOp push pa page size x).1.MemWf :=
  .optionFst h fun _ => .iteFst (h.ringPush ..) (h.ringPop _)

theorem State.MemWf.ringDrop {s : State} (h : s.MemWf) (pa : Nat) : (s.ringDrop pa).MemWf :=
  .ite (((h.slPost ..).meet ..).writeNat ..) h

theorem State.MemWf.unpost {s : State} (h : s.MemWf) (n : Nat) : (s.unpost n).MemWf := h

theorem faultRecordPost_memWf {s : State} (h : s.MemWf) (n : Nat) : (faultRecordPost n s).MemWf :=
  .option h fun _ => .ite (State.MemWf.ringDrop (by exact h) ..) <| .ite (.ite (h.meet ..) <|
    .ite (((h.meet ..).unpost ..).ringDrop ..) <| .frame <| h.meet ..) <|
    .foldl (fun _ _ h => h.ringPush ..) ((((h.meet ..).slPost ..).slPost ..).unpost ..) _

end Sys2Proof.Machine
end

section
/-!
PROOF. Canonical memories (O60): memory events, caches, copies, queues and channels.
-/

namespace Sys2Proof.Machine

-- A definition then unfolds to its bare case distinctions, which the rules of `ite`, `option`, `list` and `except` speak of.
set_option smartUnfolding false

/-! ### Machine/MemEvents -/

theorem State.MemWf.ackPacket {s : State} (h : s.MemWf) (p : Packet) (reports : List Report) : (s.ackPacket p reports).MemWf :=
  h

theorem State.MemWf.joinAdd {s : State} (h : s.MemWf) (crew sel : Nat) (x : Int) : (s.joinAdd crew sel x).MemWf :=
  .option h fun _ => .ite (.option h fun _ => h) <| .option h fun _ => .ite h h

theorem State.MemWf.performLoad {s : State} (h : s.MemWf) (p : Packet) (tid reg n : Nat) (known : List (Nat × Byte))
    (fill : Bool) (priv : Nat) :
    (s.performLoad p tid reg n known fill priv).MemWf :=
  .ite (((State.MemWf.onCohort ..).2 (h.meet ..)).l1Fill ..) <| (State.MemWf.onCohort ..).2 (h.meet ..)

theorem State.MemWf.foreignWrite {s : State} (h : s.MemWf) (bytes : List (Nat × Byte)) : (s.foreignWrite bytes).MemWf :=
  .frame <| (h.writeBytes ..).slPost ..

theorem State.MemWf.ringFault {s : State} (h : s.MemWf) (p : Packet) (tids : List Nat) (info : Nat) :
    (s.ringFault p tids info).MemWf :=
  .ite (h.takeFault ..) h

theorem State.MemWf.perform {s : State} (h : s.MemWf) (p : Packet) : (s.perform p).MemWf := by
  delta State.perform
  extract_lets sp glob
  cases p.kind with
  | load => exact h.performLoad ..
  | store => exact .ite ((h.foreignWrite ..).ackPacket ..) <| (h.writeBytes ..).ackPacket ..
  | atom aop n lanes ret =>
    dsimp -zeta only
    extract_lets s1 rep
    have h1 : s1.MemWf := h.meet _
    clear_value s1
    exact .ite (State.MemWf.ackPacket (by exact h1) ..) <| State.MemWf.ackPacket (by exact .frame <| h1.doAtom ..) ..
  | red => exact State.MemWf.ackPacket (.ite (h.meet ..) <| (h.meet ..).doAtom ..) ..
  | ring push x page va pS dst =>
    dsimp -zeta only
    extract_lets slot s1 tids rep r got
    have h1 : s1.MemWf := h.meet _
    have hr : r.1.MemWf := h1.ringOp ..
    clear_value got rep r tids s1
    exact .option (State.MemWf.ackPacket (by exact hr) ..) fun _ => (State.MemWf.ringFault (by exact h1) ..).ackPacket ..
  | seqInc => exact State.MemWf.ackPacket (by exact .ite (.option h fun _ => h) h) ..
  | joinAdd => exact .option h fun _ => (h.joinAdd ..).ackPacket ..

theorem homeRequest_memWf {s : State} (h : s.MemWf) (n : Nat) : (homeRequest n s).MemWf :=
  .option h fun _ => .ite h <| .ite (.frame <| h.countPm ..) <| State.MemWf.perform (by exact h) ..

theorem requestReplay_memWf {s : State} (h : s.MemWf) (n : Nat) : (requestReplay n s).MemWf := .option h fun _ => .ite h h

theorem State.MemWf.reportTo {s : State} (h : s.MemWf) (k crew : Nat) (r : Report) : (s.reportTo k crew r).MemWf :=
  .option (.option h fun _ => h) fun _ => .ite h h

theorem acknowledgement_memWf {s : State} (h : s.MemWf) (n : Nat) : (acknowledgement n s).MemWf :=
  .option h fun _ => (State.MemWf.onCohort ..).2 (.foldl (fun _ _ h => h.reportTo ..) (by exact h) _)

theorem loadDataReturn_memWf {s : State} (h : s.MemWf) (k op : Nat) : (loadDataReturn k op s).MemWf :=
  .option h fun _ => .ite h <| (State.MemWf.onCohort ..).2 (State.MemWf.rewrite (by exact .ite h h) ..)

theorem longLatencyCompletion_memWf {s : State} (h : s.MemWf) (k op : Nat) : (longLatencyCompletion k op s).MemWf :=
  .option h fun _ => .ite h <| (State.MemWf.onCohort ..).2 (h.rewrite ..)

theorem reportArrival_memWf {s : State} (h : s.MemWf) (n : Nat) : (reportArrival n s).MemWf :=
  .option h fun _ => State.MemWf.reportTo (by exact h) ..

theorem translationWalk_memWf {s : State} (h : s.MemWf) (core asid va : Nat) : (translationWalk core asid va s).MemWf :=
  .option (.option h fun _ => h.atHomes fun _ h => h.touchTlb ..) fun _ => .ite (h.atHomes fun _ h => h) h

theorem patrolScrub_memWf {s : State} (h : s.MemWf) (n : Nat) : (patrolScrub n s).MemWf := .option h fun _ => .ite (h.meet ..) h

theorem dramRefresh_memWf {s : State} (h : s.MemWf) (_channel : Nat) : (dramRefresh _channel s).MemWf := h

theorem clockCycle_memWf {s : State} (h : s.MemWf) (core : Nat) : (clockCycle core s).MemWf :=
  .frame <| State.MemWf.countPm (by exact h) ..

/-! ### Machine/Cache -/

theorem State.MemWf.meetVa {s : State} (h : s.MemWf) (core : Nat) (jd : JobDesc) (va n : Nat) (k : Acc) :
    (s.meetVa core jd va n k).MemWf :=
  h.meet ..

theorem State.MemWf.brickFill {s : State} (h : s.MemWf) (core pa : Nat) (bs : List Byte) : (s.brickFill core pa bs).MemWf := h

theorem State.MemWf.reaches {s : State} (h : s.MemWf) {c : Cohort} {cr : Crew} {who : Requester} {pages pas : List Nat}
    {work : State → Res} (hw : ∀ s, State.MemWf s → (work s).MemWf) : (s.reaches c cr who pages pas work).MemWf :=
  .ite (h.startWalks ..) <| .ite (h.nack ..) <| hw _ (h.replayed _)

theorem State.MemWf.cacheDone {s : State} (h : s.MemWf) (i : Info) (c : Cohort) : (s.cacheDone i c).MemWf := h

theorem State.MemWf.lineRequest {s : State} (h : s.MemWf) (i : Info) (c : Cohort) (cr : Crew) (va pa : Nat) (fill : Bool) :
    (s.lineRequest i c cr va pa fill).MemWf :=
  ((h.useTlb ..).startOp ..).send ..

theorem prefetchRun_memWf {s : State} (h : s.MemWf) (i : Info) (a : Nat) (l1 : Bool) : Out.MemWf (prefetchRun i a l1 s) :=
  issue_memWf h _ fun _ _ h => .except (fun _ => h.cacheDone ..) fun _ => .ite ((h.useTlb ..).cacheDone ..) <|
    .ite (h.startWalks ..) <| h.lineRequest ..

theorem State.MemWf.l2Back {s : State} (h : s.MemWf) (ps : List (Nat × Nat)) : (s.l2Back ps).MemWf := h

theorem writeBack_memWf {s : State} (h : s.MemWf) (i : Info) (a b : Nat) (phys : Bool) : Out.MemWf (writeBack i a b phys s) :=
  issue_memWf h _ fun _ _ h => .ite trivial <| h.reaches fun _ h => ((h.foldl (fun _ _ h => h.privOut ..) _).l2Back
    ..).cacheDone ..

theorem invalidate_memWf {s : State} (h : s.MemWf) (i : Info) (a b : Nat) (l2 phys : Bool) :
    Out.MemWf (invalidate i a b l2 phys s) :=
  issue_memWf h _ fun _ _ h => .ite trivial <| h.reaches fun _ h => State.MemWf.cacheDone (by exact .ite h h) ..

theorem codePrefetch_memWf {s : State} (h : s.MemWf) (i : Info) (a : Nat) : Out.MemWf (codePrefetch i a s) := by
  refine issue_memWf h i fun c s h => .ite (h.reaches fun s h => ?_) (h.cacheDone ..)
  split
  · next hf => exact (h.ifill hf).cacheDone ..
  · exact h.cacheDone ..

theorem brickPrefetch_memWf {s : State} (h : s.MemWf) (i : Info) (a : Nat) : Out.MemWf (brickPrefetch i a s) := by
  refine issue_memWf h i fun c s h => ?_
  extract_lets cr va
  clear_value va
  split
  · exact h.reaches fun s h => State.MemWf.cacheDone
      (.ite ((h.useTlb ..).meetVa ..) <| ((h.useTlb ..).meetVa ..).brickFill ..) ..
  · exact h.cacheDone ..

/-! ### Machine/Copy -/

theorem State.MemWf.copyReport {s : State} (h : s.MemWf) (cohort crew code detail entry ipc : Nat) :
    (s.copyReport cohort crew code detail entry ipc).MemWf :=
  h

theorem State.MemWf.endBatch {s : State} (h : s.MemWf) (b ipc detail : Nat) : (s.endBatch b ipc detail).MemWf :=
  .option h fun _ => State.MemWf.copyReport (by exact .foldl (by exact fun _ _ h => h) (by exact h) _) ..

theorem State.MemWf.copyFail {s : State} (h : s.MemWf) (x : Copy) (cr : Crew) (e : Nat × Nat) (k : Acc) :
    (s.copyFail x cr e k).MemWf :=
  .ite (h.endBatch ..) <| .ite (h.endBatch ..) h

theorem State.MemWf.copyPoison {s : State} (h : s.MemWf) (x : Copy) : (s.copyPoison x).MemWf := .option h fun _ => .ite h h

theorem State.MemWf.engWrite {s : State} (h : s.MemWf) (sp : Space) (bs : List (Nat × Byte × Bool)) : (s.engWrite sp bs).MemWf :=
  .foldl (fun _ _ h => h.markPoison ..) (h.writeBytes ..) _

theorem State.MemWf.engSpad {s : State} (h : s.MemWf) (cr : Crew) (bs : List (Nat × Byte × Bool)) : (s.engSpad cr bs).MemWf :=
  h.engWrite ..

theorem State.MemWf.partWords {s : State} (h : s.MemWf) (x : Copy) (bs : List (Nat × Nat × Bool)) : (s.partWords x bs).MemWf :=
  .ite h h

theorem State.MemWf.engGlobal {s : State} (h : s.MemWf) (x : Copy) (cr : Crew) (bs : List (Nat × Nat × Nat × Bool)) :
    (s.engGlobal x cr bs).MemWf :=
  .ite (.frame <| (h.engWrite ..).partWords ..) <| State.MemWf.copyReport (by exact .frame <| (h.engWrite ..).partWords ..) ..

theorem State.MemWf.plainGran {s : State} (h : s.MemWf) (x : Copy) (cr : Crew) (g : Nat) : (s.plainGran x cr g).MemWf :=
  .option (.ite ((State.MemWf.countPm (.ite (h.copyPoison ..) h) ..).engGlobal ..) <|
    .ite (.option (State.MemWf.countPm (.ite (h.copyPoison ..) h) ..) fun _ => (State.MemWf.countPm (.ite (h.copyPoison ..) h)
    ..).engSpad ..) <| (State.MemWf.countPm (.ite (h.copyPoison ..) h) ..).engSpad ..) fun _ => h.copyFail ..

theorem State.MemWf.boxGran {s : State} (h : s.MemWf) (x : Copy) (cr : Crew) (t : TRec) (g : Nat) : (s.boxGran x cr t g).MemWf :=
  .ite (.option ((State.MemWf.countPm (.ite (h.copyPoison ..) h) ..).engSpad ..) fun _ => h.copyFail ..) <|
    .option ((State.MemWf.countPm (.ite (h.copyPoison ..) h) ..).engGlobal ..) fun _ => h.copyFail ..

theorem State.MemWf.meetGran {s : State} (h : s.MemWf) (x : Copy) (cr : Crew) (g : Nat) : (s.meetGran x cr g).MemWf :=
  .ite h <| h.meet ..

theorem State.MemWf.slotGran {s : State} (h : s.MemWf) (x : Copy) (cr : Crew) (c : Cohort) (t : TRec) (sc : Bool) (g : Nat) :
    (s.slotGran x cr c t sc g).MemWf := by
  delta State.slotGran
  extract_lets ix reads saved z drop words put held s1 d q
  have hput : ∀ s z', State.MemWf s → (put s z').MemWf := fun s z' h => .frame <| State.MemWf.ite (h.countPm ..) <|
    .ite (.frame <| h.countPm ..) <| .frame <| (h.countPm ..).rewrite ..
  have h1 : s1.MemWf := .ite h <| h.meetGran ..
  exact .ite h1 <| .ite (.option (hput _ _ h1) fun _ => .option (hput _ _ <| .ite (h1.copyPoison ..) h1) fun _ => h1.copyFail ..) <|
    .option (hput _ _ <| .ite (h1.copyPoison ..) h1) fun _ => h1.copyFail ..

theorem State.MemWf.readTrec {s : State} (h : s.MemWf) (x : Copy) (cr : Crew) : (s.readTrec x cr).MemWf := by
  simp only [State.readTrec]
  generalize (if (x.kind == CopyKind.tst) = true then x.dst else x.src) = a
  refine .ite (h.endBatch ..) ?_
  split
  · exact h.copyFail ..
  · split
    · exact h.endBatch ..
    · exact .ite (h.endBatch ..) h

theorem State.MemWf.copyEnd {s : State} (h : s.MemWf) (id : Nat) : (s.copyEnd id).MemWf := .option h fun _ => .ite h h

theorem State.MemWf.granDone {s : State} (h : s.MemWf) (id g : Nat) : (s.granDone id g).MemWf :=
  .option h fun _ => .ite h <| State.MemWf.copyEnd (by exact h) ..

theorem copyGranule_memWf {s : State} (h : s.MemWf) (id g : Nat) : (copyGranule id g s).MemWf := by
  delta copyGranule
  refine .option h fun _ => ?_
  dsimp only
  split
  · refine .ite h <| h.atHomes fun _ h => .bool (.ite (((h.meetGran ..).plainGran ..).granDone ..) <| h.copyEnd ..) <|
      .option (.ite ((h.meetGran ..).readTrec ..) h) fun _ => .ite (h.copyEnd ..) <| ?_
    split
    · exact (h.slotGran ..).copyEnd ..
    · exact ((h.meetGran ..).boxGran ..).granDone ..
  · exact h

theorem State.MemWf.closeBatch {s : State} (h : s.MemWf) (k : Nat) (ring : Option Nat) (ipc : Nat) :
    (s.closeBatch k ring ipc).MemWf :=
  .option h fun _ => h

theorem retireBatches_memWf {s : State} (h : s.MemWf) (k fuel : Nat) : (retireBatches k fuel s).MemWf := by
  induction fuel generalizing s with
  | zero => exact h
  | succ fuel ih =>
    unfold retireBatches
    split
    · exact .ite (ih (by exact h)) h
    · exact h

theorem copyBatchComplete_memWf {s : State} (h : s.MemWf) (n : Nat) : (copyBatchComplete n s).MemWf :=
  .option h fun _ => .ite (retireBatches_memWf (by exact h) ..) h

theorem copyRingAdvance_memWf {s : State} (h : s.MemWf) (n : Nat) : (copyRingAdvance n s).MemWf := by
  delta copyRingAdvance
  refine .option h fun _ => ?_
  dsimp only
  split
  · exact .ite h <| .ite h <| .ite (State.MemWf.copyReport (by exact .frame <| h.meetCrew ..) ..) <| .ite h <| .frame <|
      (h.meetCrew ..).crewSet ..
  · exact h

theorem startCopy_memWf {s : State} (h : s.MemWf) (i : Info) (c : Cohort) (cr : Crew) (x : Copy) :
    (startCopy i c cr s x).MemWf := by
  delta startCopy
  extract_lets joins range r s1 b s2 x' ended s3
  have h1 : s1.MemWf := .ite h <| State.MemWf.closeBatch (by exact h) ..
  have hb : b.1.MemWf := .optionFst h1 fun _ => .iteFst h1 h1
  clear_value b
  exact .ite trivial <| State.MemWf.ite hb hb

theorem plainCopy_memWf {s : State} (h : s.MemWf) (i : Info) (kind : CopyKind) (sub : Nat) (kd ka : Side) (d a b : Nat) :
    Out.MemWf (plainCopy i kind sub kd ka d a b s) :=
  issue_memWf h _ fun _ _ h => .ite trivial <| .option (.ite trivial <| .ite trivial <| .ite trivial <|
    startCopy_memWf h ..) fun _ => trivial

theorem tensorCopy_memWf {s : State} (h : s.MemWf) (i : Info) (store : Bool) (d a b : Nat) :
    Out.MemWf (tensorCopy i store d a b s) := by
  refine issue_memWf h i fun c s h => .ite (.ite (startCopy_memWf h ..) ?_) (startCopy_memWf h ..)
  split
  · exact .ite (startCopy_memWf h ..) trivial
  · trivial

theorem tensorSlot_memWf {s : State} (h : s.MemWf) (i : Info) (n a b : Nat) (sc : Bool) : Out.MemWf (tensorSlot i n a b sc s) :=
  issue_memWf h _ fun _ _ h => .ite trivial <| .ite trivial <| startCopy_memWf h ..

theorem copyClose_memWf {s : State} (h : s.MemWf) (i : Info) : Out.MemWf (copyClose i s) :=
  issue_memWf h _ fun _ _ h => h.closeBatch ..

theorem waitCount_memWf {s : State} (h : s.MemWf) (i : Info) (n cls : Nat) : Out.MemWf (waitCount i n cls s) :=
  issue_memWf h _ fun _ _ h => .ite ((h.closeBatch ..).quickOp ..) <| h.closeBatch ..

theorem objFault_memWf {c : Cohort} {cr : Crew} {x : Dword} {sub field : Nat} {r : Res} (h : objFault c cr x sub field = some r) :
    r.MemWf := by
  delta objFault at h
  (repeat' split at h) <;> cases h <;> trivial

theorem copyRing_memWf {s : State} (h : s.MemWf) (i : Info) (a : Nat) : Out.MemWf (copyRing i a s) := by
  refine issue_memWf h i fun c s h => ?_
  split
  · next hf => exact objFault_memWf hf
  · exact .ite trivial <| State.MemWf.closeBatch (by exact .ite h h) ..

/-! ### Machine/Queues -/

theorem State.MemWf.setQ {s : State} (h : s.MemWf) (cr : Crew) (off : Nat) (w : QWord) : (s.setQ cr off w).MemWf := h.crewSet ..

theorem State.MemWf.crewWrite {s : State} (h : s.MemWf) (cr : Crew) (off : Nat) (bs : List (Byte × Bool)) :
    (s.crewWrite cr off bs).MemWf :=
  h.engSpad ..

theorem State.MemWf.qMove {s : State} (h : s.MemWf) (cr : Crew) (off : Nat) (push : Bool) (a : Nat) :
    (s.qMove cr off push a).MemWf :=
  .ite (((h.meetCrew ..).crewWrite ..).setQ ..) <| ((h.meetCrew ..).crewWrite ..).setQ ..

theorem queueMove_memWf {s : State} (h : s.MemWf) (i : Info) (push : Bool) (q a : Nat) : Out.MemWf (queueMove i push q a s) :=
  issue_memWf h _ fun _ _ h => .ite h <| .option trivial fun _ => .ite trivial <| .ite trivial <| .ite trivial <| .ite h <|
    (h.qMove ..).quickOp ..

theorem queueTry_memWf {s : State} (h : s.MemWf) (i : Info) (push : Bool) (d q a pS : Nat) :
    Out.MemWf (queueTry i push d q a pS s) :=
  issue_memWf h _ fun _ _ h => .option trivial fun _ => .ite trivial <| .ite trivial <| .ite trivial <|
    State.MemWf.quickOp (.ite (h.qMove ..) <| h.meetCrew ..) ..

theorem queueRetry_memWf {s : State} (h : s.MemWf) (k q : Nat) (push : Bool) : (queueRetry k q push s).MemWf := by
  delta queueRetry
  refine .option h fun _ => ?_
  dsimp only
  split
  · exact .ite h <| (State.MemWf.onCohort ..).2 ((State.MemWf.onCrew ..).2 (h.qMove ..))
  · exact h

theorem queueAllow_memWf {s : State} (h : s.MemWf) (i : Info) (q a : Nat) : Out.MemWf (queueAllow i q a s) :=
  issue_memWf h _ fun _ _ h => .ite h <| .option trivial fun _ => .ite trivial <| h.setQ ..

theorem queueLen_memWf {s : State} (h : s.MemWf) (i : Info) (d q : Nat) : Out.MemWf (queueLen i d q s) :=
  issue_memWf h _ fun _ _ h => .ite h <| .option trivial fun _ => (State.MemWf.onCohort ..).2 (h.meetCrew ..)

theorem chanFault_memWf {c : Cohort} {cr : Crew} {ch : Chan} {x : Dword} {sub : Nat} {r : Res}
    (h : chanFault c cr ch x sub = some r) : r.MemWf := by
  delta chanFault at h
  (repeat' split at h) <;> cases h <;> trivial

theorem chanSend_memWf {s : State} (h : s.MemWf) (i : Info) (n a : Nat) (st : Option (Nat × Nat)) :
    Out.MemWf (chanSend i n a st s) := by
  refine issue_memWf h i fun c s h => .ite h <| .ite trivial <| .option trivial fun _ => .ite trivial ?_
  split
  · next hf => exact chanFault_memWf hf
  · exact .ite trivial <| .ite (.option h fun _ => h) <| .ite trivial <|
      State.MemWf.crewSet (by exact .frame <| h.meetCrew ..) ..

theorem channelDelivery_memWf {s : State} (h : s.MemWf) (n : Nat) : (channelDelivery n s).MemWf := by
  delta channelDelivery
  refine .option h fun _ => ?_
  dsimp only
  split
  · exact .ite h <| (State.MemWf.onCohort ..).2 ((State.MemWf.crewPut (by exact h) ..).crewSet ..)
  · exact h

theorem chanRecv_memWf {s : State} (h : s.MemWf) (i : Info) (n a : Nat) (st : Option (Nat × Nat)) :
    Out.MemWf (chanRecv i n a st s) := by
  refine issue_memWf h i fun c s h => .ite h <| .ite trivial <| .option trivial fun _ => .ite trivial ?_
  split
  · next hf => exact chanFault_memWf hf
  · exact .ite trivial <| .ite (.option h fun _ => h) <| State.MemWf.frame <|
      (((h.meetCrew ..).crewWrite ..).crewSet ..).crewSet ..

theorem creditPacket_memWf {s : State} (h : s.MemWf) (n : Nat) : (creditPacket n s).MemWf := by
  delta creditPacket
  refine .option h fun _ => ?_
  dsimp only
  split
  · exact .ite h <| .ite (State.MemWf.crewSet (by exact h) ..) h
  · exact h

theorem ringIssue_memWf {s : State} (h : s.MemWf) (i : Info) (push : Bool) (d a pS : Nat) :
    Out.MemWf (ringIssue i push d a pS s) :=
  issue_memWf h _ fun _ _ h => .ite trivial <| .ite trivial <| .except (fun _ => trivial) fun _ => .ite trivial <|
    .option (.ite (h.startWalks ..) <| ((h.useTlb ..).startOp ..).send ..) fun _ => trivial

theorem ringObject_memWf {s : State} (h : s.MemWf) (i : Info) (sub a : Nat) {f : Cohort → Crew → CRing → State → Res}
    (hf : ∀ c cr r s, State.MemWf s → (f c cr r s).MemWf) : Out.MemWf (ringObject i sub a s f) := by
  refine issue_memWf h i fun c s h => .ite h ?_
  split
  · next hf => exact objFault_memWf hf
  · exact .ite trivial (hf _ _ _ _ h)

theorem rawait_memWf {s : State} (h : s.MemWf) (i : Info) (d a : Nat) : Out.MemWf (rawait i d a s) :=
  ringObject_memWf h i 12 a fun _ _ _ _ h => .ite trivial <| .ite h <| State.MemWf.frame <| h.meetCrew ..

theorem rrel_memWf {s : State} (h : s.MemWf) (i : Info) (a : Nat) : Out.MemWf (rrel i a s) :=
  ringObject_memWf h i 13 a fun _ _ _ _ h => .ite trivial <|
    State.MemWf.quickOp (.ite (h.meetCrew ..) <| (h.meetCrew ..).crewSet ..) ..

theorem jinc_memWf {s : State} (h : s.MemWf) (i : Info) (a : Nat) : Out.MemWf (jinc i a s) :=
  issue_memWf h _ fun _ _ h => .ite h <| .ite trivial <| .ite trivial <| h.send ..

end Sys2Proof.Machine
end

section
/-!
PROOF. Canonical memories (O60): the matrix unit and Opal.
-/

namespace Sys2Proof.Machine

-- A definition then unfolds to its bare case distinctions, which the rules of `ite`, `option`, `list` and `except` speak of.
set_option smartUnfolding false

/-! ### Machine/Matrix -/

theorem State.MemWf.setSlot {s : State} (h : s.MemWf) (core sub n : Nat) (z : Slot) : (s.setSlot core sub n z).MemWf := h

theorem State.MemWf.setTile {s : State} (h : s.MemWf) (core sub n : Nat) (t : Tile) : (s.setTile core sub n t).MemWf := h

theorem State.MemWf.slotWritten {s : State} (h : s.MemWf) (core sub n : Nat) (js : List Nat) :
    (s.slotWritten core sub n js).MemWf :=
  h.rewrite ..

theorem State.MemWf.tileWritten {s : State} (h : s.MemWf) (core sub n : Nat) (ws : List Nat) :
    (s.tileWritten core sub n ws).MemWf :=
  h.rewrite ..

theorem State.MemWf.newTile {s : State} (h : s.MemWf) (core sub n : Nat) (t : Tile) : (s.newTile core sub n t).MemWf :=
  (h.rewrite ..).setTile ..

theorem State.MemWf.joinStream {s : State} (h : s.MemWf) (c : Cohort) (i : Info) (kind : MtxKind) :
    (s.joinStream c i kind).MemWf :=
  h

theorem State.MemWf.mtxMeet {s : State} (h : s.MemWf) (c : Cohort) (before : List MtxOp) (k : MtxKind) :
    (s.mtxMeet c before k).MemWf :=
  h.meet ..

theorem mtx_memWf {s : State} (h : s.MemWf) (i : Info) (sub cv : Nat) (check : Cohort → State → Option (Nat × Nat))
    (kind : Cohort → State → MtxKind) : Out.MemWf (mtx i sub cv s check kind) := by
  refine issue_memWf h i fun c s h => ?_
  extract_lets go
  have hgo : ∀ s b, State.MemWf s → (go s b).MemWf := fun s b h =>
    .ite trivial <| .option (.list (.ite ((State.MemWf.onCohort ..).2 <| ((h.meet ..).meet ..).joinStream ..) <|
      ((h.meet ..).meet ..).joinStream ..) fun _ _ => h.meet ..) fun _ => h
  clear_value go
  exact .ite (.ite trivial (hgo _ _ h)) <| .ite trivial <| .ite (hgo _ _ h) h

theorem mma_memWf {s : State} (h : s.MemWf) (i : Info) (z : Bool) (n sa sb fs cv : Nat) : Out.MemWf (mma i z n sa sb fs cv s) := by
  delta mma
  exact mtx_memWf h ..

theorem accz_memWf {s : State} (h : s.MemWf) (i : Info) (n cv : Nat) : Out.MemWf (accz i n cv s) := mtx_memWf h ..

theorem accst_memWf {s : State} (h : s.MemWf) (i : Info) (n out : Nat) (keep : Bool) (cv xa xb : Nat) (imm : BitVec 20) :
    Out.MemWf (accst i n out keep cv xa xb imm s) :=
  mtx_memWf h ..

theorem accld_memWf {s : State} (h : s.MemWf) (i : Info) (n cv xa xb : Nat) (imm : BitVec 20) :
    Out.MemWf (accld i n cv xa xb imm s) :=
  mtx_memWf h ..

theorem accrd_memWf {s : State} (h : s.MemWf) (i : Info) (n r cv xa : Nat) (imm : BitVec 20) :
    Out.MemWf (accrd i n r cv xa imm s) :=
  mtx_memWf h ..

theorem accwr_memWf {s : State} (h : s.MemWf) (i : Info) (n r cv xa : Nat) (imm : BitVec 20) :
    Out.MemWf (accwr i n r cv xa imm s) :=
  mtx_memWf h ..

theorem oclaim_memWf {s : State} (h : s.MemWf) (i : Info) (n cv : Nat) : Out.MemWf (oclaim i n cv s) := mtx_memWf h ..

theorem orel_memWf {s : State} (h : s.MemWf) (i : Info) (n cv : Nat) : Out.MemWf (orel i n cv s) := mtx_memWf h ..

theorem oload_memWf {s : State} (h : s.MemWf) (i : Info) (part n cv xa xb : Nat) (imm : BitVec 20) :
    Out.MemWf (oload i part n cv xa xb imm s) := by
  delta oload
  exact mtx_memWf h ..

theorem accscl_memWf {s : State} (h : s.MemWf) (i : Info) (mode n cv xa : Nat) : Out.MemWf (accscl i mode n cv xa s) :=
  mtx_memWf h ..

theorem tileBind_memWf {s : State} (h : s.MemWf) (k : Nat) : (tileBind k s).MemWf := by
  delta tileBind
  refine .option h fun _ => .option h fun _ => ?_
  dsimp only
  split
  · exact (State.MemWf.onCohort ..).2 (State.MemWf.newTile (.option h fun _ => h.newTile ..) ..)
  · exact h

theorem slotClaim_memWf {s : State} (h : s.MemWf) (k : Nat) : (slotClaim k s).MemWf := by
  delta slotClaim
  refine .option h fun _ => ?_
  dsimp only
  split
  · exact .ite h <| (State.MemWf.onCohort ..).2 (State.MemWf.setSlot (.ite h <| h.slotWritten ..) ..)
  · exact h

theorem State.MemWf.coolArrays {s : State} (h : s.MemWf) (p : Nat → Bool) : (s.coolArrays p).MemWf := h

theorem matrixAdmission_memWf {s : State} (h : s.MemWf) (k : Nat) : (matrixAdmission k s).MemWf := by
  refine .option h fun c => ?_
  beta_reduce
  extract_lets core sec start older
  have hs : ∀ s, State.MemWf s → (start s).MemWf := fun _ h => .frame <| h.countPm core c.sub 5 1 0
  clear_value start older
  exact .ite h <| .ite (hs _ h) <| .ite (hs _ h) <| .ite h h

theorem admissionWindow_memWf {s : State} (h : s.MemWf) (sec : Nat) : (admissionWindow sec s).MemWf := h

theorem State.MemWf.mtxEffect {s : State} (h : s.MemWf) (c : Cohort) (m : MtxOp) : (s.mtxEffect c m).MemWf := by
  delta State.mtxEffect
  extract_lets -lift s1 cr core t
  have h1 : s1.MemWf := h.mtxMeet ..
  clear_value s1 cr core t
  cases m.kind with
  | mma | mmaz | accscl => exact (State.MemWf.onCohort ..).2 <| h1.newTile ..
  | accz | accld => exact h1.newTile ..
  | accst n a d out keep =>
    dsimp -zeta only
    extract_lets s2
    have h2 : s2.MemWf := .foldl (fun _ _ h => h.crewWrite ..) h1 _
    clear_value s2
    exact .ite h2 <| (State.MemWf.onCohort ..).2 <| h2.newTile ..
  | accrd | oclaim | orel => exact h1
  | accwr => exact State.MemWf.setTile (h1.tileWritten ..) ..
  | oload n part a d =>
    dsimp -zeta only
    extract_lets z rows put
    have hput : ∀ lo k x, (put lo k x).MemWf := fun _ _ _ => .frame <| h1.slotWritten ..
    clear_value put
    exact .ite (hput ..) <| .ite (hput ..) <| hput ..

theorem mtxCompletion_memWf {s : State} (h : s.MemWf) (k : Nat) : (mtxCompletion k s).MemWf :=
  .option h fun _ => .list h fun _ _ => .ite h <| .ite (((State.MemWf.onCohort ..).2 (h.mtxEffect ..)).coolArrays ..) <|
    (State.MemWf.onCohort ..).2 (h.mtxEffect ..)

/-! ### Machine/Opal -/

theorem State.MemWf.tbSet {s : State} (h : s.MemWf) (jd : JobDesc) (n lo k v : Nat) : (s.tbSet jd n lo k v).MemWf :=
  .ite (((h.slPost ..).meet ..).writeNat ..) h

theorem State.MemWf.tbState {s : State} (h : s.MemWf) (jd : JobDesc) (n v : Nat) : (s.tbState jd n v).MemWf := h.tbSet ..

theorem State.MemWf.tbSpecv {s : State} (h : s.MemWf) (jd : JobDesc) (n : Nat) (v : Bool) : (s.tbSpecv jd n v).MemWf :=
  h.tbSet ..

theorem State.MemWf.tbHcnt {s : State} (h : s.MemWf) (jd : JobDesc) (n v : Nat) : (s.tbHcnt jd n v).MemWf := h.tbSet ..

theorem State.MemWf.tbVer {s : State} (h : s.MemWf) (jd : JobDesc) (n v : Nat) : (s.tbVer jd n v).MemWf := h.tbSet ..

theorem State.MemWf.tbRefs {s : State} (h : s.MemWf) (jd : JobDesc) (n v : Nat) : (s.tbRefs jd n v).MemWf := h.tbSet ..

theorem State.MemWf.onHome {s : State} (h : s.MemWf) (job n : Nat) (f : TbHome → TbHome) : (s.onHome job n f).MemWf := h

theorem State.MemWf.meetParts {s : State} (h : s.MemWf) (ps : List (Space × Nat × Nat)) : (s.meetParts ps).MemWf :=
  .ite h <| h.meet ..

theorem State.MemWf.partWrite {s : State} (h : s.MemWf) (ps : List (Space × Nat × Nat)) (bs : List (Byte × Bool)) :
    (s.partWrite ps bs).MemWf := by
  induction ps generalizing s bs with
  | nil => exact h
  | cons p ps ih => exact ih (State.MemWf.engWrite (.ite (h.slPost ..) h) ..) _

theorem State.MemWf.predict {s : State} (h : s.MemWf) (jd : JobDesc) (n : Nat) : (s.predict jd n).MemWf :=
  .option h fun _ => (((h.meetParts ..).partWrite ..).onHome ..).tbState ..

theorem State.MemWf.tbBeginRead {s : State} (h : s.MemWf) (jd : JobDesc) (l : Launch) (e : Nat × TbRead) :
    (s.tbBeginRead jd l e).MemWf :=
  .ite (State.MemWf.onHome (.ite (State.MemWf.predict (.ite h <| h.tbRefs ..) ..) <| .ite h <| h.tbRefs ..) ..) <| .ite h <|
    h.tbRefs ..

theorem State.MemWf.tbBegin {s : State} (h : s.MemWf) (jd : JobDesc) (l : Launch) (d : Nat) (rs : List (Nat × TbRead)) :
    (s.tbBegin jd l d rs).MemWf :=
  (State.MemWf.onLaunch ..).2
    (by exact .frame <| State.MemWf.foldl (by exact fun _ _ h => h) (h.foldl (by exact fun _ _ h => h.tbBeginRead ..) _) _)

theorem State.MemWf.histCopy {s : State} (h : s.MemWf) (jd : JobDesc) (n : Nat) : ∀ t ∈ s.histCopy jd n, t.MemWf := by
  intro t ht
  generalize hf : State.histCopy = f at ht -- keeps the kernel from evaluating the parts that the definition matches on
  delta State.histCopy at hf
  subst hf
  dsimp only at ht
  split at ht <;> cases ht
  exact ((h.meetParts ..).partWrite ..).tbHcnt ..

theorem State.MemWf.histStep {s : State} (h : s.MemWf) (jd : JobDesc) (n : Nat) : (s.histStep jd n).MemWf :=
  State.MemWf.getD (h.histCopy jd n) (h.tbHcnt ..)

theorem State.MemWf.tellReaders {s : State} (h : s.MemWf) (hd n : Nat) : (s.tellReaders hd n).MemWf := h

theorem State.MemWf.histEnd {s : State} (h : s.MemWf) (c : Compare) : (s.histEnd c).MemWf :=
  .option (.option h fun _ => h) fun _ => .ite ((((State.MemWf.tbVer (by exact h) ..).histStep ..).tbSpecv ..).tbState ..) <|
    .ite (.option ((State.MemWf.histStep (by exact h) ..).tbSpecv ..) fun _ => (((State.MemWf.histStep (by exact h)
    ..).tbSpecv ..).onHome ..).tellReaders ..) h

theorem State.MemWf.tbVerdict {s : State} (h : s.MemWf) (jd : JobDesc) (n : Nat) (t : Tb) (commit : Bool) (err : Nat) :
    (s.tbVerdict jd n t commit err).MemWf :=
  State.MemWf.tbSet (.ite (((h.tbSet ..).tbSet ..).tbSet ..) <| ((h.tbSet ..).tbSet ..).tbSet ..) ..

theorem State.MemWf.tellStarters {s : State} (h : s.MemWf) (job n : Nat) (commit : Bool) : (s.tellStarters job n commit).MemWf :=
  h

theorem State.MemWf.verdictEnd {s : State} (h : s.MemWf) (c : Compare) : (s.verdictEnd c).MemWf := by
  delta State.verdictEnd
  extract_lets s1 home w
  have h1 : s1.MemWf := h
  clear_value s1 home w
  refine .option h1 fun jd => ?_
  beta_reduce
  extract_lets t ps ok s2 s3
  have h2 : s2.MemWf := by
    unfold s2
    cases ps with
    | none => exact h1
    | some e => exact h1.meetParts ..
  have h3 : s3.MemWf := h2.tbVer ..
  have hend {s : State} (h : s.MemWf) (b : Bool) :
      (((s.tbSpecv jd c.tb false).tbState jd c.tb 1).tellStarters c.job c.tb b).MemWf := ((h.tbSpecv ..).tbState ..).tellStarters ..
  clear_value ok s3
  cases ok with
  | none => exact .ite h1 <| hend ((h3.tbVerdict ..).tbHcnt ..) _
  | some es => exact .ite h1 <| hend ((h3.tbVerdict ..).histStep ..) _

theorem verdict_memWf {s : State} (h : s.MemWf) (n : Nat) : (verdict n s).MemWf :=
  .option h fun _ => h.atHomes fun _ h => h.verdictEnd ..

theorem historyCopy_memWf {s : State} (h : s.MemWf) (n : Nat) : (historyCopy n s).MemWf :=
  .option h fun _ => h.atHomes fun _ h => h.histEnd ..

theorem State.MemWf.tbSettle {s : State} (h : s.MemWf) (job n : Nat) : (s.tbSettle job n).MemWf :=
  .ite (State.MemWf.histEnd (.ite (h.verdictEnd ..) h) ..) <| .ite (h.verdictEnd ..) h

theorem State.MemWf.tbPublish {s : State} (h : s.MemWf) (hd n : Nat) : (s.tbPublish hd n).MemWf :=
  .option h fun _ => .option h fun _ => .ite h <| .ite (.frame <| h.tbSettle ..) <| .ite ((h.tbSettle ..).onHome ..) <|
    .ite ((((((h.tbSettle ..).onHome ..).tbVer ..).tbSpecv ..).tbState ..).onHome ..) <| .frame <| h.tbSettle ..

theorem State.MemWf.tbDrop {s : State} (h : s.MemWf) (jd : JobDesc) (hd n : Nat) : (s.tbDrop jd hd n).MemWf :=
  .ite (((State.MemWf.onLaunch ..).2 ((h.tbSettle ..).tbRefs ..)).tbState ..) <|
    (State.MemWf.onLaunch ..).2 ((h.tbSettle ..).tbRefs ..)

theorem State.MemWf.tbRelease {s : State} (h : s.MemWf) (hd n : Nat) : (s.tbRelease hd n).MemWf :=
  .option h fun _ => .option h fun _ => .ite (h.tbDrop ..) h

theorem State.MemWf.tbRetired {s : State} (h : s.MemWf) (hd : Nat) : (s.tbRetired hd).MemWf :=
  .option h fun _ => h.foldl (fun _ _ h => .ite (h.tbPublish ..) <| h.tbRelease ..) _

theorem State.MemWf.resolveVersions {s : State} (h : s.MemWf) (hd : Nat) : (s.resolveVersions hd).MemWf := .ite h h

theorem State.MemWf.resolveCommit {s : State} (h : s.MemWf) (hd : Nat) : (s.resolveCommit hd).MemWf :=
  State.MemWf.resolveVersions (by exact h) ..

theorem State.MemWf.squashTear {s : State} (h : s.MemWf) (hd : Nat) : (s.squashTear hd).MemWf :=
  .frame <| h.foldl (by exact fun _ _ h => h.tearCrew ..) _

theorem State.MemWf.rollBack {s : State} (h : s.MemWf) (hd : Nat) : (s.rollBack hd).MemWf :=
  h.foldl (fun _ _ h => .option h fun _ => (((h.tbVer ..).tbSpecv ..).tbState ..).onHome ..) _

theorem State.MemWf.squashRefs {s : State} (h : s.MemWf) (hd : Nat) : (s.squashRefs hd).MemWf :=
  .option h fun _ => .option h fun _ => .foldl (fun _ _ h => .ite ((h.tbSettle ..).tbDrop ..) <| h.tbSettle ..) (by exact h) _

theorem State.MemWf.squash {s : State} (h : s.MemWf) (hd : Nat) : (s.squash hd).MemWf :=
  .foldl (by exact fun _ _ h => h) (.foldl (fun _ _ h => h.squashRefs ..) (.foldl (fun _ _ h => h.rollBack ..) (h.foldl
    (fun _ _ h => h.squashTear ..) _) _) _) _

theorem resolutionArrival_memWf {s : State} (h : s.MemWf) (n : Nat) : (resolutionArrival n s).MemWf :=
  .option h fun _ => .ite h <| .option h fun _ => .ite h <| .ite (State.MemWf.squash (by exact h) ..) <|
    .ite (State.MemWf.resolveCommit (by exact h) ..) h

theorem State.MemWf.drainDeliver {s : State} (h : s.MemWf) (k : Nat) : (s.drainDeliver k).MemWf :=
  .option h fun _ => .option h fun _ => .ite h <| .ite (State.MemWf.killCrew (by exact h) ..) h

theorem State.MemWf.drainEntry {s : State} (h : s.MemWf) (k : Nat) (e : Effect) : (s.drainEntry k e).MemWf := by
  delta State.drainEntry
  split
  · exact .ite h <| .except (fun _ => .ite h h) fun _ => (State.MemWf.onCrew ..).2 ((h.send ..).l1Drop ..)
  · exact h

theorem State.MemWf.commitEnd {s : State} (h : s.MemWf) (cr : Crew) : (s.commitEnd cr).MemWf :=
  .option (.foldl (fun _ _ h => h.drainDeliver ..)
    (by exact .foldl (by exact fun _ _ h => h) (State.MemWf.resolveVersions (by exact h) ..) _) _) fun _ =>
    State.MemWf.killNow (by exact .foldl (by exact fun _ _ h => h) (State.MemWf.resolveVersions (by exact h) ..) _) ..

theorem commit_memWf {s : State} (h : s.MemWf) (k : Nat) : (commit k s).MemWf :=
  .option h fun _ => .ite h <| .option (h.foldl (fun _ _ h => h.drainEntry ..) _) fun _ => .ite ((h.foldl (fun _ _ h =>
    h.drainEntry ..) _).commitEnd ..) <| h.foldl (fun _ _ h => h.drainEntry ..) _

theorem tbpub_memWf {s : State} (h : s.MemWf) (i : Info) (n : Nat) : Out.MemWf (tbpub i n s) :=
  issue_memWf h _ fun _ _ h => .ite h <| .ite trivial <| .ite trivial <| State.MemWf.quickOp (.ite h <|
    State.MemWf.tbPublish (by exact h) ..) ..

theorem tbrel_memWf {s : State} (h : s.MemWf) (i : Info) (n : Nat) : Out.MemWf (tbrel i n s) :=
  issue_memWf h _ fun _ _ h => .ite h <| .ite trivial <| .ite trivial <| (State.MemWf.tbRelease (by exact h) ..).quickOp ..

theorem tbstat_memWf {s : State} (h : s.MemWf) (i : Info) (d n pS : Nat) : Out.MemWf (tbstat i d n pS s) :=
  issue_memWf h _ fun _ _ h => .ite trivial h

theorem spchk_memWf {s : State} (h : s.MemWf) (i : Info) (d pS : Nat) : Out.MemWf (spchk i d pS s) :=
  issue_memWf h _ fun _ _ h => h

theorem spbar_memWf {s : State} (h : s.MemWf) (i : Info) : Out.MemWf (spbar i s) :=
  issue_memWf h _ fun _ _ h => .ite trivial <| State.MemWf.ite h h

end Sys2Proof.Machine
end

section
/-!
PROOF. Canonical memories (O60): launches, crews, contexts and migration.
-/

namespace Sys2Proof.Machine

-- A definition then unfolds to its bare case distinctions, which the rules of `ite`, `option`, `list` and `except` speak of.
set_option smartUnfolding false

/-! ### Machine/Launch -/

theorem State.MemWf.groupAdd {s : State} (h : s.MemWf) (level job id : Nat) (x : Int) : (s.groupAdd level job id x).MemWf :=
  .ite h h

theorem State.MemWf.groupsAdd {s : State} (h : s.MemWf) (r : LRec) (x : Int) : (s.groupsAdd r x).MemWf :=
  ((h.groupAdd ..).groupAdd ..).groupAdd ..

theorem State.MemWf.accept {s : State} (h : s.MemWf) (e : LRec × List Chan × List (Nat × Bool)) (host : Option (Nat × Nat))
    (parent : Parent) (system : Bool) (join : Nat) :
    (s.accept e host parent system join).1.MemWf :=
  State.MemWf.groupsAdd (by exact h) ..

theorem State.MemWf.refusal {s : State} (h : s.MemWf) (host : Option (Nat × Nat)) : (s.refusal host).MemWf :=
  .option h fun _ => h

theorem State.MemWf.contRun {s : State} (h : s.MemWf) (job addr : Nat) (system : Bool) (host : Option (Nat × Nat)) :
    (s.contRun job addr system host).MemWf := by
  delta State.contRun
  extract_lets x s'
  have hs : s'.MemWf := .getD (fun t ht => by
    obtain ⟨jd, -, rfl⟩ := Option.mem_map.mp ht
    exact h.meetVa ..) h
  exact .option (hs.refusal _) fun _ => hs.accept ..

theorem State.MemWf.parent {p : Parent} {s : State} {f g : Nat → State} (hs : s.MemWf) (hf : ∀ k, (f k).MemWf)
    (hg : ∀ k, (g k).MemWf) : State.MemWf (Parent.casesOn p s f g) := by
  cases p
  · exact hs
  · exact hf _
  · exact hg _

theorem State.MemWf.launchDone {s : State} (h : s.MemWf) (k : Nat) : (s.launchDone k).MemWf := by
  refine .option h fun l => ?_
  beta_reduce
  extract_lets s1 system s2 s3 s4 s5
  have h1 : s1.MemWf := .option h fun _ => .foldl (fun _ _ h => h.tbDrop ..) h _
  have h3 : s3.MemWf := .option h1 fun _ => h1
  have h4 : s4.MemWf := .parent h3 (fun _ => h3) fun _ => h3
  have h5 : s5.MemWf := h4.groupsAdd ..
  exact .ite h5 <| .ite (h5.contRun ..) h5

theorem State.MemWf.crewGone {s : State} (h : s.MemWf) (cr : Crew) : (s.crewGone cr).MemWf :=
  .option h fun _ => .ite h <| .ite (State.MemWf.launchDone (by exact .ite h <| State.MemWf.tbRetired (by exact h) ..) ..) <|
    .ite h <| State.MemWf.tbRetired (by exact h) ..

theorem State.MemWf.markRun {s : State} (h : s.MemWf) (jd : JobDesc) (run : Nat × Nat) (used : Bool) :
    (s.markRun jd run used).MemWf :=
  h.foldl (fun _ _ h => ((h.meet ..).slPost ..).writeBytes ..) _

theorem State.MemWf.freeFrames {s : State} (h : s.MemWf) (cr : Crew) : (s.freeFrames cr).MemWf :=
  h.foldl (fun _ _ h => h.markRun ..) _

theorem State.MemWf.crewRetire {s : State} (h : s.MemWf) (k : Nat) : (s.crewRetire k).MemWf :=
  .option h fun _ => State.MemWf.crewGone (by exact .frame <| h.freeFrames ..) ..

theorem cohortRetire_memWf {s : State} (h : s.MemWf) (k : Nat) : (cohortRetire k s).MemWf :=
  .option (.option h fun _ => .ite (h.crewRetire ..) h) fun _ => .ite h <|
    .ite (State.MemWf.crewRetire (by exact .frame <| h.foldl (by exact fun _ _ h => h) _) ..) <| .frame <|
    h.foldl (by exact fun _ _ h => h) _

theorem State.MemWf.tbCancelWrites {s : State} (h : s.MemWf) (l : Launch) : (s.tbCancelWrites l).MemWf :=
  .option h fun _ => h.foldl (fun _ _ h => .ite h <| .ite ((((h.tbSettle ..).onHome ..).tbState ..).tellStarters ..) <|
    (h.tbSettle ..).onHome ..) _

theorem State.MemWf.tearLaunch {s : State} (h : s.MemWf) (k : Nat) : (s.tearLaunch k).MemWf := by
  refine .option h fun l => .ite h ?_
  extract_lets s1 s2 s3 mine s4 s5 s6 s7 s8
  have h1 : s1.MemWf := h.markCancelled _
  have h2 : s2.MemWf := .ite (h1.squash _) <| h1.tbCancelWrites _
  have h3 : s3.MemWf := h2
  have h4 : s4.MemWf := .foldl (fun _ _ h => h.tearCrew ..) h3 _
  have h5 : s5.MemWf := h4
  have h6 : s6.MemWf := h5.resolveVersions _
  clear_value s6
  have h7 : s7.MemWf := .option h6 fun _ => .ite (.foldl (fun _ _ h => h.tbDrop ..) h6 _) h6
  have h8 : s8.MemWf := h7
  clear_value s8
  exact .ite (h8.launchDone _) h8

theorem cancelRun_memWf {s : State} (h : s.MemWf) (i : Info) (a : Nat) : Out.MemWf (cancelRun i a s) :=
  issue_memWf h _ fun _ _ h => .ite h <| .ite trivial <| .ite (State.MemWf.ite ((h.markCancelled ..).tearCrew ..) <|
    h.foldl (fun _ _ h => h.tearLaunch ..) _) <| State.MemWf.quickOp (.ite ((h.markCancelled ..).tearCrew ..) <|
    h.foldl (fun _ _ h => h.tearLaunch ..) _) ..

theorem State.MemWf.hostCancel {s : State} (h : s.MemWf) (job ring operand tag : Nat) :
    (s.hostCancel job ring operand tag).MemWf :=
  h.foldl (fun _ _ h => h.tearLaunch ..) _

theorem State.MemWf.recordRead {s : State} (h : s.MemWf) (c : Cohort) (a : Nat) : (s.recordRead c a).MemWf :=
  (h.replayed ..).meetVa ..

theorem State.MemWf.childOf {s : State} (h : s.MemWf) (k : Nat) : (s.childOf k).MemWf := h

theorem State.MemWf.recordAt {s : State} (h : s.MemWf) {c : Cohort} {a sub : Nat} {wait : Bool} {r : Res}
    (hr : s.recordAt c a sub wait = .res r) : r.MemWf := by
  delta State.recordAt at hr
  dsimp only at hr
  split at hr
  · cases hr
    trivial
  · split at hr
    · cases hr
      trivial
    · split at hr
      · cases hr
        trivial
      · split at hr
        · cases hr
          exact h.nack ..
        · split at hr <;> cases hr
          trivial

theorem spawnRun_memWf {s : State} (h : s.MemWf) (i : Info) (d a pS : Nat) : Out.MemWf (spawnRun i d a pS s) := by
  refine issue_memWf h i fun c s h => .ite trivial ?_
  split
  · next hr => exact h.recordAt hr
  · have h' := h.recordRead c a
    exact .option (h'.quickOp ..) fun _ => .ite (h'.quickOp ..) <| ((h'.accept ..).childOf ..).quickOp ..

theorem State.MemWf.unrequest {s : State} (h : s.MemWf) (r : StoreReq) : (s.unrequest r).MemWf := h

theorem State.MemWf.request {s : State} (h : s.MemWf) (r : StoreReq) : (s.request r).MemWf := .option h fun _ => h

theorem spawnwRun_memWf {s : State} (h : s.MemWf) (i : Info) (d a : Nat) : Out.MemWf (spawnwRun i d a s) := by
  refine issue_memWf h i fun c s h => .ite h <| .ite trivial ?_
  split
  · next hr => exact h.recordAt hr
  · have h' := h.recordRead c a
    exact .option ((h'.unrequest ..).quickOp ..) fun _ => .ite (h'.request ..) <|
      (((h'.accept ..).childOf ..).unrequest ..).quickOp ..

theorem State.MemWf.moveJoin {s : State} (h : s.MemWf) (k hd : Nat) : (s.moveJoin k hd).MemWf := .option h fun _ => h

theorem doneRun_memWf {s : State} (h : s.MemWf) (i : Info) (a : Nat) : Out.MemWf (doneRun i a s) := by
  refine issue_memWf h i fun c s h => .ite h <| .ite trivial <| .ite (State.MemWf.ite h h) ?_
  split
  · next hr => exact h.recordAt hr
  · have h' := h.recordRead c a
    exact .ite (h'.quickOp ..) <| .option ((State.MemWf.refusal (by exact h') ..).quickOp ..) fun _ => .ite (h'.request ..) <|
      (((h'.accept ..).unrequest ..).moveJoin ..).quickOp ..

/-! ### Machine/Place -/

theorem State.MemWf.freshText {s : State} (h : s.MemWf) (core job : Nat) (hd : Header) : (s.freshText core job hd).MemWf :=
  .ite h h

theorem State.MemWf.putCrew {s : State} (h : s.MemWf) (l : Launch) (jd : JobDesc) (core index : Nat) (hd : Header) (z : Seat) :
    (s.putCrew l jd core index hd z).MemWf :=
  State.MemWf.initSpad
    (by exact .frame <| State.MemWf.ite (((h.freshText ..).meetVa ..).flash ..) <| (h.freshText ..).meetVa ..) ..

theorem State.MemWf.placeHead {s : State} (h : s.MemWf) (k : Nat) : ∀ t ∈ s.placeHead k, t.MemWf := by
  intro t ht
  delta State.placeHead at ht
  (repeat' split at ht) <;> try cases ht
  · exact h
  · obtain ⟨p, -, rfl⟩ := Option.mem_map.mp ht
    exact h.tbBegin ..

theorem State.MemWf.placeOne {s : State} (h : s.MemWf) (k core index : Nat) : ∀ t ∈ s.placeOne k core index, t.MemWf := by
  intro t ht
  delta State.placeOne at ht
  split at ht
  · cases ht
  · next hp =>
    (repeat' split at ht) <;> try cases ht
    obtain ⟨z, -, rfl⟩ := Option.mem_map.mp ht
    exact (h.placeHead k _ hp).putCrew ..

theorem State.MemWf.placeAll {s : State} (h : s.MemWf) (k : Nat) (cores is : List Nat) :
    ∀ t ∈ State.placeAll k cores is s, t.MemWf := by
  induction is generalizing s with
  | nil => rintro t ⟨⟩; exact h
  | cons i is ih =>
    intro t ht
    unfold State.placeAll at ht
    split at ht
    · cases ht
    · next hp =>
      obtain ⟨core, -, ho⟩ := List.exists_of_findSome?_eq_some hp
      exact ih (h.placeOne k core i _ ho) t ht

theorem State.MemWf.takeTask {s : State} (h : s.MemWf) (core : Nat) (l : Launch) : (s.takeTask core l).MemWf :=
  .list h fun _ _ => .ite h h

theorem idleRequest_memWf {s : State} (h : s.MemWf) (core : Nat) : (idleRequest core s).MemWf := by
  delta idleRequest
  extract_lets want try_
  refine .ite h <| .getD (fun t ht => ?_) h
  obtain ⟨l, -, ht⟩ := List.exists_of_findSome?_eq_some ht
  simp only [try_] at ht
  (repeat' split at ht) <;> try cases ht
  · obtain ⟨u, hu, rfl⟩ := Option.mem_map.mp ht
    exact h.placeAll _ _ _ u hu
  · obtain ⟨u, -, rfl⟩ := Option.mem_map.mp ht
    exact h.takeTask ..

theorem crewPlacement_memWf {s : State} (h : s.MemWf) (core : Nat) : (crewPlacement core s).MemWf := by
  refine .option h fun x => .option h fun l => .ite h ?_
  split
  · exact h
  · next ho =>
    have h' := h.placeOne _ _ _ _ ho
    exact h'

theorem storeEntryGrant_memWf {s : State} (h : s.MemWf) : (storeEntryGrant s).MemWf := by
  delta storeEntryGrant
  refine .ite h <| ?_
  split
  · exact h
  · exact State.MemWf.contRun (by exact h) ..
  · exact h

theorem State.MemWf.meetRegs {s : State} (h : s.MemWf) (keys : List Nat) : (s.meetRegs keys).MemWf := h.meet ..

theorem State.MemWf.reslice {s : State} (h : s.MemWf) (cr : Crew) (g : Nat) : (s.reslice cr g).MemWf :=
  .frame <| State.MemWf.foldl (by exact fun _ _ h => h.foldl (by exact fun _ _ h => h) _) (h.meetRegs ..) _

theorem wreqGrant_memWf {s : State} (h : s.MemWf) (k : Nat) : (wreqGrant k s).MemWf := by
  refine .option h fun cr => .ite h <| .option h fun ⟨req, g⟩ => ?_
  dsimp -zeta only
  extract_lets done pass s1
  have hd : ∀ s, State.MemWf s → (done s).MemWf := fun _ h => h
  have hp : ∀ s, State.MemWf s → (pass s).MemWf := fun _ h => .frame <| h.rewrite _
  clear_value pass done
  exact .ite (hd _ (by exact hp _ h)) <| .ite (.foldl (fun _ _ h => h.takeFault ..) h _) <|
    .ite h <| .frame <| hd _ <| (hp _ h).reslice ..

/-! ### Machine/Context -/

theorem State.MemWf.swapJobs {s : State} (h : s.MemWf) (p : Nat) : (s.swapJobs p).MemWf := h

theorem State.MemWf.beginSwap {s : State} (h : s.MemWf) (p : Nat) : (s.beginSwap p).MemWf :=
  .ite h <| h.foldl (by exact fun _ _ h => h) _

theorem State.MemWf.heatStart {s : State} (h : s.MemWf) : s.heatStart.MemWf :=
  .foldl (fun _ _ h => h.beginSwap ..) (by exact h) _

theorem State.MemWf.heatWant {s : State} (h : s.MemWf) (ps : List Nat) : (s.heatWant ps).MemWf :=
  State.MemWf.heatStart (by exact h)

theorem haltRun_memWf {s : State} (h : s.MemWf) (i : Info) (d a : Nat) : Out.MemWf (haltRun i d a s) := by
  refine issue_memWf h i fun c s h => ?_
  extract_lets p set s1
  have hs : ∀ s x, State.MemWf s → (set s x).MemWf := fun _ _ h => h
  have h1 : s1.MemWf := h.beginSwap p
  clear_value s1 set
  generalize s.liveCores p = l
  refine .ite trivial <| .option (.ite (hs _ _ h) <| .ite (hs _ _ h) <| .ite (hs _ _ h) <| ?_) fun _ => .ite trivial (hs _ _ h)
  exact .ite (hs _ _ (h.swapJobs _)) <| (State.MemWf.onCohort ..).2 h1

theorem coreHalted_memWf {s : State} (h : s.MemWf) (core : Nat) : (coreHalted core s).MemWf := .ite h <| .ite h h

theorem State.MemWf.privAll {s : State} (h : s.MemWf) (k : Nat) : (s.privAll k).MemWf :=
  .frame <| h.privOut k fun _ => true

theorem State.MemWf.withPriv {s : State} (h : s.MemWf) {core : Nat} {ks : List Nat} {work : State → State}
    (hw : ∀ s, State.MemWf s → (work s).MemWf) : (s.withPriv core ks work).MemWf :=
  .option (hw _ (.foldl (fun _ _ h => h.privAll ..) (.foldl (fun _ _ h => h.replayed ..) h _) _)) fun _ => h.nack ..

theorem swapCore_memWf {s : State} (h : s.MemWf) (core : Nat) : (swapCore core s).MemWf :=
  .ite h <| h.withPriv fun _ h => ((State.MemWf.onCore ..).2 (by exact .frame <| h.meet ..)).heatStart

theorem longWaitSwapOut_memWf {s : State} (h : s.MemWf) (k : Nat) : (longWaitSwapOut k s).MemWf :=
  .option h fun _ => .option h fun _ => .frame <| (h.meet ..).markRun ..

theorem State.MemWf.bindBack {s : State} (h : s.MemWf) (core : Nat) (l : List (Nat × Nat × Tile)) : (s.bindBack core l).MemWf := by
  induction l generalizing s with
  | nil => exact h
  | cons e l ih => exact .option (ih h) fun _ => .option (ih h) fun _ => ih h

theorem crewReturn_memWf {s : State} (h : s.MemWf) (k : Nat) : (crewReturn k s).MemWf :=
  .option h fun _ => .option h fun _ => .ite h <|
    (State.MemWf.onCrew ..).2 ((State.MemWf.markRun (by exact h) ..).bindBack ..)

theorem State.MemWf.unparkSafe {s : State} (h : s.MemWf) (k : Nat) : (s.unparkSafe k).MemWf := h

theorem migrationRequest_memWf {s : State} (h : s.MemWf) (k core : Nat) : (migrationRequest k core s).MemWf :=
  .option h fun _ => .ite h h

theorem migrationWithdraw_memWf {s : State} (h : s.MemWf) (k : Nat) : (migrationWithdraw k s).MemWf := by
  delta migrationWithdraw
  split
  · exact h
  · exact h

theorem State.MemWf.beginSave {s : State} (h : s.MemWf) (cr : Crew) (core : Nat) (pts : List SafePt) (run : Nat × Nat) :
    (s.beginSave cr core pts run).MemWf :=
  (State.MemWf.onCrew ..).2 (by exact .frame <| h.markRun ..)

theorem saveStep_memWf {s : State} (h : s.MemWf) (k : Nat) : (saveStep k s).MemWf := by
  delta saveStep
  refine .option h fun cr => ?_
  beta_reduce
  split
  · refine .ite h <| .ite ((h.flushCrew ..).unparkSafe ..) <| .ite h <| .ite h ?_
    split
    · exact h.beginSave ..
    · exact h
  · exact h

theorem migrationRecord_memWf {s : State} (h : s.MemWf) (k : Nat) : (migrationRecord k s).MemWf := by
  delta migrationRecord
  refine .option h fun _ => ?_
  dsimp only
  split
  · refine .ite h <| ?_
    split
    · exact h.withPriv fun _ h => .frame <| (h.meet ..).copySpad ..
    · exact h
  · exact h

theorem restoreStep_memWf {s : State} (h : s.MemWf) (k core : Nat) : (restoreStep k core s).MemWf :=
  .option h fun _ => .ite h <| .option h fun _ => .frame <| State.MemWf.option h fun _ => State.MemWf.markRun (by exact h) ..

/-! ### Machine/System -/

theorem State.MemWf.partSet {s : State} (h : s.MemWf) (p x : Nat) : (s.partSet p x).MemWf := .ite h h

theorem State.MemWf.pjobSet {s : State} (h : s.MemWf) (n x : Nat) : (s.pjobSet n x).MemWf := .ite h h

theorem State.MemWf.parkAnswered {s : State} (h : s.MemWf) (k : Nat) : (s.parkAnswered k).MemWf :=
  .option h fun _ => .ite h <| .ite (h.rejectPark ..) h

theorem State.MemWf.drainAnswered {s : State} (h : s.MemWf) (c : Cohort) (pos : Nat) (reject : Bool) :
    (s.drainAnswered c pos reject).MemWf :=
  .ite h <| .option h fun _ => h

theorem State.MemWf.freply {s : State} (h : s.MemWf) (core x : Nat) : (s.freply core x).MemWf :=
  .option (.option (.option h fun _ => .ite (h.endBatch ..) h) fun _ => h.drainAnswered ..) fun _ => State.MemWf.parkAnswered
    (by exact h) ..

theorem State.MemWf.cfgSet {s : State} (h : s.MemWf) (idx core item x0 : Nat) : (s.cfgSet idx core item x0).MemWf :=
  .ite (h.freply ..) <| .ite h <| .ite h <| .ite h <| .ite h <| .ite h <| .ite h <| .ite h <| .ite h <| .ite (.ite h <|
    h.carveSet ..) <| .ite (h.partSet ..) <| .ite (h.pjobSet ..) <| .ite h <| .ite h <| .ite h h

theorem crd_memWf {s : State} (h : s.MemWf) (i : Info) (d a idx : Nat) : Out.MemWf (crd i d a idx s) :=
  issue_memWf h _ fun _ _ h => .ite trivial <| .ite trivial h

theorem cwr_memWf {s : State} (h : s.MemWf) (i : Info) (d a idx : Nat) : Out.MemWf (cwr i d a idx s) :=
  issue_memWf h _ fun _ _ h => .ite trivial <| .ite trivial <| .option h fun _ => h.cfgSet ..

theorem tlbinv_memWf {s : State} (h : s.MemWf) (i : Info) (mode a : Nat) : Out.MemWf (tlbinv i mode a s) := by
  refine issue_memWf h i fun c s h => .ite trivial <| .option ?_ fun _ => .ite h trivial
  dsimp only
  split
  · exact h
  · exact h

theorem slsync_memWf {s : State} (h : s.MemWf) (i : Info) (d a : Nat) : Out.MemWf (slsync i d a s) :=
  issue_memWf h _ fun _ _ h => .ite trivial <| .option (.ite h <|
    .ite trivial h) fun _ => (State.MemWf.onCohort ..).2 (h.syncEnd ..)

end Sys2Proof.Machine
end

section
/-!
PROOF. Canonical memories (O60): fields, rays, images, draws and collectives.
-/

namespace Sys2Proof.Machine

-- A definition then unfolds to its bare case distinctions, which the rules of `ite`, `option`, `list` and `except` speak of.
set_option smartUnfolding false

/-! ### Machine/Fields -/

theorem State.MemWf.startRays {s : State} (h : s.MemWf) (c : Cohort) (cr : Crew) (i : Info) (u : RayUnit) (d n : Nat)
    (ray : Thread → Nat → Ray) :
    (s.startRays c cr i u d n ray).MemWf :=
  .ite trivial <| .ite trivial h

theorem State.MemWf.fillBricks {s : State} (h : s.MemWf) (core : Nat) (l : Bricks) : (s.fillBricks core l).MemWf :=
  h.foldl (fun _ _ h => .ite h <| h.brickFill ..) _

theorem State.MemWf.readDone {s : State} (h : s.MemWf) (cr : Crew) (r : Reads) : (s.readDone cr r).MemWf :=
  State.MemWf.fillBricks (.ite (h.useTlb ..) <| .foldl (fun _ _ h => h.meetCrew ..) (.foldl (fun _ _ h => h.meetVa ..)
    (h.useTlb ..) _) _) ..

theorem State.MemWf.reads {s : State} (h : s.MemWf) {c : Cohort} {cr : Crew} {r : Reads} {work : State → Res}
    (hw : ∀ s, State.MemWf s → (work s).MemWf) : (s.reads c cr r work).MemWf :=
  h.reaches fun _ h => hw _ (h.readDone ..)

theorem march_memWf {s : State} (h : s.MemWf) (i : Info) (d a b : Nat) (sp : Bool) (mode : Nat) :
    Out.MemWf (march i d a b sp mode s) :=
  issue_memWf h _ fun _ _ h => .ite trivial <| .ite trivial <| .ite trivial <| .ite trivial <| .ite trivial <|
    h.reads fun _ h => h.startRays ..

theorem resume_memWf {s : State} (h : s.MemWf) (i : Info) (u : RayUnit) (d n : Nat) (reply : Thread → Word × Word) :
    Out.MemWf (resume i u d n reply s) :=
  issue_memWf h _ fun _ _ h => .ite trivial h

theorem State.MemWf.marchReport {s : State} (h : s.MemWf) (cohort crew det ipc : Nat) :
    (s.marchReport cohort crew det ipc).MemWf :=
  .ite h h

theorem fprep_memWf {s : State} (h : s.MemWf) (i : Info) (d a b : Nat) : Out.MemWf (fprep i d a b s) := by
  refine issue_memWf h i fun c s h => .ite trivial <| .ite trivial <| .ite trivial <| .ite trivial <| .ite trivial ?_
  extract_lets fin rec_ stop inst write s1
  have h1 : s1.MemWf := h.meetCrew ..
  have hstop : ∀ s e, State.MemWf s → (stop s e).MemWf := fun _ _ h => State.MemWf.frame <| h.marchReport ..
  have hwrite : ∀ s code, State.MemWf s → (write s code).MemWf := fun _ _ h => h.engSpad ..
  exact .ite (hstop _ _ h1) <| .option (State.MemWf.frame <| State.MemWf.ite (hwrite _ _ h1) h1) fun _ =>
    h1.reads fun s h => .except (fun _ => hstop _ _ h) fun _ => hwrite _ _ h

theorem bfetch_memWf {s : State} (h : s.MemWf) (i : Info) (d a b : Nat) : Out.MemWf (bfetch i d a b s) := by
  refine issue_memWf h i fun c s h => ?_
  extract_lets cr x
  refine .ite trivial <| .ite trivial ?_
  split
  exact h.reads fun s h => (h.foldl (fun _ _ h => h.marchReport ..) _).quickOp ..

/-! ### Machine/Trace -/

theorem trace_memWf {s : State} (h : s.MemWf) (i : Info) (d a b : Nat) : Out.MemWf (trace i d a b s) :=
  issue_memWf h _ fun _ _ h => .ite trivial <| .ite trivial <| h.reads fun _ h => h.startRays ..

theorem State.MemWf.unitReads {s : State} (h : s.MemWf) {cr : Crew} {who : Nat} {r : Reads} {work : State → State}
    (hw : ∀ s, State.MemWf s → (work s).MemWf) : (s.unitReads cr who r work).MemWf :=
  .ite (h.startWalks ..) <| h.atHomes fun _ h => hw _ (h.readDone ..)

theorem rayEnd_memWf {s : State} (h : s.MemWf) (k tid unit : Nat) : (rayEnd k tid unit s).MemWf := by
  delta rayEnd
  extract_lets u
  clear_value u
  refine .option h fun x => .ite h ?_
  extract_lets co fin rest e1 e2
  have hfin : ∀ s words det steps keep, State.MemWf s → (fin s words det steps keep).MemWf := fun s _ _ _ _ h => by
    subst fin
    cases co with
    | none => exact State.MemWf.countPm (by exact h) ..
    | some c => exact State.MemWf.countPm (State.MemWf.marchReport (by exact h) ..) ..
  clear_value rest e1 e2 fin
  cases u
  · exact h.unitReads fun s h => hfin _ _ _ _ _ h
  · exact h.unitReads fun s h => hfin _ _ _ _ _ h

theorem texOp_memWf {s : State} (h : s.MemWf) (i : Info) (sub d a b n : Nat)
    (lane : Cohort → State → Nat → Except Bad (Option Img) → List Nat → (List Nat × Nat × Bool) × Reads) :
    Out.MemWf (texOp i sub d a b n s lane) :=
  issue_memWf h _ fun _ _ h => .ite trivial <| .ite trivial <|
    h.reads fun _ h => State.MemWf.quickOp (.foldl (fun _ _ h => h.marchReport ..) (by exact h) _) ..

theorem tex_memWf {s : State} (h : s.MemWf) (i : Info) (d a b : Nat) : Out.MemWf (tex i d a b s) := texOp_memWf h ..

theorem texq_memWf {s : State} (h : s.MemWf) (i : Info) (d a b : Nat) : Out.MemWf (texq i d a b s) := texOp_memWf h ..

/-! ### Machine/Raster -/

theorem State.MemWf.visMin {s : State} (h : s.MemWf) (k : Nat) (jd : JobDesc) (va x : Nat) : ∀ t ∈ s.visMin k jd va x, t.MemWf := by
  intro t ht
  delta State.visMin at ht
  split at ht <;> cases ht
  exact .ite ((h.slPost ..).meet ..) (((h.slPost ..).meet ..).writeNat ..)

theorem State.MemWf.visWrites {s : State} (h : s.MemWf) (k : Nat) (jd : JobDesc) (l : List (Nat × Nat)) :
    (State.visWrites k jd l s).1.MemWf := by
  induction l generalizing s with
  | nil => exact h
  | cons w ws ih =>
    unfold State.visWrites
    split
    · exact h
    · next hs => exact ih (h.visMin _ _ _ _ _ hs)

theorem State.MemWf.meetTri {s : State} (h : s.MemWf) (k : Nat) (jd : JobDesc) (r : DRec) (i : Nat) :
    (s.meetTri k jd r i).MemWf := by
  refine .ite h ?_
  extract_lets s1
  have h1 : s1.MemWf := h.meetVa ..
  clear_value s1
  cases s1.rasterRead k jd (r.idx + 12 * i) 12 with
  | none => exact h1
  | some x => exact h1.foldl (fun _ _ h => h.meetVa ..) _

theorem DrawRun.memWf_flush {d : DrawRun} (h : d.s.MemWf) (k : Nat) (jd : JobDesc) (r : DRec) : (d.flush k jd r).s.MemWf :=
  h.visWrites ..

theorem DrawRun.memWf_append {d : DrawRun} (h : d.s.MemWf) (k : Nat) (jd : JobDesc) (r : DRec) (e : Entry) :
    (d.append k jd r e).s.MemWf := by
  unfold DrawRun.append
  split
  · exact h
  · extract_lets f d' w src s1
    have h' : d'.s.MemWf := by
      simp only [d']
      split
      · exact DrawRun.memWf_flush h k jd r
      · exact h
    have h1 : s1.MemWf := h'
    clear_value s1 src w d'
    split
    · exact h'
    · split
      · exact h'
      · exact (h1.slPost ..).writeNat ..

theorem DrawRun.memWf_appends {d : DrawRun} (h : d.s.MemWf) (k : Nat) (jd : JobDesc) (r : DRec) (i : Nat) (t : Tri)
    (l : List (Nat × Nat)) :
    (l.foldl (fun (d : DrawRun) e => d.append k jd r { tx := e.1, ty := e.2, n := i, tri := t }) d).s.MemWf := by
  induction l generalizing d with
  | nil => exact h
  | cons e l ih => exact ih (DrawRun.memWf_append h ..)

theorem drawTris_memWf (k : Nat) (jd : JobDesc) (r : DRec) (n i : Nat) {d : DrawRun} (h : d.s.MemWf) :
    (drawTris k jd r n i d).s.MemWf := by
  induction n generalizing i d with
  | zero => exact h
  | succ n ih =>
    unfold drawTris
    split
    · exact h
    · extract_lets d'
      have h' : d'.s.MemWf := h.meetTri ..
      clear_value d'
      split
      · exact h'
      · exact ih _ h'
      · exact ih _ (DrawRun.memWf_appends h' ..)

theorem drawTake_memWf {s : State} (h : s.MemWf) (k : Nat) : (drawTake k s).MemWf := by
  delta drawTake
  split
  · exact h
  · extract_lets n
    split
    · exact h
    · next p _ =>
      split
      · exact h
      · next jd _ =>
        refine h.atHomes fun s h => ?_
        extract_lets +onlyGivenNames s1 z
        have hz : z.2.MemWf := ((h.meet _).slPost ..).ringPop _
        clear_value z
        have h2 : State.MemWf { z.2 with rasterNext := Tab.put 0 z.2.rasterNext k ((p + 1) % 8) } := hz
        revert h2
        generalize ({ z.2 with rasterNext := Tab.put 0 z.2.rasterNext k ((p + 1) % 8) } : State) = s2
        intro h2
        extract_lets +onlyGivenNames s2' fin s3
        have hfin : ∀ s a b, State.MemWf s → (fin s a b).MemWf := fun s _ _ h => h
        have h3 : s3.MemWf := h2.meetVa ..
        clear_value fin s3
        cases s3.rasterRead k jd z.1 128 with
        | none => exact hfin _ _ _ h3
        | some x =>
          dsimp -zeta only
          cases drecOf x with
          | none => exact hfin _ _ _ h3
          | some r =>
            dsimp -zeta only
            extract_lets d d'
            have hd : d.s.MemWf := drawTris_memWf k jd r r.ntri 0 h3
            have hd' : d'.s.MemWf := by
              simp only [d']
              split
              · exact DrawRun.memWf_flush hd _ _ _
              · exact hd
            exact hfin _ _ _ hd'

theorem State.MemWf.drawWrite {s : State} (h : s.MemWf) (k : Nat) (jd : JobDesc) (va x : Nat) : (s.drawWrite k jd va x).MemWf :=
  .except (fun _ => h) fun _ => ((h.slPost ..).meet ..).writeNat ..

theorem State.MemWf.drawAdd {s : State} (h : s.MemWf) (k : Nat) (jd : JobDesc) (va x : Nat) : (s.drawAdd k jd va x).MemWf := by
  generalize hf : State.drawAdd = f -- keeps the kernel from evaluating the read that the definition matches on
  delta State.drawAdd at hf
  subst hf
  beta_reduce
  generalize s.rasterRead k jd va 4 = o
  cases o with
  | none => exact h
  | some n => exact h.drawWrite ..

theorem drawEnd_memWf {s : State} (h : s.MemWf) (k : Nat) : (drawEnd k s).MemWf :=
  .option h fun _ => h.atHomes fun _ h => .ite (State.MemWf.drawWrite (by exact h) ..) <|
    ((State.MemWf.drawWrite (by exact h) ..).drawAdd ..).drawAdd ..

/-! ### Machine/Collectives -/

theorem State.MemWf.collMeet {s : State} (h : s.MemWf) (cr : Crew) (rs : List (Nat × Nat)) : (s.collMeet cr rs).MemWf :=
  .ite h <| h.foldl (fun _ _ h => h.meetVa ..) _

theorem State.MemWf.commWrite {s : State} (h : s.MemWf) (cr : Crew) (x : Coll) (va v : Nat) : (s.commWrite cr x va v).MemWf :=
  .except (fun _ => h) fun _ => (State.MemWf.writeNat (by exact h) ..).l1Drop ..

theorem State.MemWf.linkErr {s : State} (h : s.MemWf) (pa k : Nat) : (s.linkErr pa k).MemWf :=
  ((h.meet ..).slPost ..).writeNat ..

theorem State.MemWf.commKnown {s : State} (h : s.MemWf) (cr : Crew) (x : Coll) : (s.commKnown cr x).MemWf :=
  .except (fun _ => h) fun _ => h

theorem State.MemWf.collReport {s : State} (h : s.MemWf) (x : Coll) (detail : Nat) : (s.collReport x detail).MemWf := by
  delta State.collReport
  split
  · exact h
  · exact h

theorem State.MemWf.collEnd {s : State} (h : s.MemWf) (x : Coll) : (s.collEnd x).MemWf := h

theorem State.MemWf.sendPart {s : State} (h : s.MemWf) (x : Coll) (j : Nat) (p : PeerPart) : (s.sendPart x j p).MemWf :=
  .option h fun _ => .ite h <| .ite h <| .ite h h

theorem State.MemWf.collSend {s : State} (h : s.MemWf) (cr : Crew) (x : Coll) : (s.collSend cr x).MemWf := by
  refine .ite h ?_
  extract_lets them part fail bad p bytes s1 s2 s3 s4
  have h2 : s2.MemWf := .foldl (fun _ _ h => h.sendPart ..) (h.collMeet ..) _
  have h3 : s3.MemWf := .ite (h2.collReport ..) h2
  exact .frame <| State.MemWf.ite h3 <| .frame <| h3.collReport ..

theorem State.MemWf.collWrite {s t : State} (h : s.MemWf) {cr : Crew} {x : Coll} {bs : List (Nat × Byte × Bool)}
    (ht : s.collWrite cr x bs = .ok t) : t.MemWf := by
  delta State.collWrite at ht
  dsimp only at ht
  split at ht <;> cases ht
  exact .frame <| State.MemWf.engWrite (by exact h) ..

theorem State.MemWf.collFinish {s : State} (h : s.MemWf) (cr : Crew) (x : Coll) (ps : List PeerPart) :
    (s.collFinish cr x ps).MemWf := by
  refine .ite h <| .ite (.frame <| State.MemWf.collReport (by exact h) ..) <| .ite h ?_
  split
  · next ht =>
    have ht' := State.MemWf.collWrite (by exact h) ht
    exact ht'
  · exact .frame <| State.MemWf.collReport (by exact h) ..

theorem State.MemWf.collGone {s : State} (h : s.MemWf) (x : Coll) : (s.collGone x).MemWf :=
  .option (.ite (State.MemWf.collEnd (by exact .ite (State.MemWf.collReport (by exact h) ..) h) ..) h) fun _ =>
    State.MemWf.collEnd (by exact .ite (State.MemWf.collReport (by exact h) ..) h) ..

theorem collectiveComplete_memWf {s : State} (h : s.MemWf) (n : Nat) : (collectiveComplete n s).MemWf :=
  .option h fun _ => .option (.ite (h.collGone ..) h) fun _ => .ite h <|
    h.atHomes fun _ h => .option (h.collSend ..) fun _ => .option (.ite ((h.collSend ..).collFinish ..) <|
    h.collSend ..) fun _ => (h.collSend ..).collFinish ..

theorem State.MemWf.pathFails {s : State} (h : s.MemWf) (f : CommPeer → Bool) (k : Nat) : (s.pathFails f k).MemWf :=
  .foldl (by exact fun _ _ h => h) (h.foldl (fun _ _ h => h.linkErr ..) _) _

theorem queuePairFatalError_memWf {s : State} (h : s.MemWf) (port qp : Nat) : (queuePairFatalError port qp s).MemWf :=
  .ite h <| State.MemWf.pathFails (by exact h) ..

theorem onDiePathFailure_memWf {s : State} (h : s.MemWf) (n : Nat) : (onDiePathFailure n s).MemWf := by
  delta onDiePathFailure
  refine .option h fun _ => ?_
  dsimp only
  split
  · exact .ite h <| .foldl (by exact fun _ _ h => h) (h.linkErr ..) _
  · exact h

theorem congestionNotification_memWf {s : State} (h : s.MemWf) (port qp : Nat) : (congestionNotification port qp s).MemWf := h

theorem State.MemWf.linkErrs {s : State} (h : s.MemWf) (cr : Crew) (x : Coll) : (s.linkErrs cr x).MemWf := by
  delta State.linkErrs
  split
  · exact h.foldl (fun _ _ h => h.linkErr ..) _
  · exact h

theorem State.MemWf.seqUp {s : State} (h : s.MemWf) (cr : Crew) (x : Coll) : (s.seqUp cr x).MemWf := by
  refine .ite h ?_
  split
  · exact h.commWrite ..
  · exact h

theorem State.MemWf.collAccept {s : State} (h : s.MemWf) (cr : Crew) (x : Coll) : (s.collAccept cr x).MemWf := by
  delta State.collAccept
  extract_lets s1 s2 s3
  have h1 : s1.MemWf := h.seqUp ..
  have h3 : s3.MemWf := .frame <| State.MemWf.ite h1 <| (h1.linkErrs ..).commKnown ..
  exact .ite h3 <| .ite h3 <| .ite (.frame <| h3.collSend ..) h3

theorem coll_memWf {s : State} (h : s.MemWf) (i : Info) (kind d a b fl : Nat) : Out.MemWf (coll i kind d a b fl s) :=
  issue_memWf h _ fun _ _ h => .ite trivial <| .option (.ite trivial <| .ite trivial <|
    h.reaches fun _ h => State.MemWf.collAccept (by exact .frame <| h.collMeet ..) ..) fun _ => trivial

/-! ### Machine/FloatOps -/

theorem fbin_memWf {s : State} (h : s.MemWf) (i : Info) (d a : Nat) (b : VSrc) (f : Nat → Nat → FRes) :
    Out.MemWf (fbin i d a b s f) :=
  floatOp_memWf h ..

theorem ftri_memWf {s : State} (h : s.MemWf) (i : Info) (d a : Nat) (b : VSrc) (f : Nat → Nat → Nat → FRes) :
    Out.MemWf (ftri i d a b s f) :=
  floatOp_memWf h ..

theorem fun1_memWf {s : State} (h : s.MemWf) (i : Info) (d a : Nat) (f : Nat → FRes) : Out.MemWf (fun1 i d a s f) :=
  floatOp_memWf h ..

theorem fbin2_memWf {s : State} (h : s.MemWf) (i : Info) (d a : Nat) (b : VSrc) (f : Nat → Nat → FRes) :
    Out.MemWf (fbin2 i d a b s f) :=
  fbin_memWf h ..

theorem ftri2_memWf {s : State} (h : s.MemWf) (i : Info) (d a : Nat) (b : VSrc) (f : Nat → Nat → Nat → FRes) :
    Out.MemWf (ftri2 i d a b s f) :=
  ftri_memWf h ..

theorem fun2_memWf {s : State} (h : s.MemWf) (i : Info) (d a : Nat) (f : Nat → FRes) : Out.MemWf (fun2 i d a s f) :=
  fun1_memWf h ..

theorem fcmp_memWf {s : State} (h : s.MemWf) (i : Info) (cc : FCond) (d a : Nat) (b : VSrc) : Out.MemWf (fcmp i cc d a b s) :=
  issue_memWf h _ fun _ _ h => h

theorem sfu_memWf {s : State} (h : s.MemWf) (i : Info) (d : Nat) (f : Cohort → Thread → FRes) : Out.MemWf (sfu i d s f) :=
  issue_memWf h _ fun _ _ h => h

theorem sfu1_memWf {s : State} (h : s.MemWf) (i : Info) (d a : Nat) (f : Nat → FRes) : Out.MemWf (sfu1 i d a s f) :=
  sfu_memWf h ..

theorem f64_memWf {s : State} (h : s.MemWf) (i : Info) (fn d a b : Nat) : Out.MemWf (f64 i fn d a b s) :=
  issue_memWf h _ fun _ _ h => .ite trivial h

theorem emulationReturn_memWf {s : State} (h : s.MemWf) (k : Nat) (decline : Bool) : (emulationReturn k decline s).MemWf :=
  .option h fun _ => .ite h <| .ite (State.MemWf.takeFault (by exact h) ..) <|
    (State.MemWf.onCohort ..).2 ((h.meet ..).rewrite ..)

end Sys2Proof.Machine
end

section
/-!
PROOF. Canonical memories (O60): hosts, firmware, the sequencer and the vector groups.
-/

namespace Sys2Proof.Machine

-- A definition then unfolds to its bare case distinctions, which the rules of `ite`, `option`, `list` and `except` speak of.
set_option smartUnfolding false

/-! ### Machine/Host -/

theorem State.MemWf.inDone {s : State} (h : s.MemWf) (n : Nat) : (s.inDone n).MemWf := h

theorem State.MemWf.tell {s : State} (h : s.MemWf) (m : HostOut) : (s.tell m).MemWf := h

theorem State.MemWf.rdmaPart {s : State} (h : s.MemWf) (p : Nat × List Byte) : (s.rdmaPart p).MemWf :=
  .frame <| (h.writeBytes ..).slPost ..

theorem rdmaWrite_memWf {s : State} (h : s.MemWf) (n part : Nat) : (rdmaWrite n part s).MemWf := by
  delta rdmaWrite
  split
  · exact .ite h <| .ite h <| .option h fun _ => .ite h <|
      h.atHomes fun _ h => .ite ((State.MemWf.inDone (by exact .frame <| (h.rdmaPart ..).meet ..) ..).tell ..) <| .frame <|
      h.rdmaPart ..
  · exact h

theorem rdmaRead_memWf {s : State} (h : s.MemWf) (n : Nat) : (rdmaRead n s).MemWf := by
  delta rdmaRead
  split
  · exact .ite h <| .ite (h.atHomes fun _ h => (State.MemWf.meet (by exact h) ..).tell ..) h
  · exact h

theorem State.MemWf.onRing {s : State} (h : s.MemWf) (n : Nat) (f : Ring → Ring) : (s.onRing n f).MemWf := h

theorem ringKick_memWf {s : State} (h : s.MemWf) (n : Nat) : (ringKick n s).MemWf :=
  .option h fun _ => .ite h <| .ite ((h.meet ..).onRing ..) <| .ite (((h.meet ..).onRing ..).onRing ..) <|
    ((h.meet ..).onRing ..).onRing ..

theorem resetKick_memWf {s : State} (h : s.MemWf) (n : Nat) : (resetKick n s).MemWf :=
  .option h fun _ => .ite h <| ((h.meet ..).unrequest ..).onRing ..

theorem State.MemWf.frontRead {s : State} (h : s.MemWf) (r : Ring) : (s.frontRead r).MemWf := h.meet ..

theorem launchPacket_memWf {s : State} (h : s.MemWf) (n : Nat) : (launchPacket n s).MemWf :=
  .option h fun _ => .option (.ite h h) fun _ => .ite h <|
    .option (((h.frontRead ..).unrequest ..).onRing ..) fun _ => .ite ((h.frontRead ..).request ..) <|
    (((h.frontRead ..).unrequest ..).accept ..).onRing ..

theorem cancelPacket_memWf {s : State} (h : s.MemWf) (n : Nat) : (cancelPacket n s).MemWf :=
  .option h fun _ => .option h fun _ => .ite h <| .ite ((h.frontRead ..).onRing ..) <|
    ((h.frontRead ..).onRing ..).hostCancel ..

theorem packetReread_memWf {s : State} (h : s.MemWf) (n : Nat) : (packetReread n s).MemWf :=
  .option h fun _ => .option h fun _ => .ite h <| .ite ((h.frontRead ..).onRing ..) <| (h.frontRead ..).onRing ..

theorem completionRecord_memWf {s : State} (h : s.MemWf) (n : Nat) : (completionRecord n s).MemWf :=
  .option h fun _ => .list h fun _ _ => .ite h h

theorem connectionOpen_memWf {s : State} (h : s.MemWf) (n : Nat) : (connectionOpen n s).MemWf := by
  delta connectionOpen
  split
  · exact .ite h <| .option h fun _ => (State.MemWf.inDone (by exact .frame <| h.meet ..) ..).tell ..
  · exact h

theorem State.MemWf.fwConfig {s : State} (h : s.MemWf) (w : Nat × Nat × Nat) : (s.fwConfig w).MemWf :=
  .option h fun _ => .ite (h.cfgSet ..) h

theorem State.MemWf.fwSync {s : State} (h : s.MemWf) (d : Nat) : (s.fwSync d).MemWf :=
  .ite h <| State.MemWf.syncEnd (by exact h) ..

theorem State.MemWf.bootWith {s : State} (h : s.MemWf) (img : List Byte) : (s.bootWith img).MemWf :=
  .ite h <| .frame <| State.MemWf.foldl (by exact fun _ _ h => h.fwSync ..) (.foldl (by exact fun _ _ h => h.fwConfig ..)
    (by exact h) _) _

theorem State.MemWf.powerOn (s : State) (on : Bool) : (s.powerOn on).MemWf := State.MemWf.reset

theorem powerOnReset_memWf (s : State) : (powerOnReset s).MemWf := (State.MemWf.powerOn s true).bootWith ..

theorem clusterRelease_memWf {s : State} (h : s.MemWf) : (clusterRelease s).MemWf := by
  delta clusterRelease
  extract_lets c s1
  have h1 : s1.MemWf := h.foldl (by exact fun _ _ h => h) _
  clear_value s1
  exact .ite h h1

theorem recoveryImage_memWf {s : State} (h : s.MemWf) (n : Nat) : (recoveryImage n s).MemWf := by
  delta recoveryImage
  split
  · exact .ite (State.MemWf.bootWith (by exact h) ..) h
  · exact h

theorem attestationRequest_memWf {s : State} (h : s.MemWf) (n : Nat) : (attestationRequest n s).MemWf := by
  delta attestationRequest
  split
  · exact .ite h h
  · exact h

theorem thermalChange_memWf {s : State} (h : s.MemWf) (die inlet : Int) : (thermalChange die inlet s).MemWf := by
  delta thermalChange
  refine .ite (.ite (State.MemWf.powerOn ..) h) <| .ite h <| ?_
  split
  · exact State.MemWf.powerOn ..
  · exact State.MemWf.heatWant (by exact h) ..
  · exact State.MemWf.heatWant (by exact h) ..

theorem State.MemWf.fwLaunch {s : State} (h : s.MemWf) (lrec : Nat) : (s.fwLaunch lrec).MemWf :=
  .option h fun _ => .ite (h.accept ..) h

theorem State.MemWf.fwAnswer {s : State} (h : s.MemWf) (n : Nat) : (s.fwAnswer n).MemWf := by
  delta State.fwAnswer
  split
  · exact h
  · exact h
  · exact h

theorem State.MemWf.fwStop {s : State} (h : s.MemWf) (p : Nat) : (s.fwStop p).MemWf := by
  have h1 := h.beginSwap p
  delta State.fwStop
  generalize s.beginSwap p = t at h1
  split
  · exact h
  · exact h1

theorem State.MemWf.fwStore {s : State} (h : s.MemWf) (a : Nat) (bs : List Byte) : (s.fwStore a bs).MemWf :=
  h.foldl (by exact fun _ _ h => h) _

theorem State.MemWf.act {s : State} (h : s.MemWf) (f : Firmware) : (s.act f).MemWf := by
  delta State.act
  refine .ite h <| ?_
  split
  · exact State.MemWf.fwLaunch (by exact h) ..
  · exact State.MemWf.fwConfig (by exact h) ..
  · exact .ite (State.MemWf.fwSync (by exact h) ..) h
  · exact .ite h h
  · exact State.MemWf.fwStop (by exact h) ..
  · exact State.MemWf.fwStore (by exact h) ..
  · exact .ite h h
  · exact .ite h h
  · exact h
  · exact State.MemWf.fwAnswer (by exact h) ..

/-! ### Machine/Pred -/

theorem pred2_memWf {s : State} (h : s.MemWf) (i : Info) (d a b : Nat) (f : Bool → Bool → Bool) :
    Out.MemWf (pred2 i d a b s f) :=
  predOp_memWf h ..

/-! ### Machine/ScalarInt -/

theorem salu_memWf {s : State} (h : s.MemWf) (i : Info) (d : Nat) (a b : SSrc) (f : Dword → Dword → Dword) :
    Out.MemWf (salu i d a b s f) :=
  scalarOp_memWf h ..

theorem salui_memWf {s : State} (h : s.MemWf) (i : Info) (d a : Nat) (f : Dword → Dword) : Out.MemWf (salui i d a s f) :=
  scalarOp_memWf h ..

theorem scmp_memWf {s : State} (h : s.MemWf) (i : Info) (cc : Cond) (d : Nat) (a b : SSrc) : Out.MemWf (scmp i cc d a b s) :=
  perCohort_memWf h ..

/-! ### Machine/Sequencer -/

theorem runStart_memWf {s : State} (h : s.MemWf) (core sub port : Nat) : (runStart core sub port s).MemWf :=
  .ite h <| .option (h.foldl (by exact fun _ _ h => h) _) fun _ => (State.MemWf.onCohort ..).2
    (by exact .frame <| h.foldl (by exact fun _ _ h => h) _)

theorem State.MemWf.fetchFault {s : State} (h : s.MemWf) (c : Cohort) (pc at_ code detail info : Nat) :
    (s.fetchFault c pc at_ code detail info).MemWf :=
  h.takeFault ..

theorem State.MemWf.beginClause {s : State} (h : s.MemWf) (k : Nat) (c : Cohort) (cr : Crew) (pc : Nat) :
    (s.beginClause k c cr pc).MemWf :=
  .option (.option (.ite h <| (State.MemWf.onCohort ..).2 (.ite h <|
    h.countPm ..)) fun _ => h.fetchFault ..) fun _ => h.fetchFault ..

theorem State.MemWf.parkSafe {s : State} (h : s.MemWf) (c : Cohort) (cr : Crew) (pc : Nat) : ∀ t ∈ s.parkSafe c cr pc, t.MemWf := by
  delta State.parkSafe
  intro t ht
  cases (Option.ite_none_right_eq_some.1 ht).2
  exact h

theorem clauseIssue_memWf {s : State} (h : s.MemWf) (core sub port : Nat) : (clauseIssue core sub port s).MemWf := by
  refine .option h fun c0 => .ite h ?_
  extract_lets c s1 cr
  have h1 : s1.MemWf := h
  clear_value s1 cr c
  refine .ite h1 <| .ite (.frame <| h1.deliverReport ..) <| .option h1 fun pc => ?_
  beta_reduce
  split
  · next t hp =>
    have ht : t.MemWf := h1.parkSafe _ _ _ _ hp
    exact ht
  · exact .option (h1.beginClause ..) fun _ => .frame <| State.MemWf.countPm (by exact h1) core sub 4 1 0

theorem icacheFill_memWf {s : State} (h : s.MemWf) (core sub port : Nat) : (icacheFill core sub port s).MemWf := by
  refine .option h fun e => .option h fun c => .ite (h.startWalks ..) <| h.atHomes fun s h => ?_
  extract_lets s1
  split
  · next ht => exact State.MemWf.ifill (s := s1) h ht
  · exact State.MemWf.fetchFault (s := s1) h ..

/-! ### Machine/VectorInt -/

theorem valu_memWf {s : State} (h : s.MemWf) (i : Info) (d a : Nat) (b : VSrc) (f : Word → Word → Word) :
    Out.MemWf (valu i d a b s f) :=
  vectorOp_memWf h ..

theorem valu3_memWf {s : State} (h : s.MemWf) (i : Info) (d a : Nat) (b : VSrc) (f : Word → Word → Word → Word) :
    Out.MemWf (valu3 i d a b s f) :=
  vectorOp_memWf h ..

theorem valu1_memWf {s : State} (h : s.MemWf) (i : Info) (d a : Nat) (f : Word → Word) : Out.MemWf (valu1 i d a s f) :=
  vectorOp_memWf h ..

theorem vcmp_memWf {s : State} (h : s.MemWf) (i : Info) (cc : Cond) (d a : Nat) (b : VSrc) : Out.MemWf (vcmp i cc d a b s) :=
  predOp_memWf h ..

end Sys2Proof.Machine
end

section
/-!
PROOF. Canonical memories (O60): an instruction or an event.
-/

namespace Sys2Proof.Machine

/-- Every instruction and event, by the family whose rule gives its meaning. -/
theorem exec_memWf {s : State} (h : s.MemWf) (i : Instr) : Out.MemWf (exec i s) := by
  unfold exec
  cases i with
  | sadd | ssub | smul | smulh | smulhn | sand | sor | sxor | sshl | sshr | ssra | smin | smax | sminn
  | smaxn => exact salu_memWf h ..
  | smov | slui => exact scalarOp_memWf h ..
  | saddi | sandi | sori | sxori | sshli | sshri | ssrai => exact salui_memWf h ..
  | scmpEq | scmpNe | scmpLt | scmpLe | scmpGt | scmpGe | scmpLtn | scmpLen | scmpGtn | scmpGen => exact scmp_memWf h ..
  | vadd | vsub | vmul | vmulh | vmulhn | vand | vor | vxor | vshl | vshr | vsra | vmin | vmax | vminn | vmaxn | vaddsat | vsubsat
  | vbfe => exact valu_memWf h ..
  | vmov | vmovi => exact vectorOp_memWf h ..
  | vabs | vneg | vclz | vpopc | vbrev | vsext8 | vsext16 | vzext8 | vzext16 | vaddi | vandi | vori | vxori | vshli
  | vshri | vsrai => exact valu1_memWf h ..
  | vmad | vbfi | vdp4 => exact valu3_memWf h ..
  | vsel | mrget => exact perLane_memWf h ..
  | vcmpEq | vcmpNe | vcmpLt | vcmpLe | vcmpGt | vcmpGe | vcmpLtn | vcmpLen | vcmpGtn | vcmpGen => exact vcmp_memWf h ..
  | pand | por | pxor | pandn => exact pred2_memWf h ..
  | pnot | pmov => exact predOp_memWf h ..
  | br | call => exact branch_memWf h ..
  | meet => exact meet_memWf h ..
  | ret | brx | callx => exact jump_memWf h ..
  | exit => exact exitThreads_memWf h ..
  | yield => exact yield_memWf h ..
  | mrset => exact mrset_memWf h ..
  | nop => exact issue_memWf h _ fun c s h => h
  | csign => exact csign_memWf h ..
  | trap => exact trap_memWf h ..
  | tret | tretSkip => exact tret_memWf h ..
  | wreq => exact wreq_memWf h ..
  | rdsp => exact rdsp_memWf h ..
  | wrsp => exact wrsp_memWf h ..
  | fadd | fsub | fmul | fmin | fmax | fminnm | fmaxnm | fcpsgn | faddRd | faddRu | fsubRd | fsubRu | fmulRd | fmulRu | fdivRd
  | fdivRu | pk2Bf16 | pk2F16 => exact fbin_memWf h ..
  | ffma | ffms | ffmaRd | ffmaRu => exact ftri_memWf h ..
  | fabs | fneg | frndn | frndz | frndd | frndu | fsqrtRd | fsqrtRu | cvtI32F32 | cvtN32F32 | cvtF32I32 | cvtF32N32 | cvtF16F32
  | cvtF32F16 | cvtBf16F32 | cvtF32Bf16 | cvtE4m3F32 | cvtF32E4m3 | cvtE5m2F32 | cvtF32E5m2 | cvtE2m1F32
  | cvtF32E2m1 => exact fun1_memWf h ..
  | hadd | hsub | hmul | hmin | hmax | badd | bsub | bmul | bmin | bmax => exact fbin2_memWf h ..
  | hfma | bfma => exact ftri2_memWf h ..
  | habs | hneg | babs | bneg => exact fun2_memWf h ..
  | feq | fne | flt | fle | fgt | fge | funord | ford => exact fcmp_memWf h ..
  | frcp | frsq | fsqrt | fexp2 | flog2 | fsinpi | fcospi | ftanh | fsigm => exact sfu1_memWf h ..
  | fdiv => exact sfu_memWf h ..
  | shfl | shflup | shfldn | shflx | bcast => exact shuffle_memWf h ..
  | vany | vall | ballot | raddI32 | rminI32 | rmaxI32 | rand | ror | rxor => exact reduceOp_memWf h ..
  | vpfxc | vcomp | vmrank | vmcnt | vmlead | scanI32 | xscanI32 => exact crossOp_memWf h ..
  | vexpd => exact expand_memWf h ..
  | vtopk | vtopka => exact topk_memWf h ..
  | raddF32 | raddF32Any | rminF32 | rmaxF32 => exact freduce_memWf h ..
  | scanF32 => exact scanF_memWf h ..
  | rgput => exact rgput_memWf h ..
  | rgflush => exact rgflush_memWf h ..
  | rgqry => exact rgqry_memWf h ..
  | ldg | lds | ldc | ldx | ldp => exact load_memWf h ..
  | stg | sts | stc | stx | stp => exact store_memWf h ..
  | atg | ats | atc | atx => exact atomic_memWf h ..
  | fenceAcq => exact fenceAcq_memWf h ..
  | fenceRel => exact fenceRel_memWf h ..
  | fenceAr => exact fenceAr_memWf h ..
  | fenceSc => exact fenceSc_memWf h ..
  | ackwait => exact ackwait_memWf h ..
  | pf | pf2 => exact prefetchRun_memWf h ..
  | wbr => exact writeBack_memWf h ..
  | invr => exact invalidate_memWf h ..
  | icpf => exact codePrefetch_memWf h ..
  | bpf => exact brickPrefetch_memWf h ..
  | cpg2s | cps2g | cps2s | cps2c | cpc2s => exact plainCopy_memWf h ..
  | tld | tst => exact tensorCopy_memWf h ..
  | tslot => exact tensorSlot_memWf h ..
  | cpclose => exact copyClose_memWf h ..
  | waitc => exact waitCount_memWf h ..
  | cpring => exact copyRing_memWf h ..
  | mma | mmaz => exact mma_memWf h ..
  | accz => exact accz_memWf h ..
  | accst => exact accst_memWf h ..
  | accld => exact accld_memWf h ..
  | accrd => exact accrd_memWf h ..
  | accwr => exact accwr_memWf h ..
  | oclaim => exact oclaim_memWf h ..
  | orel => exact orel_memWf h ..
  | oloadData | oloadSide | oloadBand => exact oload_memWf h ..
  | accsclF32 | accsclI2f | accsclF2i => exact accscl_memWf h ..
  | qpush | qpop => exact queueMove_memWf h ..
  | qpushn | qpopn => exact queueTry_memWf h ..
  | qallow => exact queueAllow_memWf h ..
  | qlen => exact queueLen_memWf h ..
  | chsend | chsendn => exact chanSend_memWf h ..
  | chrecv | chrecvn => exact chanRecv_memWf h ..
  | renq | rdeq => exact ringIssue_memWf h ..
  | rawait => exact rawait_memWf h ..
  | rrel => exact rrel_memWf h ..
  | barinit => exact barinit_memWf h ..
  | bararr => exact bararr_memWf h ..
  | barwait => exact barwait_memWf h ..
  | barsync => exact barsync_memWf h ..
  | jinc => exact jinc_memWf h ..
  | spawn => exact spawnRun_memWf h ..
  | spawnw => exact spawnwRun_memWf h ..
  | doneCrew => exact doneRun_memWf h ..
  | cancel => exact cancelRun_memWf h ..
  | wflag => exact wflag_memWf h ..
  | tbpub => exact tbpub_memWf h ..
  | tbrel => exact tbrel_memWf h ..
  | tbstat => exact tbstat_memWf h ..
  | spchk => exact spchk_memWf h ..
  | spbar => exact spbar_memWf h ..
  | march => exact march_memWf h ..
  | marchr | tracer => exact resume_memWf h ..
  | fprep => exact fprep_memWf h ..
  | bfetch => exact bfetch_memWf h ..
  | trace => exact trace_memWf h ..
  | tex => exact tex_memWf h ..
  | texq => exact texq_memWf h ..
  | cred | cgat | crsc | ca2a | csend | crecv | cwait => exact coll_memWf h ..
  | dadd | dsub | dmul | dfma | ddiv | dsqrt | cvtF64F32 | cvtF32F64 => exact f64_memWf h ..
  | brk => exact brk_memWf h ..
  | rdcnt => exact rdcnt_memWf h ..
  | mark => exact mark_memWf h ..
  | crd => exact crd_memWf h ..
  | cwr | freplyResume | freplyReject | carve | pjob => exact cwr_memWf h ..
  | tlbinvPage | tlbinvAsid | tlbinvAll => exact tlbinv_memWf h ..
  | slsync => exact slsync_memWf h ..
  | halt => exact haltRun_memWf h ..
  | runStart => exact runStart_memWf h ..
  | clauseIssue => exact clauseIssue_memWf h ..
  | emulationReturn => exact emulationReturn_memWf h ..
  | icacheFill => exact icacheFill_memWf h ..
  | loadDataReturn => exact loadDataReturn_memWf h ..
  | longLatencyCompletion => exact longLatencyCompletion_memWf h ..
  | acknowledgement => exact acknowledgement_memWf h ..
  | homeRequest => exact homeRequest_memWf h ..
  | requestReplay => exact requestReplay_memWf h ..
  | translationWalk => exact translationWalk_memWf h ..
  | impreciseReportArrival => exact reportArrival_memWf h ..
  | copyGranule => exact copyGranule_memWf h ..
  | copyBatchComplete => exact copyBatchComplete_memWf h ..
  | copyRingAdvance => exact copyRingAdvance_memWf h ..
  | mtxCompletion => exact mtxCompletion_memWf h ..
  | tileBind => exact tileBind_memWf h ..
  | slotClaim => exact slotClaim_memWf h ..
  | matrixStartAdmission => exact matrixAdmission_memWf h ..
  | admissionWindow => exact admissionWindow_memWf h ..
  | rayEnd => exact rayEnd_memWf h ..
  | wreqGrant => exact wreqGrant_memWf h ..
  | binFormation => exact binFormation_memWf h ..
  | autoFlush => exact autoFlush_memWf h ..
  | cohortRetire => exact cohortRetire_memWf h ..
  | queueWaiterRetry => exact queueRetry_memWf h ..
  | channelDelivery => exact channelDelivery_memWf h ..
  | creditPacket => exact creditPacket_memWf h ..
  | faultRecordPost => exact faultRecordPost_memWf h ..
  | rdmaWrite => exact rdmaWrite_memWf h ..
  | rdmaRead => exact rdmaRead_memWf h ..
  | ringKick => exact ringKick_memWf h ..
  | launchPacket => exact launchPacket_memWf h ..
  | cancelPacket => exact cancelPacket_memWf h ..
  | packetReread => exact packetReread_memWf h ..
  | resetKick => exact resetKick_memWf h ..
  | completionRecord => exact completionRecord_memWf h ..
  | storeEntryGrant => exact storeEntryGrant_memWf h ..
  | idleCoreRequest => exact idleRequest_memWf h ..
  | crewPlacement => exact crewPlacement_memWf h ..
  | verdict => exact verdict_memWf h ..
  | resolutionArrival => exact resolutionArrival_memWf h ..
  | commit => exact commit_memWf h ..
  | coreHalted => exact coreHalted_memWf h ..
  | swap => exact swapCore_memWf h ..
  | longWaitSwapOut => exact longWaitSwapOut_memWf h ..
  | crewReturn => exact crewReturn_memWf h ..
  | migrationRequest => exact migrationRequest_memWf h ..
  | migrationWithdraw => exact migrationWithdraw_memWf h ..
  | saveStep => exact saveStep_memWf h ..
  | migrationRecord => exact migrationRecord_memWf h ..
  | restoreStep => exact restoreStep_memWf h ..
  | drawTake => exact drawTake_memWf h ..
  | drawEnd => exact drawEnd_memWf h ..
  | collectiveComplete => exact collectiveComplete_memWf h ..
  | queuePairFatalError => exact queuePairFatalError_memWf h ..
  | congestionNotification => exact congestionNotification_memWf h ..
  | connectionOpen => exact connectionOpen_memWf h ..
  | attestationRequest => exact attestationRequest_memWf h ..
  | recoveryImage => exact recoveryImage_memWf h ..
  | powerOnReset => exact powerOnReset_memWf s
  | clusterRelease => exact clusterRelease_memWf h ..
  | thermalChange => exact thermalChange_memWf h ..
  | patrolScrub => exact patrolScrub_memWf h ..
  | dramRefresh => exact dramRefresh_memWf h ..
  | arithmeticClockCycle => exact clockCycle_memWf h ..
  | onDiePathFailure => exact onDiePathFailure_memWf h ..
  | historyCopyComplete => exact historyCopy_memWf h ..

end Sys2Proof.Machine
end

section
/-!
PROOF. Canonical memories (O60): a move, a step.
-/

namespace Sys2Proof.Machine

-- A definition then unfolds to its bare case distinctions, which the rules of `ite`, `option`, `list` and `except` speak of.
set_option smartUnfolding false

theorem State.MemWf.illegalWord {s : State} (h : s.MemWf) (c : Cohort) : (s.illegalWord c).MemWf :=
  State.MemWf.takeFault (by exact h) ..

theorem State.MemWf.issueWord {s : State} (h : s.MemWf) (c : Cohort) : Out.MemWf (s.issueWord c) := by
  delta State.issueWord
  split
  · exact exec_memWf h _
  · exact h.illegalWord c

theorem State.MemWf.sequence {s : State} (h : s.MemWf) : Out.MemWf s.sequence :=
  .ite (exec_memWf h _) <| .ite (exec_memWf h _) (exec_memWf h _)

theorem State.MemWf.issue {s : State} (h : s.MemWf) : Out.MemWf s.issue := .option h.sequence fun c => h.issueWord c

theorem State.MemWf.firstEvent {s : State} (h : s.MemWf) (is : List Instr) : ∀ t ∈ s.firstEvent is, t.MemWf := by
  induction is with
  | nil => rintro t ⟨⟩
  | cons i is ih =>
    intro t ht
    unfold State.firstEvent at ht
    split at ht
    · next u hu =>
      have hu' := exec_memWf h i
      rw [hu] at hu'
      split at ht
      · exact ih t ht
      · cases ht
        exact hu'
    · exact ih t ht

theorem State.MemWf.idle {s : State} (h : s.MemWf) : Out.MemWf s.idle := by
  delta State.idle
  dsimp only
  split
  · next t ht => exact h.firstEvent _ t ht
  · exact .ite h <| clockCycle_memWf (by exact h) ..

theorem State.MemWf.default {s : State} (h : s.MemWf) : Out.MemWf s.default := by
  delta State.default
  split
  · exact h.idle
  · split
    · exact h.issueWord _
    · split
      · next t ht =>
        have ht' := h.sequence
        rw [ht] at ht'
        exact .ite h.idle ht'
      · exact h.sequence

theorem State.MemWf.move {s : State} (h : s.MemWf) (m : Move) : Out.MemWf (s.move m) := by
  cases m with
  | event i => exact .ite (exec_memWf h i) h
  | issue core sub port => exact State.MemWf.issue (s := { s with focus := portIx core sub port % 5120, stalled := false }) h
  | firmware f => exact State.MemWf.act h f
  | message m => exact h
  | contribution p => exact h

theorem step_memWf {s : State} (h : s.MemWf) : Out.MemWf (step s) := by
  delta step
  split
  · next rest _ => exact State.MemWf.move (s := { s with agenda := rest }) h _
  · exact h.default

/-- Settles O60: the memories are in canonical form after every move that a step may be, since each function of the machine either
leaves them alone or writes them through `writeBytes`, `setSpad` and the operations built on these. -/
theorem memInvariant : Obligations.MemInvariant := by
  unfold Obligations.MemInvariant
  intro s t h ht
  have h' := step_memWf h
  rw [ht] at h'
  exact h'

end Sys2Proof.Machine
end

section
/-!
PROOF. Requests at their homes (O28), refuted. HOME_REQUEST takes every packet of its number off the fabric, and only then does a load that
fills look for a write of the core to the line that is under way (notes/assumptions/34.md). The statement looks in the fabric as it stood
before, so the two part where such a write stands under the load's own number. The packets of a running machine have numbers of their own;
the statement is over every state, and has no hypothesis that says so.
-/

namespace Sys2Proof.Machine

/-- A load of core 0 on its way to its home, which fills line 0 of the core's L1. -/
def fillingLoad : Packet :=
  { id := 9, cohort := 2, op := 5, core := 0, space := .glob, addr := 64, kind := .load 0 4 4 [] true 0 }

/-- A store of the same core to the same line, on its way under the load's number. -/
def twinStore : Packet := { id := 9, cohort := 2, core := 0, space := .glob, addr := 64, kind := .store [(64, 1)] }

/-- A machine with both under way, and nothing in L1. -/
def twins : State := { memS with fabric := [fillingLoad, twinStore] }

/-- Before the request a write to the line is under way. -/
theorem writeSent_twins : twins.writeSent fillingLoad.core (fillingLoad.addr / 128) = true := by decide

theorem exec_homeRequest_twins : exec (.homeRequest 9) twins = .next ((twins.unsend 9).perform fillingLoad) := rfl

/-- So the load finds no write under way, and its line enters L1. -/
theorem l1_perform_fillingLoad : ((twins.unsend 9).perform fillingLoad).l1.length = 1 := by decide

/-- Refutes O28: where a store of the core to the line is under way under the number of a load that fills, the load's HOME_REQUEST
installs the line all the same, and the statement says that L1 stays as it was. -/
theorem not_homeRequests : ¬ Obligations.HomeRequests := by
  unfold Obligations.HomeRequests
  rintro ⟨-, -, -, -, -, hfill, -⟩
  obtain ⟨t, ht, hkept, -⟩ := hfill twins 9 fillingLoad 0 4 4 0 [] true rfl rfl (by decide) (fun _ => by decide) rfl
  cases exec_homeRequest_twins.symm.trans ht
  have hsame := hkept (.inr (.inl writeSent_twins))
  have hone := l1_perform_fillingLoad
  rw [hsame] at hone
  exact absurd hone (by decide)

end Sys2Proof.Machine
end
